-- ==== Sys2Proof/Word.lean ====
section
/-!
DEFINITION. The word types of the block and their plainest arithmetic.
-/

namespace Sys2Proof

/-- A byte of memory. -/
abbrev Byte := BitVec 8

/-- A register: every register is 64 bits wide (R5). -/
abbrev Word := BitVec 64

end Sys2Proof
end

