-- ==== Sys2Proof/Syntax.lean ====
section
/-!
DEFINITION. The commands of the block: one constructor for each row of spec/opcode_table.json, with the operands
that the sender or the environment supplies. Units and functions are named by types that hold exactly the legal ones.
-/

namespace Sys2Proof

/-- A memory unit: cluster and local index 0 to 11 (R28). -/
structure MuId where
  cluster : Fin 2048
  idx : Fin 12
  deriving DecidableEq, Repr

/-- A matrix unit, MCU k of a cluster (R28). -/
structure McuId where
  cluster : Fin 2048
  k : Fin 4
  deriving DecidableEq, Repr

/-- A vector unit, VCU k of a cluster (R28). -/
structure VcuId where
  cluster : Fin 2048
  k : Fin 4
  deriving DecidableEq, Repr

/-- A scalar unit, SCU k of a cluster (R28). -/
structure ScuId where
  cluster : Fin 2048
  k : Fin 4
  deriving DecidableEq, Repr

/-- A unit that runs tensor instructions: MU, MCU or VCU, local index 0 to 19 (R28, R268). -/
structure TuId where
  cluster : Fin 2048
  idx : Fin 20
  deriving DecidableEq, Repr

/-- A unit that can send messages: local index 0 to 23 (R199). -/
structure SenderId where
  cluster : Fin 2048
  idx : Fin 24
  deriving DecidableEq, Repr

/-- A function of a port; function 0 is the PF (R383). -/
structure FnId where
  port : Fin 8
  fn : Fin 128
  deriving DecidableEq, Repr

/-- Who makes a register access (R539, R542). -/
inductive Requester where
  | keeper
  | fn (f : FnId)
  | board
  deriving DecidableEq, Repr

/-- The register space an access names: a management space offset (R535) or an offset of a function's BAR0 (R383). -/
inductive RegAddr where
  | mgmt (off : Nat)
  | bar0 (f : FnId) (off : Nat)
  deriving DecidableEq, Repr

/-- The conditions of `cmp` and `cmpi`, codes 0 to 7 in this order (R297). -/
inductive Cond where
  | eq | ne | lt | le | ltu | leu | gt | ge
  deriving DecidableEq, Repr

/-- The functions of `pop`, codes 0 to 6 in this order (R297). -/
inductive PopFn where
  | and | or | xor | andNot | notA | set1 | set0
  deriving DecidableEq, Repr

/-- The queue of a `qrecv`: immediate, or bits 5 to 0 of a register (R297, R562). -/
inductive QSrc where
  | imm (q : Fin 64)
  | reg (ra : Fin 32)
  deriving DecidableEq, Repr

/-- A rectangle of quads (R305, R392): top-left quad, width and height. -/
structure Region where
  qx : Nat
  qy : Nat
  qw : Nat
  qh : Nat
  deriving DecidableEq, Repr

/-- One movement of a flit inside the stream fabric (R215, R216, R222, R225). -/
inductive FlitMove where
  /-- unit output channel `ch` of local unit `u` into the circuit's buffer -/
  | fromUnit (u : Fin 20) (ch : Fin 2)
  /-- output `k` of steering element `e` into the circuit's buffer -/
  | fromElem (e : Fin 8) (k : Fin 2)
  /-- a chain lane's flit to the consumer's input queue -/
  | lane (n : Fin 4)
  /-- the buffer before a fork into the branch buffers -/
  | fork (circ : Fin 64)
  /-- branch `b` over its link in slot `slot` to the next switch -/
  | link (circ : Fin 64) (b : Fin 4) (slot : Fin 16)
  /-- branch `b` into a unit's input queue -/
  | toUnit (circ : Fin 64) (b : Fin 4)
  deriving DecidableEq, Repr

/-- One movement of a control bit (R223). -/
inductive BitMove where
  /-- predicate port of an SCU to the control buffer of its switch -/
  | fromPort (scu : Fin 4) (port : Fin 2)
  /-- a control buffer over a link in a control slot -/
  | link (circ : Fin 16) (slot : Fin 16)
  deriving DecidableEq, Repr

/-- A queue of the stream fabric, as a spill record names it (R240). -/
inductive QueueRef where
  | buf (b : Fin 64)
  | inq (u : Fin 20) (ch : Fin 2)
  | ctl (i : Fin 16)
  deriving DecidableEq, Repr

/-- Where a daymark token is met (R314). -/
inductive DaymarkAt where
  | circuit (circ : Fin 64)
  | unit (u : Fin 20) (ch : Fin 2)
  | elem (e : Fin 8) (input : Fin 2)
  deriving DecidableEq, Repr

/-- One movement of a packet (R252): an injection at cluster `c` (`n` below 6: more flits of the packet in injection in
class n; else candidate n - 6 begins: 8 x local index + entry of a send buffer, or 192 + index in the router's outbox), or
a hop of the flit at the head of an input buffer (mesh position, input side 0 north, 1 east, 2 south, 3 west, 4 local;
class 0 to 5). -/
inductive Hop where
  | inject (c : Fin 2048) (n : Nat)
  | move (px : Fin 64) (py : Fin 34) (side : Fin 5) (cls : Fin 6)
  deriving DecidableEq, Repr

/-- The result of retraining a stack (R526). -/
inductive RetrainResult where
  | good | failedTwice
  deriving DecidableEq, Repr

/-- The response code of a PCIe page response (R353), with whether the new translation allows the access. -/
inductive PriCode where
  | success (addr : Nat) (allowed : Bool)
  | invalidRequest
  | responseFailure
  deriving DecidableEq, Repr

/-- Where an SPDM request arrives: DOE of a port's PF, or I3C (R487). -/
inductive SpdmPath where
  | doe (p : Fin 8)
  | i3c
  deriving DecidableEq, Repr

/-- A debug token as presented (R495). -/
structure Token where
  magic : BitVec 32
  dev : BitVec 512
  nonce : BitVec 64
  ttl : BitVec 32
  perms : BitVec 32
  sig : BitVec 4096
  deriving DecidableEq, Repr

/-- A Keeper firmware image as written to a flash slot (R481, R520). -/
structure FwImage where
  version : BitVec 32
  svn : BitVec 16
  bytes : List Byte
  sig : BitVec 4096
  deriving DecidableEq, Repr

/-- What the third computation of an audit agrees with (R474). -/
inductive ThirdResult where
  | firstPartner | auditedUnit | neither
  deriving DecidableEq, Repr

/-- The supply monitored by a level: the input, or the rail of a die (R505). -/
inductive Rail where
  | input
  | die (d : Fin 8)
  deriving DecidableEq, Repr

/-- A supply level that can clear (R505). -/
inductive Level where
  | warning | doubt
  deriving DecidableEq, Repr

/-- What the boot's hardware steps find (R480): the root key check, the PUF, the signed records, the stacks that fail
training, the physical clusters newly failed in BIST, and whether the tables can be restored. -/
structure BootResult where
  rootKeyOk : Bool
  pufOk : Bool
  recordsOk : Bool
  badStacks : List (Fin 20)
  badClusters : List (Fin 2176)
  tablesOk : Bool
  measureOk : Bool
  deriving DecidableEq, Repr

/-- How the I3C endpoint takes its dynamic address (R555). -/
inductive I3cAssign where
  | entdaa
  | setdasa (static : BitVec 7)
  deriving DecidableEq, Repr

/-- The commands of the block, in the order of spec/opcode_table.json. -/
inductive Instr where
  /-- REGISTER_WRITE (R8): A naturally aligned 64-bit write to a register field that has no behaviour of its own takes effect whole, or is ignored under the access type, the reserved-bit rules and the requester rights. -/
  | registerWrite (r : Requester) (a : RegAddr) (v : Word)
  /-- REGISTER_ACCESS_MISALIGNED (R5): A register access that is not a naturally aligned 64-bit access is ignored or reads zero, and it is logged at most once per function per second. -/
  | registerAccessMisaligned (r : Requester) (a : RegAddr) (size : Nat) (write : Bool)
  /-- HELD_ACCESS_TIMEOUT (R544): A register access still held after 5 ms is abandoned: a read returns all ones, a write is discarded, and timeouts increments. -/
  | heldAccessTimeout (n : Nat)
  /-- MU_DT_SEL_WRITE (R113): A write of MU_DT_SEL selects a descriptor entry and loads the writer's staged words with words 0 to 6 of that entry. -/
  | muDtSelWrite (r : Requester) (m : MuId) (v : Word)
  /-- MU_DT_WORD_STAGE (R113): A write of MU_DT_WORD0 to MU_DT_WORD6 changes only that word of the writing requester's staged entry. -/
  | muDtWordStage (r : Requester) (m : MuId) (k : Fin 7) (v : Word)
  /-- MU_DT_WORD7_WRITE (R113): A write of MU_DT_WORD7 replaces the selected descriptor entry as a whole with the staged words and itself. -/
  | muDtWord7Write (r : Requester) (m : MuId) (v : Word)
  /-- MU_BG_CTL_WRITE (R108): A write of down_req requests power-down of bank groups, and each request stays pending until its conditions hold. -/
  | muBgCtlWrite (r : Requester) (m : MuId) (v : Word)
  /-- SCU_Q_PTR_WRITE (R211): A write of rp through SCU_Q_PTR acts as a qrp of the selected ring and is checked under R197. -/
  | scuQPtrWrite (r : Requester) (u : ScuId) (v : Word)
  /-- NF_FLAG_CLEAR (R145): Clearing nf_flag in MCU_NF_STATUS sets the recorded position fields to 0 and re-arms the record of the first non-finite value. -/
  | nfFlagClear (r : Requester) (u : McuId) (v : Word)
  /-- VCU_FLAG_CLEAR (R174): Clearing a VCU_FLAGS flag sets first_tag to 0 when no flag remains set. -/
  | vcuFlagClear (r : Requester) (u : VcuId) (v : Word)
  /-- CX_DB_TAIL_WRITE (R386): A write to the command tail doorbell advances T, or is ignored, or sets overrun. -/
  | cxDbTailWrite (f : FnId) (r : Fin 16) (v : Word)
  /-- CX_DB_CPLHEAD_WRITE (R386): A write to the completion head doorbell sets H when H < v ≤ D, and is ignored otherwise. -/
  | cxDbCplheadWrite (f : FnId) (r : Fin 16) (v : Word)
  /-- CX_RING_SEQ_WRITE (R385): A write of CX_RING_SEQ while the ring is disabled sets F, D, T and H to the value written and restarts completion phases. -/
  | cxRingSeqWrite (f : FnId) (r : Fin 16) (v : Word)
  /-- RING_ENABLE (R385): Setting enable starts the ring's fetching and doorbell handling. -/
  | ringEnable (f : FnId) (r : Fin 16) (v : Word)
  /-- RING_DISABLE (R389): Clearing enable stops fetching, while commands already fetched run to completion. -/
  | ringDisable (f : FnId) (r : Fin 16) (v : Word)
  /-- STALLED_CLEAR (R388): Clearing stalled makes the port fetch command F again. -/
  | stalledClear (f : FnId) (r : Fin 16)
  /-- OVERRUN_CLEAR (R386): Clearing overrun lets the ring fetch again. -/
  | overrunClear (f : FnId) (r : Fin 16)
  /-- SHADOW_DOORBELL (R387): A host store that invalidates the shadow line makes the port re-read it and treat each word of a ring with shadow set as a tail doorbell write. -/
  | shadowDoorbell (f : FnId) (words : List Word)
  /-- ERR_LOG_RD_WRITE (R461): A write of ERR_LOG_RD sets the read position when it lies within the last 65,536 records, and is ignored otherwise. -/
  | errLogRdWrite (r : Requester) (v : Word)
  /-- HBM_RC_QUOTA_WRITE (R358): A write of a repeat cache quota is applied, or leaves the register unchanged when it is reserved or would make the quota sum exceed 128. -/
  | hbmRcQuotaWrite (r : Requester) (n : Fin 20) (sec : Fin 64) (v : Word)
  /-- AUD_SEED_WRITE (R479): A write of AUD_SEED reseeds every sample generator, each mixed with its global unit ID. -/
  | audSeedWrite (r : Requester) (v : Word)
  /-- ERR_INJECT_ARM (R462): Arming ERR_INJECT while the device is debug-unlocked injects one error of the chosen kind at the target and then clears arm. -/
  | errInjectArm (r : Requester) (v : Word)
  /-- DEBUG_NONCE_READ (R495): A read of SEC_DBG_NONCE draws a new nonce, forgets the previous one and starts its 600 s validity. -/
  | debugNonceRead (r : Requester)
  /-- RELOCK (R497): A write of relock ends debug unlock, releases every sector and redraws every key slot. -/
  | relock (r : Requester) (v : Word)
  /-- PERF_COUNTER_WRAP (R146): A 48-bit performance counter wraps, sets its ovf bit and signals the Keeper, which extends its wrap count. -/
  | perfCounterWrap (off : Nat)
  /-- ADD (R297): Scalar add of two registers. -/
  | add (u : ScuId) (rd ra rb : Fin 32)
  /-- SUB (R297): Scalar subtract of two registers. -/
  | sub (u : ScuId) (rd ra rb : Fin 32)
  /-- AND (R297): Scalar bitwise and of two registers. -/
  | and (u : ScuId) (rd ra rb : Fin 32)
  /-- OR (R297): Scalar bitwise or of two registers. -/
  | or (u : ScuId) (rd ra rb : Fin 32)
  /-- XOR (R297): Scalar bitwise exclusive or of two registers. -/
  | xor (u : ScuId) (rd ra rb : Fin 32)
  /-- SHL (R297): Scalar shift left by a register amount modulo 64. -/
  | shl (u : ScuId) (rd ra rb : Fin 32)
  /-- SHR (R297): Scalar logical shift right by a register amount modulo 64. -/
  | shr (u : ScuId) (rd ra rb : Fin 32)
  /-- SAR (R297): Scalar arithmetic shift right by a register amount modulo 64. -/
  | sar (u : ScuId) (rd ra rb : Fin 32)
  /-- MUL (R297): Scalar multiply, keeping the low 64 bits. -/
  | mul (u : ScuId) (rd ra rb : Fin 32)
  /-- MULHI (R297): Scalar multiply, giving the signed upper 64 bits. -/
  | mulhi (u : ScuId) (rd ra rb : Fin 32)
  /-- DIV (R176): Scalar signed divide with the defined results for division by zero and overflow. -/
  | div (u : ScuId) (rd ra rb : Fin 32)
  /-- REM (R176): Scalar signed remainder with the defined results for division by zero and overflow. -/
  | rem (u : ScuId) (rd ra rb : Fin 32)
  /-- MIN (R297): Scalar signed minimum of two registers. -/
  | min (u : ScuId) (rd ra rb : Fin 32)
  /-- MAX (R297): Scalar signed maximum of two registers. -/
  | max (u : ScuId) (rd ra rb : Fin 32)
  /-- SEL (R297): Scalar select of one of two registers by a predicate. -/
  | sel (u : ScuId) (rd ra rb : Fin 32) (p : Fin 8)
  /-- ADDI (R297): Scalar add of a sign-extended 16-bit immediate. -/
  | addi (u : ScuId) (rd ra : Fin 32) (imm : BitVec 16)
  /-- ANDI (R297): Scalar and with a zero-extended immediate. -/
  | andi (u : ScuId) (rd ra : Fin 32) (imm : BitVec 16)
  /-- ORI (R297): Scalar or with a zero-extended immediate. -/
  | ori (u : ScuId) (rd ra : Fin 32) (imm : BitVec 16)
  /-- XORI (R297): Scalar exclusive or with a zero-extended immediate. -/
  | xori (u : ScuId) (rd ra : Fin 32) (imm : BitVec 16)
  /-- SHLI (R297): Scalar shift left by an immediate amount. -/
  | shli (u : ScuId) (rd ra : Fin 32) (sh : Fin 64)
  /-- SHRI (R297): Scalar logical shift right by an immediate amount. -/
  | shri (u : ScuId) (rd ra : Fin 32) (sh : Fin 64)
  /-- SARI (R297): Scalar arithmetic shift right by an immediate amount. -/
  | sari (u : ScuId) (rd ra : Fin 32) (sh : Fin 64)
  /-- LUI (R297): Loads a sign-extended 21-bit immediate times 2^16 into a register. -/
  | lui (u : ScuId) (rd : Fin 32) (imm : BitVec 21)
  /-- CMP (R297): Sets a predicate from a comparison of two registers. -/
  | cmp (u : ScuId) (pd : Fin 8) (c : Cond) (ra rb : Fin 32)
  /-- CMPI (R297): Sets a predicate from a comparison of a register with an immediate. -/
  | cmpi (u : ScuId) (pd : Fin 8) (c : Cond) (ra : Fin 32) (imm : BitVec 15)
  /-- POP (R297): Sets a predicate from a logical function of two predicates. -/
  | pop (u : ScuId) (pd pa pb : Fin 8) (f : PopFn)
  /-- LD_N_B (R178): Narrow load of 1 byte from the home MU. -/
  | ldNB (u : ScuId) (rd ra : Fin 32) (imm : BitVec 16)
  /-- LD_N_H (R178): Narrow load of 2 bytes from the home MU. -/
  | ldNH (u : ScuId) (rd ra : Fin 32) (imm : BitVec 16)
  /-- LD_N_W (R178): Narrow load of 4 bytes from the home MU. -/
  | ldNW (u : ScuId) (rd ra : Fin 32) (imm : BitVec 16)
  /-- LD_N_D (R178): Narrow load of 8 bytes from the home MU. -/
  | ldND (u : ScuId) (rd ra : Fin 32) (imm : BitVec 16)
  /-- ST_N_B (R178): Narrow store of 1 byte to the home MU. -/
  | stNB (u : ScuId) (rs ra : Fin 32) (imm : BitVec 16)
  /-- ST_N_H (R178): Narrow store of 2 bytes to the home MU. -/
  | stNH (u : ScuId) (rs ra : Fin 32) (imm : BitVec 16)
  /-- ST_N_W (R178): Narrow store of 4 bytes to the home MU. -/
  | stNW (u : ScuId) (rs ra : Fin 32) (imm : BitVec 16)
  /-- ST_N_D (R178): Narrow store of 8 bytes to the home MU. -/
  | stND (u : ScuId) (rs ra : Fin 32) (imm : BitVec 16)
  /-- BR (R297): Branch, always or on a predicate value. -/
  | br (u : ScuId) (al neg : Bool) (p : Fin 8) (target : BitVec 14)
  /-- JAL (R297): Jump to a target and link the return word. -/
  | jal (u : ScuId) (rd : Fin 32) (target : BitVec 14)
  /-- JR (R297): Jump to the word held in a register. -/
  | jr (u : ScuId) (ra : Fin 32)
  /-- HALT (R179): Halts the SCU until its context's next step starts. -/
  | halt (u : ScuId)
  /-- QRECV (R197): Pops a register-mode queue entry, or returns the offset of the head ring message, waiting while the queue is empty. -/
  | qrecv (u : ScuId) (rd : Fin 32) (q : QSrc)
  /-- QSEL (R203): Waits until a queue in the mask is ready, then chooses one by priority or rotation. -/
  | qsel (u : ScuId) (rd ra rb : Fin 32) (pd : Fin 8) (rot : Bool)
  /-- QSEND (R198): Places a scalar message in the send buffer, toward a queue address. -/
  | qsend (u : ScuId) (ra rb rc : Fin 32) (tag : BitVec 8) (m : Bool)
  /-- QTAG (R297): Reads the last popped tag. -/
  | qtag (u : ScuId) (rd : Fin 32)
  /-- QRP (R197): Writes a ring's read pointer, which frees its messages. -/
  | qrp (u : ScuId) (ra : Fin 32) (q : Fin 64)
  /-- QCLOSE (R202): Closes one of the SCU's own queues. -/
  | qclose (u : ScuId) (q : Fin 64)
  /-- TISS (R182): Issues a tensor instruction word to a unit's issue queue, with optional replacement of count and sq. -/
  | tiss (u : ScuId) (unit : Fin 32) (w : Fin 1024) (rc rs : Fin 32)
  /-- WAIT (R185): Blocks until a tag has posted, then returns its status and removes the tag. -/
  | wait (u : ScuId) (rd : Fin 32) (tag : BitVec 16)
  /-- POUT (R186): Sends one predicate bit on a predicate port. -/
  | pout (u : ScuId) (port : Fin 2) (p : Fin 8)
  /-- RDSR (R297): Reads a special register. -/
  | rdsr (u : ScuId) (rd : Fin 32) (sr : Fin 7)
  /-- SCALAR_RESERVED_OPCODE (R297): A fetched scalar word with a reserved opcode, a reserved code or a non-zero zero field fails the context. -/
  | scalarReservedOpcode (u : ScuId)
  /-- SCU_UNBLOCK (R187): A blocked scalar instruction resumes when the item it waits for arrives. -/
  | scuUnblock (u : ScuId)
  /-- QSEL_TIMEOUT (R204): The qsel timeout elapses with no ready queue, so the instruction writes 64 and clears its predicate. -/
  | qselTimeout (u : ScuId)
  /-- LD_W (R280): MU instruction that reads a walk and writes it to the same MU or sends it to a stream. -/
  | ldW (m : MuId)
  /-- ST_W (R280): MU instruction that writes a stream input through descriptor C. -/
  | stW (m : MuId)
  /-- PF (R347): MU instruction that prefetches an external walk into the repeat cache. -/
  | pf (m : MuId)
  /-- XFER (R348): MU instruction that runs the transfer engine from walk A to walk C, tracking delivered rows. -/
  | xfer (m : MuId)
  /-- SLOT_DEF (R104): MU instruction that defines a slot, in state EMPTY. -/
  | slotDef (m : MuId)
  /-- SLOT_CLR (R104): MU instruction that sets a slot EMPTY at once. -/
  | slotClr (m : MuId)
  /-- WIN_OPEN (R105): MU instruction that opens a window, or reopens it, and increments its epoch. -/
  | winOpen (m : MuId)
  /-- WIN_CLOSE (R107): MU instruction that closes a window and completes when every accepted write is performed. -/
  | winClose (m : MuId)
  /-- IMPORT (R379): MU instruction that copies an HBM walk to a scratchpad or HBM walk. -/
  | importMu (m : MuId)
  /-- CONTRIB (R284): MU instruction that sends a walk as contributions to a reduction channel, round by round. -/
  | contrib (m : MuId)
  /-- MM_FWD (R124): MCU forward matrix product in OS or KO order. -/
  | mmFwd (u : McuId)
  /-- MM_DUAL (R128): MCU backward product of dX and dW. -/
  | mmDual (u : McuId)
  /-- MM_PASS (R129): MCU backward product of dX only. -/
  | mmPass (u : McuId)
  /-- MM_ADPT (R130): MCU adapter backward product, phase 0 or phase 1. -/
  | mmAdpt (u : McuId)
  /-- EPI (R140): MCU instruction that drains accumulator tiles through the epilogue. -/
  | epi (u : McuId)
  /-- VOP (R155): VCU elementwise operation through stages S1 to S6. -/
  | vop (u : VcuId)
  /-- VRED (R165): VCU reduction over the inner loops of a walk. -/
  | vred (u : VcuId)
  /-- EXPORT_SIGN (R376): VCU sign export with error feedback and block scales. -/
  | exportSign (u : VcuId)
  /-- QSEND_TENSOR (R285): Tensor QSEND that sends a walk in the home MU as messages. -/
  | qsendTensor (u : TuId)
  /-- CHAIN (R293): Takes chain lanes and places the stage instructions into their units' issue queues. -/
  | chain (u : TuId)
  /-- FENCE (R289): Leaves the issue queue only when every earlier instruction of the unit has completed. -/
  | fence (u : TuId)
  /-- DAYMARK (R290): Sends a daymark token, and any configuration words, behind earlier flits. -/
  | daymark (u : TuId)
  /-- STEER_OFF (R277): Leaves a steering element with no kind. -/
  | steerOff (c : Fin 2048)
  /-- STEER_SW (R231): Configures a switch steering element. -/
  | steerSw (c : Fin 2048)
  /-- STEER_MG (R231): Configures a merge steering element. -/
  | steerMg (c : Fin 2048)
  /-- STEER_GATE (R231): Configures a gate steering element. -/
  | steerGate (c : Fin 2048)
  /-- STEER_CARRY (R231): Configures a carry steering element. -/
  | steerCarry (c : Fin 2048)
  /-- STEER_REP (R233): Configures a replicate steering element. -/
  | steerRep (c : Fin 2048)
  /-- STEER_DEC (R233): Configures a decimate steering element. -/
  | steerDec (c : Fin 2048)
  /-- STEER_CONFIG_APPLY (R229): A waiting STEER.* configuration takes effect once its element is idle. -/
  | steerConfigApply (c : Fin 2048) (e : Fin 8)
  /-- INSTRUCTION_COMPLETE (R286): A tensor instruction meets its completion condition and posts its tag with its status. -/
  | instructionComplete (u : TuId)
  /-- GENERATOR_ACQUIRE (R86): A waiting instruction takes the free address generators it needs. -/
  | generatorAcquire (m : MuId)
  /-- SLOT_GRANT (R103): A generator waiting on a slot is granted it, in waiting order, when its state allows. -/
  | slotGrant (m : MuId) (slot : Fin 256)
  /-- WINDOW_WRITE (R106): A mesh window write arrives and is checked, then accepted or dropped. -/
  | windowWrite (m : MuId)
  /-- MU_SCRUB_READ (R97): The scrub interval expires and the MU reads and checks the next granule. -/
  | muScrubRead (m : MuId)
  /-- BANK_GROUP_POWER_DOWN (R108): A pending power-down request's conditions hold, and the bank group is powered off. -/
  | bankGroupPowerDown (m : MuId) (g : Fin 8)
  /-- BANK_GROUP_WAKE (R109): A woken bank group completes its wake and grants the waiting access, reading as zero. -/
  | bankGroupWake (m : MuId) (g : Fin 8)
  /-- EXTERNAL_READ_DATA (R87): Read data for an external request arrives in the generator's landing buffer. -/
  | externalReadData (m : MuId) (n : Nat) (host : List Byte) (poison : List Bool)
  /-- WRITE_ACKNOWLEDGEMENT (R87): A write acknowledgement for an external write request arrives at its generator or engine. -/
  | writeAcknowledgement (m : MuId)
  /-- MCU_BIND (R135): A matrix instruction binds to a free slot of its class after its checks. -/
  | mcuBind (u : McuId)
  /-- MCU_QUANTUM (R136): At a quantum boundary the scheduler starts the earliest-bound ready quantum. -/
  | mcuQuantum (u : McuId)
  /-- EPILOGUE_TILE (R141): The epilogue processes a ready tile row by row into the output. -/
  | epilogueTile (u : McuId)
  /-- MESSAGE_ARRIVAL (R200): A message reaches its receiving SCU queue and is checked, then accepted, dropped or held. -/
  | messageArrival (u : ScuId)
  /-- MESSAGE_OUTCOME (R201): The acknowledgement of a message's acceptance or refusal returns to the sender and frees its buffer entry. -/
  | messageOutcome (u : SenderId)
  /-- MESSAGE_REOFFER (R199): A held message is offered again and checked afresh. -/
  | messageReoffer (u : SenderId) (n : Nat)
  /-- COMBINING_RESULT_PLACE (R207): A combining result held for lack of ring space is placed once space frees. -/
  | combiningResultPlace (u : ScuId) (q : Fin 64)
  /-- STREAM_FLIT_TRANSFER (R215): A flit moves over a link in its circuit's slot when the next buffer has room. -/
  | streamFlitTransfer (c : Fin 2048) (mv : FlitMove)
  /-- CONTROL_BIT_TRANSFER (R223): A control bit moves over a link in its control slot. -/
  | controlBitTransfer (c : Fin 2048) (mv : BitMove)
  /-- STEER_TOKEN (R231): A steering element takes its predicate and a token, and routes, drops or repeats the token. -/
  | steerToken (c : Fin 2048) (e : Fin 8)
  /-- FOGHORN_STALL (R237): The no-progress count reaches the threshold, and the foghorn puts every full queue into spill mode. -/
  | foghornStall (sec : Fin 64)
  /-- SPILL_RECORD_WRITE (R238): The spill engine writes a token arriving at a spilling queue as a record into the spill ring. -/
  | spillRecordWrite (c : Fin 2048) (q : QueueRef)
  /-- SPILL_RECORD_READ (R238): The spill engine reads a record back into a queue that has freed an entry, oldest first. -/
  | spillRecordRead (c : Fin 2048) (q : QueueRef)
  /-- PACKET_FORWARD (R252): A router forwards a packet's flit toward its destination against credit, replicating at multicast branches. -/
  | packetForward (h : Hop)
  /-- CONTRIBUTION_MERGE (R261): A contribution or partial sum merges into a transit slot, which is sent on once its fan-in is reached. -/
  | contributionMerge (c : Fin 2048)
  /-- TRANSIT_SLOT_FLUSH (R261): A transit slot reaches its age limit and is sent on as a partial sum. -/
  | transitSlotFlush (c : Fin 2048) (slot : Fin 64)
  /-- ROOT_MERGE (R262): A contribution or partial sum merges into the root's reserved slot for its key. -/
  | rootMerge (c : Fin 2048)
  /-- ROUND_ADVANCE (R367): The round advance packet reaches a member router and updates its copy of the current round. -/
  | roundAdvance (c : Fin 2048)
  /-- NATIVE_RECONFIGURATION (R305): At the region's step boundary the Keeper loads staged images into every cluster of the region. -/
  | nativeReconfiguration (sec : Fin 64) (g : Region) (place : Fin 2) (disc : Bool)
  /-- FORCED_DRAIN (R313): At a step boundary with epochs 512 or more ahead of q, the Keeper checks quiet and discards stale items. -/
  | forcedDrain (sec : Fin 64) (g : Region)
  /-- DAYMARK_TOKEN_ARRIVAL (R314): A daymark token meets an element, which compares epochs and switches over, ignores the token or fails with STALE_TOKEN. -/
  | daymarkTokenArrival (c : Fin 2048) (at_ : DaymarkAt)
  /-- UNIT_SWITCHOVER (R318): A unit with a newer daymark at its input writes its configuration words and takes the new epoch once no instruction reads that channel. -/
  | unitSwitchover (u : TuId) (ch : Fin 2)
  /-- SLOT_TABLE_SWITCH (R318): A new slot table takes effect at the first frame boundary after the daymark has passed every owning circuit. -/
  | slotTableSwitch (c : Fin 2048) (link : Fin 4) (lane : Fin 2)
  /-- SCAN_FREEZE (R322): CL_SCAN_CTL op 1 stops units at safe points and freezes the cluster. -/
  | scanFreeze (r : Requester) (c : Fin 2048) (v : Word)
  /-- SAFE_POINT_STOP (R139): A unit asked to stop reaches its next safe point and stops. -/
  | safePointStop (u : TuId)
  /-- SCAN_OUT (R322): CL_SCAN_CTL op 2 writes the cluster's state as a scan image. -/
  | scanOut (r : Requester) (c : Fin 2048) (v : Word)
  /-- SCAN_IN (R323): CL_SCAN_CTL op 3 checks a scan image and writes it into a frozen cluster. -/
  | scanIn (r : Requester) (c : Fin 2048) (v : Word) (ctx : Fin 4096)
  /-- SCAN_RELEASE (R322): CL_SCAN_CTL op 4 resumes the units at their safe points. -/
  | scanRelease (r : Requester) (c : Fin 2048) (v : Word)
  /-- SCAN_OP_DONE (R327): A scan operation ends, and done is set. -/
  | scanOpDone (c : Fin 2048)
  /-- HBM_READ (R338): A read request reaches an HBM controller and is served from the repeat cache or decoded from the stack. -/
  | hbmRead (n : Fin 20)
  /-- HBM_WRITE (R337): A write request reaches an HBM controller and is coded, encrypted and acknowledged, with a merge for a partial write. -/
  | hbmWrite (n : Fin 20)
  /-- HBM_SCRUB_READ (R340): The scrub interval expires and the controller reads and checks the next line. -/
  | hbmScrubRead (n : Fin 20)
  /-- PAGE_RESPONSE (R353): A page response arrives, and the engine resumes at the watermark or the context fails. -/
  | pageResponse (f : FnId) (n : Nat) (code : PriCode)
  /-- PAGE_REQUEST_TIMEOUT (R353): A page request is unanswered for 1 s, and the context fails with TIMEOUT. -/
  | pageRequestTimeout (f : FnId) (n : Nat)
  /-- ATS_INVALIDATION (R351): The host's ATS invalidation request is completed once every request using the translation has completed. -/
  | atsInvalidation (p : Fin 8) (iova : Nat) (len : Nat)
  /-- HBM_RETRAIN (R526): A retraining trigger fires, and a stack's PHY retrains while its requests are held. -/
  | hbmRetrain (n : Fin 20) (result : RetrainResult)
  /-- RETIREMENT_PROCEED (R527): A failing part waiting for free granules is retired once enough are free. -/
  | retirementProceed
  /-- COMMAND_FETCH (R388): The port fetches command F while F < T and F < H + size, and checks its seq. -/
  | commandFetch (f : FnId) (r : Fin 16) (entry : BitVec 512)
  /-- STEP (R394): Command that delivers an optional payload and starts one step of a context. -/
  | stepCmd (f : FnId) (r : Fin 16)
  /-- LOAD_PROGRAM (R395): Command that verifies and stages an image set, then reconfigures the region. -/
  | loadProgram (f : FnId) (r : Fin 16)
  /-- LOAD_PROGRAM_STAGE_ONLY (R395): LOAD_PROGRAM with stage set, which verifies and stages images without reconfiguring. -/
  | loadProgramStageOnly (f : FnId) (r : Fin 16)
  /-- BIND (R396): Command that sets a context's page table root, share, turn and PASID. -/
  | bind (f : FnId) (r : Fin 16)
  /-- COPY (R397): Command that moves bytes within the sector's HBM on the copy engine. -/
  | copy (f : FnId) (r : Fin 16)
  /-- EXPORT (R397): Command that moves bytes from the sector's HBM to host memory. -/
  | exportCmd (f : FnId) (r : Fin 16)
  /-- IMPORT_COMMAND (R397): Command that moves bytes from host memory to the sector's HBM. -/
  | importCommand (f : FnId) (r : Fin 16) (data : List Byte) (poison : List Nat)
  /-- FENCE_COMMAND (R398): Command that completes when every earlier fetched command of the function has completed. -/
  | fenceCommand (f : FnId) (r : Fin 16)
  /-- QUERY_DEVICE_TIME (R398): QUERY 0 returns device time. -/
  | queryDeviceTime (f : FnId) (r : Fin 16)
  /-- QUERY_BEACON (R398): QUERY 1 returns the beacon and the boot count. -/
  | queryBeacon (f : FnId) (r : Fin 16)
  /-- QUERY_ENGINE_TIME (R398): QUERY 2 returns the context's engine time. -/
  | queryEngineTime (f : FnId) (r : Fin 16)
  /-- QUERY_CONTEXT_STATE (R398): QUERY 3 returns the context's state and the status of its first failure. -/
  | queryContextState (f : FnId) (r : Fin 16)
  /-- QUERY_MAILBOX_RECORDS (R398): QUERY 4 returns the number of records written to the function's mailbox. -/
  | queryMailboxRecords (f : FnId) (r : Fin 16)
  /-- COMPLETION_WRITE (R399): When a command has completed and its writes are visible, the port writes its completion entry and signals interrupts as set. -/
  | completionWrite (f : FnId) (r : Fin 16)
  /-- COALESCING_TIMER (R401): coal_us elapses after an unsignalled completion, and the port signals the ring's vector. -/
  | coalescingTimer (f : FnId) (r : Fin 16)
  /-- CXL_MEM_READ (R404): A host CXL.mem read is served with data, poison or zero for an unmapped offset. -/
  | cxlMemRead (p : Fin 8) (off : Nat)
  /-- CXL_MEM_WRITE (R404): A host CXL.mem write is written, merged, poisoned or discarded. -/
  | cxlMemWrite (p : Fin 8) (off : Nat) (data : List Byte) (mask : List Bool) (poison : Bool)
  /-- BI_RESPONSE (R405): A BIRsp arrives, and the device access held for the snoop proceeds. -/
  | biResponse (p : Fin 8) (line : Nat) (wb : Option (List Byte))
  /-- BISNP_TIMEOUT (R405): A BISnp is unanswered for 10 ms, so the line is poisoned and CXL.mem is disabled on the port. -/
  | bisnpTimeout (p : Fin 8) (line : Nat)
  /-- LINK_UP (R381): A port's link trains, and it enters service only in 256-byte flit mode. -/
  | linkUp (p : Fin 8) (rate : Fin 4) (width : Fin 4) (flit256 : Bool)
  /-- PERST_N (R408): PERST_N asserted on a port tears down its contexts and zeroizes and rekeys their sectors. -/
  | perstN (p : Fin 8) (us : Nat)
  /-- HOT_RESET (R408): A Hot Reset on a port has the effects of PERST_N. -/
  | hotReset (p : Fin 8)
  /-- DL_DOWN (R408): DL_Down lasting more than 10 ms has the effects of PERST_N. -/
  | dlDown (p : Fin 8) (ms : Nat)
  /-- VIRAL_INDICATION (R381): A viral indication from the host is treated as a Hot Reset. -/
  | viralIndication (p : Fin 8)
  /-- IDE_INTEGRITY_FAILURE (R407): An IDE MAC failure sets the stream Insecure, discards the flit and resets the port. -/
  | ideIntegrityFailure (p : Fin 8)
  /-- FLR_VF (R408): FLR of a VF tears down its contexts and stops its rings. -/
  | flrVf (f : FnId)
  /-- FLR_PF (R408): FLR of the PF tears down every context of the port's functions and stops their rings. -/
  | flrPf (p : Fin 8)
  /-- VF_ENABLE_CLEAR (R408): Clearing VF Enable acts as FLR of every VF of the port. -/
  | vfEnableClear (p : Fin 8)
  /-- CXL_KEY_EXCHANGE (R407): A CXL_KEY_EXCHANGE message in a secured SPDM session sets CXL IDE keys. -/
  | cxlKeyExchange (p : Fin 8) (ses : Nat)
  /-- GET_MEASUREMENTS (R488): SPDM request that returns the measurement blocks. -/
  | getMeasurements (p : SpdmPath) (index : Nat)
  /-- SET_SECTOR_KEY (R490): Vendor request that sets a sector's key and initialises its granules, or is refused. -/
  | setSectorKey (ses : Nat) (sec : Fin 64) (key : BitVec 512) (claim : BitVec 256)
  /-- GRANT_QUEUE (R492): Vendor request that grants a context admission to another context's queues. -/
  | grantQueue (ses : Nat) (recv admitted : Fin 4096)
  /-- REVOKE_QUEUE (R492): Vendor request that withdraws a queue grant. -/
  | revokeQueue (ses : Nat) (recv admitted : Fin 4096)
  /-- DEBUG_TOKEN (R496): A presented debug token is checked, and on acceptance every sector is released and the device unlocked. -/
  | debugToken (p : SpdmPath) (t : Token)
  /-- UNLOCK_EXPIRY (R497): The unlock ttl expires, which ends debug unlock as relock does. -/
  | unlockExpiry
  /-- RECOVERY_READ_BOOT_STATUS (R482): Recovery MCTP command that returns the boot status. -/
  | recoveryReadBootStatus
  /-- RECOVERY_WRITE_FIRMWARE (R482): Recovery MCTP command that writes a verified firmware image to a slot and restarts boot. -/
  | recoveryWriteFirmware (slot : Fin 2) (img : FwImage)
  /-- DISPATCH_PASS (R425): When a context becomes waiting or a cluster frees, the dispatcher orders waiting contexts by virtual time and starts or reserves them. -/
  | dispatchPass (sec : Fin 64)
  /-- STEP_START (R420): The dispatcher switches the context in, delivers the payload and releases the SCUs at word 0. -/
  | stepStart (x : Fin 4096)
  /-- STEP_END (R421): Every SCU of the footprint has halted and no instruction remains, so the step ends. -/
  | stepEnd (x : Fin 4096)
  /-- DISPATCH_TICK (R426): Every 0.5 ms the dispatcher charges virtual time and checks pre-emption conditions. -/
  | dispatchTick (sec : Fin 64)
  /-- STEP_LIMIT_TIMEOUT (R423): A step's on-clusters time exceeds the sector limit, and the context fails with TIMEOUT. -/
  | stepLimitTimeout (x : Fin 4096)
  /-- FOOTPRINT_SWITCH (R428): The dispatcher switches the footprint's clusters from the outgoing context's state to the incoming context's. -/
  | footprintSwitch (x : Fin 4096)
  /-- CONTEXT_TEARDOWN (R433): A failed context is torn down: work abandoned, windows and queues closed, clusters zeroized, completions written. -/
  | contextTeardown (x : Fin 4096)
  /-- LOG_RECORD_WRITE (R458): The record collector writes an arriving error record into the device log and copies it to the mailbox. -/
  | logRecordWrite
  /-- CORRECTED_ERROR_SUMMARY (R439): At the end of a 1 s coalescing period, one record with the count of corrected errors is written. -/
  | correctedErrorSummary (unit : Nat) (cls cause : Nat)
  /-- DEVICE_RESET (R449): A latched reset trigger runs the device reset sequence back to ready. -/
  | deviceReset (cause : Fin 10) (bad : List (Fin 2176)) (tablesOk : Bool)
  /-- UNIT_WATCH (R468): On a residue or parity report the Keeper places the unit under watch, or retires it on a repeat. -/
  | unitWatch (unit : Nat)
  /-- AUDIT_SAMPLE_RUN (R473): An idle bearing partner recomputes a queued sample and compares it bit for bit. -/
  | auditSampleRun (n : Nat) (agree : Bool)
  /-- AUDIT_VERDICT (R474): The third computation returns, and the Keeper decides which unit is faulty and acts. -/
  | auditVerdict (n : Nat) (v : ThirdResult)
  /-- AUDIT_SECOND_PARTNER_TIMEOUT (R474): No second partner answers within 1 ms, so the audited unit is judged faulty. -/
  | auditSecondPartnerTimeout (n : Nat)
  /-- COMPLETION_HOLD_TIMEOUT (R475): A completion held for a pending cluster reaches 2 ms and is written. -/
  | completionHoldTimeout (f : FnId) (r : Fin 16)
  /-- LIGHTSHIP_SWAP (R523): The Keeper moves a logical cluster's state to a lightship by direct scan and reroutes the fabrics. -/
  | lightshipSwap (c : Fin 2048)
  /-- BEACON_TICK (R518): Every 1 ms the Keeper advances the beacon. -/
  | beaconTick
  /-- WATCHDOG_EXPIRY (R518): The beacon has not advanced for 100 ms, so the watchdog resets the device with cause 6. -/
  | watchdogExpiry
  /-- DIE_AGENT_TIMEOUT (R519): A die agent has not answered for 10 ms, which causes a device reset with cause 3. -/
  | dieAgentTimeout (die : Fin 8)
  /-- FIRMWARE_UPDATE_GO (R520): A write of go starts a live firmware update with a hot restart onto the new slot. -/
  | firmwareUpdateGo (r : Requester) (v : Word)
  /-- HOT_RESTART_TIMEOUT (R521): The new firmware has not taken the beacon within 400 ms, so the hardware stops advancing it. -/
  | hotRestartTimeout
  /-- TRIAL_END (R520): 60 s after takeover the Keeper makes the new slot in force and raises the rollback floor. -/
  | trialEnd
  /-- TXN_BEGIN (R528): TXN_CTL op 1 opens a transaction and increments TXN_ID. -/
  | txnBegin (r : Requester)
  /-- TXN_STAGE_WRITE (R528): A write of TXN_DATA stages a register write to TXN_ADDR. -/
  | txnStageWrite (r : Requester) (v : Word)
  /-- TXN_STAGE_OP (R529): A write of TXN_OP stages one word of an operation. -/
  | txnStageOp (r : Requester) (v : Word)
  /-- TXN_COMMIT (R530): TXN_CTL op 2 checks every staged entry, journals the transaction and applies it, or rolls it back. -/
  | txnCommit (r : Requester)
  /-- TXN_ROLLBACK (R531): TXN_CTL op 3 discards the staged entries. -/
  | txnRollback (r : Requester)
  /-- TXN_TIMEOUT (R528): A transaction left open for 10 s is rolled back. -/
  | txnTimeout
  /-- CREATE_SECTOR (R413): Operation kind 1 creates a sector, draws its key and initialises its granules. -/
  | createSector
  /-- RELEASE_SECTOR (R415): Operation kind 2 tears down, zeroizes and releases a sector. -/
  | releaseSector
  /-- CREATE_CONTEXT (R417): Operation kind 3 creates a context bound to a sector and a function. -/
  | createContext
  /-- DESTROY_CONTEXT (R435): Operation kind 4 tears down a context's remaining state and frees its number. -/
  | destroyContext
  /-- SWAP_CLUSTER (R522): Operation kind 5 swaps a logical cluster for a lightship. -/
  | swapCluster
  /-- RETRAIN_STACK (R526): Operation kind 6 retrains a stack's PHY. -/
  | retrainStack
  /-- RETIRE_PSEUDO_CHANNEL (R527): Operation kind 7 moves a pseudo-channel's contents to refuge space and retires it. -/
  | retirePseudoChannel
  /-- RETIRE_STACK (R527): Operation kind 8 moves a whole stack's contents to refuge space and retires it. -/
  | retireStack
  /-- OPERATOR_DEVICE_RESET (R448): Operation kind 9 triggers a device reset with cause 9. -/
  | operatorDeviceReset
  /-- POWER_SAMPLE (R501): Every 1 µs the power manager samples input power and may change the array clock step. -/
  | powerSample (mv da avg1ms avg1s peak10ms : Nat)
  /-- CLOCK_STEP_CHANGE (R502): A decided clock step change takes effect at each die's first frame boundary after the set device time. -/
  | clockStepChange
  /-- WARNING_CROSSED (R505): The input or a die rail falls to the warning level: the clock steps to 1.2 GHz and no step starts in affected sectors. -/
  | warningCrossed (rail : Rail)
  /-- DOUBT_CROSSED (R507): The input or a rail falls to the doubt level, and every affected running step is abandoned with VOLTAGE_DOUBT. -/
  | doubtCrossed (rail : Rail)
  /-- RESET_LEVEL_CROSSED (R505): The input or a rail falls to the reset level, which triggers a device reset with cause 7 or 8. -/
  | resetLevelCrossed (rail : Rail)
  /-- LEVEL_CLEARED (R505): A crossed level has stood at its clearing value for 1 ms and clears. -/
  | levelCleared (rail : Rail) (lvl : Level)
  /-- JUNCTION_SAMPLE (R512): Every 100 µs the junction sensors are read, and the hottest reading drives throttling. -/
  | junctionSample (tj : List Int)
  /-- THERMAL_TRIP (R513): A junction reaches 115 °C, and the supervisor asserts MOD_THERMTRIP_N and switches the regulators off. -/
  | thermalTrip
  /-- COOL_FAULT (R514): COOL_FAULT_N asserted: the clock steps to 1.2 GHz and no step starts. -/
  | coolFault
  /-- LEAK_SENSE (R514): LEAK_SENSE_N asserted: the clock steps to 1.2 GHz and no step starts. -/
  | leakSense
  /-- COOLING_RESUME (R514): 1 s after the cooling signal deasserts, step starts resume. -/
  | coolingResume
  /-- INPUT_OVERVOLTAGE (R499): Input above 63 V makes the regulators disconnect, as at loss of input power. -/
  | inputOvervoltage
  /-- MOD_PWREN_ASSERT (R500): MOD_PWREN asserted with input at or above 44 V brings the on-module rails into regulation. -/
  | modPwrenAssert
  /-- MOD_PWREN_DEASSERT (R500): MOD_PWREN deasserted switches the regulators off within 1 ms. -/
  | modPwrenDeassert
  /-- INPUT_POWER_LOSS (R500): Loss of input power stops everything, and nothing but the module flash is kept. -/
  | inputPowerLoss
  /-- MOD_RESET_N_ASSERT (R556): MOD_RESET_N asserted for at least 10 µs fully resets the device. -/
  | modResetNAssert (us : Nat)
  /-- BOOT (R480): The release of MOD_RESET_N starts the signed boot sequence through to ready, or recovery. -/
  | boot (r : BootResult)
  /-- FIRMWARE_IMAGE_WRITE (R520): In service, the operator writes a new Keeper firmware image into the slot not in force over I3C, and the Keeper verifies it and reports the result in fw_result. -/
  | firmwareImageWrite (slot : Fin 2) (img : FwImage)
  /-- INPUT_POWER_APPLIED (R500): Input power reaches 44 V or more, which starts device time from zero and, with MOD_PWREN asserted, brings the rails into regulation. -/
  | inputPowerApplied
  /-- SPDM_KEY_EXCHANGE (R487): A requester sets up an SPDM session with the device over DOE or I3C, within the limit of 4 sessions per port and 2 on I3C. -/
  | spdmKeyExchange (p : SpdmPath)
  /-- SPDM_END_SESSION (R491): An SPDM session ends, after which no session can rekey the sector it keyed. -/
  | spdmEndSession (ses : Nat)
  /-- TSP_ASSIGNMENT (R407): TSP assigns a function to a trusted virtual machine, after which the function accepts CXL.io and CXL.mem traffic only over a Secure IDE stream. -/
  | tspAssignment (f : FnId)
  /-- DYNAMIC_ADDRESS_ASSIGNMENT (R555): The I3C endpoint takes a dynamic address through ENTDAA, or through SETDASA from static address 0x3A. -/
  | dynamicAddressAssignment (how : I3cAssign) (addr : BitVec 7)
  deriving DecidableEq, Repr

end Sys2Proof
end

