-- ==== Sys2Proof/Config.lean ====
section
/-!
DEFINITION. What one implementation fixes and what the manual leaves open. Every constant here is free: nothing
in Lean can evaluate it, so a statement about it holds for every value.
-/

namespace Sys2Proof

/-- The n-th free value the device draws: sector keys, nonces, creation serials (R341, R495). Log 6. -/
opaque Config.freeValue : Nat → BitVec 512

/-- The FP32 result of an S4 function that R158 leaves open, for function code `fn` and input `x`; it stands where it keeps the bound
of R158 (Machine/Special.lean). Log 10. -/
opaque Config.s4Value : Nat → BitVec 32 → BitVec 32

/-- The sample generator of R469: its next state. Log 11. -/
opaque Config.sampleStep : BitVec 32 → BitVec 32

/-- The mix of a seed with a global unit ID (R479). Log 11. -/
opaque Config.seedMix : BitVec 32 → Nat → BitVec 32

/-- SHA-512 of a byte string (R489, R488), uninterpreted. Log 12. -/
opaque Config.sha512 : List Byte → BitVec 512

/-- The hash of the root key held in mask ROM (R480, R488). Log 12. -/
opaque Config.rootHash : BitVec 512

/-- The wrapping key and the record key that the PUF response gives with helper data (R483), uninterpreted. Log 12. -/
opaque Config.wrapKey : BitVec 512 → BitVec 256
opaque Config.recordKey : BitVec 512 → BitVec 512

/-- AES-256-XTS of a line under a key slot's key, with its tweak (R341), uninterpreted. Log 12. -/
opaque Config.xts : BitVec 512 → Nat → List Byte → List Byte

/-- Its inverse: what deciphering gives for the bytes read (R338, R341), uninterpreted. Log 12. -/
opaque Config.xtsInv : BitVec 512 → Nat → List Byte → List Byte

/-- Whether an RSASSA-4096 signature over the bytes is good (R480, R495), uninterpreted. Log 12. -/
opaque Config.rsaGood : List Byte → BitVec 4096 → Bool

/-- What a host answers to the n-th ATS translation request that the device makes, of a port, for a PASID and a page: the page's
address and whether it may be written, or none (R351, R352). Log 137. -/
opaque Config.hostPage : Nat → Nat → Nat → Nat → Option (Nat × Bool)

/-- The 320 bits that a root with `wide` delivers for a sum that is not finite: what has entered it (NaN, plus and minus infinity) and its
finite part (R262, R263). Log 6. -/
opaque Config.wideValue : Bool → Bool → Bool → Int → BitVec 320

/-- The k-th byte of a part of a scan image, the code of a row of R319 in its directory, and the length of a part that the manual does not
state, within the bounds that R319 gives (R319, R321). Log 82. -/
opaque Config.scanByte : BitVec 512 → Nat → Byte
opaque Config.partCode : Nat → BitVec 8
opaque Config.scanLen : BitVec 512 → Nat → Nat

/-- Whether a pin pulse of this many nanoseconds, between 1 and 10 microseconds, takes effect (R556). Log 13. -/
opaque Config.pulseTakes : Nat → Bool

/-- The physical path that a logical link of cluster `c` takes when the cluster lies on lightship `p` (R26, R217): for 2 x link the
hops of the link away from it, for 2 x link + 1 those of the link towards it, each a physical cluster and the link direction by which
the path leaves it. Log 32. -/
opaque Config.linkPath : Nat → Nat → Nat → List (Nat × Nat)

/-- The result of an operation whose value the manual does not state, drawn from a counter. Log 6. -/
opaque Config.freeBit : Nat → Bool

end Sys2Proof
end

