-- ==== Sys2Proof/Machine/Types.lean ====
section
/-!
DEFINITION. The pieces of the block's state: one structure for each kind of unit, as plain data. Sparse tables are
lists of (key, value) pairs in ascending key order; a key that is not listed has the default of its table.
-/

namespace Sys2Proof.Machine

/-- A sparse table: pairs in ascending key order. -/
abbrev Tab (α : Type) := List (Nat × α)

/-- Bytes of an addressed memory, ascending, no entry equal to 0, what an unlisted address reads as (log 14). -/
abbrev Mem := List Host.Cell

/-- A performance counter: 48 bits and `ovf`, and the wraps it has signalled that the Keeper has not yet counted (R146). -/
structure Perf where
  count : Nat := 0
  ovf : Bool := false
  signals : Nat := 0
  deriving DecidableEq, Repr

/-! ### Stream fabric data -/

/-- What a flit is: data, a daymark token, or a configuration flit behind one (R218, R315, R316). -/
inductive FlitKind where
  | data | daymark | config
  deriving DecidableEq, Repr

/-- The stage of a CHAIN that a flit handed over is for (R292): the head unit, its CHAIN, the stage, and whether it comes by a lane. -/
structure HandTag where
  head : Nat
  id : Nat
  stage : Nat
  lane : Bool
  deriving DecidableEq, Repr

/-- A flit: its valid payload bytes (`len` of them) and the side bits of R218. `mask` are the masks of R90, one for each element, that
go with it over the wide view to a home compute unit; it is empty on circuits and lanes. `tag` is whom a hand-over is for, `own` the run
of its unit that an output channel still holds it for (R286). `ce`, `ue0` and `ue1` are errors of its payload words in the queue that
holds it: a corrected one, and an uncorrectable one in either half (R245). -/
structure Flit where
  bytes : List Byte := []
  tag : Option HandTag := none
  own : Nat := 0
  ce : Bool := false
  ue0 : Bool := false
  ue1 : Bool := false
  fog0 : Bool := false
  fog1 : Bool := false
  mask : List Bool := []
  eot : Bool := false
  eob : Bool := false
  kind : FlitKind := .data
  check : BitVec 32 := 0
  sideBad : Bool := false
  deriving DecidableEq, Repr

/-! ### Exact accumulators -/

/-- The exact accumulator of R166: the finite sum in units of 2^-149, and what else has entered it. -/
structure Acc where
  sum : Int := 0
  nan : Bool := false
  pinf : Bool := false
  ninf : Bool := false
  any : Bool := false
  notNegZero : Bool := false
  deriving DecidableEq, Repr

/-! ### Messages and packets -/

/-- A message (R189, R194, R198). `sender` is 0xFFFF for a STEP payload (R394). -/
structure Msg where
  unit : Nat
  queue : Nat
  prio : Nat := 0
  fou : Bool := false
  tag : Nat := 0
  payload : List Byte := []
  fog : Bool := false
  sender : Nat
  ctx : Nat
  deriving DecidableEq, Repr

/-- The life of a send buffer entry (R199): waiting, on its way, held by the receiver. -/
inductive SendState where
  | waiting | sent | held
  deriving DecidableEq, Repr

/-- An entry of a send buffer, with the SCU that learns of a refusal (R201, R285). -/
structure SendEntry where
  msg : Msg
  state : SendState := .waiting
  scu : Nat
  run : Nat := 0
  deriving DecidableEq, Repr

/-- What a packet carries, by kind (R250). -/
inductive Body where
  | message (m : Msg)
  | windowWrite (win epoch off : Nat) (right : Nat) (bytes keep : List Byte) (fog : Bool) (req : Nat)
  | readRequest (req : Nat)
  | readData (req : Nat) (bytes : List Byte) (fog : Bool)
  | writeAck (req : Nat) (status : Nat)
  | outcome (queue unit : Nat) (status : Nat) (heldBack : Bool)
  | contribution (g round blk : Nat) (fmt : Nat) (vals : List Nat) (fog : Bool)
  | partialSum (g round blk : Nat) (accs : List Acc) (count : Nat) (fog : Bool)
  | roundAdvance (g round : Nat)
  | regAccess (off : Nat) (write : Bool) (v : Word)
  deriving DecidableEq, Repr

/-- The state of a packet's header word after ECC (R265); `badInjected` is one that an error injection has made uncorrectable (R461). -/
inductive Hdr where
  | good | badAgree | badDisagree | badInjected
  deriving DecidableEq, Repr

/-- A packet (R250): `dest` is a global unit ID, or a group number with `mc`; `at_` the mesh position that the source router has
translated it to, once it has left (R249). -/
structure Packet where
  dest : Nat
  mc : Bool := false
  at_ : Option (Nat × Nat) := none
  atRoot : Bool := false
  /-- With `mc`, the local index that a window write goes to at every member (R258). -/
  at_local : Nat := 0
  cls : Nat
  flits : Nat := 1
  src : Nat
  ctx : Nat
  hdr : Hdr := .good
  /-- Its message has been discarded while it was under way (R307, R433): it goes nowhere. -/
  void : Bool := false
  body : Body
  deriving DecidableEq, Repr

/-- A flit of a packet in a router: its packet and its index in it, and whether a payload word of it has a corrected or an uncorrectable
error (R265). -/
structure MFlit where
  pkt : Packet
  idx : Nat
  ce : Bool := false
  ue : Bool := false
  deriving DecidableEq, Repr

/-! ### Tensor units -/

/-- The fields of a tensor instruction (R272). -/
structure TInstr where
  op : Nat := 0
  cls : Nat := 0
  nw : Bool := false
  slot : Bool := false
  gran : Bool := false
  flag3 : Bool := false
  da : Nat := 0
  db : Nat := 0
  dc : Nat := 0
  par : Nat := 0
  count : Nat := 0
  sq : Nat := 0
  tag : Nat := 0
  deriving DecidableEq, Repr

/-- The stage a chained instruction has in its CHAIN (R291 to R294): the head unit and its CHAIN, stage and run, the
consumer of its output and the lane on the way. -/
structure Stage where
  head : Nat
  id : Nat
  stage : Nat
  last : Bool
  run : Nat
  outTo : Option Nat := none
  outLane : Option Nat := none
  idle : Bool := false
  deriving DecidableEq, Repr

/-- An instruction in an issue queue: fields after replacement, the issuing SCU (local index) and context. -/
structure Issued where
  i : TInstr
  scu : Nat
  ctx : Nat
  chain : Option Stage := none
  deriving DecidableEq, Repr

/-- One element on its way: its bits, its fog, whether it is masked (R89), and its block scale byte, 127 for none (R44). -/
structure El where
  bits : Nat
  fog : Bool := false
  masked : Bool := false
  scale : Nat := 127
  deriving DecidableEq, Repr

/-- An external request (R87): context virtual or device address, bytes, direction, and what has become of it. -/
structure ExtReq where
  id : Nat
  va : Nat
  len : Nat
  write : Bool := false
  row : Nat := 0
  data : List Byte := []
  fog : List Bool := []
  keep : List Byte := []
  target : Nat := 0
  addr : Nat := 0
  iova : Nat := 0
  sent : Bool := false
  answered : Bool := false
  done : Bool := false
  status : Nat := 0
  rc : Bool := false
  pf : Bool := false
  deriving DecidableEq, Repr

/-- The result of stage S5 on one lane: its value, its mask bit, whether the lane is active, and its fog (R150, R155, R169). -/
structure LaneVal where
  y : BitVec 32
  m : Bool
  act : Bool
  fog : Bool
  deriving DecidableEq, Repr

/-- A tensor instruction that has left its issue queue and has not completed (R286): the descriptors latched (R83) and the range
in bytes of the slot it names, the current run of R121 and its phase (0 begin, 1 source requests, 2 delivering, 3 destination
requests), elements under way, requests, flits taken in, the bytes of a stream output whose block check is still open (R220), the
flits of its walk that have entered S1 of a VCU and what S5 made of them (R172), and for a CHAIN its lanes and the statuses of the
stages of the current run. -/
structure Run where
  iss : Issued
  id : Nat := 0
  slotGen : Nat := 0
  prm : BitVec 256 := 0
  latch : Tab (BitVec 512) := []
  slotBase : Nat := 0
  slotLen : Nat := 0
  run : Nat := 0
  gens : List Nat := []
  slotGranted : Bool := false
  phase : Nat := 0
  els : List (List El) := []
  came : List (List (Option (BitVec 32))) := []
  reqs : List ExtReq := []
  flits : List Flit := []
  crcTail : List Byte := []
  pos : Nat := 0
  keepIdx : Nat := 0
  vals : Tab (List LaneVal) := []
  stageSt : List (Nat × Nat) := []
  lanes : List Nat := []
  status : Nat := 0
  finished : Bool := false
  deriving DecidableEq, Repr

/-- What MUs, MCUs and VCUs have alike. `conf0` and `conf1` are the configuration flits still to come behind a daymark on
an input channel, `confUse` whether they are written or taken with no action (R314, R318). `hand` are the flits handed over to stages
of CHAINs at the unit (R227, R292), `lastScu` the scalar unit whose instruction last took a place of the issue queue (R183). -/
structure Tu where
  tim : Tab (BitVec 128) := []
  marks : Tab Nat := []
  timBad : List Nat := []
  timFog : List Nat := []
  iq : List Issued := []
  running : List Run := []
  epoch : Nat := 0
  inq0 : List Flit := []
  inq1 : List Flit := []
  outq0 : List Flit := []
  outq1 : List Flit := []
  hand : List Flit := []
  send : List SendEntry := []
  nextId : Nat := 1
  conf0 : Nat := 0
  conf1 : Nat := 0
  confUse0 : Bool := false
  confUse1 : Bool := false
  stopped : Bool := false
  lastScu : Nat := 3
  deriving DecidableEq, Repr

/-! ### Memory units -/

/-- The check store entry of a valid block (R98); a block not listed is unchecked. -/
structure Check where
  crc : BitVec 32
  n : Nat
  deriving DecidableEq, Repr

/-- The slot states of R102. -/
inductive SlotState where
  | empty | filling | full | draining
  deriving DecidableEq, Repr

/-- A slot definition and state (R101, R102); `length` 0 is undefined. -/
structure Slot where
  base : Nat := 0
  length : Nat := 0
  readers : Nat := 0
  state : SlotState := .empty
  started : Nat := 0
  completed : Nat := 0
  gen : Nat := 0
  deriving DecidableEq, Repr

/-- A remote-write window (R105). -/
structure Win where
  base : Nat := 0
  length : Nat := 0
  writer : Nat := 0
  rights : Nat := 0
  opened : Bool := false
  epoch : Nat := 0
  deriving DecidableEq, Repr

/-- A window write that has been accepted and waits for a bank group to wake (R106, R107, R109): its window, its offset in the
scratchpad, its bytes, and to whom its acknowledgement goes. -/
structure WinWrite where
  win : Nat
  addr : Nat
  bytes : List Byte
  keep : List Byte
  fog : Bool
  src : Nat
  ctx : Nat
  req : Nat
  deriving DecidableEq, Repr

/-- The transfer engine (R348 to R359). -/
structure Xf where
  active : Bool := false
  faultWait : Bool := false
  faultVa : Nat := 0
  faultWrite : Bool := false
  watermark : Nat := 0
  delivered : List Nat := []
  faults : Nat := 0
  refetch : Nat := 0
  deriving DecidableEq, Repr

/-- An entry of a memory unit's translation cache (R334): the context, the page and the leaf of its table. -/
structure TlbEntry where
  ctx : Nat
  lo : Nat
  size : Nat
  leaf : Nat
  deriving DecidableEq, Repr

/-- A selection or staging of one requester (R542). -/
structure ReqSel where
  who : Requester
  sel : Nat := 0
  stage : List Word := []
  deriving DecidableEq, Repr

/-- A memory unit (R74 to R113). `slotQ` are the runs that wait for a slot, in waiting order (R103): slot, run, and
whether to write. Which generators are busy follows from the running instructions (R86). -/
structure Mu where
  mem : Mem := []
  fog : List Nat := []
  fogBad : List Nat := []
  ceWords : List Nat := []
  ueWords : List Nat := []
  injWords : List Nat := []
  checks : Tab Check := []
  desc : Tab (BitVec 512) := []
  descBad : List Nat := []
  descFog : List Nat := []
  descNew : List Nat := []
  dtSel : List ReqSel := []
  slotSel : List ReqSel := []
  slots : Tab Slot := []
  slotQ : List (Nat × Nat × Bool) := []
  wins : Tab Win := []
  accepted : List WinWrite := []
  zeroizing : Bool := false
  powered : BitVec 8 := 0xFF
  downReq : BitVec 8 := 0
  cancelled : BitVec 8 := 0
  waking : BitVec 8 := 0
  ceCount : Nat := 0
  ueCount : Nat := 0
  errAddr : Nat := 0
  scrubInt : Nat := 64
  scrubPasses : Nat := 0
  scrubPos : Nat := 0
  cfgStore : Nat := 0
  winDrop : Nat := 0
  xf : Xf := {}
  tlb : List TlbEntry := []
  deriving DecidableEq, Repr

/-! ### Matrix units -/

/-- A bound matrix instruction (R135): its run, the order of its binding, the quantum it is at, the elements of its stream
operand that wait in its queue, how many of the run have come and whether the stream has ended, and how many shared tiles of the run
have been loaded (R127). -/
structure Bound where
  id : Nat
  order : Nat
  quantum : Nat := 0
  strm : List El := []
  got : Nat := 0
  ended : Bool := false
  loaded : Nat := 0
  deriving DecidableEq, Repr

/-- A tile in the shared tile buffer (R127): the instruction it is for, its number in the run, and its rows. -/
structure SharedTile where
  id : Nat
  num : Nat
  rows : List (List El)
  deriving DecidableEq, Repr

/-- A tile ready for the epilogue (R141): its instruction, the tile, its place in the output, its index under R72, and
whether it is the last of its run and of its instruction. -/
structure EpiTile where
  id : Nat
  tile : Nat
  row : Nat
  col : Nat
  index : Nat
  lastOfRun : Bool
  last : Bool
  deriving DecidableEq, Repr

/-- An audit sample held by a unit or a partner (R469 to R474); `run` is the context and the sequence of the step in which it was
taken, `reported` the time at which a mismatch was reported. -/
structure Sample where
  unit : Nat
  time : Nat
  sector : Nat
  run : Option (Nat × Nat) := none
  reported : Nat := 0
  words : List (BitVec 32) := []
  partner : Nat := 0xFFFF
  second : Nat := 0xFFFF
  mismatch : Bool := false
  deriving DecidableEq, Repr

/-- A matrix unit (R114 to R146). Accumulator tiles are lists of 1,024 entries, row by row; a tile not listed is +0. `accCe` and
`accBad` are the entries whose code has a single-bit or an uncorrectable error (R143), `shared` the shared tile buffer, `current` the
instruction whose quantum has begun and waits for strips (R136). -/
structure Mcu where
  acc : Tab (List (BitVec 32)) := []
  tileFog : BitVec 32 := 0
  accCe : List Nat := []
  accBad : List Nat := []
  injAcc : List Nat := []
  shared : List SharedTile := []
  current : Option Nat := none
  f0 : Option Bound := none
  f1 : Option Bound := none
  b0 : Option Bound := none
  b1 : Option Bound := none
  bindCount : Nat := 0
  epiQ : List EpiTile := []
  nfFlag : Bool := false
  satFlag : Bool := false
  nfRow : Nat := 0
  nfCol : Nat := 0
  nfTag : Nat := 0
  nfTile : Nat := 0
  ceCount : Nat := 0
  ueCount : Nat := 0
  resCount : Nat := 0
  tblPar : Nat := 0
  busy : Perf := {}
  waitP : Perf := {}
  epiP : Perf := {}
  gen : BitVec 32 := 0
  forced : Bool := false
  tblNext : Bool := false
  deriving DecidableEq, Repr

/-! ### Vector units -/

/-- A vector unit (R147 to R174). -/
structure Vcu where
  redBusy : Bool := false
  fogSeen : Bool := false
  nan : Bool := false
  sat : Bool := false
  div0 : Bool := false
  oob : Bool := false
  firstTag : Nat := 0
  tblPar : Nat := 0
  busy : Perf := {}
  waitP : Perf := {}
  flits : Perf := {}
  gen : BitVec 32 := 0
  forced : Bool := false
  tblBadNext : Bool := false
  deriving DecidableEq, Repr

/-! ### Scalar units -/

/-- A scalar instruction (R296, R297, R562). -/
inductive SInstr where
  | alu (op : Fin 14) (rd ra rb : Fin 32)
  | sel (rd ra rb : Fin 32) (p : Fin 8)
  | imm (op : Fin 4) (rd ra : Fin 32) (imm : BitVec 16)
  | shi (op : Fin 3) (rd ra : Fin 32) (sh : Fin 64)
  | lui (rd : Fin 32) (imm : BitVec 21)
  | cmp (pd : Fin 8) (c : Cond) (ra rb : Fin 32)
  | cmpi (pd : Fin 8) (c : Cond) (ra : Fin 32) (imm : BitVec 15)
  | pop (pd pa pb : Fin 8) (f : PopFn)
  | ld (sz : Fin 4) (rd ra : Fin 32) (imm : BitVec 16)
  | st (sz : Fin 4) (rs ra : Fin 32) (imm : BitVec 16)
  | br (al neg : Bool) (p : Fin 8) (target : BitVec 14)
  | jal (rd : Fin 32) (target : BitVec 14)
  | jr (ra : Fin 32)
  | halt
  | qrecv (rd : Fin 32) (q : QSrc)
  | qsel (rd ra rb : Fin 32) (pd : Fin 8) (rot : Bool)
  | qsend (ra rb rc : Fin 32) (tag : BitVec 8) (m : Bool)
  | qtag (rd : Fin 32)
  | qrp (ra : Fin 32) (q : Fin 64)
  | qclose (q : Fin 64)
  | tiss (unit : Fin 32) (w : Fin 1024) (rc rs : Fin 32)
  | wait (rd : Fin 32) (tag : BitVec 16)
  | pout (port : Fin 2) (p : Fin 8)
  | rdsr (rd : Fin 32) (sr : Fin 7)
  deriving DecidableEq, Repr

/-- A general register: 64 bits and a fog bit (R175). -/
structure Reg where
  v : Word := 0
  fog : Bool := false
  deriving DecidableEq, Repr

/-- A predicate register: one bit and a fog bit (R175). -/
structure Pred where
  v : Bool := false
  fog : Bool := false
  deriving DecidableEq, Repr

/-- The run states of `SCU_STATUS` (R210). -/
inductive ScuState where
  | noProgram | running | blocked | halted
  deriving DecidableEq, Repr

/-- The queue modes of R188. -/
inductive QMode where
  | off | register | ring | combining
  deriving DecidableEq, Repr

/-- An entry of a register-mode queue (R191). -/
structure QEntry where
  data : Word
  tag : Nat
  fog : Bool
  deriving DecidableEq, Repr

/-- A result of a combining queue held for ring space (R207). -/
structure HeldResult where
  payload : List Byte
  fog : Bool
  sender : Nat
  ctx : Nat
  deriving DecidableEq, Repr

/-- A message queue (R188 to R207, R210). -/
structure Queue where
  mode : QMode := .off
  opened : Bool := false
  otherOk : Bool := false
  otherCtx : Nat := 0
  nElem : Nat := 0
  cfmt : Nat := 0
  contrib : Nat := 0
  ofmt : Nat := 0
  rmode : Nat := 0
  base : Nat := 0
  size : Nat := 0
  wp : Nat := 0
  rp : Nat := 0
  seq : Nat := 0
  entries : List QEntry := []
  accs : List Acc := []
  senders : List Nat := []
  combFog : Bool := false
  result : Option HeldResult := none
  deriving DecidableEq, Repr

/-- An outstanding completion tag and its posted status (R184). -/
structure TagEntry where
  tag : Nat
  posted : Option Nat := none
  deriving DecidableEq, Repr

/-- A scalar unit (R175 to R211), with its epoch (R311). `imemNew` are words of its memory that a Marnan daymark has brought and that it
runs from its next step on (R318). -/
structure Scu where
  g : Tab Reg := []
  p : Tab Pred := []
  pc : Nat := 0
  imem : Tab (BitVec 32) := []
  imemCe : List Nat := []
  imemUe : List Nat := []
  imemFog : List Nat := []
  imemNew : Tab (BitVec 32) := []
  epoch : Nat := 0
  tags : List TagEntry := []
  lastTag : Nat := 0
  state : ScuState := .noProgram
  cause : Nat := 0
  blocked : Option SInstr := none
  blockedAt : Nat := 0
  pport0 : List Bool := []
  pport1 : List Bool := []
  queues : Tab Queue := []
  rot : Nat := 63
  send : List SendEntry := []
  lastStatus : Nat := 0
  lastUnit : Nat := 0
  lastQueue : Nat := 0
  undeliv : Nat := 0
  ceCount : Nat := 0
  ueCount : Nat := 0
  qSel : List ReqSel := []
  busy : Perf := {}
  waitP : Perf := {}
  instr : Perf := {}
  frozen : Bool := false
  deriving DecidableEq, Repr

/-! ### Stream switches -/

/-- A circuit table entry (R302): `to` and buffer of each used branch. -/
structure Circ where
  src : Nat := 0
  valid : Bool := false
  tos : List (Option Nat) := []
  buf : List Nat := []
  deriving DecidableEq, Repr

/-- A steering configuration (R229): kind 0 none, 1 SW, 2 MG, 3 GATE, 4 CARRY, 5 REP, 6 DEC. -/
structure SteerCfg where
  kind : Nat := 0
  gran : Bool := false
  n : Nat := 0
  deriving DecidableEq, Repr

/-- A steering element (R229 to R235): configuration, a waiting `STEER.*`, the bit it has taken, the tensor it is in and
its route, whether a CARRY is in its loop, the token index and the flit index, the replay buffer, the flit on each output,
the bytes of the block not yet checked, the configuration flits still to pass on each input with whether they are
forwarded, and its epoch. -/
structure Elem where
  cfg : SteerCfg := {}
  next : Option (SteerCfg × Issued) := none
  bit : Option Bool := none
  inTensor : Bool := false
  route : Nat := 0
  looping : Bool := false
  index : Nat := 0
  flit : Nat := 0
  replay : List Flit := []
  out0 : List Flit := []
  out1 : List Flit := []
  blockBytes : List Byte := []
  conf0 : Nat := 0
  conf1 : Nat := 0
  confFwd0 : Bool := false
  confFwd1 : Bool := false
  epoch : Nat := 0
  deriving DecidableEq, Repr

/-- A chain lane (R227): consumer unit and channel position, flits on the lane. -/
structure Lane where
  owner : Option Nat := none
  dst : Nat := 0
  flits : List Flit := []
  deriving DecidableEq, Repr

/-- A stream switch with its eight steering elements (R212 to R246). Slot tables are keyed by 2 x link + lane, 16 bytes in
the form of `SF_SW_TBL_DATA`; `nextTab` are tables that wait for their switch, with the epoch of their daymark. Queues are
numbered 0 to 63 buffers, 64 + 2u + c input queues, 104 + i control buffers; `spill` lists those in spill mode, `waiting`
tokens that have arrived at them, `readAhead` how many of their oldest records the engine holds. `cross` are the flits in the dual-clock
queue of a link that crosses a die bridge, each with its circuit (R226); `tblBad` is a parity error in a slot table (R245). -/
structure Sw where
  slotTab : Tab (List Nat) := []
  nextTab : Tab (Nat × List Nat) := []
  circ : Tab Circ := []
  bufs : Tab (List Flit) := []
  ctl : Tab (List Bool) := []
  circEpoch : Tab Nat := []
  elems : Tab Elem := []
  iq : List Issued := []
  running : List Run := []
  spill : List Nat := []
  readAhead : Tab Nat := []
  waiting : Tab (List Flit) := []
  lanes : Tab Lane := []
  cross : Tab (List (Nat × Flit)) := []
  tblBad : Bool := false
  tblSel : List ReqSel := []
  fogSeen : Bool := false
  bypass : Bool := false
  ce : Nat := 0
  ue : Nat := 0
  perfStall : Perf := {}
  perf : Tab Perf := []
  deriving DecidableEq, Repr

/-- A record of a sector's spill ring (R240): `pos` is its place in the ring, in records. -/
structure SpillRec where
  pos : Nat := 0
  cluster : Nat
  q : QueueRef
  flit : Flit
  bit : Bool := false
  ctx : Nat
  read : Bool := false
  bad : Bool := false
  deriving DecidableEq, Repr

/-- The foghorn and spill ring of a sector (R236 to R246). `noProg` counts tenths of array cycles without progress; `next` is the place
in the ring of the next record. -/
structure Sf where
  thr : Nat := 4
  base : Nat := 0
  size : Nat := 2
  ring : List SpillRec := []
  next : Nat := 0
  high : Nat := 0
  stalls : Nat := 0
  starved : Nat := 0
  written : Nat := 0
  noProg : Nat := 0
  starvedNow : Bool := false
  deriving DecidableEq, Repr

/-! ### Mesh routers and groups -/

/-- A combiner slot (R260); `ce` and `ue` are that a word of its accumulators has a single-bit error or is uncorrectable (R265). -/
structure Comb where
  g : Nat
  round : Nat
  blk : Nat
  accs : List Acc
  count : Nat := 0
  fog : Bool := false
  since : Nat := 0
  root : Bool := false
  ce : Bool := false
  ue : Bool := false
  deriving DecidableEq, Repr

/-- A mesh router, named by its logical cluster for registers and by its position for buffers (R247 to R266). `notes` are
notify messages on their way (R262); `waited` is whether the first contribution that waits for a slot is counted; `fogIn` are the
buffers of which the packet that is being ejected has a fogged flit; `tblBad` is a parity error in the group table or the remap copy
(R265). -/
structure Rt where
  outbox : List Packet := []
  inj : Tab (Nat × Packet) := []
  inbox : List Packet := []
  slots : Tab Comb := []
  rounds : Tab Nat := []
  lastP0 : Option Nat := none
  high : Nat := 0
  discard : Nat := 0
  p0Demote : Nat := 0
  ce : Nat := 0
  ue : Nat := 0
  flushes : Nat := 0
  slotWaits : Nat := 0
  waited : Bool := false
  notes : List Msg := []
  fogSeen : Bool := false
  fogIn : List Nat := []
  tblBad : Bool := false
  perf : Tab Perf := []
  deriving DecidableEq, Repr

/-- A position of the mesh: input buffers by side and class, the packet holding each output link and class, and how many flits of
each class an output link has sent in its rotation (R252). -/
structure Pos where
  bufs : Tab (List MFlit) := []
  locks : Tab Nat := []
  spent : Tab Nat := []
  deriving DecidableEq, Repr

/-- A group (R257, R267) with its member clusters. -/
structure Grp where
  ctl : Word := 0
  dest : Word := 0
  notify : Word := 0
  round : Nat := 0
  blocks : Nat := 0
  rounds : Nat := 0
  status : Nat := 0
  members : List Nat := []
  deriving DecidableEq, Repr

/-! ### Cluster control and images -/

/-- A section of a program image (R300, R301). -/
structure Section where
  kind : Nat
  unit : Nat
  off : Nat
  data : List Byte
  deriving DecidableEq, Repr

/-- A verified image staged in a place (R304). -/
structure Staged where
  crc : BitVec 32
  store : Nat
  secs : List Section
  bytes : List Byte := []
  deriving DecidableEq, Repr

/-- The scan states of `CL_SCAN_STATUS` (R327). -/
inductive ScanState where
  | running | freezing | frozen | moving
  deriving DecidableEq, Repr

/-- Cluster control (R327), with the owner of the cluster's state (R428) and the staged images. `scanned` is that a scan of the Keeper is
under way, from its freeze to its release (R322). -/
structure Cl where
  epoch : Nat := 0
  quietEpoch : Nat := 0
  place : Nat := 0
  loading : Bool := false
  marnan : Bool := false
  imageCrc : BitVec 32 := 0
  flits : Nat := 0
  items : Nat := 0
  prog : Bool := false
  buf : Nat := 0
  scan : ScanState := .running
  scanned : Bool := false
  done : Bool := false
  bad : Bool := false
  kib : Nat := 0
  pendingOp : Nat := 0
  stale : Nat := 0
  owner : Option Nat := none
  staged0 : Option Staged := none
  staged1 : Option Staged := none
  retired : Bool := false
  deriving DecidableEq, Repr

end Sys2Proof.Machine
end

