-- ==== Sys2Proof/Machine/Device.lean ====
section
/-!
DEFINITION. The pieces of the state outside the clusters: external memory, ports and functions, sectors and contexts,
error log, audit, security and flash, power and thermal, Keeper and transactions, all plain data.
-/

namespace Sys2Proof.Machine

/-! ### External memory -/

/-- A request at an HBM controller (R343): who asked, for which request, at which device address. -/
structure HbmReq where
  unit : Nat
  req : Nat
  addr : Nat
  len : Nat
  write : Bool
  bytes : List Byte := []
  fog : List Bool := []
  keep : List Byte := []
  rc : Bool := false
  pf : Bool := false
  ctx : Nat := 0
  deriving DecidableEq, Repr

/-- A controller (R358) with its request queue and repeat cache, least recently used first (R344, R345). -/
structure Ctrl where
  pcRetired : Nat := 0
  trained : Bool := false
  retraining : Bool := false
  retired : Bool := false
  ce : Nat := 0
  ue : Nat := 0
  inner : Nat := 0
  errAddr : Nat := 0
  scrubInt : Nat := 16
  passes : Nat := 0
  scrubPos : Nat := 0
  rcHit : Perf := {}
  rcMiss : Perf := {}
  perfRd : Perf := {}
  perfWr : Perf := {}
  quota : Tab Nat := []
  cache : List (Nat × Nat) := []
  queue : List HbmReq := []
  refuge : List Nat := []
  deriving DecidableEq, Repr

/-- A granule (R329, R330): its sector, whether it is withdrawn as refuge space (R527), and, once it has been released, the destroyed key
under which what it holds was enciphered: nothing can use it (R342). -/
structure Granule where
  sector : Option Nat := none
  spent : BitVec 512 := 0
  withdrawn : Bool := false
  deriving DecidableEq, Repr

/-- External memory: bytes, fogged lines, check table, granules and key slots. `mem` are the bytes as they were written, before the code
and the cipher of R336 and R341; `fogLines` the lines whose metadata symbols are 0xA5 (R337); `errs` the symbols of a half-line's
codeword that are in error as stored, each with the bits that differ: symbols 0 to 31 are data, 32 is the metadata, 33 to 35 are check
symbols (R336). `dieErrs` are half-lines that the stack corrects with its on-die ECC when they are read (R335). -/
structure Hbm where
  mem : Mem := []
  fogLines : List Nat := []
  errs : Tab (List (Nat × Byte)) := []
  dieErrs : List Nat := []
  checks : Tab Check := []
  granules : Tab Granule := []
  keys : Tab (BitVec 512) := []
  ctrls : Tab Ctrl := []
  failing : List (Nat × Option Nat) := []
  deriving DecidableEq, Repr

/-- A page request on its way (R352): the context, the engine's unit, the request and the host address. -/
structure PageReq where
  fn : Nat
  ctx : Nat
  unit : Nat
  req : Nat
  va : Nat
  write : Bool := false
  sentAt : Nat
  answer : Option PriCode := none
  deriving DecidableEq, Repr

/-- A cached ATS translation (R351). -/
structure Atc where
  port : Nat
  pasid : Nat
  iova : Nat
  addr : Nat
  w : Bool := false
  deriving DecidableEq, Repr

/-- A snoop sent to a host (R405): `who` is whose access it was sent for, none when the port itself gives the line up; one that is answered
stands until that access has been performed, or the host takes the line again. -/
structure Snoop where
  port : Nat
  line : Nat
  inv : Bool
  sentAt : Nat
  who : Option Nat := none
  answered : Bool := false
  deriving DecidableEq, Repr

/-! ### Ports and functions -/

/-- A port (R381, R411). `hdmMap` are the valid entries of `CX_HDM_MAP`, `hdmIdle` the granule fields of the others,
`hdmPend` the writes of entries that wait until the lines of the entry's granule are invalidated (R405). -/
structure Port where
  rate : Nat := 0
  width : Nat := 0
  cxl : Bool := false
  cacheEn : Bool := false
  memEn : Bool := false
  ideSecure : Bool := false
  ideKeys : Bool := false
  retrains : Nat := 0
  perst : Nat := 0
  flr : Nat := 0
  hot : Nat := 0
  bisnp : Nat := 0
  biTimeout : Nat := 0
  unmapped : Nat := 0
  resetDrop : Nat := 0
  hdmMap : Tab Nat := []
  hdmIdle : Tab Nat := []
  hdmPend : Tab Word := []
  filter : List Nat := []
  memOff : Bool := false
  clkreq : Bool := false
  latchedReset : Bool := false
  deriving DecidableEq, Repr

/-- A fetched command (R388, R391) with what its start has found; `wait` are, for a FENCE, the rings of its function and how far each
had fetched when it was fetched (R398). -/
structure Cmd where
  entry : BitVec 512
  seq : Nat
  started : Bool := false
  done : Bool := false
  status : Nat := 0
  value : Nat := 0
  pos : Nat := 0
  wait : List (Nat × Nat) := []
  heldSince : Option Nat := none
  deriving DecidableEq, Repr

/-- A ring (R385 to R390, R410). `cmds` are the fetched commands D to F - 1; `odd` are the completion entries whose last completion since
`CX_RING_SEQ` was written carries `phase` 1 (R400). -/
structure Ring where
  cmdBase : Nat := 0
  cplBase : Nat := 0
  enable : Bool := false
  size : Nat := 0
  vec : Nat := 0
  shadow : Bool := false
  coalN : Nat := 0
  coalUs : Nat := 0
  intEn : Bool := false
  stalled : Bool := false
  overrun : Bool := false
  stopped : Bool := false
  t : Nat := 0
  f : Nat := 0
  d : Nat := 0
  h : Nat := 0
  odd : List Nat := []
  cmds : List Cmd := []
  unsig : Nat := 0
  coalSince : Option Nat := none
  deriving DecidableEq, Repr

/-- An error mailbox (R402). -/
structure Mbx where
  base : Nat := 0
  enable : Bool := false
  stopped : Bool := false
  size : Nat := 0
  vec : Nat := 0
  wr : Nat := 0
  rd : Nat := 0
  lost : Nat := 0
  deriving DecidableEq, Repr

/-- A function (R383, R410). `noAts` and `noPasid` tell whether its ATS or PASID is disabled (R394; log 155). -/
structure Fn where
  resetSeen : Bool := false
  priFailed : Bool := false
  shadowBase : Nat := 0
  tsp : Bool := false
  noAts : Bool := false
  noPasid : Bool := false
  rings : Tab Ring := []
  mbx : Mbx := {}
  qCluster : Nat := 0
  qScu : Nat := 0
  qQueue : Nat := 0
  msix : Tab Word := []
  msixPending : Nat := 0
  accLogged : Option Nat := none
  deriving DecidableEq, Repr

/-! ### Sectors and contexts -/

/-- A sector (R412) with its attestation state (R488 to R490). -/
structure Sector where
  qx : Nat
  qy : Nat
  qw : Nat
  qh : Nat
  ports : Nat
  granules : List Nat
  sysg : Nat
  imode : Bool
  res : Bool
  groups : List Nat
  spill : Nat
  quota : Nat
  thr : Nat
  limit : Nat
  hostmem : Bool
  debug : Bool
  auditN : Nat
  bootAt : Nat
  serial : BitVec 64
  chain : BitVec 512 := 0
  keyed : Bool := false
  claim : BitVec 256 := 0
  keySes : Option Nat := none
  degraded : Bool := false
  deriving DecidableEq, Repr

/-- The states of a context (R418). -/
inductive CtxState where
  | idle | waiting | running | notResident | failed
  deriving DecidableEq, Repr

/-- An entry of the directory of a scan image (R321): the row of R319, the unit, and the length in bytes. -/
structure ScanPart where
  row : Nat
  unit : Nat
  len : Nat
  deriving DecidableEq, Repr

/-- A scan image (R319, R321): the state of a cluster's parts as they stood, with the program parts when `prog`; `dir` is its directory,
`seed` names the bytes of its parts, `buf` is the 4 KiB page of device memory at which it was written, and `crcBad` that a scan-in has found
its bytes there changed. -/
structure ScanImg where
  cluster : Nat
  context : Nat
  prog : Bool
  epoch : Nat
  boot : Nat
  imageCrc : BitVec 32
  tus : Tab Tu
  mus : Tab Mu
  mcus : Tab Mcu
  vcus : Tab Vcu
  scus : Tab Scu
  sw : Sw
  rounds : Tab Nat
  roots : Tab Comb
  notes : List Msg := []
  quiet : Nat := 0
  dir : List ScanPart := []
  seed : BitVec 512 := 0
  buf : Option Nat := none
  crcBad : Bool := false
  deriving DecidableEq, Repr

/-- The scratchpad of a memory unit as a switch-out copies it (R428): the bank groups copied, their bytes, and the granules of them that are
fogged (R95). -/
structure SavedMu where
  groups : BitVec 8 := 0
  mem : Mem := []
  fog : List Nat := []
  deriving DecidableEq, Repr

/-- A LOAD_PROGRAM that is carried out as a step (R419): its region, place and discard flag. -/
structure LoadReq where
  region : Region
  place : Nat
  disc : Bool
  deriving DecidableEq, Repr

/-- A step pending at a context: the function and ring whose command it is, and what a LOAD_PROGRAM loads. -/
structure Pend where
  fn : Nat
  ring : Nat
  load : Option LoadReq := none
  deriving DecidableEq, Repr

/-- What BIND sets (R396). -/
structure Binding where
  root : Nat
  share : Nat
  turn : Nat
  pasid : Nat
  pasidV : Bool
  deriving DecidableEq, Repr

/-- A context (R417 to R435). `images` (by place x 2,048 + cluster), `scans`, `savedMem` and `savedSpill` are its save area (R419);
`binds` gives the group of the device that each group of its images is bound to (R257). `steps` are its pending steps, first the
one that waits or runs; `granted` is that the dispatcher has given it its footprint, `begun` that the first step has started
(R420, R426), `doubt` that its running step is to be abandoned (R446). `accrued` is the engine time of the current interval already charged (R424), `onTime` the time of the step's earlier
intervals. -/
structure Ctx where
  sector : Nat
  rebind : Option Binding := none
  port : Nat
  fn : Nat
  share : Nat := 1
  turn : Nat := 8
  ptroot : Nat := 0
  pasid : Nat := 0
  pasidV : Bool := false
  v : BitVec 64 := 0
  engine : Nat := 0
  stepEngine : Nat := 0
  state : CtxState := .idle
  status : Nat := 0
  foot : Option Region := none
  program : Bool := false
  place : Nat := 0
  images : Tab Staged := []
  binds : Tab Nat := []
  scans : Tab ScanImg := []
  savedMem : Tab SavedMu := []
  save : Nat := 0
  savedSpill : List SpillRec := []
  steps : List Pend := []
  stepSeq : Nat := 0
  granted : Bool := false
  begun : Bool := false
  intervalFrom : Nat := 0
  accrued : Nat := 0
  onTime : Nat := 0
  lastEnd : Nat := 0
  tearing : Bool := false
  turnExpired : Bool := false
  suspect : Bool := false
  doubt : Bool := false
  deriving DecidableEq, Repr

/-- A queue grant (R492): receiving context, admitted context, and the session it was made in. -/
structure Grant where
  recv : Nat
  admitted : Nat
  ses : Nat
  deriving DecidableEq, Repr

/-! ### Errors -/

/-- An error record (R437). -/
structure ErrRec where
  time : Nat := 0
  boot : Nat := 0
  unit : Nat := 0xFFFF
  sector : Nat := 0
  sv : Bool := false
  cv : Bool := false
  context : Nat := 0
  cls : Nat
  sev : Nat
  opk : Bool := false
  inj : Bool := false
  step : Nat := 0
  op : Nat := 0
  cause : Nat
  status : Nat := 0
  temp : Int := 0
  mv : Nat := 0
  akind : Nat := 0
  addr : Nat := 0
  syndrome : Nat := 0
  rep : Nat := 1
  pcl : Nat := 0
  aux : Nat := 0
  lseq : Nat := 0
  fn : Option Nat := none
  deriving DecidableEq, Repr

/-- Corrected errors of one class and cause at one unit, counted from the first (R439): when the first came, how many further
ones, and the latest. -/
structure CorrRun where
  start : Nat
  count : Nat := 0
  latest : ErrRec
  deriving DecidableEq, Repr

/-- Whether the run is that of a unit, class and cause. -/
def CorrRun.about (c : CorrRun) (unit cls cause : Nat) : Bool := c.latest.unit == unit && c.latest.cls == cls && c.latest.cause == cause

/-- The device log, its collector and the `ERR` block (R458 to R462). -/
structure Err where
  log : Tab ErrRec := []
  wr : Nat := 0
  rd : Nat := 0
  ovf : Nat := 0
  dropped : Nat := 0
  collector : List ErrRec := []
  held : List ErrRec := []
  alert : Bool := false
  halted : Bool := false
  tablesLost : Bool := false
  resets : Nat := 0
  cause : Nat := 0
  again : Nat := 0
  trigCause : Nat := 0
  firstValid : Bool := false
  first : Option ErrRec := none
  injUnit : Nat := 0
  injKind : Nat := 0
  injOffset : Nat := 0
  arm : Bool := false
  coalesce : List CorrRun := []
  resetTimes : List Nat := []
  deriving DecidableEq, Repr

/-- The audit block and the Keeper's audit tables (R468 to R479). -/
structure Aud where
  floor : Nat := 1000
  watchN : Nat := 8
  taken : Nat := 0
  skipped : Nat := 0
  clean : Nat := 0
  mismatch : Nat := 0
  unitBad : Nat := 0
  partnerBad : Nat := 0
  both : Nat := 0
  noThird : Nat := 0
  crcMm : Nat := 0
  watch : Nat := 0
  sect : Tab Nat := []
  samples : List Sample := []
  pending : List Nat := []
  watches : Tab Nat := []
  events : Tab Nat := []
  cleanMarks : Tab Nat := []
  runs : Tab (List (Nat × Nat × Nat × List Nat)) := []
  rot : Tab Nat := []
  reports : List Nat := []
  deriving DecidableEq, Repr

/-! ### Security, identity, flash -/

/-- A firmware slot of the flash (R481). -/
structure FwSlot where
  version : Nat := 0
  svn : Nat := 0
  digest : BitVec 512 := 0
  good : Bool := false
  failed : Bool := false
  deriving DecidableEq, Repr

/-- The module flash: what survives loss of input power (R485, R453). `helper` is the helper data of the PUF (R483), `retired` the
logical clusters that no lightship was left for (R25). -/
structure Flash where
  slotA : FwSlot := { good := true }
  slotB : FwSlot := {}
  inForce : Nat := 0
  trialSlot : Option Nat := none
  floor : Nat := 0
  counter : Nat := 0
  boot : Nat := 0
  grade : Nat := 0
  shipFailed : List Nat := []
  failed : List Nat := []
  consumed : List Nat := []
  pcRetired : List (Nat × Nat) := []
  stacksRetired : List Nat := []
  swaps : Nat := 0
  fwUpdates : Nat := 0
  serial : Nat := 0
  devDigest : BitVec 512 := 0
  helper : BitVec 512 := 0
  retired : List Nat := []
  deriving DecidableEq, Repr

/-- An SPDM session (R487) and where it ends. -/
structure Session where
  id : Nat
  path : SpdmPath
  deriving DecidableEq, Repr

/-- The `SEC` block and the sessions (R487 to R498). `wrapKey` and `recordKey` are the keys in Keeper SRAM that come from the PUF
(R483). -/
structure Sec where
  wrapKey : Option (BitVec 256) := none
  recordKey : Option (BitVec 512) := none
  idOk : Bool := false
  version : Nat := 0
  svn : Nat := 0
  digest : BitVec 512 := 0
  runSlot : Nat := 0
  unlocked : Bool := false
  tokenDigest : BitVec 512 := 0
  perms : Nat := 0
  ttlEnd : Nat := 0
  nonce : Option (BitVec 64) := none
  nonceAt : Nat := 0
  bootMs : Nat := 0
  failStep : Nat := 0
  serialOk : Bool := false
  sessions : List Session := []
  nextSes : Nat := 0
  grants : List Grant := []
  i3cAddr : Option Nat := none
  deriving DecidableEq, Repr

/-! ### Power and thermal -/

/-- The state of a die's supply and temperature (R515), and its frame counter (R213). -/
structure Die where
  tj : Int := 0
  tjHigh : Int := 0
  railLow : Nat := 0
  railWarn : Bool := false
  railDoubt : Bool := false
  frame : Nat := 0
  cyc10 : Nat := 0
  step : Nat := 0
  deriving DecidableEq, Repr

/-- The power manager and the `PWR` block (R499 to R515). `powerStep`, `thermStep` and `supplyStep` are the steps that R501, R512
and R505 set; `change` is a decided step with the time of the decision (R502); `lastDown` and `lastUp` are the last steps of R501,
`supplyUp` the last step back of R507, `hotAt` the last throttle step, `calmFrom` since when every reading is at most 90 degrees. -/
structure Pwr where
  step : Nat := 0
  pausedPower : Bool := false
  pausedThermal : Bool := false
  pausedCool : Bool := false
  powerStep : Nat := 0
  thermStep : Nat := 0
  supplyStep : Nat := 0
  capW : Nat := 680
  maxStep : Nat := 0
  mv : Nat := 0
  da : Nat := 0
  watt : Nat := 0
  peak : Nat := 0
  warn : Nat := 0
  doubt : Nat := 0
  therm : Nat := 0
  cool : Nat := 0
  inWarn : Bool := false
  inDoubt : Bool := false
  change : Option (Nat × Nat) := none
  lastDown : Option Nat := none
  lastUp : Option Nat := none
  supplyUp : Nat := 0
  hotAt : Option Nat := none
  calmFrom : Option Nat := none
  dies : Tab Die := []
  deriving DecidableEq, Repr

/-! ### Keeper and transactions -/

/-- A staged entry of a transaction (R528): a register write, or an operation word. -/
inductive TxnEntry where
  | write (off : Nat) (v : Word)
  | op (w : Word)
  deriving DecidableEq, Repr

/-- The states of `TXN_STATUS` (R534). -/
inductive TxnState where
  | idle | opened | committing
  deriving DecidableEq, Repr

/-- The transaction in progress (R528 to R534). `ops` are the operations of a commit still to run. -/
structure Txn where
  state : TxnState := .idle
  staged : List TxnEntry := []
  status : Nat := 0
  failIdx : Nat := 0
  id : Nat := 0
  addr : Nat := 0
  openedAt : Nat := 0
  ops : List (List Word) := []
  deriving DecidableEq, Repr

/-- The Keeper (R516 to R533, R546). -/
structure Kpr where
  beacon : Nat := 0
  beaconAt : Nat := 0
  restarting : Bool := false
  restartAt : Nat := 0
  trial : Bool := false
  trialAt : Nat := 0
  swapQ : List Nat := []
  retrainStack : Option Nat := none
  failing : Bool := false
  fwResult : Nat := 0
  ueTimes : Tab (List Nat) := []
  beaconDead : Bool := false
  retrainH : Nat := 24
  wrapSel : List ReqSel := []
  wraps : Tab Nat := []
  serial : Nat := 0
  mgmt : BitVec 8 := 1
  timeouts : Nat := 0
  bad : Nat := 0
  badSwap : Tab Nat := []
  deriving DecidableEq, Repr

/-- The physical path of a logical link of a cluster that a swap has moved, and its circuits with it (R217): `way` is 2 x link for the
link away from the cluster, 2 x link + 1 for the one towards it. -/
structure Placed where
  cluster : Nat
  way : Nat
  hops : List (Nat × Nat)
  deriving DecidableEq, Repr

/-! ### Outside the device -/

/-- A register access held under R27, R310 or R326. -/
structure Held where
  who : Requester
  addr : RegAddr
  v : Word
  write : Bool
  since : Nat
  deriving DecidableEq, Repr

/-- What leaves the device (log 5). -/
inductive OutItem where
  /-- a write to host memory by a port; `keep` names, byte by byte, the bits that stay as they are (R89), none when empty -/
  | hostWrite (port : Nat) (addr : Nat) (bytes : List Byte) (keep : List Byte)
  /-- a write to host memory through CXL.cache (R400) -/
  | cacheWrite (port : Nat) (addr : Nat) (bytes : List Byte)
  /-- a zero-length read to order writes (R399) -/
  | zeroRead (port : Nat) (addr : Nat)
  /-- an MSI-X message of a function's vector -/
  | msix (port fn vec : Nat)
  /-- a value returned to a register reader -/
  | readReply (who : Requester) (v : Word)
  /-- a CXL.mem read answer: line offset, data, poison -/
  | memReply (port : Nat) (off : Nat) (bytes : List Byte) (poison : Bool)
  /-- an ATS translation request for a page, for a read or a write -/
  | atsRequest (port : Nat) (pasid : Nat) (va : Nat) (write : Bool)
  /-- a PRI page request, for a read or a write -/
  | pageRequest (port fn : Nat) (pasid : Nat) (va : Nat) (write : Bool)
  /-- a read request to host memory -/
  | hostRead (port : Nat) (addr : Nat) (len : Nat)
  /-- a back-invalidate snoop -/
  | biSnp (port : Nat) (line : Nat) (inv : Bool)
  /-- an ATS invalidation completed -/
  | atsDone (port : Nat) (iova : Nat)
  /-- an SPDM response: request name and whether it was accepted -/
  | spdm (what : String) (accepted : Bool)
  /-- measurement block content -/
  | measurement (index : Nat) (bytes : BitVec 512) (words : List Nat)
  /-- the boot status answered in recovery (R482) -/
  | bootStatus (failStep : Nat)
  /-- the report that a sector is degraded (R25) -/
  | degraded (sector : Nat)
  /-- a request refused by a port as unsupported (R407) -/
  | unsupported (port : Nat)
  deriving DecidableEq, Repr

/-- Where the device stands (R449, R451, R480, R482, R500). -/
inductive Phase where
  | off | booting | ready | resetting | halted | recovery
  deriving DecidableEq, Repr

/-- Supply and reset pins (R500, R556). -/
structure Pins where
  inputOn : Bool := true
  pwren : Bool := true
  rails : Bool := true
  resetN : Bool := true
  thermtrip : Bool := false
  coolFault : Bool := false
  leak : Bool := false
  deriving DecidableEq, Repr

end Sys2Proof.Machine
end

