-- ==== Sys2Proof/Machine/State.lean ====
section
/-!
DEFINITION. The state of the block, its state after reset, and the reasons a step can stop.
-/

namespace Sys2Proof.Machine

/-- The faults of a step. No command of the table faults: what the manual calls an error of a program, of the device
or of its supply is state. The type is closed and has one constructor so that it is inhabited. -/
inductive Fault where
  /-- Raised by nobody: kept for a machine that stops. Safe. -/
  | stopped
  deriving DecidableEq, Repr

/-- The refusals of a step. -/
inductive Refusal where
  /-- Raised by a refused arm of `exec` for a command that has no meaning yet. Safe. -/
  | notModelled (mnemonic : String)
  deriving DecidableEq, Repr

/-- The state of the block. Tables of units are keyed by global unit ID (R30), tables of switches, routers and cluster
control by `cluster_id` (R18), functions by port x 128 + function. `scanImgs` are the scan images that SCAN_OUT has written, by the 4 KiB page
of device memory (R322). `placed` are the physical paths of the links of swapped clusters (R217). -/
structure State where
  pending : List Instr := []
  time : Nat := 0
  phase : Phase := .booting
  trigger : Option Nat := none
  triggerAt : Nat := 0
  pins : Pins := {}
  tus : Tab Tu := []
  mus : Tab Mu := []
  mcus : Tab Mcu := []
  vcus : Tab Vcu := []
  scus : Tab Scu := []
  sws : Tab Sw := []
  rts : Tab Rt := []
  cls : Tab Cl := []
  mesh : Tab Pos := []
  groups : Tab Grp := []
  pmFlush : Nat := 4
  sfs : Tab Sf := []
  remap : Tab Nat := []
  placed : List Placed := []
  quadBad : List Nat := []
  hbm : Hbm := {}
  pageReqs : List PageReq := []
  atc : List Atc := []
  snoops : List Snoop := []
  ports : Tab Port := []
  fns : Tab Fn := []
  sectors : Tab Sector := []
  ctxs : Tab Ctx := []
  err : Err := {}
  aud : Aud := {}
  sec : Sec := {}
  flash : Flash := {}
  pwr : Pwr := {}
  kpr : Kpr := {}
  txn : Txn := {}
  held : List Held := []
  scanImgs : Tab ScanImg := []
  out : List OutItem := []
  fresh : Nat := 0
  deriving DecidableEq, Repr

/-- The machine right after reset: every register at the value of its Reset column (R7), every unit at reset, the boot
of R480 not yet performed, nothing waiting. -/
def State.reset : State := {}

end Sys2Proof.Machine
end

