-- ==== Sys2Proof/Machine/Ops.lean ====
section
/-!
DEFINITION. The shared operations: sparse tables, bit fields, bytes and memories, counters, units by their IDs,
error records, failing a context, latching a device reset, and the passing of device time.
-/

namespace Sys2Proof.Machine

/-- The answer of a step. -/
abbrev Res := Host.Outcome State Fault Refusal

/-! ### Sparse tables -/

/-- The entry of key `i`, or the default `d`. -/
def tabGet {α : Type} (d : α) : Tab α → Nat → α
  | [], _ => d
  | (k, v) :: t, i => if i = k then v else tabGet d t i

/-- Set the entry of key `i`, keeping the keys in ascending order. -/
def tabSet {α : Type} : Tab α → Nat → α → Tab α
  | [], i, v => [(i, v)]
  | (k, w) :: t, i, v =>
    if i = k then (i, v) :: t else if i < k then (i, v) :: (k, w) :: t else (k, w) :: tabSet t i v

/-- Remove key `i`. -/
def tabDel {α : Type} (t : Tab α) (i : Nat) : Tab α := t.filter (fun e => e.1 != i)

/-- The entry of key `i`, if listed. -/
def tabFind {α : Type} : Tab α → Nat → Option α
  | [], _ => none
  | (k, v) :: t, i => if i = k then some v else tabFind t i

/-- Change every listed entry. -/
def tabMap {α : Type} (t : Tab α) (f : Nat → α → α) : Tab α := t.map (fun e => (e.1, f e.1 e.2))

/-! ### Sets of numbers, as ascending lists without repeats -/

/-- Insert a number. -/
def setAdd : List Nat → Nat → List Nat
  | [], i => [i]
  | k :: t, i => if i = k then k :: t else if i < k then i :: k :: t else k :: setAdd t i

/-- Remove a number. -/
def setDel (l : List Nat) (i : Nat) : List Nat := l.filter (fun k => k != i)

/-- Insert the numbers `a` to `a + n - 1`. -/
def setAddRange (l : List Nat) (a : Nat) : Nat → List Nat
  | 0 => l
  | n + 1 => setAdd (setAddRange l a n) (a + n)

/-- Remove the numbers `a` to `a + n - 1`. -/
def setDelRange (l : List Nat) (a n : Nat) : List Nat := l.filter (fun k => ! (decide (a ≤ k) && decide (k < a + n)))

/-! ### Bit fields, sign extension, bytes -/

/-- Bits [hi:lo] of a number. -/
def fld (x hi lo : Nat) : Nat := (x >>> lo) % 2 ^ (hi + 1 - lo)

/-- Bit `i` of a number. -/
def bitOf (x i : Nat) : Bool := x.testBit i

/-- The two's complement value of the low `n` bits. -/
def sext (x n : Nat) : Int :=
  let y := x % 2 ^ n
  if y < 2 ^ (n - 1) then (y : Int) else (y : Int) - (2 ^ n : Nat)

/-- An integer modulo 2^n as a natural number. -/
def wrapInt (x : Int) (n : Nat) : Nat := (x % ((2 ^ n : Nat) : Int)).toNat

/-- A Boolean as 0 or 1. -/
def b2n (b : Bool) : Nat := if b then 1 else 0

/-- The little-endian bytes of a number (R3). -/
def toBytes : Nat → Nat → List Byte
  | 0, _ => []
  | n + 1, x => BitVec.ofNat 8 x :: toBytes n (x / 256)

/-- A word from fields at their lowest bits. -/
def word (l : List (Nat × Nat)) : Nat := l.foldl (fun a e => a + e.2 * 2 ^ e.1) 0

/-- The number little-endian bytes stand for (R3). -/
def ofBytes : List Byte → Nat
  | [] => 0
  | b :: t => b.toNat + 256 * ofBytes t

/-- The list [a, a + 1, ..., a + n - 1]. -/
def upto (a : Nat) : Nat → List Nat
  | 0 => []
  | n + 1 => a :: upto (a + 1) n

/-- Division rounded up; by zero it is zero. -/
def ceilDiv (a b : Nat) : Nat := if b = 0 then 0 else (a + b - 1) / b

/-- Cut a list into pieces of `n` (fuel: the number of pieces at most). -/
def chunks {α : Type} (n : Nat) : Nat → List α → List (List α)
  | 0, _ => []
  | fuel + 1, l => if l.isEmpty then [] else l.take n :: chunks n fuel (l.drop n)

/-- Replace element `i` of a list. -/
def listSet {α : Type} (l : List α) (i : Nat) (v : α) : List α := l.set i v

/-- Remove element `i` of a list. -/
def listDel {α : Type} (l : List α) (i : Nat) : List α := l.eraseIdx i

/-! ### Saturating and wrapping counters -/

/-- A saturating 32-bit counter. -/
def sat32 (n k : Nat) : Nat := min (n + k) 0xFFFFFFFF

/-- A saturating 16-bit counter. -/
def sat16 (n k : Nat) : Nat := min (n + k) 0xFFFF

/-- A performance counter counts `k`: at a wrap of its 48 bits it sets `ovf` and signals the Keeper (R146). -/
def perfAdd (p : Perf) (k : Nat) : Perf :=
  let n := p.count + k
  { count := n % 2 ^ 48, ovf := p.ovf || decide (2 ^ 48 ≤ n), signals := p.signals + n / 2 ^ 48 }

/-- The Keeper takes a counter's signal (R146); none when it has sent none. -/
def Perf.taken (p : Perf) : Option Perf := if p.signals = 0 then none else some { p with signals := p.signals - 1 }

/-! ### Addressed memories (R74, R329): canonical lists of cells -/

/-- The byte at an address; an unlisted address reads as zero (log 14). -/
def memGet : Mem → Nat → Byte
  | [], _ => 0
  | (a, b) :: t, i => if i = a then b else if i < a then 0 else memGet t i

/-- Bytes to be written at an address, where the bits that `keep` names, byte by byte, stay as memory holds them (R38, R89). -/
def keepBits (old : Nat → Byte) (a : Nat) (bytes keep : List Byte) : List Byte :=
  if keep.isEmpty then bytes
  else (bytes.zip (keep.zip (List.range bytes.length))).map (fun (b, k, i) => (b &&& ~~~k) ||| (old (a + i) &&& k))

/-- Write one byte, keeping the canonical form. -/
def memSet : Mem → Nat → Byte → Mem
  | [], i, v => if v = 0 then [] else [(i, v)]
  | (a, b) :: t, i, v =>
    if i = a then (if v = 0 then t else (i, v) :: t)
    else if i < a then (if v = 0 then (a, b) :: t else (i, v) :: (a, b) :: t)
    else (a, b) :: memSet t i v

/-- Read `n` bytes upward from an address. -/
def memRead (m : Mem) (a : Nat) : Nat → List Byte
  | 0 => []
  | n + 1 => memGet m a :: memRead m (a + 1) n

/-- Write bytes upward from an address. -/
def memWrite (m : Mem) (a : Nat) : List Byte → Mem
  | [] => m
  | b :: t => memWrite (memSet m a b) (a + 1) t

/-- Zero the bytes of `n` addresses from `a`. -/
def memZero (m : Mem) (a n : Nat) : Mem := m.filter (fun c => ! (decide (a ≤ c.1) && decide (c.1 < a + n)))

/-- The canonical form: ascending addresses, no zero byte listed. -/
def Memory.wf : Mem → Bool
  | [] => true
  | (a, b) :: t =>
    (b != 0) && (match t with | [] => true | (a', _) :: _ => decide (a < a')) && Memory.wf t

/-! ### CRC-32C (R98, R218; log 15) -/

/-- Eight steps of the reflected CRC-32C. -/
def crcBits : Nat → BitVec 32 → BitVec 32
  | 0, c => c
  | n + 1, c => crcBits n (if c.getLsbD 0 then (c >>> 1) ^^^ 0x82F63B78#32 else c >>> 1)

/-- The CRC register after the bytes. -/
def crcRun (c : BitVec 32) : List Byte → BitVec 32
  | [] => c
  | b :: t => crcRun (crcBits 8 (c ^^^ b.setWidth 32)) t

/-- CRC-32C of a byte string. -/
def crc32c (l : List Byte) : BitVec 32 := ~~~ (crcRun 0xFFFFFFFF#32 l)

/-! ### Units by global unit ID (R28, R30) -/

/-- Global unit ID. -/
def gidOf (cluster idx : Nat) : Nat := cluster * 32 + idx
def muGid (m : MuId) : Nat := gidOf m.cluster.val m.idx.val
def mcuGid (u : McuId) : Nat := gidOf u.cluster.val (12 + u.k.val)
def vcuGid (u : VcuId) : Nat := gidOf u.cluster.val (16 + u.k.val)
def scuGid (u : ScuId) : Nat := gidOf u.cluster.val (20 + u.k.val)
def tuGid (u : TuId) : Nat := gidOf u.cluster.val u.idx.val
def senderGid (u : SenderId) : Nat := gidOf u.cluster.val u.idx.val
def fnKey (f : FnId) : Nat := f.port.val * 128 + f.fn.val

/-- The cluster and the local index of a global unit ID. -/
def clusterOf (gid : Nat) : Nat := gid / 32
def localOf (gid : Nat) : Nat := gid % 32

/-- The local index of the home MU of local unit `i` (R28); an MU is its own. -/
def homeIdx (i : Nat) : Nat := if i < 12 then i else if i < 24 then i - 12 else i

/-- The global unit ID of the home MU of a unit. -/
def homeMu (gid : Nat) : Nat := gidOf (clusterOf gid) (homeIdx (localOf gid))

/-- Die of a logical cluster (R18). -/
def dieOf (c : Nat) : Nat := (c / 64 / 16) * 4 + (c % 64) / 16

/-- The physical cluster of a logical one before any repair or swap: the same place on its die (R21, R22; log 7). -/
def homePhys (c : Nat) : Nat := dieOf c * 272 + (c / 64 % 16) * 16 + c % 16

/-- Quad of a logical cluster (R19). -/
def quadOf (c : Nat) : Nat := (c / 64 / 2) * 32 + (c % 64) / 2

/-- The clusters of a rectangle of quads, row-major over logical positions (R395). -/
def regionClusters (g : Region) : List Nat :=
  (upto (2 * g.qy) (2 * g.qh)).flatMap fun y => (upto (2 * g.qx) (2 * g.qw)).map fun x => y * 64 + x

/-- Whether a logical cluster lies in a rectangle of quads. -/
def inRegion (g : Region) (c : Nat) : Bool :=
  let x := c % 64 / 2
  let y := c / 64 / 2
  decide (g.qx ≤ x) && decide (x < g.qx + g.qw) && decide (g.qy ≤ y) && decide (y < g.qy + g.qh)

/-- Whether two rectangles of quads overlap. -/
def regionsMeet (a b : Region) : Bool :=
  decide (a.qx < b.qx + b.qw) && decide (b.qx < a.qx + a.qw) && decide (a.qy < b.qy + b.qh) && decide (b.qy < a.qy + a.qh)

/-! ### Accessors of the state -/

def State.tu (s : State) (i : Nat) : Tu := tabGet {} s.tus i
def State.setTu (s : State) (i : Nat) (v : Tu) : State := { s with tus := tabSet s.tus i v }
def State.mu (s : State) (i : Nat) : Mu := tabGet {} s.mus i
def State.setMu (s : State) (i : Nat) (v : Mu) : State := { s with mus := tabSet s.mus i v }
def State.mcu (s : State) (i : Nat) : Mcu := tabGet {} s.mcus i
def State.setMcu (s : State) (i : Nat) (v : Mcu) : State := { s with mcus := tabSet s.mcus i v }
def State.vcu (s : State) (i : Nat) : Vcu := tabGet {} s.vcus i
def State.setVcu (s : State) (i : Nat) (v : Vcu) : State := { s with vcus := tabSet s.vcus i v }
def State.scu (s : State) (i : Nat) : Scu := tabGet {} s.scus i
def State.setScu (s : State) (i : Nat) (v : Scu) : State := { s with scus := tabSet s.scus i v }
def State.sw (s : State) (c : Nat) : Sw := tabGet {} s.sws c
def State.setSw (s : State) (c : Nat) (v : Sw) : State := { s with sws := tabSet s.sws c v }
def State.rt (s : State) (c : Nat) : Rt := tabGet {} s.rts c
def State.setRt (s : State) (c : Nat) (v : Rt) : State := { s with rts := tabSet s.rts c v }
def State.cl (s : State) (c : Nat) : Cl := tabGet {} s.cls c
def State.setCl (s : State) (c : Nat) (v : Cl) : State := { s with cls := tabSet s.cls c v }
def State.grp (s : State) (g : Nat) : Grp := tabGet {} s.groups g
def State.setGrp (s : State) (g : Nat) (v : Grp) : State := { s with groups := tabSet s.groups g v }
def State.sf (s : State) (r : Nat) : Sf := tabGet {} s.sfs r
def State.setSf (s : State) (r : Nat) (v : Sf) : State := { s with sfs := tabSet s.sfs r v }
def State.port (s : State) (p : Nat) : Port := tabGet {} s.ports p
def State.setPort (s : State) (p : Nat) (v : Port) : State := { s with ports := tabSet s.ports p v }
def State.fn (s : State) (f : Nat) : Fn := tabGet {} s.fns f
def State.setFn (s : State) (f : Nat) (v : Fn) : State := { s with fns := tabSet s.fns f v }
def State.ctrl (s : State) (n : Nat) : Ctrl := tabGet {} s.hbm.ctrls n
def State.setCtrl (s : State) (n : Nat) (v : Ctrl) : State := { s with hbm := { s.hbm with ctrls := tabSet s.hbm.ctrls n v } }
def State.ctx (s : State) (x : Nat) : Option Ctx := tabFind s.ctxs x
def State.setCtx (s : State) (x : Nat) (v : Ctx) : State := { s with ctxs := tabSet s.ctxs x v }
def State.sector (s : State) (r : Nat) : Option Sector := tabFind s.sectors r
def State.setSector (s : State) (r : Nat) (v : Sector) : State := { s with sectors := tabSet s.sectors r v }
def State.die (s : State) (d : Nat) : Die := tabGet {} s.pwr.dies d
def State.setDie (s : State) (d : Nat) (v : Die) : State := { s with pwr := { s.pwr with dies := tabSet s.pwr.dies d v } }
def State.emit (s : State) (o : OutItem) : State := { s with out := s.out ++ [o] }

/-- A ring of a function, and its replacement. -/
def State.ring (s : State) (f r : Nat) : Ring := tabGet {} (s.fn f).rings r
def State.setRing (s : State) (f r : Nat) (v : Ring) : State :=
  s.setFn f { s.fn f with rings := tabSet (s.fn f).rings r v }

/-- A queue of an SCU, and its replacement. -/
def Scu.queue (u : Scu) (q : Nat) : Queue := tabGet {} u.queues q
def Scu.setQueue (u : Scu) (q : Nat) (v : Queue) : Scu := { u with queues := tabSet u.queues q v }

/-- A slot and a window of an MU, and their replacements. -/
def Mu.slot (m : Mu) (i : Nat) : Slot := tabGet {} m.slots i
def Mu.setSlot (m : Mu) (i : Nat) (v : Slot) : Mu := { m with slots := tabSet m.slots i v }
def Mu.win (m : Mu) (i : Nat) : Win := tabGet {} m.wins i
def Mu.setWin (m : Mu) (i : Nat) (v : Win) : Mu := { m with wins := tabSet m.wins i v }

/-- The value a requester has selected in a selection register (R542). -/
def selOf (l : List ReqSel) (r : Requester) : ReqSel :=
  match l.find? (fun e => e.who == r) with
  | some e => e
  | none => { who := r }

/-- Replace a requester's own selection. -/
def selPut (l : List ReqSel) (e : ReqSel) : List ReqSel := e :: l.filter (fun x => x.who != e.who)

/-! ### Free values -/

/-- Draw a fresh free value (log 6). -/
def State.draw (s : State) : BitVec 512 × State := (Config.freeValue s.fresh, { s with fresh := s.fresh + 1 })

/-! ### Whom a cluster belongs to -/

/-- The rectangle of a sector. -/
def Sector.region (x : Sector) : Region := ⟨x.qx, x.qy, x.qw, x.qh⟩

/-- The sector whose rectangle holds a logical cluster. -/
def State.sectorOf (s : State) (c : Nat) : Option Nat :=
  (s.sectors.find? (fun e => inRegion e.2.region c)).map (·.1)

/-- The context whose state lies on a cluster (R428). -/
def State.ownerOf (s : State) (c : Nat) : Option Nat := (s.cl c).owner

/-- Whether the context whose state lies on a cluster has failed: its units have stopped (R433). -/
def State.ownerFailed (s : State) (c : Nat) : Bool :=
  match (s.ownerOf c).bind s.ctx with
  | some x => x.state == .failed
  | none => false

/-- Whether the context whose state lies on a cluster has a step that is to be abandoned (R446). -/
def State.ownerDoubt (s : State) (c : Nat) : Bool :=
  match (s.ownerOf c).bind s.ctx with
  | some x => x.doubt
  | none => false

/-- Whether units may act: the device is in service, the cluster is not frozen for a scan or loading, and its context has
not failed and runs no step that is to be abandoned (R322, R308, R433, R446, R449). -/
def State.live (s : State) (c : Nat) : Bool :=
  (s.phase == .ready) && ((s.cl c).scan == .running) && !(s.cl c).loading && !(s.ownerFailed c) && !(s.ownerDoubt c)

/-- A unit that holds more than four records which the collector cannot take waits until it has taken one (R459). -/
def State.logWaits (s : State) (g : Nat) : Bool := decide (4 < (s.err.held.filter (·.unit == g)).length)

/-- Whether a unit may act: its cluster may, and no fifth held record makes it wait. -/
def State.acts (s : State) (g : Nat) : Bool := s.live (clusterOf g) && !s.logWaits g

/-- Progress in a region restarts its foghorn's count (R237). -/
def State.progress (s : State) (c : Nat) : State :=
  match s.sectorOf c with
  | some r => s.setSf r { s.sf r with noProg := 0, starvedNow := false }
  | none => s

/-! ### Error records (R436 to R441, R459) -/

/-- A cluster is to be swapped for a lightship (R522). -/
def State.queueSwap (s : State) (c : Nat) : State :=
  if s.kpr.swapQ.contains c then s else { s with kpr := { s.kpr with swapQ := s.kpr.swapQ ++ [c] } }

/-- 24 hours. -/
def dayNs : Nat := 86400000000000

/-- An uncorrectable error in a structure of a cluster that no scrub repairs: the third within 24 hours swaps the cluster (R522). -/
def State.noteUe (s : State) (c : Nat) : State :=
  let l := ((tabGet [] s.kpr.ueTimes c).filter (fun t => decide (s.time ≤ t + dayNs))) ++ [s.time]
  let s : State := { s with kpr := { s.kpr with ueTimes := tabSet s.kpr.ueTimes c l } }
  if 3 ≤ l.length then s.queueSwap c else s

/-- Whether a record tells of an uncorrectable error in accumulators, instruction memories or buffers of a cluster (R522). -/
def ErrRec.unscrubbed (r : ErrRec) : Bool :=
  r.cause == 0x02 && r.unit != 0xFFFF && ((r.cls == 0 && r.akind != 1) || r.cls == 5 || (r.cls == 1 && localOf r.unit == 24))

/-- Change the error block. -/
def State.modErr (s : State) (f : Err → Err) : State := { s with err := f s.err }

/-- A record reaches the collector's buffer of 1,024; a full buffer holds severity 2 and above at its source and drops
the others, which `ERR_DROPPED` counts (R459). A fifth record held at a unit is the one that the unit waits with; what its step writes
besides waits too (DEDUCED, log 110). -/
def Err.collect (e : Err) (r : ErrRec) : Err :=
  if e.collector.length < 1024 then { e with collector := e.collector ++ [r] }
  else if 2 ≤ r.sev then { e with held := e.held ++ [r] }
  else { e with dropped := sat32 e.dropped 1 }

/-- Whether a record tells of an error that a code, a parity bit or a residue has found: the check bits in its syndrome are then those of a
code that the manual does not give (R437, R438; log 154). -/
def ErrRec.coded (r : ErrRec) : Bool := [0x01, 0x02, 0x03].contains r.cause || r.cls == 3

/-- The record of an event at time `t` under boot count `b`. The temperature and the voltage that it carries are measurements, and the
check bits of a code are not stated: a free value `w` (log 6, log 154). -/
def ErrRec.stamp (r : ErrRec) (t b : Nat) (w : BitVec 512) : ErrRec :=
  { r with
    time := t, boot := b, temp := sext (w.toNat % 2 ^ 16) 16, mv := w.toNat / 2 ^ 16 % 2 ^ 16
    syndrome := if r.coded then w.toNat / 2 ^ 32 % 2 ^ 64 else r.syndrome }

/-- Take note of what a record tells of its cluster. -/
def State.noteRec (s : State) (r : ErrRec) : State := if r.unscrubbed then s.noteUe (clusterOf r.unit) else s

/-- The function whose mailbox gets a record: the one its context is bound to when the error comes (R384, R402). -/
def State.fnOf (s : State) (r : ErrRec) : Option Nat :=
  match r.fn with
  | some f => some f
  | none => if r.cv then (s.ctx r.context).map (fun x => x.port * 128 + x.fn) else none

/-- Write a record of an event at time `t` under boot count `b`. -/
def State.recordAt (s : State) (t b : Nat) (r : ErrRec) : State :=
  let q := { r with fn := s.fnOf r }.stamp t b s.draw.1
  (s.draw.2.noteRec q).modErr (fun e => e.collect q)

/-- Whether the error injection of a kind at a unit is armed and still to come, and what follows it (R461). -/
def State.armed (s : State) (kind unit : Nat) : Bool := s.err.arm && s.err.injKind == kind && s.err.injUnit == unit
def State.disarm (s : State) : State := s.modErr (fun e => { e with arm := false })

/-- A record of an event of this time. -/
def State.record (s : State) (r : ErrRec) : State := s.recordAt s.time s.flash.boot r

/-- The sequence of the step that runs in a context; 0 when none (R437). -/
def State.stepOf (s : State) (x : Option Nat) : Nat :=
  match x.bind s.ctx with | some y => if y.state == .running then y.stepSeq % 2 ^ 32 else 0 | none => 0

/-- The physical cluster of a logical one. -/
def State.physOf (s : State) (c : Nat) : Nat := tabGet (homePhys c) s.remap c

/-- A record's fields about a unit: the sector and context of its cluster (R437). -/
def State.aboutUnit (s : State) (gid : Nat) (r : ErrRec) : ErrRec :=
  let c := clusterOf gid
  let x := s.ownerOf c
  { r with
    unit := gid, sector := (s.sectorOf c).getD 0, sv := (s.sectorOf c).isSome,
    cv := x.isSome, context := x.getD 0, step := s.stepOf x, pcl := s.physOf c }

/-- A record about a unit. -/
def State.recordUnit (s : State) (gid : Nat) (r : ErrRec) : State := s.record (s.aboutUnit gid r)

/-- The second of a run of corrected errors is over: one record stands for the further ones (R439). -/
def State.endCorrRun (s : State) (c : CorrRun) : State :=
  let s := s.modErr (fun k => { k with coalesce := k.coalesce.filter (fun x => !x.about c.latest.unit c.latest.cls c.latest.cause) })
  if c.count = 0 then s else s.recordAt (c.start + 1000000000) s.flash.boot { c.latest with rep := c.count }

/-- End a run of corrected errors of a unit, class and cause whose second is over. -/
def State.endOldRun (s : State) (r : ErrRec) : State :=
  match s.err.coalesce.find? (·.about r.unit r.cls r.cause) with
  | some c => if c.start + 1000000000 < s.time then s.endCorrRun c else s
  | none => s

/-- Count a corrected error in its run, or write it and begin a run with it. -/
def State.countCorr (s : State) (r : ErrRec) : State :=
  if s.err.coalesce.any (·.about r.unit r.cls r.cause) then
    s.modErr (fun e => { e with coalesce := e.coalesce.map (fun c =>
      if c.about r.unit r.cls r.cause then { c with count := min (c.count + 1) 65535, latest := r } else c) })
  else (s.record r).modErr (fun e => { e with coalesce := e.coalesce ++ [{ start := s.time, latest := r }] })

/-- A corrected error: the first of its class and cause at a unit is written at once, further ones of the following
second are counted (R439). -/
def State.corrected (s : State) (r : ErrRec) : State :=
  let r : ErrRec := { r with sev := 1, cause := 0x01, fn := s.fnOf r }
  (s.endOldRun r).countCorr r

/-- A context fails: the first status is latched, the context is marked failed and its teardown becomes due, and one
record of severity 3 is written, with the physical cluster of the failing unit (R433, R434, R437, R443). -/
def State.failCtx (s : State) (x : Nat) (status : Nat) (r : ErrRec) : State :=
  match s.ctx x with
  | none => s
  | some c =>
    let s := s.record { r with
      sev := 3, status := status, cv := true, context := x, sector := c.sector, sv := true
      step := if c.state == .running then c.stepSeq % 2 ^ 32 else 0
      pcl := if r.unit = 0xFFFF then r.pcl else s.physOf (clusterOf r.unit) }
    if c.state == .failed then s
    else s.setCtx x { c with state := .failed, status := status, tearing := true }

/-- The context of a unit's cluster fails by a rule broken at run time or by fog (class 5). -/
def State.failUnit (s : State) (gid status cause op : Nat) (scalar : Bool) : State :=
  match s.ownerOf (clusterOf gid) with
  | some x => s.failCtx x status { unit := gid, cls := 5, sev := 3, cause := cause, op := op, opk := scalar }
  | none => s

/-- The `cause` of the record of a reset whose trigger is a code of R448: an uncorrectable error where the trigger does not say more. -/
def resetCause (cause : Nat) : Nat := if cause = 6 then 0x0B else if cause = 7 ∨ cause = 8 then 0x0A else if cause = 9 then 0x0D else 0x02

/-- Latch a device reset trigger (R448, R449): the first trigger stands, a further one restarts the sequence (R452); units stop, the
beacon stops, and no alert falls before the end. -/
def State.latchReset (s : State) (cause : Nat) : State :=
  match s.phase, s.trigger with
  | .ready, none =>
    -- `reset_drop` counts from here on (R7, R406)
    { s with trigger := some cause, triggerAt := s.time, phase := .resetting, ports := tabMap s.ports (fun _ v => { v with resetDrop := 0 }) }
  | .resetting, none => { s with trigger := some cause, triggerAt := s.time }
  | .resetting, some _ | .ready, some _ => s.modErr (fun e => { e with again := e.again + 1 })
  | _, _ => s

/-- Latch a trigger whose reset record has the `cause` `why` (R448). -/
def State.latchAs (s : State) (cause why : Nat) : State :=
  let t := s.latchReset cause
  if s.trigger.isNone && t.trigger.isSome then t.modErr (fun e => { e with trigCause := why }) else t

/-- A parity error in a remap, routing, group or slot table in use (R245, R265, R448). -/
def State.parityReset (s : State) : State := s.latchAs 1 0x03

/-- Whether a context has failed. -/
def State.ctxFailed (s : State) (x : Nat) : Bool := match s.ctx x with | some k => k.state == .failed | none => false

/-- Whether a device reset is in progress, or has left the device out of service (R406, R451). -/
def State.inReset (s : State) : Bool := s.phase == .resetting || s.phase == .halted

/-- `MOD_ALERT_N` is driven low: `alert` is set, a device reset runs or has left the device out of service, or the device is in
recovery (R449, R451, R461, R482). -/
def State.alertLow (s : State) : Bool := s.err.alert || s.inReset || s.phase == .recovery

/-! ### Device time (R510) and the frames of the dies (R213) -/

/-- Array cycles in units of a tenth of a cycle per nanosecond, by clock step code (R502). -/
def clock10 (step : Nat) : Nat :=
  if step = 0 then 30 else if step = 1 then 26 else if step = 2 then 22 else if step = 3 then 18 else 12

/-- Pass `dt` nanoseconds on one die: its frame counter counts frames of 16 array cycles and wraps at 2^32. -/
def Die.pass (d : Die) (dt : Nat) : Die :=
  let t := d.cyc10 + dt * clock10 d.step
  { d with cyc10 := t % 160, frame := (d.frame + t / 160) % 2 ^ 32 }

/-- Pass device time: the dies' frames advance, and the foghorn of every sector counts array cycles (R237). -/
def State.advance (s : State) (dt : Nat) : State :=
  { s with
    time := s.time + dt
    pwr := { s.pwr with dies := (upto 0 8).map (fun d => (d, (s.die d).pass dt)) }
    sfs := s.sfs.map (fun e => (e.1, { e.2 with noProg := e.2.noProg + dt * clock10 s.pwr.step })) }

/-- Move device time on to a deadline, if it has not yet come. -/
def State.advanceTo (s : State) (t : Nat) : State := if s.time < t then s.advance (t - s.time) else s

/-- An idle step: one tick of the time base while input power is on (R500, R509, R510; log 2). -/
def idle (s : State) : State := if s.pins.inputOn then s.advance 1 else s

end Sys2Proof.Machine
end

