-- ==== Sys2Proof/Machine/Fp.lean ====
section
/-!
DEFINITION. Number formats and arithmetic (spec/02): exact values, the converters, MCU products and groups, the exact
accumulator of R166, FP32 operations and block scales.
-/

namespace Sys2Proof.Machine

/-- An exact value: NaN, an infinity, or (-1)^neg x m x 2^e; a zero has m = 0 and keeps its sign. -/
inductive Val where
  | nan
  | inf (neg : Bool)
  | fin (neg : Bool) (m : Nat) (e : Int)
  deriving DecidableEq, Repr

/-! ### Format codes (R36, R37) -/

/-- Bits of an element of a format code; 0 for a reserved code. -/
def fmtBits (f : Nat) : Nat :=
  match f with
  | 0x00 | 0x08 => 32
  | 0x01 | 0x02 | 0x09 | 0x10 => 16
  | 0x03 | 0x04 | 0x0A | 0x0C | 0x11 => 8
  | 0x06 | 0x0B => 4
  | _ => 0

/-- Whether a format may carry a block scale (R36). -/
def fmtScalable (f : Nat) : Bool := f == 0x03 || f == 0x04 || f == 0x06 || f == 0x0A || f == 0x10 || f == 0x11

/-- A floating format. -/
def fmtFloat (f : Nat) : Bool := f == 0 || f == 1 || f == 2 || f == 3 || f == 4 || f == 6
/-- An integer format. -/
def fmtInt (f : Nat) : Bool := f == 8 || f == 9 || f == 0xA || f == 0xB || f == 0xC
/-- A logarithmic format. -/
def fmtLog (f : Nat) : Bool := f == 0x10 || f == 0x11

/-- An element format byte is legal: a defined code, a permitted scale attribute, no reserved bit (R36, R37). -/
def fmtByteOk (b : Nat) : Bool := (fmtBits (b % 32) != 0) && (b / 64 == 0) && (!(bitOf b 5) || fmtScalable (b % 32))

/-- Exponent bits, fraction bits and bias of a floating format. -/
def fmtParams (f : Nat) : Nat × Nat × Int :=
  match f with
  | 0 => (8, 23, 127)
  | 1 => (8, 7, 127)
  | 2 => (5, 10, 15)
  | 3 => (4, 3, 7)
  | 4 => (5, 2, 15)
  | _ => (2, 1, 1)

/-! ### Antilog tables (R50, R51, R52) -/

/-- The largest `u` below 2^bits above `acc` with u^n ≤ target, found bit by bit. -/
def rootBits (n target : Nat) : Nat → Nat → Nat
  | 0, acc => acc
  | b + 1, acc => let u := acc + 2 ^ b; rootBits n target b (if u ^ n ≤ target then u else acc)

/-- 2^(k/256) x 2^w rounded to nearest, for k from 0 to 255. No tie is possible (the value is irrational or whole). -/
def pow256 (k w : Nat) : Nat := (rootBits 256 (2 ^ (k + 256 * (w + 1))) (w + 2) 0 + 1) / 2

/-- Entry k of the 256-entry antilog table, 16 fraction bits (R50). -/
def table256 (k : Nat) : Nat := pow256 k 16 - 65536

/-- The 8-entry L8 antilog table (R51). -/
def table8 (k : Nat) : Nat := ([0x000, 0x173, 0x307, 0x4C0, 0x6A1, 0x8AD, 0xAE9, 0xD58] : List Nat).getD k 0

/-- The linear significand of a log fraction (R52): 2,048 x 2^(f/256) to nearest. -/
def linearSig (f : Nat) : Nat := pow256 f 11

/-! ### Decoding to exact values (R38 to R43, R70) -/

/-- A floating element. -/
def decodeFloat (f x : Nat) : Val :=
  let (eb, mb, bias) := fmtParams f
  let neg := bitOf x (eb + mb)
  let ex := fld x (eb + mb - 1) mb
  let fr := x % 2 ^ mb
  if ex = 2 ^ eb - 1 ∧ (f = 0 ∨ f = 1 ∨ f = 2 ∨ f = 4) then (if fr = 0 then .inf neg else .nan)
  else if f = 3 ∧ ex = 15 ∧ fr = 7 then .nan
  else if ex = 0 then .fin neg fr (1 - bias - mb)
  else .fin neg (2 ^ mb + fr) ((ex : Int) - bias - mb)

/-- An integer element. -/
def decodeInt (f x : Nat) : Int :=
  if f = 0x0C then (x % 256 : Nat) else sext x (fmtBits f)

/-- A log element under R70: the value with the table's significand. -/
def decodeLog (f x : Nat) : Val :=
  if f = 0x11 then
    let q := x % 128
    let neg := bitOf x 7
    if q = 0 then (if neg then .nan else .fin false 0 0)
    else
      let t : Int := (q : Int) - 64
      .fin neg (4096 + table8 (t % 8).toNat) (t / 8 - 12)
  else
    let q := x % 32768
    let neg := bitOf x 15
    if q = 0 then (if neg then .nan else .fin false 0 0)
    else if q = 0x7FFF then .inf neg
    else
      let t : Int := (q : Int) - 16384
      .fin neg (65536 + table256 (t % 256).toNat) (t / 256 - 16)

/-- Multiply by a power of two. -/
def Val.scale (v : Val) (k : Int) : Val :=
  match v with
  | .fin n m e => .fin n m (e + k)
  | v => v

/-- The value of an element of a format, with its E8M0 scale byte (R44, R46); scale 127 is one. -/
def decodeVal (f x scale : Nat) : Val :=
  if scale = 0xFF then .nan
  else
    let v : Val := if fmtLog f then decodeLog f x
      else if fmtInt f then (let i := decodeInt f x; .fin (decide (i < 0)) i.natAbs 0)
      else decodeFloat f x
    v.scale ((scale : Int) - 127)

/-! ### Rounding -/

/-- Round m x 2^e to a multiple of 2^k: to nearest with ties to even, or toward zero. -/
def roundTo (rz : Bool) (m : Nat) (e k : Int) : Nat :=
  if k ≤ e then m * 2 ^ (e - k).toNat
  else
    let d := (k - e).toNat
    let q := m / 2 ^ d
    let r := m % 2 ^ d
    if rz then q
    else if 2 * r > 2 ^ d ∨ (2 * r = 2 ^ d ∧ q % 2 = 1) then q + 1 else q

/-- Round a magnitude into a floating format: the significand, its exponent, whether it stays within the finite range. -/
def roundFloat (f : Nat) (rz : Bool) (m : Nat) (e : Int) : Nat × Int × Bool :=
  let (eb, mb, bias) := fmtParams f
  if m = 0 then (0, 0, true)
  else
    let emin : Int := 1 - bias - mb
    let k := max ((Nat.log2 m : Int) + e - mb) emin
    let q := roundTo rz m e k
    let (q, k) := if q = 2 ^ (mb + 1) then (2 ^ mb, k + 1) else (q, k)
    let emax : Int := (2 ^ eb : Nat) - bias - mb - (if f = 3 ∨ f = 6 then 1 else 2)
    let big := k > emax ∨ (k = emax ∧ f = 3 ∧ q = 2 ^ (mb + 1) - 1)
    (q, k, !(decide big))

/-- The bits of a finite significand and exponent in a floating format. -/
def packFloat (f : Nat) (neg : Bool) (q : Nat) (k : Int) : Nat :=
  let (eb, mb, bias) := fmtParams f
  let mag := if q < 2 ^ mb then q else (k + bias + mb).toNat * 2 ^ mb + (q - 2 ^ mb)
  b2n neg * 2 ^ (eb + mb) + mag

/-- The bits of the largest finite value of a floating format. -/
def maxFinite (f : Nat) (neg : Bool) : Nat :=
  let (eb, mb, _) := fmtParams f
  let mag := if f = 3 then 0x7E else if f = 6 then 7 else (2 ^ eb - 1) * 2 ^ mb - 1
  b2n neg * 2 ^ (eb + mb) + mag

/-- Infinity of a floating format, or what R66 puts in its place. -/
def infBits (f : Nat) (neg : Bool) : Nat :=
  let (eb, mb, _) := fmtParams f
  if f = 3 then (if neg then 0xFF else 0x7F) else if f = 6 then maxFinite 6 neg
  else b2n neg * 2 ^ (eb + mb) + (2 ^ eb - 1) * 2 ^ mb

/-- The canonical NaN of a format, or its value for a NaN input (R69). -/
def nanBits (f : Nat) : Nat :=
  match f with
  | 0 => 0x7FC00000
  | 1 => 0x7FC0
  | 2 => 0x7E00
  | 3 => 0x7F
  | 4 => 0x7E
  | 0x10 => 0x8000
  | 0x11 => 0x80
  | _ => 0

/-- The bounds of an integer format (R68). -/
def intBounds (f : Nat) : Int × Int :=
  if f = 0x0C then (0, 255) else (-(2 ^ (fmtBits f - 1) : Nat), (2 ^ (fmtBits f - 1) : Nat) - 1)

/-- The floor of n x log2 of m x 2^e, exact, for m > 0. -/
def logFloor (n m : Nat) (e : Int) : Int := (Nat.log2 (m ^ n) : Int) + n * e

/-- A converter (R64 to R69): format code, rounding mode 0 to 2; the bits, and whether a finite value was replaced by a
bound (R72). -/
def convert (f mode : Nat) (v : Val) : Nat × Bool :=
  let rz := mode = 1
  match v with
  | .nan => (nanBits f, false)
  | .inf neg =>
    if fmtInt f then (wrapInt (if neg then (intBounds f).1 else (intBounds f).2) (fmtBits f), false)
    else if f = 0x11 then (b2n neg * 128 + 127, false)
    else if f = 0x10 then (if mode = 2 then b2n neg * 32768 + 0x7FFE else b2n neg * 32768 + 0x7FFF, false)
    else (if mode = 2 then maxFinite f neg else infBits f neg, false)
  | .fin neg m e =>
    if fmtInt f then
      let q : Int := roundTo rz m e 0
      let i := if neg then -q else q
      let (lo, hi) := intBounds f
      if i < lo then (wrapInt lo (fmtBits f), true) else if hi < i then (wrapInt hi (fmtBits f), true)
      else (wrapInt i (fmtBits f), false)
    else if fmtLog f then
      let per : Nat := if f = 0x11 then 8 else 256
      let mid : Nat := if f = 0x11 then 64 else 16384
      let top : Nat := if f = 0x11 then 127 else 0x7FFE
      let sgn : Nat := if f = 0x11 then 128 else 32768
      if m = 0 then (0, false)
      else
        let t : Int := if rz then logFloor per m e else (logFloor (2 * per) m e + 1) / 2
        let q := t + mid
        if q < 1 then (0, false)
        else if (top : Int) < q then
          if f = 0x10 ∧ mode = 0 then (b2n neg * sgn + 0x7FFF, true) else (b2n neg * sgn + top, true)
        else (b2n neg * sgn + q.toNat, false)
    else
      let (q, k, ok) := roundFloat f rz m e
      if ok then (packFloat f neg q k, false)
      else if mode = 0 then (infBits f neg, f == 6) else (maxFinite f neg, true)

/-- Round an exact value to FP32, to nearest, ties to even (R156). -/
def round32 (v : Val) : BitVec 32 := BitVec.ofNat 32 (convert 0 0 v).1

/-- The value of an FP32 word. -/
def val32 (x : BitVec 32) : Val := decodeFloat 0 x.toNat

/-! ### Exact arithmetic on values -/

/-- Signed integer at a common exponent. -/
def Val.intAt (neg : Bool) (m : Nat) (e k : Int) : Int := (if neg then -1 else 1) * (m * 2 ^ (e - k).toNat : Nat)

/-- Exact sum, with the zero and infinity rules of IEEE 754 under round to nearest. -/
def Val.add : Val → Val → Val
  | .nan, _ => .nan
  | _, .nan => .nan
  | .inf a, .inf b => if a = b then .inf a else .nan
  | .inf a, _ => .inf a
  | _, .inf b => .inf b
  | .fin n1 m1 e1, .fin n2 m2 e2 =>
    if m1 = 0 ∧ m2 = 0 then .fin (n1 && n2) 0 0
    else
      let k := min e1 e2
      let t := Val.intAt n1 m1 e1 k + Val.intAt n2 m2 e2 k
      .fin (decide (t < 0)) t.natAbs k

/-- Exact product. -/
def Val.mul : Val → Val → Val
  | .nan, _ => .nan
  | _, .nan => .nan
  | .inf a, .inf b => .inf (a ^^ b)
  | .inf a, .fin n m _ => if m = 0 then .nan else .inf (a ^^ n)
  | .fin n m _, .inf b => if m = 0 then .nan else .inf (n ^^ b)
  | .fin n1 m1 e1, .fin n2 m2 e2 => .fin (n1 ^^ n2) (m1 * m2) (e1 + e2)

/-- Negation. -/
def Val.neg : Val → Val
  | .nan => .nan
  | .inf a => .inf (!a)
  | .fin n m e => .fin (!n) m e

/-- Absolute value. -/
def Val.abs : Val → Val
  | .nan => .nan
  | .inf _ => .inf false
  | .fin _ m e => .fin false m e

/-- A quotient carried to 64 bits below the shorter operand with a sticky bit, enough for one FP32 rounding. -/
def Val.div : Val → Val → Val
  | .nan, _ => .nan
  | _, .nan => .nan
  | .inf _, .inf _ => .nan
  | .inf a, .fin n _ _ => .inf (a ^^ n)
  | .fin n _ _, .inf b => .fin (n ^^ b) 0 0
  | .fin n1 m1 e1, .fin n2 m2 e2 =>
    if m2 = 0 then (if m1 = 0 then .nan else .inf (n1 ^^ n2))
    else
      let sh : Nat := 400
      let num := m1 * 2 ^ sh
      .fin (n1 ^^ n2) (2 * (num / m2) + (if num % m2 = 0 then 0 else 1)) (e1 - e2 - (sh : Int) - 1)

/-- A square root carried far below FP32 precision with a sticky bit; negative values give NaN, -0 gives -0 (R157). -/
def Val.sqrt : Val → Val
  | .nan => .nan
  | .inf n => if n then .nan else .inf false
  | .fin n m e =>
    if m = 0 then .fin n 0 0
    else if n then .nan
    else
      let (m, e) := if e % 2 = 0 then (m, e) else (2 * m, e - 1)
      let a := m * 2 ^ 128
      let r := Nat.sqrt a
      .fin false (2 * r + (if r * r = a then 0 else 1)) (e / 2 - 64 - 1)

/-- Order of two values that are not NaN, -0 below +0 (R63, R157). -/
def Val.le : Val → Val → Bool
  | .nan, _ => false
  | _, .nan => false
  | .inf a, .inf b => a || !b
  | .inf a, _ => a
  | _, .inf b => !b
  | .fin n1 m1 e1, .fin n2 m2 e2 =>
    if m1 = 0 ∧ m2 = 0 then n1 || !n2
    else
      let k := min e1 e2
      decide (Val.intAt n1 m1 e1 k ≤ Val.intAt n2 m2 e2 k)

/-- Whether two values that are not NaN are equal as numbers. -/
def Val.eqNum : Val → Val → Bool
  | .inf a, .inf b => a == b
  | .fin n1 m1 e1, .fin n2 m2 e2 =>
    let k := min e1 e2
    decide (Val.intAt n1 m1 e1 k = Val.intAt n2 m2 e2 k)
  | _, _ => false

/-- Strictly below as numbers. -/
def Val.lt (a b : Val) : Bool := a.le b && !(a.eqNum b)

/-- Maximum and minimum with NaN winning (R157). -/
def Val.max (a b : Val) : Val := if a = .nan ∨ b = .nan then .nan else if a.le b then b else a
def Val.min (a b : Val) : Val := if a = .nan ∨ b = .nan then .nan else if a.le b then a else b

/-- Neither NaN nor infinite. -/
def Val.finite : Val → Bool
  | .fin _ _ _ => true
  | _ => false

/-- A zero of either sign. -/
def Val.isZero : Val → Bool
  | .fin _ m _ => m == 0
  | _ => false

/-! ### MCU operands and products (R47 to R53, R60) -/

/-- The internal operand form (R47); a linear significand has 12 bits, a log fraction 8. -/
inductive Oper where
  | nan (neg : Bool)
  | inf (neg : Bool)
  | zero (neg : Bool)
  /-- a zero low piece of a multi-pass operand, which makes every product with it a zero (R60) -/
  | zeroLow (neg : Bool)
  | lin (neg : Bool) (e : Int) (m : Nat)
  | log (neg : Bool) (e : Int) (f : Nat) (l8 : Bool)
  deriving DecidableEq, Repr

/-- Normalise a magnitude to `p` significant bits, rounding to nearest even: significand in [2^(p-1), 2^p) and the
exponent of its leading bit. -/
def normSig (p m : Nat) (e : Int) : Nat × Int :=
  let k : Int := (Nat.log2 m : Int) + e - (p - 1 : Nat)
  let q := roundTo false m e k
  if q = 2 ^ p then (2 ^ (p - 1), k + p) else (q, k + (p - 1 : Nat))

/-- A value as a linear operand; `neg` is the sign of a NaN. -/
def operOfVal (v : Val) (neg : Bool) : Oper :=
  match v with
  | .nan => .nan neg
  | .inf n => .inf n
  | .fin n m e => if m = 0 then .zero n else let (q, x) := normSig 12 m e; .lin n x q

/-- The sign bit of an element; UINT8 has none. -/
def signOf (f x : Nat) : Bool := f != 0x0C && bitOf x (fmtBits f - 1)

/-- Decode an element with its block scale to the internal form (R48), for every format but FP32 and INT32. -/
def decodeOper (f x scale : Nat) : Oper :=
  if scale = 0xFF then .nan (signOf f x)
  else
    let sh : Int := (scale : Int) - 127
    if f = 0x11 then
      let q := x % 128
      let neg := bitOf x 7
      if q = 0 then (if neg then .nan true else .zero false)
      else let t : Int := (q : Int) - 64; .log neg (t / 8 + sh) ((t % 8).toNat * 32) true
    else if f = 0x10 then
      let q := x % 32768
      let neg := bitOf x 15
      if q = 0 then (if neg then .nan true else .zero false)
      else if q = 0x7FFF then .inf neg
      else let t : Int := (q : Int) - 16384; .log neg (t / 256 + sh) (t % 256).toNat false
    else operOfVal (decodeVal f x scale) (signOf f x)

/-- The two pieces, high then low, of an FP32 or INT32 operand (R60). -/
def pieces (f x : Nat) : Oper × Oper :=
  match decodeVal f x 127 with
  | .nan => (.nan (bitOf x 31), .zeroLow (bitOf x 31))
  | .inf n => (.inf n, .zeroLow n)
  | .fin n m e =>
    if m = 0 then (.zero n, .zeroLow n)
    else
      let (q, ex) := normSig 24 m e
      let lo := q % 4096
      (.lin n ex (q / 4096), if lo = 0 then .zeroLow n else let (l, le) := normSig 12 lo (ex - 23); .lin n le l)

/-- A product: its magnitude M with 2^23 ≤ M < 2^24 and exponent X, value M x 2^(X - 23). -/
inductive Prod where
  | nan
  | inf (neg : Bool)
  | zero (neg : Bool)
  | fin (neg : Bool) (m : Nat) (x : Int)
  deriving DecidableEq, Repr

/-- The sign of an operand; that of a NaN counts only beside a zero low piece (R60). -/
def Oper.neg : Oper → Bool
  | .nan n => n
  | .inf n => n
  | .zero n => n
  | .zeroLow n => n
  | .lin n _ _ => n
  | .log n _ _ _ => n

/-- The linear form of a finite non-zero operand (R52). -/
def Oper.linear : Oper → Int × Nat
  | .lin _ e m => (e, m)
  | .log _ e f _ => (e, linearSig f)
  | _ => (0, 2048)

/-- The product of two operands (R49 to R53). -/
def product (a b : Oper) : Prod :=
  let s := a.neg ^^ b.neg
  match a, b with
  | .zeroLow _, _ => .zero s
  | _, .zeroLow _ => .zero s
  | .nan _, _ => .nan
  | _, .nan _ => .nan
  | .inf _, .zero _ => .nan
  | .zero _, .inf _ => .nan
  | .inf _, _ => .inf s
  | _, .inf _ => .inf s
  | .zero _, _ => .zero s
  | _, .zero _ => .zero s
  | .log _ ea fa la, .log _ eb fb lb =>
    let f := fa + fb
    let (f, e) := if 256 ≤ f then (f - 256, ea + eb + 1) else (f, ea + eb)
    if la && lb then .fin s ((4096 + table8 (f / 32)) * 2 ^ 11) e
    else .fin s ((65536 + table256 f) * 2 ^ 7) e
  | a, b =>
    let (ea, ma) := a.linear
    let (eb, mb) := b.linear
    let p := ma * mb
    if 2 ^ 23 ≤ p then .fin s p (ea + eb + 1) else .fin s (2 * p) (ea + eb)

/-! ### Accumulation (R55 to R58) -/

/-- Add a group of at most 16 products into an FP32 accumulator (R56, R57). -/
def groupAdd (acc : BitVec 32) (ps : List Prod) : BitVec 32 :=
  let v := val32 acc
  let nan32 : BitVec 32 := 0x7FC00000
  let infs := ps.filterMap (fun p => match p with | .inf n => some n | _ => none)
  let fins := ps.filterMap (fun p => match p with | .fin n m x => some (n, m, x) | _ => none)
  if v = .nan then nan32
  else if ps.any (· == .nan) || (infs.any id && infs.any (!·)) then nan32
  else match infs with
    | n :: _ => if v = .inf (!n) then nan32 else round32 (.inf n)
    | [] =>
      match fins with
      | [] => round32 (v.add (.fin (ps.all (· == .zero true) && !ps.isEmpty) 0 0))
      | (_, _, x0) :: t =>
        let xmax := t.foldl (fun a p => max a p.2.2) x0
        let g : Int := fins.foldl (fun a p =>
          let d := p.2.2 - xmax + 3
          let mag : Nat := if 0 ≤ d then p.2.1 * 2 ^ d.toNat else p.2.1 / 2 ^ (-d).toNat
          if p.1 then a - mag else a + mag) 0
        round32 (v.add (.fin (decide (g < 0)) g.natAbs (xmax - 26)))

/-! ### The exact accumulator (R166) -/

/-- Add a value. -/
def Acc.add (a : Acc) (v : Val) : Acc :=
  match v with
  | .nan => { a with nan := true, any := true, notNegZero := true }
  | .inf n => { a with pinf := a.pinf || !n, ninf := a.ninf || n, any := true, notNegZero := true }
  | .fin n m e =>
    { a with sum := a.sum + Val.intAt n m e (-149), any := true, notNegZero := a.notNegZero || !(n && m == 0) }

/-- Merge two accumulators (R261). -/
def Acc.merge (a b : Acc) : Acc :=
  { sum := a.sum + b.sum, nan := a.nan || b.nan, pinf := a.pinf || b.pinf, ninf := a.ninf || b.ninf,
    any := a.any || b.any, notNegZero := a.notNegZero || b.notNegZero }

/-- The exact value the accumulator stands for. -/
def Acc.val (a : Acc) : Val :=
  if a.nan || (a.pinf && a.ninf) then .nan
  else if a.pinf then .inf false
  else if a.ninf then .inf true
  else if a.sum = 0 then .fin (a.any && !a.notNegZero) 0 0
  else .fin (decide (a.sum < 0)) a.sum.natAbs (-149)

/-- Add an integer to the wrapping 64-bit accumulator (R166, R206). -/
def Acc.addInt (a : Acc) (i : Int) : Acc := { a with sum := sext (wrapInt (a.sum + i) 64) 64, any := true, notNegZero := true }

/-- The value of an integer accumulator. -/
def Acc.intVal (a : Acc) : Val := .fin (decide (a.sum < 0)) a.sum.natAbs 0

/-! ### Block-scaled outputs (R71) -/

/-- e_max of an element format. -/
def eMax (f : Nat) : Int := if f = 3 then 8 else if f = 4 then 15 else if f = 6 then 2 else if f = 0xA then 6 else if f = 0x11 then 7 else 63

/-- The scale byte of a block of values. -/
def blockScale (f : Nat) (vs : List Val) : Nat :=
  if vs.any (· == .nan) then 0xFF
  else if vs.any (fun v => !v.finite) then 0xFE
  else
    let logs := vs.filterMap (fun v => match v with | .fin _ m e => if m = 0 then none else some ((Nat.log2 m : Int) + e) | _ => none)
    match logs with
    | [] => 0x7F
    | a :: t => (max 0 (min 0xFE (t.foldl max a - eMax f + 127))).toNat

/-- The bits of elements under a block scale, and whether any of them saturated (R71). -/
def scaledElements (f mode sc : Nat) (vs : List Val) : List Nat × Bool :=
  if sc = 0xFF then (vs.map (fun _ => 0), false)
  else
    let cs := vs.map (fun v => convert f mode (v.scale (127 - (sc : Int))))
    (cs.map (·.1), cs.any (·.2))

/-- The element bits of a block under its scale, and whether any element saturated. -/
def blockElements (f mode : Nat) (vs : List Val) : Nat × List Nat × Bool :=
  let sc := blockScale f vs
  (sc, scaledElements f mode sc vs)

end Sys2Proof.Machine
end

