-- ==== Sys2Proof/Machine/Scratch.lean ====
section
/-!
DEFINITION. Access to a scratchpad (spec/03): range and configuration store, bank groups, SECDED words, fog granules, the
check store, dense blocks, zeroization.
-/

namespace Sys2Proof.Machine

/-- Bytes of a scratchpad (R74). -/
def scratchBytes : Nat := 0x300000

/-- The first byte of the configuration store by size code (R110); no store for code 0. -/
def cfgBase (size : Nat) : Nat := if size = 1 then 0x2C0000 else if size = 2 then 0x280000 else scratchBytes

/-- A range lies in the scratchpad outside the configuration store. An empty range touches nothing (R9). -/
def Mu.rangeOk (m : Mu) (off n : Nat) : Bool := n == 0 || decide (off + n ≤ cfgBase m.cfgStore)

/-- Bank group of an offset (R74). -/
def groupOf (off : Nat) : Nat := off / 0x60000

/-- The bank groups that a range touches, as a mask. -/
def groupsOf (off n : Nat) : BitVec 8 :=
  if n = 0 then 0
  else (upto 0 8).foldl (fun a g => if groupOf off ≤ g ∧ g ≤ groupOf (off + n - 1) then a ||| (1#8 <<< g) else a) 0

/-- Bank groups of a range that are off and must wake first (R109). -/
def Mu.asleep (m : Mu) (off n : Nat) : BitVec 8 := groupsOf off n &&& ~~~ m.powered

/-- Begin the wake of every powered-down group of a range (R109). -/
def Mu.wake (m : Mu) (off n : Nat) : Mu := { m with waking := m.waking ||| m.asleep off n }

/-- The same for several ranges. -/
def Mu.asleepAll (m : Mu) (l : List (Nat × Nat)) : BitVec 8 := l.foldl (fun a e => a ||| m.asleep e.1 e.2) 0
def Mu.wakeAll (m : Mu) (l : List (Nat × Nat)) : Mu := { m with waking := m.waking ||| m.asleepAll l }

/-- Word and granule indices of a range. -/
def inWords (off n w : Nat) : Bool := decide (0 < n) && decide (off / 8 ≤ w) && decide (w ≤ (off + n - 1) / 8)
def inGranules (off n g : Nat) : Bool := decide (0 < n) && decide (off / 64 ≤ g) && decide (g ≤ (off + n - 1) / 64)

/-- Whether any byte of a range lies in a fogged granule (R95). -/
def Mu.fogAt (m : Mu) (off n : Nat) : Bool := m.fog.any (inGranules off n)

/-- What the stored codes of a set of words do when they are read (R94, R96): corrected words are written back and
counted, uncorrectable words fog their granules, and a corrupt fog tag starts a device reset. -/
def State.readWords (s : State) (gid : Nat) (sel : Nat → Bool) : State :=
  let m := s.mu gid
  let ce := m.ceWords.filter sel
  let ue := m.ueWords.filter sel
  let m' := { m with
    ceWords := m.ceWords.filter (fun w => !sel w)
    ceCount := sat32 m.ceCount ce.length
    fog := ue.foldl (fun l w => setAdd l (w / 8)) m.fog
    ueCount := sat32 m.ueCount ue.length
    errAddr := match ue.getLast? with | some w => w * 8 | none => m.errAddr }
  let s := s.setMu gid m'
  let s := ce.foldl (fun s w => s.corrected (s.aboutUnit gid { cls := 0, sev := 1, cause := 0x01, akind := 1, addr := w * 8 })) s
  let s := ue.foldl (fun s w => s.recordUnit gid { cls := 0, sev := 2, cause := 0x02, akind := 1, addr := w * 8, inj := m.injWords.contains w }) s
  if m.fogBad.any (fun g => (upto (g * 8) 8).any sel) then s.latchReset 2 else s

/-- The reads of a byte range. -/
def State.touchRead (s : State) (gid off n : Nat) : State :=
  let s := s.readWords gid (inWords off n)
  if (s.mu gid).fogBad.any (inGranules off n) then s.latchReset 2 else s

/-- Blocks of 4 KiB become unchecked (R99). -/
def Mu.uncheck (m : Mu) (off n : Nat) : Mu :=
  if n = 0 then m
  else { m with checks := m.checks.filter (fun e => !(decide (off / 4096 ≤ e.1) && decide (e.1 ≤ (off + n - 1) / 4096))) }

/-- One write of consecutive bytes (R94, R95). Words written in part are read, merged and rewritten. `fog` marks fogged bytes:
a granule that takes a fogged byte is fogged, a granule written whole without fog is cleared. -/
def State.muWrite (s : State) (gid off : Nat) (bytes : List Byte) (fog : List Bool) : State :=
  let n := bytes.length
  if n = 0 then s
  else
    let s := s.readWords gid (fun w => inWords off n w && !(decide (off ≤ w * 8) && decide (w * 8 + 8 ≤ off + n)))
    let m := s.mu gid
    let granules := upto (off / 64) ((off + n - 1) / 64 - off / 64 + 1)
    let fogged := fun g => (upto 0 n).any (fun i => decide ((off + i) / 64 = g) && fog.getD i false)
    let fog' := granules.foldl (fun l g =>
      if fogged g then setAdd l g
      else if off ≤ g * 64 ∧ g * 64 + 64 ≤ off + n then setDel l g else l) m.fog
    s.setMu gid { m with
      mem := memWrite m.mem off bytes
      fog := fog'
      ceWords := m.ceWords.filter (fun w => !inWords off n w)
      ueWords := m.ueWords.filter (fun w => !inWords off n w)
      injWords := m.injWords.filter (fun w => !inWords off n w) }

/-- A write that is not dense: the blocks it touches become unchecked (R99). -/
def State.muWritePlain (s : State) (gid off : Nat) (bytes : List Byte) (fog : List Bool) : State :=
  let s := s.muWrite gid off bytes fog
  s.setMu gid ((s.mu gid).uncheck off bytes.length)

/-- Zeroization (R111): powered bytes outside the configuration store, fog, checks, slot states. -/
def Mu.zeroize (m : Mu) : Mu :=
  let top := cfgBase m.cfgStore
  { m with
    mem := m.mem.filter (fun c => !(decide (c.1 < top) && m.powered.getLsbD (groupOf c.1)))
    fog := []
    fogBad := []
    ceWords := m.ceWords.filter (fun w => decide (top ≤ w * 8))
    ueWords := m.ueWords.filter (fun w => decide (top ≤ w * 8))
    injWords := m.injWords.filter (fun w => decide (top ≤ w * 8))
    checks := []
    slots := tabMap m.slots (fun _ v => { v with state := .empty, started := 0, completed := 0 }) }

end Sys2Proof.Machine
end

