-- ==== Sys2Proof/Machine/Queue.lean ====
section
/-!
DEFINITION. Message queues (spec/06): ring placement, headers, combining, the checks of R200 and what a sender learns.
-/

namespace Sys2Proof.Machine

/-! ### Elements as bytes (R38) -/

/-- Element bit patterns as bytes; 4-bit elements are packed two to a byte, the lower index in the low half. -/
def packEls (bits : Nat) : List Nat → List Byte
  | [] => []
  | [a] => if bits = 4 then [BitVec.ofNat 8 (a % 16)] else toBytes (bits / 8) a
  | a :: b :: t =>
    if bits = 4 then BitVec.ofNat 8 (a % 16 + 16 * (b % 16)) :: packEls bits t
    else toBytes (bits / 8) a ++ packEls bits (b :: t)

/-- The first `n` element bit patterns of a byte string. -/
def unpackEls (bits : Nat) (l : List Byte) : Nat → List Nat
  | 0 => []
  | n + 1 =>
    if bits = 4 then
      (upto 0 (n + 1)).map (fun i => (((l.getD (i / 2) 0).toNat) >>> (4 * (i % 2))) % 16)
    else ofBytes (l.take (bits / 8)) :: unpackEls bits (l.drop (bits / 8)) n

/-! ### Rings (R193 to R197) -/

/-- Ring bytes by size code (R193); 0 for a reserved code. -/
def ringBytes (code : Nat) : Nat := if 1 ≤ code ∧ code ≤ 9 then 4096 * 2 ^ (code - 1) else 0

/-- A length rounded up to a multiple of 64. -/
def up64 (n : Nat) : Nat := (n + 63) / 64 * 64

/-- Free space of a ring (R193). -/
def Queue.free (q : Queue) : Nat :=
  let size := ringBytes q.size
  if q.wp = q.rp then size - 64 else (q.rp + 2 * size - q.wp - 64) % size

/-- The rows of the table of R196. -/
inductive Placing where
  | oversize
  | atWp
  | atZero
  | withPad
  | holdBack
  deriving DecidableEq, Repr

/-- Where a message of `len` bytes with header goes (R196). -/
def Queue.placing (q : Queue) (len : Nat) : Placing :=
  let size := ringBytes q.size
  let len' := up64 len
  if size < len + 64 then .oversize
  else if len' ≤ size - q.wp ∧ len' ≤ q.free then .atWp
  else if q.wp = q.rp ∧ size - q.wp < len' then .atZero
  else if q.wp ≠ q.rp ∧ size - q.wp < len' ∧ (size - q.wp) + len' ≤ q.free then .withPad
  else .holdBack

/-- A ring message header (R194). -/
def ringHeader (length sender ctx seq tag : Nat) (pad fog comb : Bool) : Nat :=
  length % 2 ^ 16 + sender % 2 ^ 16 * 2 ^ 16 + ctx % 2 ^ 12 * 2 ^ 32 + seq % 2 ^ 16 * 2 ^ 48 + tag % 2 ^ 8 * 2 ^ 64
    + b2n pad * 2 ^ 72 + b2n fog * 2 ^ 73 + b2n comb * 2 ^ 74

/-- What a ring takes in: a message or a combining result. -/
structure RingMsg where
  payload : List Byte
  fog : Bool
  sender : Nat
  ctx : Nat
  tag : Nat
  comb : Bool
  deriving DecidableEq, Repr

/-- The ranges of the home MU that a placement writes (offset, length), the header of a PAD record among them; none when it writes
nothing. -/
def Queue.placeRanges (q : Queue) (len : Nat) : List (Nat × Nat) :=
  match q.placing len with
  | .atWp => [(q.base + q.wp, len)]
  | .atZero => [(q.base, len)]
  | .withPad => [(q.base + q.wp, 16), (q.base, len)]
  | .oversize | .holdBack => []

/-- Place a message in a ring that has room (R195, R196): the queue's new pointers and the home MU's bytes. The header
fields of a PAD record other than `pad` are zero (log 17). -/
def State.ringPlace (s : State) (mu : Nat) (q : Queue) (m : RingMsg) : State × Queue :=
  let len := 16 + m.payload.length
  let hdr := toBytes 16 (ringHeader len m.sender m.ctx q.seq m.tag false m.fog m.comb)
  let bytes := hdr ++ m.payload
  let fogs := List.replicate 16 false ++ List.replicate m.payload.length m.fog
  let size := ringBytes q.size
  match q.placing len with
  | .atWp =>
    (s.muWritePlain mu (q.base + q.wp) bytes fogs, { q with wp := (q.wp + up64 len) % size, seq := (q.seq + 1) % 65536 })
  | .atZero =>
    (s.muWritePlain mu q.base bytes fogs, { q with rp := 0, wp := up64 len % size, seq := (q.seq + 1) % 65536 })
  | .withPad =>
    let s := s.muWritePlain mu (q.base + q.wp) (toBytes 16 (ringHeader 0 0 0 0 0 true false false)) []
    (s.muWritePlain mu q.base bytes fogs, { q with wp := up64 len % size, seq := (q.seq + 1) % 65536 })
  | _ => (s, q)

/-- Whether a write of `rp` is legal (R197): a multiple of 64 between `rp` and `wp` in ring order. -/
def Queue.rpOk (q : Queue) (v : Nat) : Bool :=
  let size := ringBytes q.size
  (v % 64 == 0) && decide (v < size) && decide ((v + size - q.rp) % size ≤ (q.wp + size - q.rp) % size)

/-- A queue in ring or combining mode. -/
def Queue.isRing (q : Queue) : Bool := q.mode == .ring || q.mode == .combining

/-- Whether a queue holds an entry or a message. -/
def Queue.holds (q : Queue) : Bool := if q.isRing then q.wp != q.rp else !q.entries.isEmpty

/-- Ready for `qsel` (R203): it holds something, or is closed and empty. -/
def Queue.ready (q : Queue) : Bool := q.holds || !q.opened

/-- Close a queue (R202): a combining queue discards its partial sums. -/
def Queue.close (q : Queue) : Queue :=
  if q.mode = .off then q
  else if q.mode = .combining then { q with opened := false, accs := [], senders := [], combFog := false, result := none }
  else { q with opened := false }

/-! ### Combining (R205 to R207) -/

/-- Bytes of a contribution. -/
def Queue.contribBytes (q : Queue) : Nat := q.nElem * (fmtBits q.cfmt / 8)

/-- Add a contribution's elements (R206). -/
def Queue.addContribution (q : Queue) (payload : List Byte) : List Acc :=
  let els := unpackEls (fmtBits q.cfmt) payload q.nElem
  (upto 0 q.nElem).map (fun i =>
    let a := q.accs.getD i {}
    let x := els.getD i 0
    if fmtInt q.cfmt then a.addInt (decodeInt q.cfmt x) else a.add (decodeFloat q.cfmt x))

/-- The result of a complete round: each element rounded once into the output format (R206). -/
def Queue.combResult (q : Queue) (accs : List Acc) : List Byte :=
  packEls (fmtBits q.ofmt) (accs.map (fun a => (convert q.ofmt q.rmode (if fmtInt q.cfmt then a.intVal else a.val)).1))

/-- Place a held result if the ring has room, and begin the next round (R207). -/
def State.placeResult (s : State) (mu : Nat) (q : Queue) : State × Queue :=
  match q.result with
  | none => (s, q)
  | some r =>
    let m : RingMsg := { payload := r.payload, fog := r.fog, sender := r.sender, ctx := r.ctx, tag := 0, comb := true }
    match q.placing (16 + r.payload.length) with
    | .holdBack => (s, q)
    | .oversize => (s, q)
    | _ => s.ringPlace mu { q with result := none, accs := [], senders := [], combFog := false } m

/-! ### The checks of R200 -/

/-- The outcome of a message at its receiver. -/
inductive MsgOutcome where
  | accepted
  | refused (status : Nat)
  | senderFails (status cause : Nat)
  | held
  deriving DecidableEq, Repr

/-- Status codes (R442). -/
def stOK : Nat := 0x0000
def stNotRun : Nat := 0x0001
def stContextFault : Nat := 0x0002
def stFoggedOutput : Nat := 0x0003
def stVoltageDoubt : Nat := 0x0004
def stTimeout : Nat := 0x0005
def stOverflow : Nat := 0x0006
def stVerifyReject : Nat := 0x0007
def stSpillExhausted : Nat := 0x0008
def stQueueClosed : Nat := 0x0009
def stWindowClosed : Nat := 0x000A
def stPageFault : Nat := 0x000B
def stSdcSuspect : Nat := 0x000C
def stDeviceReset : Nat := 0x000D
def stSlotEmpty : Nat := 0x000E
def stStaleToken : Nat := 0x000F
def stRegionNotQuiet : Nat := 0x0010
def stOversize : Nat := 0x0011
def stFoggedControl : Nat := 0x0012

/-- Whether a payload fits a queue, by its mode (R200). -/
def Queue.fits (q : Queue) (n : Nat) : MsgOutcome :=
  match q.mode with
  | .register => if n ≤ 8 then .accepted else .refused stOversize
  | .ring => if q.placing (16 + n) = .oversize then .refused stOversize else .accepted
  | .combining => if n = q.contribBytes then .accepted else .senderFails stContextFault 0x07
  | .off => .refused stQueueClosed

/-- Whether there is space, and for a combining queue a contributor not yet counted (R200, R207). -/
def Queue.space (q : Queue) (n sender : Nat) : Bool :=
  match q.mode with
  | .register => decide (q.entries.length < 32)
  | .ring => q.placing (16 + n) != .holdBack
  | .combining => q.result.isNone && !q.senders.contains sender
  | .off => false

/-- The outcome of a message at a queue whose context is `own` (R200). -/
def Queue.check (q : Queue) (own : Option Nat) (m : Msg) : MsgOutcome :=
  if q.mode = .off ∨ q.opened = false then .refused stQueueClosed
  else if !(own == some m.ctx || (q.otherOk && q.otherCtx == m.ctx)) then .senderFails stContextFault 0x07
  else if m.fog && own != some m.ctx then .senderFails stFoggedOutput 0x05
  else match q.fits m.payload.length with
    | .accepted => if q.space m.payload.length m.sender then .accepted else .held
    | o => o

/-- What an accepted message does to its queue and, for rings, to the home MU (R191, R192, R196, R206). -/
def State.accept (s : State) (scu : Nat) (m : Msg) : State :=
  let mu := homeMu scu
  let u := s.scu scu
  let q := u.queue m.queue
  match q.mode with
  | .register =>
    let e : QEntry := { data := BitVec.ofNat 64 (ofBytes m.payload), tag := m.tag, fog := m.fog }
    s.setScu scu (u.setQueue m.queue { q with entries := q.entries ++ [e] })
  | .ring =>
    let (s, q) := s.ringPlace mu q { payload := m.payload, fog := m.fog, sender := m.sender, ctx := m.ctx, tag := m.tag, comb := false }
    s.setScu scu ((s.scu scu).setQueue m.queue q)
  | .combining =>
    let accs := q.addContribution m.payload
    let senders := q.senders ++ [m.sender]
    let fog := q.combFog || m.fog
    if senders.length < q.contrib then
      s.setScu scu (u.setQueue m.queue { q with accs := accs, senders := senders, combFog := fog })
    else
      let r : HeldResult := { payload := q.combResult accs, fog := fog, sender := m.sender, ctx := m.ctx }
      let (s, q) := s.placeResult mu { q with accs := accs, senders := senders, combFog := fog, result := some r }
      s.setScu scu ((s.scu scu).setQueue m.queue q)
  | .off => s

/-- Bytes of a combining result with its header. -/
def Queue.resultLen (q : Queue) : Nat := 16 + q.nElem * (fmtBits q.ofmt / 8)

/-- The ranges of the home MU that a message writes now: none when it is not accepted, or is a contribution that does not complete its
round. -/
def State.acceptRanges (s : State) (scu : Nat) (m : Msg) : List (Nat × Nat) :=
  let q := (s.scu scu).queue m.queue
  match q.check (s.ownerOf (clusterOf scu)) m with
  | .accepted =>
    (match q.mode with
    | .ring => q.placeRanges (16 + m.payload.length)
    | .combining => if q.senders.length + 1 < q.contrib then [] else q.placeRanges q.resultLen
    | _ => [])
  | _ => []

/-- The opcode that sent a message from a unit, and whether it is a scalar one: QSEND of a tensor unit, `qsend` of a scalar unit; none for a
message that no instruction sent (R437). -/
def sendOp (g : Nat) : Nat × Bool := if localOf g < 20 then (0x50, false) else if localOf g < 24 then (0x32, true) else (0, false)

/-- The context of a message's sender fails (R200, R201). -/
def State.failSender (s : State) (m : Msg) (status cause : Nat) : State :=
  s.failCtx m.ctx status { unit := m.sender, cls := 5, sev := 3, cause := cause, op := (sendOp m.sender).1, opk := (sendOp m.sender).2 }

/-- Offer a message to its receiving SCU: the outcome, and the state after it (R200). A context that a row makes fail
fails at once (R433). -/
def State.offer (s : State) (m : Msg) : State × MsgOutcome :=
  let u := s.scu m.unit
  match (u.queue m.queue).check (s.ownerOf (clusterOf m.unit)) m with
  | .accepted => ((s.accept m.unit m).progress (clusterOf m.unit), .accepted)
  | .senderFails st ca => (s.failSender m st ca, .senderFails st ca)
  | o => (s, o)

/-! ### What a sender learns (R199, R201) -/

/-- The send buffer of a unit (local index 0 to 19 in a tensor unit, 20 to 23 in an SCU). -/
def State.sendBuf (s : State) (gid : Nat) : List SendEntry :=
  if localOf gid < 20 then (s.tu gid).send else (s.scu gid).send
def State.setSendBuf (s : State) (gid : Nat) (l : List SendEntry) : State :=
  if localOf gid < 20 then s.setTu gid { s.tu gid with send := l } else s.setScu gid { s.scu gid with send := l }

/-- The index of the first entry, in state `st`, of a message to a queue. -/
def findEntry (l : List SendEntry) (unit queue : Nat) (st : SendState) : Option Nat :=
  l.findIdx? (fun e => e.msg.unit == unit && e.msg.queue == queue && e.state == st)

/-- A refusal reaches the send status of an SCU; the context fails when the message's `fou` is set (R201). -/
def State.sendRefused (s : State) (gid : Nat) (e : SendEntry) (status : Nat) : State :=
  let scu := gidOf (clusterOf gid) e.scu
  let u := s.scu scu
  let s := s.setScu scu { u with lastStatus := status, lastUnit := e.msg.unit, lastQueue := e.msg.queue, undeliv := sat32 u.undeliv 1 }
  if e.msg.fou then s.failSender e.msg status 0x0C else s

/-! ### Addresses and issue queues shared by scalar and tensor instructions -/

/-- Whether a queue address and tag may be sent to (R189, R192); local indices 26 to 31 are treated under R31. -/
def State.addrOk (s : State) (unit queue tag : Nat) : Bool :=
  let l := localOf unit
  if 20 ≤ l ∧ l ≤ 23 then !(tag == 0xFF && ((s.scu unit).queue queue).mode == .register) else decide (26 ≤ l)

/-- The issue queue of local index `i` of a cluster: a tensor unit's, or the stream switch's for 24 (R182). -/
def State.issueQ (s : State) (c i : Nat) : List Issued := if i = 24 then (s.sw c).iq else (s.tu (gidOf c i)).iq
def State.setIssueQ (s : State) (c i : Nat) (l : List Issued) : State :=
  if i = 24 then s.setSw c { s.sw c with iq := l } else s.setTu (gidOf c i) { s.tu (gidOf c i) with iq := l }

end Sys2Proof.Machine
end

