-- ==== Sys2Proof/Machine/Mesh.lean ====
section
/-!
DEFINITION. The packet mesh (spec/08): positions and routes, injection, forwarding flit by flit, ejection and discards.
-/

namespace Sys2Proof.Machine

/-! ### Positions (R21, R247) -/

/-- Mesh position of a physical cluster. -/
def posOfPhys (p : Nat) : Nat × Nat := ((p / 272 % 4) * 16 + p % 16, (p / 272 / 4) * 17 + p % 272 / 16)

/-- Physical cluster at a mesh position. -/
def physAt (px py : Nat) : Nat := (py / 17 * 4 + px / 16) * 272 + (py % 17) * 16 + px % 16

/-- Mesh position of a logical cluster. -/
def State.posOf (s : State) (c : Nat) : Nat × Nat := posOfPhys (s.physOf c)

/-- The logical cluster assigned to a mesh position, if any. -/
def State.logicalAt (s : State) (px py : Nat) : Option Nat :=
  let p := physAt px py
  match s.remap.find? (fun e => e.2 == p) with
  | some e => some e.1
  | none =>
    let d := p / 272
    let row := p % 272 / 16
    if row = 16 then none
    else
      let c := (d / 4 * 16 + row) * 64 + (d % 4) * 16 + p % 16
      if homePhys c = p ∧ (tabFind s.remap c).isNone then some c else none

/-- Key of a position in the mesh table, of an input buffer, and of an output link's class. -/
def posKey (px py : Nat) : Nat := py * 64 + px
def bufKey (side cls : Nat) : Nat := side * 6 + cls
def State.pos (s : State) (k : Nat) : Pos := tabGet {} s.mesh k
def State.setPos (s : State) (k : Nat) (v : Pos) : State := { s with mesh := tabSet s.mesh k v }
def Pos.buf (p : Pos) (k : Nat) : List MFlit := tabGet [] p.bufs k

/-! ### Routes (R249, R257) -/

/-- The output side toward a position, X first: 0 north, 1 east, 2 south, 3 west, 4 the local port. -/
def sideTo (here there : Nat × Nat) : Nat :=
  if here.1 < there.1 then 1 else if there.1 < here.1 then 3
  else if here.2 < there.2 then 2 else if there.2 < here.2 then 0 else 4

/-- The neighbour on a side. -/
def neighbour (p : Nat × Nat) (side : Nat) : Nat × Nat :=
  match side with
  | 0 => (p.1, p.2 - 1) | 1 => (p.1 + 1, p.2) | 2 => (p.1, p.2 + 1) | 3 => (p.1 - 1, p.2) | _ => p

/-- The input side at which a flit sent out of a side arrives. -/
def farSide (side : Nat) : Nat := match side with | 0 => 2 | 1 => 3 | 2 => 0 | 3 => 1 | n => n

/-- Whether the X-first route from `a` to `b` passes position `p`. -/
def onRoute (a b p : Nat × Nat) : Bool :=
  (p.2 == a.2 && ((decide (a.1 ≤ p.1) && decide (p.1 ≤ b.1)) || (decide (b.1 ≤ p.1) && decide (p.1 ≤ a.1))))
    || (p.1 == b.1 && ((decide (a.2 ≤ p.2) && decide (p.2 ≤ b.2)) || (decide (b.2 ≤ p.2) && decide (p.2 ≤ a.2))))

/-- Fields of a group definition (R267). -/
def Grp.valid (g : Grp) : Bool := bitOf g.ctl.toNat 0
def Grp.sector (g : Grp) : Nat := fld g.ctl.toNat 6 1
def Grp.owner (g : Grp) : Nat := fld g.ctl.toNat 18 7
def Grp.root (g : Grp) : Nat := fld g.ctl.toNat 29 19
def Grp.rslots (g : Grp) : Nat := fld g.ctl.toNat 35 30
def Grp.contribs (g : Grp) : Nat := fld g.ctl.toNat 47 36
def Grp.elems (g : Grp) : Nat := fld g.ctl.toNat 57 48
def Grp.ofmt (g : Grp) : Nat := fld g.ctl.toNat 62 58
def Grp.wide (g : Grp) : Bool := bitOf g.ctl.toNat 63

/-- Whether a packet merges at every router of its way (R261). -/
def Packet.merges (p : Packet) : Bool :=
  match p.body with
  | .contribution _ _ _ _ _ _ => true
  | .partialSum _ _ _ _ _ _ => true
  | _ => false

/-- The cluster that a packet is addressed to; with `mc` the root of its group. -/
def State.target (s : State) (p : Packet) : Nat := if p.mc then (s.grp p.dest).root else clusterOf p.dest

/-- The position that a packet goes to: that to which its source has translated its cluster (R249). -/
def State.goal (s : State) (p : Packet) : Nat × Nat := p.at_.getD (s.posOf (s.target p))

/-- The output sides of a packet's flit at a position (R249, R258, R261): the local port where it merges; the branches of
the multicast tree once it has met the root; the route otherwise. `input` is the side it came in by. -/
def State.outSides (s : State) (here : Nat × Nat) (input : Nat) (p : Packet) : List Nat :=
  let root := s.goal p
  if p.mc && (p.atRoot || here == root) then
    (upto 0 5).filter (fun o => (s.grp p.dest).members.any (fun m => onRoute root (s.posOf m) here && sideTo here (s.posOf m) == o))
  else if p.mc then [sideTo here root]
  else
    let there := s.goal p
    if p.merges && input != 4 && (s.logicalAt here.1 here.2).isSome then [4] else [sideTo here there]

/-! ### Sending packets -/

/-- A packet waits at its cluster's router. -/
def State.sendPacket (s : State) (c : Nat) (p : Packet) : State := s.setRt c { s.rt c with outbox := (s.rt c).outbox ++ [p] }

/-- The header of a packet as it leaves cluster `c`: an injection that is armed at its router makes it uncorrectable, with two copies of `ctx`
agreeing, and clears `arm` (R461). -/
def State.breakHeader (s : State) (c : Nat) (p : Packet) : State × Packet :=
  if s.err.arm && s.err.injKind == 4 && clusterOf s.err.injUnit == c then (s.disarm, { p with hdr := .badInjected }) else (s, p)

/-- What waits in an inbox: a message for SCU `g`, an outcome, a window write or a write acknowledgement for unit `g`, a round advance. -/
def Packet.isMessage (p : Packet) (g : Nat) : Bool := match p.body with | .message m => m.unit == g | _ => false
def Packet.isOutcome (p : Packet) (g : Nat) : Bool := p.dest == g && (match p.body with | .outcome _ _ _ _ => true | _ => false)
def Packet.isWindowWrite (p : Packet) (g : Nat) : Bool := p.dest == g && (match p.body with | .windowWrite _ _ _ _ _ _ _ _ => true | _ => false)
def Packet.isWriteAck (p : Packet) (g : Nat) : Bool := p.dest == g && (match p.body with | .writeAck _ _ => true | _ => false)
def Packet.isAdvance (p : Packet) : Bool := match p.body with | .roundAdvance _ _ => true | _ => false

/-- Whether a packet is one that a program sends: a message or a window write. -/
def Packet.isProgram (p : Packet) : Bool := match p.body with | .message _ => true | .windowWrite _ _ _ _ _ _ _ _ => true | _ => false

/-- Take the first packet of a cluster's inbox that satisfies `f`. -/
def State.takeInbox (s : State) (c : Nat) (f : Packet → Bool) : Option (Packet × State) :=
  let r := s.rt c
  match r.inbox.findIdx? f with
  | none => none
  | some i => (r.inbox[i]?).map (fun p => (p, s.setRt c { r with inbox := listDel r.inbox i }))

/-- Flits of a packet with `n` payload bytes: 40 in the first, 64 in each later one (R250). -/
def flitCount (n : Nat) : Nat := if n ≤ 40 then 1 else 1 + ceilDiv (n - 40) 64

/-- Kind code of what a packet carries (R250); the outcome of a message is an acknowledgement, and a new round a register access (R367). -/
def Body.kind : Body → Nat
  | .message _ => 0
  | .windowWrite .. => 1
  | .readRequest _ => 2
  | .readData .. => 3
  | .writeAck .. => 4
  | .outcome .. => 4
  | .contribution .. => 6
  | .partialSum .. => 7
  | .roundAdvance .. => 9
  | .regAccess .. => 9

/-- The 192 bits of a packet's header (R250); the manual gives no layout of the kind's own fields in `args`. -/
def Packet.header (p : Packet) (args : Nat) : Nat :=
  word [(0, p.dest % 2 ^ 16), (16, b2n p.mc), (17, p.cls % 8), (20, p.body.kind), (24, p.flits % 128), (32, p.src % 2 ^ 16), (48, p.ctx % 2 ^ 12),
    (60, p.ctx % 2 ^ 12), (72, p.ctx % 2 ^ 12), (88, args % 2 ^ 104)]

/-- Class of a message by its priority; a P0 message of more than 40 B travels as P1 (R251, R255). -/
def msgClass (m : Msg) : Nat := if m.prio = 0 ∧ 40 < m.payload.length then 3 else 2 + m.prio

/-- The packet of a message. -/
def msgPacket (m : Msg) : Packet :=
  { dest := m.unit, cls := msgClass m, flits := flitCount m.payload.length, src := m.sender, ctx := m.ctx, body := .message m }

/-- What a record of a packet says of its source: the unit, and the opcode of the instruction that made it (R437). -/
def Packet.sent (p : Packet) : ErrRec :=
  let o := match p.body with
    | .message m => sendOp m.sender
    | .windowWrite _ _ _ right _ _ _ _ => (if right = 1 then 0x04 else 0x02, false)
    | .contribution _ _ _ _ _ _ => (0x0A, false)
    | _ => (0, false)
  { unit := p.src, cls := 5, sev := 3, cause := 0x07, op := o.1, opk := o.2 }

/-- The send entry that may leave first: waiting, and first in the buffer for its queue (R199). -/
def sendable (l : List SendEntry) (i : Nat) : Bool :=
  match l[i]? with
  | none => false
  | some e => e.state == .waiting && !((l.take i).any (fun x => x.msg.unit == e.msg.unit && x.msg.queue == e.msg.queue))

/-- Whether the Keeper is swapping a cluster: it is the first of its die that waits for a swap (R523, R525). -/
def State.swapping (s : State) (c : Nat) : Bool := s.kpr.swapQ.find? (fun k => dieOf k == dieOf c) == some c

/-- Whether a cluster is frozen for a scan (R322). -/
def State.frozenAt (s : State) (c : Nat) : Bool := (s.cl c).scan == .frozen || (s.cl c).scan == .moving

/-- The clusters that a packet goes to. -/
def State.targets (s : State) (p : Packet) : List Nat := if p.mc then s.target p :: (s.grp p.dest).members else [s.target p]

/-- Whether source routers hold a packet: a cluster that it goes to is being swapped or is frozen for a scan (R249, R326). -/
def State.heldAtSource (s : State) (p : Packet) : Bool := (s.targets p).any (fun c => s.swapping c || s.frozenAt c)

/-- Whether a packet to a cluster is on its way, or one of its own is only partly in the mesh, or one that merges there has come in part. -/
def State.underWay (s : State) (c : Nat) : Bool :=
  !(s.rt c).inj.isEmpty || (upto 24 6).any (fun k => (tabFind (s.pos (posKey (s.posOf c).1 (s.posOf c).2)).locks k).isSome) || s.rts.any (fun e => e.2.inj.any (fun i => (s.targets i.2.2).contains c))
    || s.mesh.any (fun e => e.2.bufs.any (fun b => b.2.any (fun f => (s.targets f.pkt).contains c)))

/-- Whether a router may admit a packet now: no other of its class is being injected, its source does not hold it, and a P0 flit comes
at least 64 mesh cycles, 32 ns, after the last (R255). -/
def State.admits (s : State) (c : Nat) (p : Packet) : Bool :=
  let r := s.rt c
  (tabFind r.inj p.cls).isNone && !s.heldAtSource p
    && !(p.cls == 2 && (match r.lastP0 with | some t => decide (s.time < t + 32) | none => false))

/-- Begin to inject a packet: its destination is translated (R249). -/
def State.beginInject (s : State) (c : Nat) (p : Packet) : State :=
  let (s, p) := s.breakHeader c { p with at_ := some (s.posOf (s.target p)) }
  let r := s.rt c
  s.setRt c { r with inj := tabSet r.inj p.cls (0, p), lastP0 := if p.cls = 2 then some s.time else r.lastP0 }

/-- Start the injection of candidate `n` of a cluster: 8 x unit + entry for a send buffer entry of local index 0 to 23,
192 and above for a packet in the router's outbox (R199, R255). A cluster that is frozen or being swapped, or whose context has failed, sends
nothing of its units (R447); a multicast packet of another context than the group's fails it (R258); a parity error in the router's copy of
the remap causes a device reset (R265). -/
def State.startInjection (s : State) (c n : Nat) : State :=
  let r := s.rt c
  if r.tblBad then s.parityReset
  else if n < 192 then
    let gid := gidOf c (n / 8)
    let l := s.sendBuf gid
    match l[n % 8]? with
    | none => s
    | some e =>
      let p := msgPacket e.msg
      if !sendable l (n % 8) || !s.admits c p || s.swapping c || s.frozenAt c || s.ownerFailed c then s
      else
        let s := (s.setSendBuf gid (l.set (n % 8) { e with state := .sent })).beginInject c p
        let r := s.rt c
        s.setRt c { r with p0Demote := if e.msg.prio = 0 ∧ p.cls ≠ 2 then sat32 r.p0Demote 1 else r.p0Demote }
  else
    match r.outbox[n - 192]? with
    | none => s
    | some p =>
      if p.mc && p.isProgram && p.ctx ≠ (s.grp p.dest).owner then
        (s.setRt c { r with outbox := listDel r.outbox (n - 192) }).failCtx p.ctx stContextFault p.sent
      else if !s.admits c p || (r.outbox.take (n - 192)).any (fun q => q.cls == p.cls && q.src == p.src && q.dest == p.dest) then s
      else (s.setRt c { r with outbox := listDel r.outbox (n - 192) }).beginInject c p

/-- Move as many flits of the packet in injection in a class as the router's local input buffer takes (R252). -/
def State.continueInjection (s : State) (c cls : Nat) : State :=
  match tabFind (s.rt c).inj cls with
  | none => s
  | some (k, p) =>
    let at_ := s.posOf c
    let key := posKey at_.1 at_.2
    let q := s.pos key
    let b := q.buf (bufKey 4 cls)
    let n := min (8 - b.length) (p.flits - k)
    let s := s.setPos key { q with bufs := tabSet q.bufs (bufKey 4 cls) (b ++ (upto k n).map (fun i => { pkt := p, idx := i })) }
    let r := s.rt c
    s.setRt c { r with inj := if k + n = p.flits then tabDel r.inj cls else tabSet r.inj cls (k + n, p) }

/-! ### Ejection (R31, R106, R258) -/

/-- The status that a writer or sender gets back, as a response packet. -/
def State.reply (s : State) (c : Nat) (from_ to_ : Nat) (ctx : Nat) (b : Body) : State :=
  s.sendPacket c { dest := to_, cls := 1, src := from_, ctx := ctx, body := b }

/-- Count a discard at a cluster's router. -/
def State.discard (s : State) (c : Nat) : State := s.setRt c { s.rt c with discard := sat32 (s.rt c).discard 1 }

/-- The outcome of a notify message of router `c` (R199, R262): one held back is offered again, one refused fails its context
when its queue address sets `fou`. -/
def State.noteOutcome (s : State) (c queue unit status : Nat) (heldBack : Bool) : State :=
  let r := s.rt c
  match r.notes.find? (fun m => m.unit == unit && m.queue == queue) with
  | none => s
  | some m =>
    if heldBack then s.sendPacket c (msgPacket m)
    else
      let s := s.setRt c { r with notes := r.notes.erase m }
      if status ≠ 0 ∧ m.fou then s.failCtx m.ctx status { unit := m.sender, cls := 5, sev := 3, cause := 0x0C } else s

/-- A packet reaches the local port of cluster `c` (R31, R106): packets to no unit are discarded with the outcome their
kind names, the others wait in the inbox. -/
def State.eject (s : State) (c : Nat) (p : Packet) : State :=
  let body := if p.mc then
      (match p.body with | .message m => Body.message { m with unit := gidOf c (localOf m.unit) } | b => b)
    else p.body
  let l := match body with | .message m => localOf m.unit | _ => if p.mc then p.at_local else localOf p.dest
  let bad := p.sent
  if p.void then s
  else match body with
  | .regAccess _ w _ =>
    if 28 ≤ l then (if w then s.discard c else (s.discard c).reply c p.dest p.src p.ctx (.readData 0 (toBytes 8 0) false))
    else s.setRt c { s.rt c with inbox := (s.rt c).inbox ++ [p] }
  | .message m =>
    if 26 ≤ l then (s.discard c).reply c p.dest p.src p.ctx (.outcome m.queue m.unit 0x0009 false)
    else s.setRt c { s.rt c with inbox := (s.rt c).inbox ++ [{ p with body := body }] }
  | .outcome queue unit status heldBack =>
    if l = 25 then s.noteOutcome c queue unit status heldBack
    else if 26 ≤ l then (s.discard c).failCtx p.ctx 0x0002 bad
    else s.setRt c { s.rt c with inbox := (s.rt c).inbox ++ [p] }
  | .windowWrite _ _ _ _ _ _ _ _ =>
    if 12 ≤ l then (s.discard c).failCtx p.ctx 0x0002 bad
    else s.setRt c { s.rt c with inbox := (s.rt c).inbox ++ [{ p with dest := gidOf c l, mc := false }] }
  | _ =>
    if 26 ≤ l && !p.mc && !p.merges then (s.discard c).failCtx p.ctx 0x0002 bad
    else s.setRt c { s.rt c with inbox := (s.rt c).inbox ++ [p] }

/-- The packets of a kind go nowhere from now on: those that wait at a router are taken out, those in the mesh are void. -/
def State.voidPackets (s : State) (gone : Packet → Bool) : State :=
  let mark := fun (p : Packet) => if gone p then { p with void := true } else p
  { s with
    rts := tabMap s.rts (fun _ r => { r with
      inj := tabMap r.inj (fun _ e => (e.1, mark e.2)), outbox := r.outbox.filter (fun p => !gone p), inbox := r.inbox.filter (fun p => !gone p)
      waited := r.waited && (match r.inbox.find? Packet.merges with | some p => !gone p | none => false) })
    mesh := tabMap s.mesh (fun _ q => { q with bufs := tabMap q.bufs (fun _ l => l.map (fun f => { f with pkt := mark f.pkt })) }) }

/-- Packets under way that a discard of what clusters `cs` hold takes with it: messages that a unit there has sent, whose outcome
it awaits, and outcomes on their way there (R306, R307, R433; DEDUCED, log 37). They go nowhere from then on. -/
def State.voidMessages (s : State) (cs : List Nat) : State :=
  s.voidPackets (fun p => match p.body with
    | .message m => cs.contains (clusterOf m.sender)
    | .outcome _ _ _ _ => cs.contains (clusterOf p.dest) && localOf p.dest != 25
    | _ => false)

/-- The shares of a group that are under way, and the acknowledgements of its blocks, go nowhere once the group is freed (R264). -/
def State.voidShares (s : State) (g : Nat) : State :=
  s.voidPackets (fun p => match p.body with
    | .contribution k _ _ _ _ _ | .partialSum k _ _ _ _ _ | .roundAdvance k _ => k == g
    | .writeAck k _ => localOf p.dest == 25 && k == g
    | _ => false)

/-- Count a flit's or an accumulator's error at a cluster's router (R266). -/
def State.countEcc (s : State) (c : Nat) (ce ue : Bool) : State :=
  if !ce && !ue then s
  else
    let r := s.rt c
    s.setRt c { r with ce := sat32 r.ce (b2n ce), ue := sat32 r.ue (b2n ue) }

/-- A word of a flit or of an accumulator in error is counted, with the record of each (R265, R266, R436). -/
def State.eccError (s : State) (c : Nat) (ce ue : Bool) : State :=
  let s := s.countEcc c ce ue
  let s := if ce then s.corrected (s.aboutUnit (gidOf c 25) { cls := 1, sev := 1, cause := 0x01 }) else s
  if ue then s.recordUnit (gidOf c 25) { cls := 1, sev := 2, cause := 0x02 } else s

/-- A header word found uncorrectable (R265): the packet is discarded and recorded; its context fails where two copies of
`ctx` agree, else a device reset follows. -/
def State.badHeader (s : State) (c : Option Nat) (p : Packet) : State :=
  let s := match c with | some c => (s.discard c).countEcc c false true | none => s
  match p.hdr with
  | .badAgree => s.failCtx p.ctx 0x0012 { p.sent with cls := 1, sev := 3, cause := 0x02 }
  | .badInjected => s.failCtx p.ctx 0x0012 { p.sent with cls := 1, sev := 3, cause := 0x02, inj := true }
  | _ => (s.record { unit := p.src, cls := 1, sev := 4, cause := 0x02 }).latchReset 5

/-- Whether a packet carries fog. -/
def Packet.fogged (p : Packet) : Bool :=
  match p.body with
  | .message m => m.fog
  | .windowWrite _ _ _ _ _ _ fog _ | .readData _ _ fog | .contribution _ _ _ _ _ fog | .partialSum _ _ _ _ _ fog => fog
  | _ => false

/-- A packet a flit of which was fogged on the way (R265). -/
def Packet.addFog (p : Packet) : Packet :=
  { p with body := match p.body with
    | .message m => .message { m with fog := true }
    | .windowWrite w e o r b k _ q => .windowWrite w e o r b k true q
    | .readData q b _ => .readData q b true
    | .contribution g r b f v _ => .contribution g r b f v true
    | .partialSum g r b a n _ => .partialSum g r b a n true
    | b => b }

/-- Flits of a class that one turn of an output link's rotation lets through (R252); P0 stands outside it. -/
def classShare (cls : Nat) : Nat := match cls with | 0 | 1 | 3 => 4 | 4 => 2 | _ => 1

/-- The output sides that the flit at the head of an input buffer takes, when all of them are free for its packet and have a credit
(R252, R258); none otherwise. -/
def State.readySides (s : State) (px py side cls : Nat) : List Nat :=
  let here := (px, py)
  let q := s.pos (posKey px py)
  match q.buf (bufKey side cls) with
  | [] => []
  | f :: _ =>
    let outs := s.outSides here side f.pkt
    let free := fun o =>
      let owner := match tabFind q.locks (bufKey o cls) with | some i => i == side | none => f.idx == 0
      let far := neighbour here o
      owner && (o == 4 || decide (((s.pos (posKey far.1 far.2)).buf (bufKey (farSide o) cls)).length < 8))
    if f.pkt.hdr = .good ∧ outs.all free then outs else []

/-- Whether a flit of class `cls` is ready for output link `o` of a position. -/
def State.readyFor (s : State) (px py o cls : Nat) : Bool := (upto 0 5).any (fun side => (s.readySides px py side cls).contains o)

/-- Whether class `cls` may use output link `o` now (R252): a ready P0 flit goes first; a class that has had its share waits while
another that has not is ready. -/
def State.turnOf (s : State) (px py o cls : Nat) : Bool :=
  let q := s.pos (posKey px py)
  let spent := fun k => tabGet 0 q.spent (bufKey o k)
  cls == 2 || (!s.readyFor px py o 2
    && (decide (spent cls < classShare cls) || !([0, 1, 3, 4, 5].any (fun k => k != cls && decide (spent k < classShare k) && s.readyFor px py o k))))

/-- The rotation of an output link after a flit of class `cls`: a class beyond its share begins a new turn. -/
def Pos.spend (q : Pos) (o cls : Nat) : Tab Nat :=
  if cls = 2 then q.spent
  else
    let n := tabGet 0 q.spent (bufKey o cls)
    if n < classShare cls then tabSet q.spent (bufKey o cls) (n + 1)
    else tabSet ((upto 0 6).foldl (fun t k => tabDel t (bufKey o k)) q.spent) (bufKey o cls) 1

/-- A flit leaves by the local port of cluster `c`: with the last of its packet the packet has arrived, fogged if a flit of it was. -/
def State.flitOut (s : State) (c key : Nat) (f : MFlit) (last : Bool) : State :=
  let r := s.rt c
  let fog := f.ue || r.fogIn.contains key
  let s := s.setRt c { r with fogIn := if fog && !last then setAdd r.fogIn key else setDel r.fogIn key }
  if last then s.eject c (if fog then f.pkt.addFog else f.pkt) else s

/-- The flit at the head of an input buffer has gone on: the router of the cluster there counts it, its errors and its fog (R266). -/
def State.passed (s : State) (c cls n : Nat) (f : MFlit) : State :=
  let s := s.eccError c f.ce f.ue
  let r := s.rt c
  s.setRt c { r with
    fogSeen := r.fogSeen || f.ue || f.pkt.fogged
    perf := if n = 0 then r.perf else tabSet r.perf cls (perfAdd (tabGet {} r.perf cls) n) }

/-- Move the flit at the head of an input buffer to every branch, or discard what has come of a packet whose header is uncorrectable; the rest
of it is void from then on, and follows it, when each output is free for its packet, has a credit, and it is the
turn of its class (R252, R258). A parity error in the tables that route it causes a device reset (R265). -/
def State.hop (s : State) (px py side cls : Nat) : State :=
  let here := (px, py)
  let key := posKey px py
  let q := s.pos key
  match q.buf (bufKey side cls) with
  | [] => s
  | f :: rest =>
    let logical := s.logicalAt px py
    if f.pkt.hdr ≠ .good then
      let drop := (f :: rest).filter (fun g => g.pkt != f.pkt)
      let s := s.setPos key { q with bufs := tabSet q.bufs (bufKey side cls) drop }
      if f.pkt.void then s else (s.badHeader logical f.pkt).voidPackets (· == f.pkt)
    else if (match logical with | some c => (s.rt c).tblBad | none => false) then
      s.parityReset
    else
      let outs := s.readySides px py side cls
      if outs.isEmpty || !outs.all (fun o => o == 4 || s.turnOf px py o cls) then s
      else
        let pkt := if f.pkt.mc && here == s.goal f.pkt then { f.pkt with atRoot := true } else f.pkt
        let last := f.idx + 1 = f.pkt.flits
        let locks := outs.foldl (fun t o => if last then tabDel t (bufKey o cls) else tabSet t (bufKey o cls) side) q.locks
        let links := outs.filter (· != 4)
        let spent := links.foldl (fun (q : Pos) o => { q with spent := q.spend o cls }) q
        let s := s.setPos key { q with bufs := tabSet q.bufs (bufKey side cls) rest, locks := locks, spent := spent.spent }
        let s := outs.foldl (fun s o =>
          if o = 4 then
            match logical with
            | some c => s.flitOut c (bufKey side cls) { f with pkt := pkt } last
            | none => s
          else
            let far := neighbour here o
            let fk := posKey far.1 far.2
            let fp := s.pos fk
            let bk := bufKey (farSide o) cls
            s.setPos fk { fp with bufs := tabSet fp.bufs bk (fp.buf bk ++ [{ f with pkt := pkt, ce := false }]) }) s
        match logical with
        | some c => s.passed c cls links.length f
        | none => s

/-- PACKET_FORWARD (R252). Routers move flits while the device is in service. -/
def execPacketForward (h : Hop) (s : State) : Res :=
  let waits := fun (c : Nat) => s.logWaits (gidOf c 25)
  let at_ := match h with
    | .inject c _ => some c.val
    | .move px py _ _ => s.logicalAt px.val py.val
  if s.phase ≠ .ready || at_.any waits then .next s
  else match h with
    | .inject c n => .next (if n < 6 then s.continueInjection c.val n else s.startInjection c.val (n - 6))
    | .move px py side cls => .next (s.hop px.val py.val side.val cls.val)

/-! ### Messages at their ends (R199 to R201) -/

/-- MESSAGE_ARRIVAL (R200): the first message for this SCU is checked; its outcome goes back to the sender. A message
that would write a powered-down bank group waits for the wake (R109); one of a failed context goes nowhere (R456). -/
def execMessageArrival (u : ScuId) (s : State) : Res :=
  let g := scuGid u
  let c := u.cluster.val
  if !s.acts g || (s.scu g).frozen then .next s
  else match s.takeInbox c (·.isMessage g) with
    | none => .next s
    | some (p, s') =>
      match p.body with
      | .message m =>
        let l := s.acceptRanges g m
        let mu := homeMu g
        if s.ctxFailed m.ctx then .next s'
        else if (s.mu mu).zeroizing then .next s
        else if (s.mu mu).asleepAll l ≠ 0 then .next (s.setMu mu ((s.mu mu).wakeAll l))
        else
          let (s', o) := s'.offer m
          match o with
          | .accepted => .next (s'.reply c g p.src p.ctx (.outcome m.queue m.unit stOK false))
          | .refused st => .next (s'.reply c g p.src p.ctx (.outcome m.queue m.unit st false))
          | .held => .next (s'.reply c g p.src p.ctx (.outcome m.queue m.unit stOK true))
          | .senderFails _ _ => .next s'
      | _ => .next s

/-- A refusal reaches the running QSEND that sent the message: the first status that is not OK stands (R286). -/
def State.noteRun (s : State) (gid run status : Nat) : State :=
  if localOf gid < 20 then
    let t := s.tu gid
    s.setTu gid { t with running := t.running.map (fun r => if r.id = run ∧ r.status = 0 then { r with status := status } else r) }
  else s

/-- An outcome reaches the send buffer of unit `g` (R199, R201): the entry is freed, or kept for a later offer. -/
def State.takeOutcome (s : State) (g queue unit status : Nat) (heldBack : Bool) : State :=
  let l := s.sendBuf g
  match findEntry l unit queue .sent with
  | none => s
  | some i =>
    match l[i]? with
    | none => s
    | some e =>
      if heldBack then s.setSendBuf g (l.set i { e with state := .held })
      else
        let s := s.setSendBuf g (listDel l i)
        if status = 0 then s else (s.noteRun g e.run status).sendRefused g e status

/-- Do something to the state that context `x` has in its scan image of cluster `c`: an outcome that arrives while the context
is switched out is kept with its state (DEDUCED, log 31). -/
def State.inImage (s : State) (x c : Nat) (f : State → State) : State :=
  let mine := fun {α : Type} (t : Tab α) => t.filter (fun e => clusterOf e.1 == c)
  let rest := fun {α : Type} (t : Tab α) => t.filter (fun e => clusterOf e.1 != c)
  match (s.ctx x).bind (fun k => tabFind k.scans c) with
  | none => s
  | some i =>
    let tus := mine s.tus
    let scus := mine s.scus
    let s := f { s with tus := i.tus.foldl (fun t e => tabSet t e.1 e.2) (rest s.tus), scus := i.scus.foldl (fun t e => tabSet t e.1 e.2) (rest s.scus) }
    let i := { i with tus := mine s.tus, scus := mine s.scus }
    let s : State := { s with tus := tus.foldl (fun t e => tabSet t e.1 e.2) (rest s.tus), scus := scus.foldl (fun t e => tabSet t e.1 e.2) (rest s.scus) }
    match s.ctx x with
    | some k => s.setCtx x { k with scans := tabSet k.scans c i }
    | none => s

/-- MESSAGE_OUTCOME (R201): the acknowledgement returns. -/
def execMessageOutcome (u : SenderId) (s : State) : Res :=
  let g := senderGid u
  let c := u.cluster.val
  if !s.acts g then .next s
  else match s.takeInbox c (·.isOutcome g) with
    | none => .next s
    | some (p, s) =>
      match p.body with
      | .outcome queue unit status heldBack =>
        let f := fun (s : State) => s.takeOutcome g queue unit status heldBack
        .next (if s.ownerOf c = some p.ctx then f s else s.inImage p.ctx c f)
      | _ => .next s

/-- MESSAGE_REOFFER (R199): a held message is offered again, and will be checked afresh on arrival. -/
def execMessageReoffer (u : SenderId) (n : Nat) (s : State) : Res :=
  let g := senderGid u
  let l := s.sendBuf g
  if !s.acts g then .next s
  else match l[n]? with
    | some e => if e.state = .held then .next (s.setSendBuf g (l.set n { e with state := .waiting })) else .next s
    | none => .next s

/-- COMBINING_RESULT_PLACE (R207): a held result is placed once the ring has room; the access to the scratchpad is progress (R236). -/
def execCombiningResultPlace (u : ScuId) (q : Fin 64) (s : State) : Res :=
  let g := scuGid u
  let mu := homeMu g
  let qu := (s.scu g).queue q.val
  match qu.result with
  | none => .next s
  | some r =>
    let l := qu.placeRanges (16 + r.payload.length)
    if !s.acts g || (s.scu g).frozen || (s.mu mu).zeroizing || l.isEmpty then .next s
    else if (s.mu mu).asleepAll l ≠ 0 then .next (s.setMu mu ((s.mu mu).wakeAll l))
    else
      let (s, qu) := s.placeResult mu qu
      .next ((s.setScu g ((s.scu g).setQueue q.val qu)).progress u.cluster.val)

end Sys2Proof.Machine
end

