-- ==== Sys2Proof/Machine/AuditOps.lean ====
section
/-!
DEFINITION. What the computing units do for the audit (spec/16): samples (R469 to R473), run marks (R476), watch (R468) and
reports to the Keeper (R144, R159); and the lightships of a die (R22, R23).
-/

namespace Sys2Proof.Machine

/-- The lightships of a die: good physical clusters that no logical cluster is assigned to (R23). -/
def State.lightships (s : State) (d : Nat) : List Nat :=
  (upto (d * 272) 272).filter (fun p =>
    let q := posOfPhys p
    !s.flash.failed.contains p && !s.flash.shipFailed.contains p && (s.logicalAt q.1 q.2).isNone)

/-- The partners of a sector for MCUs (`base` 12) or VCUs (16), as physical cluster x 32 + local index: the lightships'
units on the dies of the sector's clusters, or the units of its own clusters (R472). -/
def State.partners (s : State) (x : Sector) (base : Nat) : List Nat :=
  let dies := (regionClusters x.region).foldl (fun l c => setAdd l (dieOf c)) []
  let ls := dies.flatMap s.lightships
  let ps := if ls.isEmpty then ((regionClusters x.region).map s.physOf) else ls
  ps.flatMap (fun p => (upto base 4).map (fun k => p * 32 + k))

/-- The physical unit that a logical unit is. -/
def State.physUnit (s : State) (g : Nat) : Nat := s.physOf (clusterOf g) * 32 + localOf g

/-- The next partner in a sector's rotation that is not in the audited unit's cluster; the rotation moves on (R472). -/
def State.nextPartner (s : State) (sec g : Nat) (avoid : List Nat) : State × Option Nat :=
  match s.sector sec with
  | none => (s, none)
  | some x =>
    let base := if localOf g < 16 then 12 else 16
    let l := s.partners x base
    let at_ := tabGet 0 s.aud.rot (sec * 2 + base / 16)
    let order := (upto at_ l.length).map (fun k => k % l.length)
    match order.find? (fun k => let p := (l.getD k 0) / 32; p != s.physOf (clusterOf g) && !avoid.contains p) with
    | none => (s, none)
    | some k => ({ s with aud := { s.aud with rot := tabSet s.aud.rot (sec * 2 + base / 16) ((k + 1) % l.length) } }, l[k]?)

/-- A residue mismatch or table parity error is reported to the Keeper (R144, R159). -/
def State.reportUnit (s : State) (g : Nat) : State := { s with aud := { s.aud with reports := s.aud.reports ++ [g] } }

/-- Count a skipped or dropped sample. -/
def State.skipSample (s : State) : State := { s with aud := { s.aud with skipped := sat32 s.aud.skipped 1 } }

/-- The entry of a cluster's current run gets the unit's bit (R476). -/
def State.markRun (s : State) (g : Nat) : State :=
  let c := clusterOf g
  match tabGet [] s.aud.runs c with
  | [] => s
  | (x, a, b, l) :: t => { s with aud := { s.aud with runs := tabSet s.aud.runs c ((x, a, b, setAdd l (localOf g)) :: t) } }

/-- The sampling exponent for a unit (R468, R469). -/
def State.sampleExp (s : State) (g : Nat) : Nat :=
  let n := tabGet 16 s.aud.sect ((s.sectorOf (clusterOf g)).getD 64)
  if tabGet 0 s.aud.watches (s.physUnit g) = 0 then n else min n s.aud.watchN

/-- One eligible group update or span of a unit whose generator stands at `gen`: the new generator, and the state with the
sample sent, or skipped for fog, a full buffer of 2, or a partner's full queue of 4 (R469 to R473, R477). -/
def State.eligible (s : State) (g : Nat) (gen : BitVec 32) (forced fog : Bool) (words : List (BitVec 32)) : BitVec 32 × State :=
  let gen := Config.sampleStep gen
  let s := s.markRun g
  let p := s.physUnit g
  let left := tabGet 0 s.aud.watches p
  let sel := forced || gen.toNat % 2 ^ s.sampleExp g == 0
  let s := if left = 0 then s else { s with aud := { s.aud with watches := tabSet s.aud.watches p (left - 1) } }
  if !sel then (gen, s)
  else if fog || decide (2 ≤ (s.aud.samples.filter (fun x => x.unit == g)).length) then (gen, s.skipSample)
  else
    match s.sectorOf (clusterOf g) with
    | none => (gen, s)
    | some sec =>
      match s.nextPartner sec g [] with
      | (s, none) => (gen, s.skipSample)
      | (s, some q) =>
        if 4 ≤ (s.aud.samples.filter (fun x => x.partner == q)).length then (gen, s.skipSample)
        else
          let run := (s.ownerOf (clusterOf g)).bind (fun x => (s.ctx x).map (fun k => (x, k.stepSeq)))
          let x : Sample := { unit := g, time := s.time, sector := sec, run := run, words := words, partner := q }
          (gen, { s with aud := { s.aud with samples := s.aud.samples ++ [x], taken := sat32 s.aud.taken 1 } })

end Sys2Proof.Machine
end

