-- ==== Sys2Proof/Machine/HbmOps.lean ====
section
/-!
DEFINITION. Device memory (spec/11): the stack of an address, reads and writes of lines with their codes, fog and checks,
granule initialisation, and translation of context virtual addresses.
-/

namespace Sys2Proof.Machine

/-- Die of a stack (R15). -/
def stackDie (n : Nat) : Nat :=
  if n < 2 then 0 else if n < 4 then 1 else if n < 6 then 2 else if n < 9 then 3 else if n < 12 then 7
  else if n < 14 then 6 else if n < 16 then 5 else if n < 19 then 4 else 0

/-- The stacks on a set of dies, ascending. -/
def stacksOn (dies : List Nat) : List Nat := (upto 0 20).filter (fun n => dies.contains (stackDie n))

/-- The dies that hold a sector's clusters. -/
def Sector.dies (x : Sector) : List Nat := (regionClusters x.region).foldl (fun l c => setAdd l (dieOf c)) []

/-- Granule of a device address, and its sector (R329). -/
def granuleOf (addr : Nat) : Nat := addr / 2 ^ 30
def State.granule (s : State) (g : Nat) : Granule := tabGet {} s.hbm.granules g
def State.addrSector (s : State) (addr : Nat) : Option Nat := (s.granule (granuleOf addr)).sector

/-- The stacks over which the 4 KiB pieces of a granule are spread in turn (R330). -/
def State.stacksFor (s : State) (g : Nat) : List Nat :=
  match ((s.granule g).sector).bind s.sector with
  | some x => if x.imode && !(stacksOn x.dies).isEmpty then stacksOn x.dies else upto 0 20
  | none => upto 0 20

/-- The stack, and so the controller, of a device address (R330). -/
def State.stackOf (s : State) (addr : Nat) : Nat :=
  let l := s.stacksFor (granuleOf addr)
  l.getD (addr / 4096 % l.length) 0

/-- Whether a stack is being retrained: requests to it are held and performed afterwards (R343). -/
def State.retrains (s : State) : Bool := s.hbm.ctrls.any (fun e => e.2.retraining)

/-- Replace the memory block. -/
def State.setHbm (s : State) (h : Hbm) : State := { s with hbm := h }

/-! ### Lines (R336 to R338, R346) -/

/-- On whose behalf device memory is accessed: the requesting unit, 0xFFFF when no unit applies, and the context (R437). -/
structure Who where
  unit : Nat := 0xFFFF
  ctx : Option Nat := none
  deriving DecidableEq, Repr

/-- A record's fields about an access to device memory. -/
def State.aboutAccess (s : State) (w : Who) (addr : Nat) : ErrRec :=
  { unit := w.unit, cls := 2, sev := 2, cause := 0x02, akind := 2, addr := addr, sector := (s.addrSector addr).getD 0, sv := (s.addrSector addr).isSome,
    cv := w.ctx.isSome, context := w.ctx.getD 0, step := s.stepOf w.ctx,
    pcl := if w.unit = 0xFFFF then 0 else tabGet (homePhys (clusterOf w.unit)) s.remap (clusterOf w.unit) }

/-- Drop the repeat cache lines that a range touches (R346). -/
def State.rcDrop (s : State) (addr n : Nat) : State :=
  if n = 0 then s
  else s.setHbm { s.hbm with ctrls := tabMap s.hbm.ctrls (fun _ c =>
    { c with cache := c.cache.filter (fun e => !(decide (addr / 128 ≤ e.2) && decide (e.2 ≤ (addr + n - 1) / 128))) }) }

/-- A half-line decodes with one symbol corrected, or not at all (R336): the outer code corrects any one symbol and detects any
two. -/
def Hbm.halfCe (h : Hbm) (k : Nat) : Bool := (tabGet [] h.errs k).length == 1
def Hbm.halfUe (h : Hbm) (k : Nat) : Bool := decide (2 ≤ (tabGet [] h.errs k).length)

/-- A controller counts the line written (R358). -/
def State.countWr (s : State) (l : Nat) : State :=
  let k := s.stackOf (l * 64)
  s.setCtrl k { s.ctrl k with perfWr := perfAdd (s.ctrl k).perfWr 1 }

/-- Write a line with metadata 0xA5: it is fogged, and no cache keeps it (R337, R346). -/
def State.poisonLine (s : State) (l : Nat) : State :=
  ((s.setHbm { s.hbm with fogLines := setAdd s.hbm.fogLines l }).rcDrop (l * 64) 64).countWr l

/-- The stack corrects half-line `k` with its on-die ECC and reports it, which the controller counts (R335). -/
def State.dieRead (s : State) (k : Nat) : State :=
  if s.hbm.dieErrs.contains k then
    let n := s.stackOf (k * 32)
    s.setCtrl n { s.ctrl n with inner := sat32 (s.ctrl n).inner 1 }
  else s

/-- The key under which a line lies enciphered: that of its sector's slot, the destroyed one in a released granule, and the device key, in
slot 64, in the reserved granules (R341, R342). -/
def State.lineKey (s : State) (l : Nat) : BitVec 512 :=
  match s.addrSector (l * 64) with
  | some r => tabGet 0 s.hbm.keys r
  | none => if granuleOf (l * 64) < 718 then (s.granule (granuleOf (l * 64))).spent else tabGet 0 s.hbm.keys 64

/-- What lies in HBM of a line: it is enciphered, with its address / 64 as the tweak, below the code of R336 (R341; log 12). -/
def State.lineStored (s : State) (l : Nat) : List Byte := Config.xts (s.lineKey l) l (memRead s.hbm.mem (l * 64) 64)

/-- The enciphered bytes of a line as they are read without correction: the data symbols in error of a half-line differ in the bits given
(R336, R338). -/
def Hbm.flipped (h : Hbm) (k : Nat) (stored : List Byte) : List Byte :=
  (tabGet [] h.errs k).foldl (fun b e => if e.1 < 32 then b.set (k % 2 * 32 + e.1) (b.getD (k % 2 * 32 + e.1) 0 ^^^ e.2) else b) stored

/-- The data of a line as read when half-line `k` cannot be corrected: the bytes that the cipher gives for what was read (R338, R341). -/
def State.asRead (s : State) (k : Nat) : List Byte :=
  let l := k / 2
  let d := Config.xtsInv (s.lineKey l) l (s.hbm.flipped k (s.lineStored l))
  (upto 0 64).map (fun i => d.getD i 0)

/-- What decoding half-line `k` does (R335, R337, R338): corrected, it is written back and counted; uncorrectable, both halves of its line
are rewritten poisoned with their data as read, and it is counted, located and recorded. A line that is written back is counted as
written (R358). -/
def State.decodeHalf (s : State) (w : Who) (k : Nat) : State :=
  let s := s.dieRead k
  let l := k / 2
  let n := s.stackOf (l * 64)
  let c := s.ctrl n
  let r := s.aboutAccess w (l * 64)
  if s.hbm.halfCe k then
    let s := s.setHbm { s.hbm with errs := tabDel s.hbm.errs k }
    (s.setCtrl n { c with ce := sat32 c.ce 1, perfWr := perfAdd c.perfWr 1 }).corrected r
  else if s.hbm.halfUe k then
    let s := s.setHbm { s.hbm with mem := memWrite s.hbm.mem (l * 64) (s.asRead k), errs := tabDel s.hbm.errs k }
    let s := (s.setCtrl n { c with ue := sat32 c.ue 1, errAddr := l * 64 }).poisonLine l
    s.record r
  else s

/-- Decode the two half-lines of line `l`, on a read or a merge. -/
def State.decodeLine (s : State) (w : Who) (l : Nat) : State := (s.decodeHalf w (2 * l)).decodeHalf w (2 * l + 1)

/-- A line is read: decoded, and counted at its controller (R338, R358). -/
def State.readLine (s : State) (w : Who) (l : Nat) : State :=
  let s := s.decodeLine w l
  let k := s.stackOf (l * 64)
  s.setCtrl k { s.ctrl k with perfRd := perfAdd (s.ctrl k).perfRd 1 }

/-- The lines of a range. -/
def linesOf (addr n : Nat) : List Nat := if n = 0 then [] else upto (addr / 64) ((addr + n - 1) / 64 - addr / 64 + 1)

/-- Read bytes of device memory with the fog of each (R338); the controllers count the lines. -/
def State.hbmRead (s : State) (w : Who) (addr n : Nat) : State × List Byte × List Bool :=
  let s := (linesOf addr n).foldl (fun s l => s.readLine w l) s
  (s, memRead s.hbm.mem addr n, (upto addr n).map (fun a => s.hbm.fogLines.contains (a / 64)))

/-- Whether any line of a range is fogged or uncorrectable. -/
def State.hbmBad (s : State) (addr n : Nat) : Bool :=
  (linesOf addr n).any (fun l => s.hbm.fogLines.contains l || s.hbm.halfUe (2 * l) || s.hbm.halfUe (2 * l + 1))

/-- Blocks of the check table become unchecked (R339). -/
def State.hbmUncheck (s : State) (addr n : Nat) : State :=
  if n = 0 then s
  else s.setHbm { s.hbm with
    checks := s.hbm.checks.filter (fun e => !(decide (addr / 4096 ≤ e.1) && decide (e.1 ≤ (addr + n - 1) / 4096))) }

/-- Whether a write of bytes covers line `l`, every bit of it: one that keeps a half of a byte does not (R38, R89, R337). -/
def coversLine (addr : Nat) (bytes keep : List Byte) (l : Nat) : Bool :=
  decide (addr ≤ l * 64) && decide (l * 64 + 64 ≤ addr + bytes.length) && (upto (l * 64 - addr) 64).all (fun i => keep.getD i 0 == 0)

/-- Write bytes of device memory (R337, R339, R346), but for the bits that `keep` names: lines written in part are read and merged; a
fogged byte fogs its line, a whole line without fog is clean; checks of the blocks touched are dropped. -/
def State.hbmWriteKeep (s : State) (w : Who) (addr : Nat) (bytes keep : List Byte) (fog : List Bool) : State :=
  let n := bytes.length
  if n = 0 then s
  else
    let whole := coversLine addr bytes keep
    let fogged := fun l => (upto 0 n).any (fun i => decide ((addr + i) / 64 = l) && fog.getD i false)
    let s := (linesOf addr n).foldl (fun s l =>
      let s := (if whole l then s else s.readLine w l).countWr l
      s.setHbm { s.hbm with
        fogLines := if fogged l then setAdd s.hbm.fogLines l else if whole l then setDel s.hbm.fogLines l else s.hbm.fogLines
        errs := s.hbm.errs.filter (fun e => e.1 / 2 != l), dieErrs := s.hbm.dieErrs.filter (fun k => k / 2 != l) }) s
    let s := s.setHbm { s.hbm with mem := memWrite s.hbm.mem addr (keepBits (memGet s.hbm.mem) addr bytes keep) }
    (s.hbmUncheck addr n).rcDrop addr n

/-- Write whole bytes of device memory. -/
def State.hbmWrite (s : State) (w : Who) (addr : Nat) (bytes : List Byte) (fog : List Bool) : State := s.hbmWriteKeep w addr bytes [] fog

/-- The controllers count every line of a granule written (R358): of its 4 KiB pieces each takes those that fall to it in turn. -/
def State.countGranule (s : State) (g : Nat) : State :=
  let l := s.stacksFor g
  let lo := g * 2 ^ 18
  let upTo := fun (n i : Nat) => (n + l.length - 1 - i) / l.length
  (upto 0 l.length).foldl (fun (s : State) i =>
    let k := l.getD i 0
    s.setCtrl k { s.ctrl k with perfWr := perfAdd (s.ctrl k).perfWr (64 * (upTo (lo + 2 ^ 18) i - upTo lo i)) }) s

/-- Initialise a granule under the key now in its slot (R342): zeros, clean lines, unchecked, nothing cached. -/
def State.initGranule (s : State) (g : Nat) : State :=
  let s := s.countGranule g
  let lo := g * 2 ^ 30
  let inG := fun (unit i : Nat) => decide (lo ≤ i * unit) && decide (i * unit < lo + 2 ^ 30)
  (s.setHbm { s.hbm with
    mem := memZero s.hbm.mem lo (2 ^ 30)
    fogLines := s.hbm.fogLines.filter (fun l => !inG 64 l)
    errs := s.hbm.errs.filter (fun e => !inG 32 e.1), dieErrs := s.hbm.dieErrs.filter (fun k => !inG 32 k)
    checks := s.hbm.checks.filter (fun e => !inG 4096 e.1) }).rcDrop lo (2 ^ 30)

/-- Drop every repeat cache line of a sector (R345). -/
def State.rcDropSector (s : State) (sec : Nat) : State :=
  s.setHbm { s.hbm with ctrls := tabMap s.hbm.ctrls (fun _ c => { c with cache := c.cache.filter (fun e => e.1 != sec) }) }

/-! ### Block checks (R98 to R100, R339, R463) -/

/-- A check mismatch: counted and recorded; `r` tells who found it and where (R465). -/
def State.crcMismatch (s : State) (r : ErrRec) (want got : BitVec 32) : State :=
  ({ s with aud := { s.aud with crcMm := sat32 s.aud.crcMm 1 } } : State).record
    { r with sev := 2, cause := 0x04, syndrome := want.toNat * 2 ^ 32 + got.toNat }

/-- A block of device memory fails its check: its entry is unchecked, its lines are poisoned (R463). -/
def State.hbmBadBlock (s : State) (w : Who) (cls a len : Nat) (want got : BitVec 32) : State :=
  let s := s.crcMismatch { s.aboutAccess w a with cls := cls } want got
  (linesOf a len).foldl (fun s l => s.poisonLine l) (s.setHbm { s.hbm with checks := tabDel s.hbm.checks (a / 4096) })

/-- Verify, on a read, the valid blocks that a dense device walk of `n` bytes from `addr` reads whole (R463). -/
def State.hbmVerify (s : State) (w : Who) (addr n : Nat) : State :=
  (upto 0 (ceilDiv n 4096)).foldl (fun s i =>
    let a := addr + i * 4096
    let len := min 4096 (n - i * 4096)
    match tabFind s.hbm.checks (a / 4096) with
    | none => s
    | some e =>
      if e.n ≠ len then s
      else if s.hbmBad a len then s.setHbm { s.hbm with checks := tabDel s.hbm.checks (a / 4096) }
      else
        let got := crc32c (memRead s.hbm.mem a len)
        if got = e.crc then s else s.hbmBadBlock w 2 a len e.crc got) s

/-- Store the CRC of a block whose bytes a dense write has just completed, or fog it on a mismatch with the CRC that came
with it (R99, R339, R463). -/
def State.hbmStoreCheck (s : State) (w : Who) (addr len : Nat) (came : Option (BitVec 32)) : State :=
  if (linesOf addr len).any s.hbm.fogLines.contains then s.setHbm { s.hbm with checks := tabDel s.hbm.checks (addr / 4096) }
  else
    let got := crc32c (memRead s.hbm.mem addr len)
    match came with
    | some want =>
      if want = got then s.setHbm { s.hbm with checks := tabSet s.hbm.checks (addr / 4096) { crc := got, n := len } }
      else s.hbmBadBlock w 2 addr len want got
    | none => s.setHbm { s.hbm with checks := tabSet s.hbm.checks (addr / 4096) { crc := got, n := len } }

/-! ### Translation (R331 to R334) -/

/-- Who makes a request, as far as the rows of R333 tell requests apart. -/
inductive ReqKind where
  | plain | stw | xfer | hostDst | hostSrc
  deriving DecidableEq, Repr

/-- The outcome of a translation. -/
inductive Xlat where
  | hbm (addr : Nat) (rc : Bool)
  | host (iova : Nat)
  | window (unit win epoch off : Nat)
  | fail (status cause : Nat)
  deriving DecidableEq, Repr

/-- The granules of a sector's system region (R414). -/
def Sector.system (x : Sector) : List Nat := x.granules.take x.sysg

/-- A device address range that lies in the granules of a sector, outside its system region (R333, R414). -/
def State.inSector (s : State) (sec addr n : Nat) : Bool :=
  let sys := match s.sector sec with | some x => x.system | none => []
  decide (addr + n ≤ 718 * 2 ^ 30) && (upto (granuleOf addr) (granuleOf (addr + n - 1) - granuleOf addr + 1)).all
    (fun g => (s.granule g).sector == some sec && !sys.contains g)

/-- A reserved bit or value of an entry, or a leaf at the wrong level (R332, R333). -/
def entryBad (lvl size e : Nat) : Bool :=
  let leaf := bitOf e 1
  let tgt := fld e 3 2
  fld e 63 56 != 0 || fld e 7 6 != 0 || (decide (2 ≤ lvl) && leaf) || (lvl == 0 && !leaf) || (!leaf && tgt != 0)
    || (leaf && (tgt == 3 || (tgt == 2 && (fld e 55 50 != 0 || decide (12 ≤ localOf (fld e 23 8))))
      || (decide (tgt < 2) && fld e 55 8 * 256 % size != 0)))

/-- What a leaf, free of reserved values and valid, gives for a page of `size` bytes (R332, R333). -/
def State.leafXlat (s : State) (sec e size va : Nat) (write : Bool) (k : ReqKind) : Xlat :=
  let tgt := fld e 3 2
  let w := bitOf e 4
  let page := fld e 55 8 * 256
  let off := va % size
  if tgt = 2 then
    if !write || !w || !(k == .stw || k == .xfer) then .fail stContextFault 0x07
    else .window (fld e 23 8) (fld e 27 24) (fld e 43 28) (fld e 49 44 * 65536 + off)
  else if tgt = 0 then
    if !s.inSector sec page size then .fail stContextFault 0x07
    else if write && !w then .fail stContextFault 0x07
    else if k == .hostDst || k == .hostSrc then .fail stContextFault 0x07
    else .hbm (page + off) (bitOf e 5)
  else if write && !w then .fail stContextFault 0x07
  else if k == .xfer || k == .hostDst || k == .hostSrc then .host (page + off)
  else .fail stContextFault 0x07

/-- Entries and index bits of a table level (R331). -/
def levelCount (lvl : Nat) : Nat := if lvl = 0 then 32 else 512
def levelShift (lvl : Nat) : Nat := if lvl = 0 then 16 else 12 + 9 * lvl

/-- The address of the entry of a table level; none when the table does not lie in the sector's granules (R331). -/
def State.entryAt (s : State) (sec va lvl tbl : Nat) : Option Nat :=
  let size := levelCount lvl * 8
  if tbl % size ≠ 0 ∨ !s.inSector sec tbl size then none else some (tbl + va / 2 ^ levelShift lvl % levelCount lvl * 8)

/-- Read and check the entry of a table level (R331 to R333): an outcome that ends the walk, or the entry. A page of level 0 has
64 KiB, one of level 1 has 2 MiB. -/
def State.tableEntry (s : State) (sec va lvl tbl : Nat) : Sum Xlat Nat :=
  match s.entryAt sec va lvl tbl with
  | none => .inl (.fail stContextFault 0x07)
  | some ea =>
    let e := ofBytes (memRead s.hbm.mem ea 8)
    if s.hbmBad ea 8 then .inl (.fail stFoggedControl (if s.hbm.fogLines.contains (ea / 64) then 0x06 else 0x02))
    else if entryBad lvl (2 ^ levelShift lvl) e then .inl (.fail stContextFault 0x07)
    else if !bitOf e 0 then .inl (.fail stPageFault 0x0C)
    else .inr e

/-- Walk the page table from the table at `tbl` of level `lvl`: an outcome that ends the walk, or the leaf with the size of its page
(R331, R333). -/
def State.walkLevel (s : State) (sec va : Nat) : Nat → Nat → Sum Xlat (Nat × Nat)
  | 0, tbl => match s.tableEntry sec va 0 tbl with | .inl o => .inl o | .inr e => .inr (e, 65536)
  | l + 1, tbl =>
    match s.tableEntry sec va (l + 1) tbl with
    | .inl o => .inl o
    | .inr e => if bitOf e 1 then .inr (e, 0x200000) else s.walkLevel sec va l (fld e 55 8 * 256)

/-- The entries that a walk reads. -/
def State.walkPath (s : State) (sec va : Nat) : Nat → Nat → List Nat
  | 0, tbl => (s.entryAt sec va 0 tbl).toList
  | l + 1, tbl =>
    match s.tableEntry sec va (l + 1) tbl with
    | .inl _ => (s.entryAt sec va (l + 1) tbl).toList
    | .inr e => (s.entryAt sec va (l + 1) tbl).toList ++ (if bitOf e 1 then [] else s.walkPath sec va l (fld e 55 8 * 256))

/-- Translate a context virtual address by a walk (R331). -/
def State.translate (s : State) (x : Ctx) (va : Nat) (write : Bool) (k : ReqKind) : Xlat :=
  if 2 ^ 48 ≤ va then .fail stContextFault 0x07
  else match s.walkLevel x.sector va 3 x.ptroot with
    | .inl o => o
    | .inr (e, size) => s.leafXlat x.sector e size va write k

/-- The table reads of a walk (R338). -/
def State.readTables (s : State) (w : Who) (x : Ctx) (va : Nat) : State :=
  if 2 ^ 48 ≤ va then s else (s.walkPath x.sector va 3 x.ptroot).foldl (fun s a => s.readLine w (a / 64)) s

/-! ### The translation cache of a memory unit (R334) -/

/-- The entry that holds a page for a context. -/
def Mu.tlbFind (m : Mu) (x va : Nat) : Option TlbEntry := m.tlb.find? (fun t => t.ctx == x && decide (t.lo ≤ va) && decide (va < t.lo + t.size))

/-- A new entry; the oldest of 64 leaves (log 138). -/
def Mu.tlbAdd (m : Mu) (t : TlbEntry) : Mu := { m with tlb := t :: m.tlb.take 63 }

/-- What a request of unit `g` for context `x` translates to now: by a cached leaf, or by a walk. -/
def State.xlate (s : State) (g x : Nat) (c : Ctx) (va : Nat) (write : Bool) (k : ReqKind) : Xlat :=
  if 2 ^ 48 ≤ va then .fail stContextFault 0x07
  else match (s.mu g).tlbFind x va with
    | some t => s.leafXlat c.sector t.leaf t.size va write k
    | none => s.translate c va write k

/-- Translate for a request of unit `g`: a miss of its cache walks the tables and keeps the leaf. -/
def State.xlateFill (s : State) (g x : Nat) (c : Ctx) (va : Nat) (write : Bool) (k : ReqKind) : State × Xlat :=
  let o := s.xlate g x c va write k
  if 2 ^ 48 ≤ va ∨ ((s.mu g).tlbFind x va).isSome then (s, o)
  else
    let s' := s.readTables { unit := g, ctx := some x } c va
    match s.walkLevel c.sector va 3 c.ptroot with
    | .inl _ => (s', o)
    | .inr (e, size) => (s'.setMu g ((s'.mu g).tlbAdd { ctx := x, lo := va / size * size, size := size, leaf := e }), o)

/-! ### Host translations (R351) -/

/-- Keep a translation; a port keeps 4,096 at most, the oldest leaves (log 138). -/
def State.atcAdd (s : State) (e : Atc) : State :=
  let mine := (s.atc.filter (fun q => q.port == e.port && !(q.pasid == e.pasid && q.iova == e.iova))).take 4095
  { s with atc := e :: mine ++ s.atc.filter (fun q => q.port != e.port) }

/-- The cached translation of a page that allows an access. -/
def State.atcFind (s : State) (c : Ctx) (page : Nat) (write : Bool) : Option Atc :=
  s.atc.find? (fun e => e.port == c.port && e.pasid == c.pasid && e.iova == page && (e.w || !write))

/-- Ask the host for the translation of a page by ATS, unless it is cached; none is a page fault (R351, R352; log 137). -/
def State.ats (s : State) (c : Ctx) (page : Nat) (write : Bool) : State × Option Atc :=
  match s.atcFind c page write with
  | some e => (s, some e)
  | none =>
    let n := s.fresh
    let s := ({ s with fresh := n + 1 } : State).emit (.atsRequest c.port c.pasid page write)
    match Config.hostPage c.port c.pasid page n with
    | none => (s, none)
    | some (a, w) =>
      let e : Atc := { port := c.port, pasid := c.pasid, iova := page, addr := a / 4096 * 4096, w := w }
      (s.atcAdd e, if w || !write then some e else none)

/-! ### Snoops (R405), and accesses that pass no controller's queue (R343) -/

/-- The tracked lines among those given, with their ports. -/
def State.tracked (s : State) (l : List Nat) : List (Nat × Nat) := s.ports.flatMap (fun (p, v) => (l.filter v.filter.contains).map (fun k => (p, k)))

/-- The snoops that an access of `who` to lines still calls for: those of tracked lines that it has not sent. -/
def State.snoopsFor (s : State) (who : Nat) (l : List Nat) (inv : Bool) : List (Nat × Nat) :=
  (s.tracked l).filter (fun e => !s.snoops.any (fun x => x.who == some who && x.port == e.1 && x.line == e.2 && (x.inv || !inv)))

/-- Send snoops: BISnpData before a read, BISnpInv before a write. -/
def State.sendSnoops (s : State) (who : Option Nat) (l : List (Nat × Nat)) (inv : Bool) : State :=
  l.foldl (fun s (p, k) =>
    let v := s.port p
    let s := s.setPort p { v with bisnp := sat32 v.bisnp 1 }
    ({ s with snoops := s.snoops ++ [{ port := p, line := k, inv := inv, sentAt := s.time, who := who }] } : State).emit (.biSnp p k inv)) s

/-- Whether a snoop of a line is unanswered. -/
def State.snooping (s : State) (l : List Nat) : Bool := s.snoops.any (fun x => !x.answered && l.contains x.line)

/-- Whether `who` may read the lines `rd` and write the lines `wr` now: the snoops that this calls for have been answered, and have then
served. If not, those not yet sent leave now. -/
def State.mayAccess (s : State) (who : Nat) (rd wr : List Nat) : State × Bool :=
  let a := s.snoopsFor who wr true
  let b := s.snoopsFor who (rd.filter (fun k => !wr.contains k)) false
  if !(a.isEmpty && b.isEmpty) then ((s.sendSnoops (some who) b false).sendSnoops (some who) a true, false)
  else if s.snooping (rd ++ wr) then (s, false)
  else ({ s with snoops := s.snoops.filter (fun x => !(x.who == some who && (rd ++ wr).contains x.line)) }, true)

/-- Whether a controller can take an access to a line at once: its stack is not under retraining, and no earlier request for the line
waits (R343). -/
def State.lineFree (s : State) (k : Nat) : Bool :=
  let c := s.ctrl (s.stackOf (k * 64))
  !c.retraining && !c.queue.any (fun h => (linesOf h.addr h.len).contains k)

/-- The same for an access that passes no queue of the model: table walks, the loader and the copy engines (R343). -/
def State.directAccess (s : State) (who : Nat) (rd wr : List Nat) : State × Bool :=
  if !(rd ++ wr).all s.lineFree then (s, false) else s.mayAccess who rd wr

/-- The lines that the walk for an address reads. -/
def State.tableLines (s : State) (x : Ctx) (va : Nat) : List Nat :=
  if 2 ^ 48 ≤ va then [] else (s.walkPath x.sector va 3 x.ptroot).map (· / 64)

/-- The record that a failed translation writes, beside the failure (R333). -/
def xlatRec (unit cause va : Nat) : ErrRec := { unit := unit, cls := 6, sev := 3, cause := cause, akind := 4, addr := va }

end Sys2Proof.Machine
end

