-- ==== Sys2Proof/Machine/Encode.lean ====
section
/-!
DEFINITION. The encodings of spec/09: scalar instructions (R296, R297, R562) with their encoder, tensor instruction words
(R272, R273) and the fields of parameter records (R279).
-/

namespace Sys2Proof.Machine

/-! ### Scalar instructions -/

/-- Condition code (R297). -/
def condCode : Cond → Nat
  | .eq => 0 | .ne => 1 | .lt => 2 | .le => 3 | .ltu => 4 | .leu => 5 | .gt => 6 | .ge => 7

/-- The condition of a code. -/
def condOf (n : Nat) : Cond :=
  match n with
  | 0 => .eq | 1 => .ne | 2 => .lt | 3 => .le | 4 => .ltu | 5 => .leu | 6 => .gt | _ => .ge

/-- Code of a `pop` function (R297). -/
def popCode : PopFn → Nat
  | .and => 0 | .or => 1 | .xor => 2 | .andNot => 3 | .notA => 4 | .set1 => 5 | .set0 => 6

/-- The `pop` function of a code; 7 is reserved. -/
def popOf (n : Nat) : Option PopFn :=
  match n with
  | 0 => some .and | 1 => some .or | 2 => some .xor | 3 => some .andNot
  | 4 => some .notA | 5 => some .set1 | 6 => some .set0 | _ => none

/-- Major opcode of a scalar instruction (R297). -/
def scalarOpcode : SInstr → Nat
  | .alu op _ _ _ => 1 + op.val
  | .sel _ _ _ _ => 0x0F
  | .imm op _ _ _ => 0x10 + op.val
  | .shi op _ _ _ => 0x14 + op.val
  | .lui _ _ => 0x17
  | .cmp _ _ _ _ => 0x18
  | .cmpi _ _ _ _ => 0x19
  | .pop _ _ _ _ => 0x1A
  | .ld sz _ _ _ => 0x20 + sz.val
  | .st sz _ _ _ => 0x24 + sz.val
  | .br _ _ _ _ => 0x28
  | .jal _ _ => 0x29
  | .jr _ => 0x2A
  | .halt => 0x2B
  | .qrecv _ _ => 0x30
  | .qsel _ _ _ _ _ => 0x31
  | .qsend _ _ _ _ _ => 0x32
  | .qtag _ => 0x33
  | .qrp _ _ => 0x34
  | .qclose _ => 0x35
  | .tiss _ _ _ _ => 0x38
  | .wait _ _ => 0x39
  | .pout _ _ => 0x3A
  | .rdsr _ _ => 0x3B

/-- Bits [25:0] of a scalar instruction (R296, R562). -/
def scalarFields : SInstr → Nat
  | .alu _ rd ra rb => rd.val * 2 ^ 21 + ra.val * 2 ^ 16 + rb.val * 2 ^ 11
  | .sel rd ra rb p => rd.val * 2 ^ 21 + ra.val * 2 ^ 16 + rb.val * 2 ^ 11 + p.val * 2 ^ 8
  | .imm _ rd ra i => rd.val * 2 ^ 21 + ra.val * 2 ^ 16 + i.toNat
  | .shi _ rd ra sh => rd.val * 2 ^ 21 + ra.val * 2 ^ 16 + sh.val
  | .lui rd i => rd.val * 2 ^ 21 + i.toNat
  | .cmp pd c ra rb => pd.val * 2 ^ 23 + condCode c * 2 ^ 20 + ra.val * 2 ^ 15 + rb.val * 2 ^ 10
  | .cmpi pd c ra i => pd.val * 2 ^ 23 + condCode c * 2 ^ 20 + ra.val * 2 ^ 15 + i.toNat
  | .pop pd pa pb f => pd.val * 2 ^ 23 + pa.val * 2 ^ 20 + pb.val * 2 ^ 17 + popCode f * 2 ^ 14
  | .ld _ rd ra i => rd.val * 2 ^ 21 + ra.val * 2 ^ 16 + i.toNat
  | .st _ rs ra i => rs.val * 2 ^ 21 + ra.val * 2 ^ 16 + i.toNat
  | .br al neg p t => b2n al * 2 ^ 25 + b2n neg * 2 ^ 24 + p.val * 2 ^ 21 + t.toNat
  | .jal rd t => rd.val * 2 ^ 21 + t.toNat
  | .jr ra => ra.val * 2 ^ 16
  | .halt => 0
  | .qrecv rd (.imm q) => rd.val * 2 ^ 21 + q.val
  | .qrecv rd (.reg ra) => rd.val * 2 ^ 21 + ra.val * 2 ^ 16 + 2 ^ 6
  | .qsel rd ra rb pd rot => rd.val * 2 ^ 21 + ra.val * 2 ^ 16 + rb.val * 2 ^ 11 + pd.val * 2 ^ 8 + b2n rot * 2 ^ 7
  | .qsend ra rb rc tag m => ra.val * 2 ^ 21 + rb.val * 2 ^ 16 + rc.val * 2 ^ 11 + tag.toNat * 2 ^ 3 + b2n m * 2 ^ 2
  | .qtag rd => rd.val * 2 ^ 21
  | .qrp ra q => ra.val * 2 ^ 16 + q.val
  | .qclose q => q.val
  | .tiss u w rc rs => u.val * 2 ^ 21 + w.val * 2 ^ 11 + rc.val * 2 ^ 6 + rs.val * 2
  | .wait rd tag => rd.val * 2 ^ 21 + tag.toNat
  | .pout port p => port.val * 2 ^ 25 + p.val * 2 ^ 21
  | .rdsr rd sr => rd.val * 2 ^ 21 + sr.val

/-- The 32-bit word of a scalar instruction. -/
def encodeScalar (i : SInstr) : Nat := scalarOpcode i * 2 ^ 26 + scalarFields i

/-- The scalar instruction a word holds; none for a reserved opcode, a reserved code or a non-zero zero field (R297).
Bits that a jump's row leaves between its fields are zero fields (DEDUCED, log 16). -/
def decodeScalar (w : Nat) : Option SInstr :=
  let op := fld w 31 26
  let rd := Fin.ofNat 32 (fld w 25 21)
  let ra := Fin.ofNat 32 (fld w 20 16)
  let rb := Fin.ofNat 32 (fld w 15 11)
  let imm := BitVec.ofNat 16 (fld w 15 0)
  if 0x01 ≤ op ∧ op ≤ 0x0E then
    if fld w 10 0 = 0 then some (.alu (Fin.ofNat 14 (op - 1)) rd ra rb) else none
  else if op = 0x0F then
    if fld w 7 0 = 0 then some (.sel rd ra rb (Fin.ofNat 8 (fld w 10 8))) else none
  else if 0x10 ≤ op ∧ op ≤ 0x13 then some (.imm (Fin.ofNat 4 (op - 0x10)) rd ra imm)
  else if 0x14 ≤ op ∧ op ≤ 0x16 then
    if fld w 15 6 = 0 then some (.shi (Fin.ofNat 3 (op - 0x14)) rd ra (Fin.ofNat 64 (fld w 5 0))) else none
  else if op = 0x17 then some (.lui rd (BitVec.ofNat 21 (fld w 20 0)))
  else if op = 0x18 then
    if fld w 9 0 = 0 then
      some (.cmp (Fin.ofNat 8 (fld w 25 23)) (condOf (fld w 22 20)) (Fin.ofNat 32 (fld w 19 15)) (Fin.ofNat 32 (fld w 14 10)))
    else none
  else if op = 0x19 then
    some (.cmpi (Fin.ofNat 8 (fld w 25 23)) (condOf (fld w 22 20)) (Fin.ofNat 32 (fld w 19 15)) (BitVec.ofNat 15 (fld w 14 0)))
  else if op = 0x1A then
    if fld w 13 0 = 0 then
      (popOf (fld w 16 14)).map (.pop (Fin.ofNat 8 (fld w 25 23)) (Fin.ofNat 8 (fld w 22 20)) (Fin.ofNat 8 (fld w 19 17)))
    else none
  else if 0x20 ≤ op ∧ op ≤ 0x23 then some (.ld (Fin.ofNat 4 (op - 0x20)) rd ra imm)
  else if 0x24 ≤ op ∧ op ≤ 0x27 then some (.st (Fin.ofNat 4 (op - 0x24)) rd ra imm)
  else if op = 0x28 then
    if fld w 20 14 = 0 then
      some (.br (bitOf w 25) (bitOf w 24) (Fin.ofNat 8 (fld w 23 21)) (BitVec.ofNat 14 (fld w 13 0)))
    else none
  else if op = 0x29 then
    if fld w 20 14 = 0 then some (.jal rd (BitVec.ofNat 14 (fld w 13 0))) else none
  else if op = 0x2A then
    if fld w 25 21 = 0 ∧ fld w 15 0 = 0 then some (.jr ra) else none
  else if op = 0x2B then
    if fld w 25 0 = 0 then some .halt else none
  else if op = 0x30 then
    if fld w 15 7 = 0 then
      if bitOf w 6 then (if fld w 5 0 = 0 then some (.qrecv rd (.reg ra)) else none)
      else (if fld w 20 16 = 0 then some (.qrecv rd (.imm (Fin.ofNat 64 (fld w 5 0)))) else none)
    else none
  else if op = 0x31 then
    if fld w 6 0 = 0 then some (.qsel rd ra rb (Fin.ofNat 8 (fld w 10 8)) (bitOf w 7)) else none
  else if op = 0x32 then
    if fld w 1 0 = 0 then some (.qsend rd ra rb (BitVec.ofNat 8 (fld w 10 3)) (bitOf w 2)) else none
  else if op = 0x33 then
    if fld w 20 0 = 0 then some (.qtag rd) else none
  else if op = 0x34 then
    if fld w 25 21 = 0 ∧ fld w 15 6 = 0 then some (.qrp ra (Fin.ofNat 64 (fld w 5 0))) else none
  else if op = 0x35 then
    if fld w 25 6 = 0 then some (.qclose (Fin.ofNat 64 (fld w 5 0))) else none
  else if op = 0x38 then
    if fld w 0 0 = 0 then
      some (.tiss rd (Fin.ofNat 1024 (fld w 20 11)) (Fin.ofNat 32 (fld w 10 6)) (Fin.ofNat 32 (fld w 5 1)))
    else none
  else if op = 0x39 then
    if fld w 20 16 = 0 then some (.wait rd imm) else none
  else if op = 0x3A then
    if fld w 24 24 = 0 ∧ fld w 20 0 = 0 then some (.pout (Fin.ofNat 2 (fld w 25 25)) (Fin.ofNat 8 (fld w 23 21))) else none
  else if op = 0x3B then
    if fld w 20 4 = 0 ∧ fld w 3 0 < 7 then some (.rdsr rd (Fin.ofNat 7 (fld w 3 0))) else none
  else none

/-! ### Tensor instructions (R272, R273) -/

/-- The fields of a tensor instruction word. -/
def decodeTensor (w : BitVec 128) : TInstr :=
  let x := w.toNat
  { op := fld x 127 120, cls := fld x 119 116, nw := bitOf x 112, slot := bitOf x 113, gran := bitOf x 114,
    flag3 := bitOf x 115, da := fld x 111 96, db := fld x 95 80, dc := fld x 79 64, par := fld x 63 48,
    count := fld x 47 32, sq := fld x 31 16, tag := fld x 15 0 }

/-- The word of a tensor instruction. -/
def encodeTensor (i : TInstr) : BitVec 128 :=
  BitVec.ofNat 128 (i.op * 2 ^ 120 + i.cls * 2 ^ 116 + b2n i.flag3 * 2 ^ 115 + b2n i.gran * 2 ^ 114 + b2n i.slot * 2 ^ 113
    + b2n i.nw * 2 ^ 112 + i.da * 2 ^ 96 + i.db * 2 ^ 80 + i.dc * 2 ^ 64 + i.par * 2 ^ 48 + i.count * 2 ^ 32
    + i.sq * 2 ^ 16 + i.tag)

/-- `num`, `in` and `out` of the `sq` field (R273). -/
def TInstr.num (i : TInstr) : Nat := fld i.sq 7 0
def TInstr.sin (i : TInstr) : Nat := fld i.sq 9 8
def TInstr.sout (i : TInstr) : Nat := fld i.sq 11 10

/-- The class of the tensor opcodes of R277; `FENCE` and `DAYMARK` run on any unit of class 0 to 2. -/
def opClass (op : Nat) : Option Nat :=
  if 0x01 ≤ op ∧ op ≤ 0x0A then some 0
  else if 0x20 ≤ op ∧ op ≤ 0x24 then some 1
  else if 0x30 ≤ op ∧ op ≤ 0x32 then some 2
  else if 0x40 ≤ op ∧ op ≤ 0x46 then some 3
  else if op = 0x50 then some 4
  else if op = 0x60 then some 5
  else none

/-- The unit class of a local index 0 to 19: 0 MU, 1 MCU, 2 VCU. -/
def unitClass (idx : Nat) : Nat := if idx < 12 then 0 else if idx < 16 then 1 else 2

/-- Whether an opcode runs at local index `idx`: 24 for the stream switch, else a tensor unit (R271, R276). -/
def opRuns (idx op : Nat) : Bool :=
  match opClass op with
  | some c => if c == 3 then idx == 24 else idx != 24 && (decide (4 ≤ c) || c == unitClass idx)
  | none => idx != 24 && (op == 0x70 || op == 0x71)

/-- Which fields an opcode uses (R277): A, B, C, record, `num`, `in`, `out`, `nw`, `slot`, `gran`, `count`. -/
structure Uses where
  a : Bool := false
  b : Bool := false
  c : Bool := false
  par : Bool := false
  num : Bool := false
  sin : Bool := false
  sout : Bool := false
  nw : Bool := false
  slot : Bool := false
  gran : Bool := false
  count : Bool := true
  deriving DecidableEq, Repr

/-- The rows of the table of R277 with R276. -/
def opUses (op : Nat) : Uses :=
  match op with
  | 0x01 => { a := true, c := true, par := true, num := true, sout := true, nw := true, slot := true }
  | 0x02 => { c := true, par := true, num := true, sin := true, slot := true }
  | 0x03 => { a := true, par := true }
  | 0x04 => { a := true, c := true, par := true, num := true, slot := true }
  | 0x05 => { par := true, num := true, count := false }
  | 0x06 => { num := true, count := false }
  | 0x07 => { par := true, num := true, count := false }
  | 0x08 => { num := true, count := false }
  | 0x09 => { a := true, c := true, par := true }
  | 0x0A => { a := true, par := true, num := true }
  | 0x20 | 0x21 | 0x22 | 0x23 => { a := true, b := true, c := true, par := true, sin := true, sout := true }
  | 0x24 => { c := true, par := true, sout := true }
  | 0x30 | 0x31 => { a := true, b := true, c := true, par := true, sin := true, sout := true }
  | 0x32 => { a := true, b := true, c := true, par := true }
  | 0x45 | 0x46 => { gran := true }
  | 0x40 | 0x41 | 0x42 | 0x43 | 0x44 => { count := false }
  | 0x50 => { a := true, par := true }
  | 0x60 => { par := true }
  | 0x70 => { count := false }
  | _ => { a := true, sout := true }

/-- A descriptor index is legal: an entry of the table, or 0xFFFF (R79). -/
def descIdxOk (i : Nat) : Bool := decide (i < 1024) || i == 0xFFFF

/-- A parameter index is legal (R268). -/
def parIdxOk (i : Nat) : Bool := decide (i < 1023) || i == 0xFFFF

/-- The field rules of R271, R273, R274, R276 and R277 for an instruction held at local index `idx`. -/
def fieldsOk (idx : Nat) (i : TInstr) : Bool :=
  let u := opUses i.op
  let sqRest : Bool :=
    if i.cls == 3 then fld i.sq 15 3 == 0
    else if i.cls == 5 then i.sq == 0
    else (fld i.sq 15 12 == 0) && (u.num || i.num == 0) && (u.sin || i.sin == 0) && (u.sout || i.sout == 0) && (i.sin != 3)
      && (i.sout != 3 || i.op == 0x71)
  let clsOk : Bool := match opClass i.op with
    | some c => c == i.cls && (decide (3 ≤ c) || c == unitClass idx)
    | none => (i.op == 0x70 || i.op == 0x71) && i.cls == unitClass idx
  let winOk : Bool := !(i.op == 0x07 || i.op == 0x08) || decide (i.num < 16)
  let dmOk : Bool := !(i.op == 0x71) || ((fld i.count 15 12 == 0) && (i.cls == 0 || i.da == 0xFFFF))
  !i.flag3 && clsOk && sqRest && winOk && dmOk && descIdxOk i.da && descIdxOk i.db && descIdxOk i.dc && parIdxOk i.par
    && (u.a || i.da == 0xFFFF) && (u.b || i.db == 0xFFFF) && (u.c || i.dc == 0xFFFF) && (u.par || i.par == 0xFFFF)
    && (u.nw || !i.nw) && (u.slot || !i.slot) && (u.gran || !i.gran) && (u.count || i.count == 0)

/-! ### Words and records of a tensor instruction memory (R268, R279) -/

/-- Word `w` of a unit's tensor instruction memory. -/
def Tu.word (t : Tu) (w : Nat) : BitVec 128 := tabGet 0 t.tim w

/-- The record at index `p`; index 0xFFFF is all zero. -/
def Tu.recordAt (t : Tu) (p : Nat) : BitVec 256 :=
  if p = 0xFFFF then 0 else (t.word (p + 1)).append (t.word p)

/-- Whether word `w`, or the record at `p`, holds an uncorrectable error, or fog that a scan has brought (R268, R320). -/
def Tu.wordBad (t : Tu) (w : Nat) : Bool := t.timBad.contains w || t.timFog.contains w
def Tu.recordBad (t : Tu) (p : Nat) : Bool := p != 0xFFFF && (t.wordBad p || t.wordBad (p + 1))

/-- Bits [hi:lo] of a record. -/
def recFld (p : BitVec 256) (hi lo : Nat) : Nat := fld p.toNat hi lo

/-- Entry s of a CHAIN record: local index and word (R279). -/
def chainEntry (p : BitVec 256) (s : Nat) : Nat × Nat := (recFld p (24 * s + 20) (24 * s + 16), recFld p (24 * s + 30) (24 * s + 21))

end Sys2Proof.Machine
end

