-- ==== Sys2Proof/Machine/Walk.lean ====
section
/-!
DEFINITION. Loop descriptors (R79 to R93): their fields, checks, walks, reads and writes through the wide view, and the
flits that a walk makes or takes (R218 to R220, R282).
-/

namespace Sys2Proof.Machine

/-! ### Descriptor fields (R80) -/

/-- A descriptor entry. -/
structure Desc where
  base : Nat
  fmt : Nat
  levels : Nat
  order : List Nat
  bound : List Nat
  stride : List Int
  extent : List Nat
  msel : List Nat
  pad : Nat
  ext : Bool
  xpose : Bool
  rc : Bool
  ahead : Nat
  resv : Nat
  deriving DecidableEq, Repr

/-- The fields of an entry. -/
def descOf (w : BitVec 512) : Desc :=
  let x := w.toNat
  { base := fld x 31 0
    fmt := fld x 39 32
    levels := fld x 42 40
    order := (upto 0 6).map (fun j => fld x (45 + 3 * j) (43 + 3 * j))
    bound := (upto 0 6).map (fun d => fld x (84 + 24 * d) (61 + 24 * d))
    stride := (upto 0 6).map (fun d => sext (fld x (236 + 32 * d) (205 + 32 * d)) 32)
    extent := [fld x 420 397, fld x 444 421]
    msel := [fld x 447 445, fld x 450 448]
    pad := fld x 482 451
    ext := bitOf x 483
    xpose := bitOf x 484
    rc := bitOf x 485
    ahead := fld x 489 486
    resv := fld x 511 490 }

/-- Descriptor `i` of an MU. -/
def Mu.desc_ (m : Mu) (i : Nat) : Desc := descOf (tabGet 0 m.desc i)

/-- A companion descriptor read as scale bytes (R45). -/
def Desc.asScales (d : Desc) : Desc := { d with fmt := 0x0C }

def Desc.code (d : Desc) : Nat := d.fmt % 32
def Desc.bits (d : Desc) : Nat := fmtBits d.code
def Desc.scaled (d : Desc) : Bool := bitOf d.fmt 5
def Desc.bnd (d : Desc) (i : Nat) : Nat := d.bound.getD i 0
def Desc.str (d : Desc) (i : Nat) : Int := d.stride.getD i 0

/-- The dimension that loop `j` walks, after the exchange of loops 0 and 1 that `xpose` makes (R92). -/
def Desc.loopDim (d : Desc) (j : Nat) : Nat :=
  let j := if d.xpose then (if j = 0 then 1 else if j = 1 then 0 else j) else j
  d.order.getD j 0

/-- Number of elements of the walk: the product of its bounds (R281). -/
def Desc.count (d : Desc) : Nat := (upto 0 d.levels).foldl (fun a i => a * d.bnd i) 1

/-! ### The walk (R82, R88, R89) -/

/-- One element of a walk: byte address, upper half of the byte for a 4-bit element, masked, its run of the innermost
loop, its index in each dimension, and what a masked element supplies in place of the pad of its descriptor (R91). -/
structure WEl where
  addr : Int
  nib : Bool
  masked : Bool
  run : Nat
  idx : List Nat
  fill : Option Nat := none
  deriving DecidableEq, Repr

/-- Index vectors of nested loops, outermost first, as (dimension, index) pairs. -/
def loopNest : List (Nat × Nat) → List (List (Nat × Nat))
  | [] => [[]]
  | (d, b) :: t => (upto 0 b).flatMap (fun i => (loopNest t).map (fun v => (d, i) :: v))

/-- The index vector of dimensions 0 to n - 1. -/
def idxVec (n : Nat) (v : List (Nat × Nat)) : List Nat :=
  (upto 0 n).map (fun d => match v.find? (fun e => e.1 == d) with | some e => e.2 | none => 0)

/-- The tile partner of a dimension: the lowest dimension above it with stride bound x stride (R88). -/
def Desc.partner (d : Desc) (k : Nat) : Option Nat :=
  (upto (k + 1) (d.levels - k - 1)).find? (fun t => d.str t == (d.bnd k : Int) * d.str k)

/-- Whether an index vector is masked under selector `k` (R88, R89). -/
def Desc.maskedBy (d : Desc) (v : List Nat) (k : Nat) : Bool :=
  let sel := d.msel.getD k 7
  if sel = 7 then false
  else
    let c := v.getD sel 0 + (match d.partner sel with | some t => d.bnd sel * v.getD t 0 | none => 0)
    decide (d.extent.getD k 0 ≤ c)

/-- The element of an index vector. -/
def Desc.element (d : Desc) (run : Nat) (v : List Nat) : WEl :=
  let four := d.bits = 4
  let i0 := v.getD 0 0
  let a : Int := (upto 0 d.levels).foldl (fun a i => a + (v.getD i 0 : Int) * d.str i) (d.base : Int)
  { addr := if four then a + (i0 / 2 : Nat) else a
    nib := decide four && i0 % 2 == 1
    masked := d.maskedBy v 0 || d.maskedBy v 1
    run := run
    idx := v }

/-- The elements of a walk, run by run of the innermost delivered loop; a zero bound at any level gives none (R9). -/
def Desc.runs (d : Desc) : List (List WEl) :=
  let outer := (upto 1 (d.levels - 1)).reverse.map (fun j => (d.loopDim j, d.bnd (d.loopDim j)))
  let d0 := d.loopDim 0
  if d.count = 0 then []
  else ((loopNest outer).zip (upto 0 (loopNest outer).length)).map (fun (v, r) =>
    (upto 0 (d.bnd d0)).map (fun i => d.element r (idxVec d.levels ((d0, i) :: v))))

/-- The walk in the order of its accesses: a transposed walk reads each block along loop 0 (R93). -/
def Desc.untransposed (d : Desc) : Desc := { d with xpose := false }

/-! ### The checks of R83 -/

/-- `order` names each dimension below `levels` once (R81). -/
def Desc.orderOk (d : Desc) : Bool :=
  (upto 0 d.levels).all (fun x => ((d.order.take d.levels).filter (· == x)).length == 1)

/-- The fields that R83 and R92 let fail, for a read or a write. -/
def Desc.fieldsBad (d : Desc) (write : Bool) : Bool :=
  !fmtByteOk d.fmt || d.levels == 0 || d.levels == 7 || d.resv != 0
    || d.msel.any (fun m => m == 6 || (m != 7 && decide (d.levels ≤ m)))
    || !d.orderOk || (d.bits == 4 && d.str 0 != 0)
    || (d.xpose && (write || d.bits == 4 || d.levels == 1
        || !((upto 0 2).all (fun j => d.bnd (d.order.getD j 0) == 0 || d.bnd (d.order.getD j 0) == 32))))

/-- An element address that is not a multiple of the element size; `base` is the external base (R82). -/
def Desc.misaligned (d : Desc) (base : Nat) : Bool :=
  d.bits ≠ 4 && d.runs.any (fun r => r.any (fun e => (e.addr + base) % ((d.bits / 8 : Nat) : Int) != 0))

/-- Bytes of one element; a 4-bit element takes its byte. -/
def Desc.elBytes (d : Desc) : Nat := if d.bits = 4 then 1 else d.bits / 8

/-- Every accessed byte lies in [0, limit) (R83). -/
def Desc.inRange (d : Desc) (limit : Nat) : Bool :=
  d.runs.all (fun r => r.all (fun e => e.masked || (decide (0 ≤ e.addr) && decide (e.addr + d.elBytes ≤ limit))))

/-- Where the bytes of a walk lie: the scratchpad, a slot of it, or external memory with its base. -/
inductive Side where
  | scratch
  | slot (base len : Nat)
  | ext (xb : Nat)
  deriving DecidableEq, Repr

/-- The status of the check of R83, or none when the walk is good. -/
def Desc.check (d : Desc) (m : Mu) (write : Bool) (side : Side) : Option Nat :=
  if d.fieldsBad write then some stContextFault
  else match side with
    | .ext xb => if d.misaligned xb then some stContextFault else none
    | .scratch =>
      if d.misaligned 0 then some stContextFault
      else if d.inRange (cfgBase m.cfgStore) then none else some stOverflow
    | .slot base len =>
      if d.misaligned base then some stContextFault
      else if d.inRange len && d.inRange (cfgBase m.cfgStore - base) then none else some stOverflow

/-- Whether a descriptor entry holds an uncorrectable error, or fog that a scan has brought (R320, R444). -/
def Mu.entryFault (m : Mu) (i : Nat) : Bool := m.descBad.contains i || m.descFog.contains i

/-- The check of a descriptor index together with its companion (R45, R79, R83), and the uncorrectable error of an entry
(R444). -/
def Mu.checkDesc (m : Mu) (i : Nat) (write : Bool) (side : Side) : Option Nat :=
  let d := m.desc_ i
  if 1024 ≤ i then some stContextFault
  else if m.entryFault i then some stFoggedControl
  else match d.check m write side with
    | some st => some st
    | none =>
      if d.scaled then
        if 1024 ≤ i + 1 then some stContextFault
        else if m.entryFault (i + 1) then some stFoggedControl
        else ((m.desc_ (i + 1)).asScales).check m write side
      else none

/-- The side of a scratchpad or slot walk, a slot given by its first byte and its length: an `ext` descriptor where a slot is named is
a broken rule (R83). -/
def Desc.sideOf (d : Desc) (slot : Option (Nat × Nat)) (xb : Nat) : Option Side :=
  match slot with
  | some (b, n) => if d.ext then none else some (.slot b n)
  | none => if d.ext then some (.ext xb) else some .scratch

/-- First byte and length of a slot. -/
def Mu.slotRange (m : Mu) (k : Nat) : Nat × Nat := ((m.slot k).base * 256, (m.slot k).length * 256)

/-- First byte of a side in the scratchpad. -/
def Side.base : Side → Nat
  | .slot b _ => b
  | _ => 0

/-! ### Reading a walk of the scratchpad -/

/-- Whether a walk is dense at an offset: base a multiple of 4,096, nothing masked, consecutive bytes in walk order
(R99). -/
def Desc.dense (d : Desc) (base : Nat) : Bool :=
  let els := d.runs.flatten
  let per : Nat := if d.bits = 4 then 2 else 1
  (d.base + base) % 4096 == 0 && els.all (fun e => !e.masked)
    && (els.zip (upto 0 els.length)).all (fun (e, i) => decide (e.addr = (d.base : Int) + ((i / per * d.elBytes : Nat) : Int)))
    && !(d.bits == 4 && d.bnd 0 % 2 == 1 && decide (1 < d.runs.length))

/-- Bytes of a dense walk. -/
def Desc.bytes (d : Desc) : Nat := ceilDiv (d.count * d.bits) 8

/-- A mismatch of a scratchpad block: its entry is unchecked, its granules are fogged, and the record has class `cls` (R463, R465). -/
def State.muBadBlock (s : State) (gid cls a len : Nat) (want got : BitVec 32) : State :=
  let m := s.mu gid
  let s := s.setMu gid { m with
    checks := tabDel m.checks (a / 4096)
    fog := (upto (a / 64) (ceilDiv len 64)).foldl setAdd m.fog }
  s.crcMismatch (s.aboutUnit gid { cls := cls, sev := 2, cause := 0x04, akind := 1, addr := a }) want got

/-- Verify the valid blocks that a dense scratchpad walk of a read generator (`cls` 0) or an engine (`cls` 2) reads whole; one with a
fogged or an uncorrectable word is not verified, and becomes unchecked (R463, R465). -/
def State.muVerify (s : State) (gid cls addr n : Nat) : State :=
  (upto 0 (ceilDiv n 4096)).foldl (fun s i =>
    let m := s.mu gid
    let a := addr + i * 4096
    let len := min 4096 (n - i * 4096)
    match tabFind m.checks (a / 4096) with
    | none => s
    | some e =>
      if e.n ≠ len then s
      else if m.fogAt a len || m.ueWords.any (inWords a len) then s.setMu gid { m with checks := tabDel m.checks (a / 4096) }
      else
        let got := crc32c (memRead m.mem a len)
        if got = e.crc then s else s.muBadBlock gid cls a len e.crc got) s

/-- Store the CRC of a block that a dense write completed, or fog it on a mismatch (R99, R463). -/
def State.muStoreCheck (s : State) (gid addr len : Nat) (came : Option (BitVec 32)) : State :=
  let m := s.mu gid
  if m.fogAt addr len then s.setMu gid { m with checks := tabDel m.checks (addr / 4096) }
  else
    let got := crc32c (memRead m.mem addr len)
    match came with
    | some want =>
      if want = got then s.setMu gid { m with checks := tabSet m.checks (addr / 4096) { crc := got, n := len } }
      else s.muBadBlock gid 0 addr len want got
    | none => s.setMu gid { m with checks := tabSet m.checks (addr / 4096) { crc := got, n := len } }

/-- The CRCs that a read forwards: of a valid block read whole the stored one, else none, so that it is computed
(R100). -/
def Mu.forwarded (m : Mu) (addr n : Nat) : List (Option (BitVec 32)) :=
  (upto 0 (ceilDiv n 4096)).map (fun i =>
    let len := min 4096 (n - i * 4096)
    match tabFind m.checks ((addr + i * 4096) / 4096) with
    | some e => if e.n = len then some e.crc else none
    | none => none)

/-- Join the accesses of consecutive elements into accesses that cross no boundary of `line` bytes (R85, R87); the two elements of
one byte share its access. -/
def joinReq (line : Nat) : List (Nat × Nat) → List (Nat × Nat)
  | [] => []
  | (a, n) :: t =>
    match joinReq line t with
    | (b, k) :: r =>
      if b = a + n ∧ a / line = (b + k - 1) / line then (a, n + k) :: r
      else if b = a ∧ n = 1 then (b, k) :: r
      else (a, n) :: (b, k) :: r
    | [] => [(a, n)]

/-- The wide accesses of a run in the scratchpad: its elements in one aligned 256 B line (R85). -/
def Desc.runAccesses (d : Desc) (base : Nat) (r : List WEl) : List (Nat × Nat) :=
  joinReq 256 (r.filterMap (fun e => if e.masked then none else some ((e.addr + base).toNat, d.elBytes)))

/-- The byte ranges of a walk's accesses, for wake-up and error handling. -/
def Desc.touched (d : Desc) (base : Nat) : List (Nat × Nat) := d.untransposed.runs.flatMap (d.runAccesses base)

/-- The scale byte offset of an element in its companion (R45). -/
def Desc.scaleAddr (c : Desc) (v : List Nat) : Int :=
  (upto 1 (c.levels - 1)).foldl (fun a i => a + (v.getD i 0 : Int) * c.str i) ((c.base : Int) + (v.getD 0 0 / 32 : Nat) * c.str 0)

/-- Whether every element of the block of an element is masked (R91). -/
def Desc.blockMasked (d : Desc) (v : List Nat) : Bool :=
  let b := v.getD 0 0 / 32 * 32
  (upto b (min 32 (d.bnd 0 - b))).all (fun i => let w := v.set 0 i; d.maskedBy w 0 || d.maskedBy w 1)

/-- What a masked element delivers: the pad of its descriptor, or 0x7F for the scale of a block all masked (R89, R91). -/
def Desc.padEl (d : Desc) (e : WEl) : El := { bits := e.fill.getD d.pad % 2 ^ d.bits, masked := true }

/-- A companion's walk for the tensor of descriptor `d`: the scale of a block whose elements are all masked is not read, and is
0x7F (R91). -/
def Desc.maskScales (d : Desc) (rs : List (List WEl)) : List (List WEl) :=
  rs.map (fun r => r.map (fun e =>
    if d.blockMasked (e.idx.set 0 (e.idx.getD 0 0 * 32)) then { e with masked := true, fill := some 0x7F } else e))

/-- One element read through the wide view: bits and fog, pad for a masked one (R89, R90, R95). -/
def Mu.readEl (m : Mu) (d : Desc) (base : Nat) (e : WEl) : El :=
  if e.masked then d.padEl e
  else
    let a := (e.addr + base).toNat
    let x := ofBytes (memRead m.mem a d.elBytes)
    { bits := if d.bits = 4 then (if e.nib then x / 16 else x % 16) else x, fog := m.fogAt a d.elBytes }

/-- The powered-down bank groups that a walk touches (R109). -/
def Mu.walkAsleep (m : Mu) (d : Desc) (base : Nat) : BitVec 8 :=
  (d.touched base).foldl (fun a (o, n) => a ||| m.asleep o n) 0

/-- The powered-down bank groups that a walk and the scales of its companion `c` touch. -/
def Mu.scaledAsleep (m : Mu) (d c : Desc) : BitVec 8 :=
  d.runs.flatten.foldl (fun a e => if e.masked || !d.scaled then a else a ||| m.asleep (c.scaleAddr e.idx).toNat 1) (m.walkAsleep d 0)

/-- One element with its block scale: scale 127 for an unscaled walk or a block all masked (R44, R91). -/
def Mu.readScaled (m : Mu) (d c : Desc) (base : Nat) (e : WEl) : El :=
  let el := m.readEl d base e
  if d.scaled && !d.blockMasked e.idx then
    let a := (c.scaleAddr e.idx + base).toNat
    { el with fog := el.fog || m.fogAt a 1, scale := (memGet m.mem a).toNat }
  else el

/-- The rows in which some runs of a walk are read: along loop 0, in which a transposed walk fills its buffer too (R85, R93). -/
def Desc.alongLoop0 (d : Desc) (rs : List (List WEl)) : List (List WEl) :=
  if d.xpose then
    let els := rs.flatten
    d.untransposed.runs.filterMap (fun r =>
      let l := r.filter (fun e => els.any (fun f => f.addr == e.addr && f.nib == e.nib && f.masked == e.masked))
      if l.isEmpty then none else some l)
  else rs

/-- What the codes of the words that some runs of a walk touch do (R94); `c` is the companion. -/
def State.touchRuns (s : State) (gid : Nat) (d c : Desc) (base : Nat) (rs : List (List WEl)) : State :=
  (d.alongLoop0 rs).foldl (fun s r =>
    let s := (d.runAccesses base r).foldl (fun s (a, n) => s.touchRead gid a n) s
    if d.scaled then
      (joinReq 256 (r.filterMap (fun e => if e.masked then none else some ((c.scaleAddr e.idx + base).toNat, 1)))).foldl (fun s (a, n) => s.touchRead gid a n) s
    else s) s

/-- Verify the valid blocks of a dense walk that some of its runs lie in: each is read whole and compared before any of its bytes is
delivered (R463, R464). -/
def State.verifyRuns (s : State) (gid : Nat) (d : Desc) (rs : List (List WEl)) : State :=
  if !d.dense 0 then s
  else
    let blocks := (rs.flatMap (d.runAccesses 0)).foldl (fun l e => setAdd l (e.1 / 4096)) []
    blocks.foldl (fun s b => s.muVerify gid 0 (b * 4096) (min 4096 (d.base + d.bytes - b * 4096))) s

/-- Read some runs of a walk, numbered in walk order. -/
def State.readRuns (s : State) (gid : Nat) (d c : Desc) (ks : List Nat) : State × List (List El) :=
  let rs := ks.map (fun k => d.runs.getD k [])
  let s := (s.touchRuns gid d c 0 rs).verifyRuns gid d rs
  (s, rs.map (fun r => r.map ((s.mu gid).readScaled d c 0)))

/-- The powered-down bank groups that some runs touch. -/
def Mu.runsAsleep (m : Mu) (d c : Desc) (ks : List Nat) : BitVec 8 :=
  (ks.flatMap (fun k => d.runs.getD k [])).foldl (fun a e =>
    if e.masked then a
    else a ||| m.asleep e.addr.toNat d.elBytes ||| (if d.scaled then m.asleep (c.scaleAddr e.idx).toNat 1 else 0)) 0

/-- Read runs of a walk without scales: their elements, and the CRCs that go with a dense walk (R100). -/
def State.readRaw (s : State) (gid : Nat) (d : Desc) (base : Nat) (rs : List (List WEl)) : State × List (List El) × List (Option (BitVec 32)) :=
  let s := ((d.alongLoop0 rs).flatMap (d.runAccesses base)).foldl (fun s (a, n) => s.touchRead gid a n) s
  let s := if d.dense base then s.muVerify gid 0 (d.base + base) d.bytes else s
  let m := s.mu gid
  (s, rs.map (fun r => r.map (m.readEl d base)), if d.dense base then m.forwarded (d.base + base) d.bytes else [])

/-- Read a whole walk without scales. -/
def State.readPlain (s : State) (gid : Nat) (d : Desc) (base : Nat) : State × List (List El) × List (Option (BitVec 32)) :=
  s.readRaw gid d base d.runs

/-! ### Writing a walk of the scratchpad -/

/-- One 4-bit element merged into its byte: the other half keeps what `old` holds, but the last element of an odd row
clears the spare half (R38). -/
def Desc.halfByte (d : Desc) (old : Nat → Byte) (base : Nat) (e : WEl) (x : El) : Nat × Byte × Bool :=
  let a := (e.addr + base).toNat
  let o := (old a).toNat
  let spare := d.bnd 0 % 2 == 1 && e.idx.getD 0 0 + 1 == d.bnd 0
  (a, BitVec.ofNat 8 (if e.nib then o % 16 + 16 * (x.bits % 16) else x.bits % 16 + (if spare then 0 else o / 16 * 16)), x.fog)

/-- The bytes that one element writes, by itself. -/
def Desc.oneBytes (d : Desc) (old : Nat → Byte) (base : Nat) (e : WEl) (x : El) : List (Nat × Byte × Bool) :=
  if e.masked then []
  else if d.bits = 4 then [d.halfByte old base e x]
  else (upto 0 d.elBytes).map (fun k => ((e.addr + base).toNat + k, BitVec.ofNat 8 (x.bits / 256 ^ k), x.fog))

/-- The bytes that a run of elements writes: byte address, value and fog; two 4-bit elements of one byte are written
together (R38, R89). -/
def Desc.runBytes (d : Desc) (old : Nat → Byte) (base : Nat) : List (WEl × El) → List (Nat × Byte × Bool)
  | [] => []
  | [(e, x)] => d.oneBytes old base e x
  | (e, x) :: (f, y) :: t =>
    if d.bits == 4 && !e.masked && !f.masked && !e.nib && f.nib && f.addr == e.addr then
      ((e.addr + base).toNat, BitVec.ofNat 8 (x.bits % 16 + 16 * (y.bits % 16)), x.fog || y.fog) :: d.runBytes old base t
    else d.oneBytes old base e x ++ d.runBytes old base ((f, y) :: t)

/-- Join bytes at consecutive addresses within one aligned line of `line` bytes into accesses (R85). -/
def joinBytes (line : Nat) : List (Nat × Byte × Bool) → List (Nat × List Byte × List Bool)
  | [] => []
  | (a, b, f) :: t =>
    match joinBytes line t with
    | (a', bs, fs) :: r => if a' = a + 1 ∧ a' / line = a / line then (a, b :: bs, f :: fs) :: r else (a, [b], [f]) :: (a', bs, fs) :: r
    | [] => [(a, [b], [f])]

/-- Pair the elements of a run with what is written to them. -/
def pairUp (ws : List WEl) (xs : List El) : List (WEl × El) := ws.zip xs

/-- Write elements to the runs of a walk in an MU's scratchpad, as far as there are any. -/
def State.writeRuns (s : State) (gid : Nat) (d : Desc) (base : Nat) (runs : List (List El)) : State :=
  (d.runs.zip runs).foldl (fun s (ws, xs) =>
    (joinBytes 256 (d.runBytes (memGet (s.mu gid).mem) base (pairUp ws xs))).foldl
      (fun s (a, bs, fs) => s.muWritePlain gid a bs fs) s) s

/-- Write the walk of a descriptor in an MU's scratchpad, run by run (R85, R89, R95, R99). `came` are the CRCs that came
with the data, one for each block, none where the write generator computes it. -/
def State.writeWalk (s : State) (gid : Nat) (d : Desc) (base : Nat) (runs : List (List El))
    (came : List (Option (BitVec 32))) : State :=
  let s := s.writeRuns gid d base runs
  if d.dense base then
    (upto 0 (ceilDiv d.bytes 4096)).foldl (fun s k =>
      s.muStoreCheck gid (d.base + base + k * 4096) (min 4096 (d.bytes - k * 4096)) ((came.getD k none))) s
  else s

/-- Split a list of elements into the runs of a walk. -/
def splitRuns (d : Desc) (l : List El) : List (List El) :=
  (d.runs.foldl (fun (acc : List (List El) × List El) r => (acc.1 ++ [acc.2.take r.length], acc.2.drop r.length)) ([], l)).1

/-! ### Flits (R218 to R220, R282) -/

/-- Cut runs into flits of at most 128 B, each run starting a new flit. -/
def cutFlits (bits : Nat) (runs : List (List El)) : List Flit :=
  runs.flatMap (fun r => (chunks (1024 / bits) r.length r).map (fun c =>
    { bytes := packEls bits (c.map (·.bits))
      mask := if c.any (·.masked) then c.map (·.masked) else []
      fog0 := ((c.zip (upto 0 c.length)).any (fun (e, j) => e.fog && decide (j * bits < 512)))
      fog1 := ((c.zip (upto 0 c.length)).any (fun (e, j) => e.fog && decide (512 ≤ j * bits))) }))

/-- Set `eob` and `check` on the flits that reach a multiple of 4,096 valid bytes and on the last, and `eot` on the last
(R220). `before` are the bytes of the block not yet checked, `k` the block's index, `fwd` the forwarded CRCs. -/
def markFlits (fwd : List (Option (BitVec 32))) : List Byte → Nat → List Flit → List Flit
  | _, _, [] => []
  | before, k, f :: t =>
    let acc := before ++ f.bytes
    let crc := fun (l : List Byte) => match fwd.getD k none with | some c => c | none => crc32c l
    if t.isEmpty then [{ f with eob := true, eot := true, check := crc (acc.take 4096) }]
    else if 4096 ≤ acc.length then { f with eob := true, check := crc (acc.take 4096) } :: markFlits fwd (acc.drop 4096) (k + 1) t
    else f :: markFlits fwd acc k t

/-- Set `eob` and `check` on the flits of a part of a tensor that is not its end; answers also the bytes of the block still open
(R220). -/
def markPart : List Byte → List Flit → List Flit × List Byte
  | before, [] => ([], before)
  | before, f :: t =>
    let acc := before ++ f.bytes
    if 4096 ≤ acc.length then
      let (l, rest) := markPart (acc.drop 4096) t
      ({ f with eob := true, check := crc32c (acc.take 4096) } :: l, rest)
    else
      let (l, rest) := markPart acc t
      (f :: l, rest)

/-- The flits of some runs of a tensor, behind the bytes `before` of an open block, the last of it when `fin`; answers also the bytes
of the block still open. -/
def partFlits (bits : Nat) (fin : Bool) (before : List Byte) (runs : List (List El)) : List Flit × List Byte :=
  if fin then (match cutFlits bits runs with | [] => ([{ eot := true }], []) | l => (markFlits [] before 0 l, []))
  else markPart before (cutFlits bits runs)

/-- The flits of one tensor; an empty tensor is one empty flit with `eot` (R220). -/
def tensorFlits (bits : Nat) (runs : List (List El)) (fwd : List (Option (BitVec 32))) : List Flit :=
  match cutFlits bits runs with
  | [] => [{ eot := true }]
  | l => markFlits fwd [] 0 l

/-- The fog of the bytes of a flit. -/
def Flit.byteFog (f : Flit) : List Bool := (upto 0 f.bytes.length).map (fun i => if i < 64 then f.fog0 else f.fog1)

/-- A flit that carries fog. -/
def Flit.fogged (f : Flit) : Bool := f.fog0 || f.fog1

/-- The flits up to and with the first `eot`, and the rest; none when no tensor is complete. -/
def takeTensor : List Flit → Option (List Flit × List Flit)
  | [] => none
  | f :: t => if f.eot then some ([f], t) else (takeTensor t).map (fun (a, b) => (f :: a, b))

/-- The data flits at the head of a queue, before the first daymark or configuration flit. -/
def headData : List Flit → List Flit
  | [] => []
  | f :: t => if f.kind = .data then f :: headData t else []

/-- The bytes of a run of `n` elements. -/
def runLen (bits n : Nat) : Nat := ceilDiv (n * bits) 8

/-- The elements of a byte string with fog, run by run; the runs have the given lengths (R38, R219). -/
def bytesToRuns (bits : Nat) : List Nat → List Byte → List Bool → List (List El)
  | [], _, _ => []
  | n :: t, bs, fs =>
    let k := runLen bits n
    let els := unpackEls bits (bs.take k) n
    ((els.zip (upto 0 n)).map (fun (x, j) => { bits := x, fog := (upto (j * bits / 8) (max 1 (bits / 8))).any (fun q => fs.getD q false) }))
      :: bytesToRuns bits t (bs.drop k) (fs.drop k)

/-- The CRCs that came on the `eob` flits of a tensor. -/
def flitChecks (l : List Flit) : List (Option (BitVec 32)) := l.filterMap (fun f => if f.eob then some (some f.check) else none)

end Sys2Proof.Machine
end

