-- ==== Sys2Proof/Machine/Tensor.lean ====
section
/-!
DEFINITION. What tensor instructions have alike (spec/09): the issue queue and its checks (R270, R274 to R277), address
generators (R86), channels (R224), latched descriptors (R83, R84), delivery to a stream or to the next stage, completion
(R286), and the instructions every unit runs: QSEND, CHAIN, FENCE and DAYMARK.
-/

namespace Sys2Proof.Machine

/-! ### Instructions of a unit -/

/-- The circuit that starts at a port of a switch, and the circuit and branch that end at a port (R302). -/
def Sw.circFrom (w : Sw) (port : Nat) : Option Nat := (w.circ.find? (fun e => e.2.valid && e.2.src == port)).map (·.1)
def Sw.circTo (w : Sw) (port : Nat) : Option Nat := (w.circ.find? (fun e => e.2.valid && e.2.tos.contains (some port))).map (·.1)

/-- Port code of channel `ch` of local unit `u` (R302). -/
def chanPort (u ch : Nat) : Nat := 8 + 2 * u + ch

/-- No instruction issued to the unit is still in progress. -/
def State.unitQuiet (s : State) (g : Nat) : Bool := (s.tu g).running.isEmpty

/-- The channels (1 and 2) that an `in` or `out` field names. -/
def namedChans (o : Nat) : List Nat := (if o % 2 = 1 then [1] else []) ++ (if 2 ≤ o then [2] else [])

/-- Whether input or output channel `code` (1 or 2) has a circuit and no other instruction of the unit uses it (R224). An instruction
uses its channels from its issue until it completes (DEDUCED, log 21). -/
def State.chanOk (s : State) (g code : Nat) (out : Bool) : Bool :=
  let w := s.sw (clusterOf g)
  let port := chanPort (localOf g) (code - 1)
  (if out then (w.circFrom port).isSome else (w.circTo port).isSome)
    && !(s.tu g).running.any (fun r => (namedChans (if out then r.iss.i.sout else r.iss.i.sin)).contains code)

/-- The instructions that a unit holds, but for CHAINs, which are held for their stages (R170, R291). -/
def Tu.holds (t : Tu) : List Run := t.running.filter (fun r => r.iss.i.op != 0x60)

/-- A VCU holds at most two instructions (R170). -/
def State.unitFull (s : State) (g : Nat) : Bool := unitClass (localOf g) == 2 && decide (2 ≤ (s.tu g).holds.length)

/-- Whether it is a run's turn at its unit: a VCU runs its instructions one after another in issue order (R170). -/
def State.myTurn (s : State) (g : Nat) (r : Run) : Bool :=
  unitClass (localOf g) != 2 || ((s.tu g).holds.find? (fun x => !x.finished)).any (fun x => x.id == r.id)

/-- Replace a running instruction of a unit. -/
def State.putRun (s : State) (g : Nat) (r : Run) : State :=
  let t := s.tu g
  s.setTu g { t with running := t.running.map (fun x => if x.id = r.id then r else x) }

/-- A slot of an MCU without the instruction `id`. -/
def unbind (id : Nat) (b : Option Bound) : Option Bound := if b.any (fun x => x.id == id) then none else b

/-- Take a running instruction out; an MCU's slot that it is bound to becomes free (R135). -/
def State.dropRun (s : State) (g id : Nat) : State :=
  let t := s.tu g
  let s := s.setTu g { t with running := t.running.filter (fun x => x.id != id) }
  let m := s.mcu g
  if unitClass (localOf g) != 1 then s
  else s.setMcu g { m with
    f0 := unbind id m.f0, f1 := unbind id m.f1, b0 := unbind id m.b0, b1 := unbind id m.b1
    shared := m.shared.filter (fun t => t.id != id), current := m.current.filter (· != id) }

/-- The head of the issue queue leaves it and runs; the run gets a number of its own. -/
def State.beginRun (s : State) (g : Nat) (r : Run) : State :=
  let t := s.tu g
  s.setTu g { t with iq := t.iq.drop 1, running := t.running ++ [{ r with id := t.nextId }], nextId := t.nextId + 1 }

/-- A tensor instruction breaks a rule: its context fails. -/
def State.tensorFail (s : State) (g : Nat) (iss : Issued) (status cause : Nat) : State :=
  s.failCtx iss.ctx status { unit := g, cls := 5, sev := 3, cause := cause, op := iss.i.op }

/-- A status that fails a context, as its cause code (R438). -/
def causeOf (status : Nat) : Nat :=
  if status = stFoggedControl then 0x06 else if status = stOverflow then 0x08 else if status = stFoggedOutput then 0x05 else 0x07

/-- Whether an instruction stands on an uncorrectable error of what steers it: its record, or a descriptor entry that it names (R83, R268). -/
def State.steeredByUe (s : State) (g : Nat) (i : TInstr) : Bool :=
  let t := s.tu g
  let m := s.mu (homeMu g)
  [i.par, i.par + 1].any t.timBad.contains || [i.da, i.da + 1, i.db, i.db + 1, i.dc, i.dc + 1].any m.descBad.contains

/-- Fail with the cause that goes with the status: what steers control is fogged, or holds an uncorrectable error. -/
def State.tensorFault (s : State) (g : Nat) (iss : Issued) (status : Nat) : State :=
  s.tensorFail g iss status (if status = stFoggedControl ∧ s.steeredByUe g iss.i = true then 0x02 else causeOf status)

/-- The checks at issue that every instruction shares: fields, and the record read without an uncorrectable error (R268,
R270). A record index 0xFFFF reads as a record of zeros (log 22). -/
def State.issueCheck (s : State) (g : Nat) (iss : Issued) : Option Nat :=
  if !fieldsOk (localOf g) iss.i then some stContextFault
  else if (opUses iss.i.op).par && (s.tu g).recordBad iss.i.par then some stFoggedControl
  else none

/-- The parameter record of an instruction. -/
def State.recordOf (s : State) (g : Nat) (i : TInstr) : BitVec 256 := (s.tu g).recordAt i.par

/-- Descriptors A, B and C with their companions, as they stand at issue (R83, R84). -/
def Mu.latchOf (m : Mu) (i : TInstr) : Tab (BitVec 512) :=
  [i.da, i.da + 1, i.db, i.db + 1, i.dc, i.dc + 1].foldl
    (fun t k => if k < 1024 then tabSet t k (tabGet 0 m.desc k) else t) []

/-- A latched descriptor, and its companion read as scale bytes. -/
def Run.desc (r : Run) (i : Nat) : Desc := descOf (tabGet 0 r.latch i)
def Run.comp (r : Run) (i : Nat) : Desc := (r.desc (i + 1)).asScales

/-! ### Generators and the transpose buffer (R86, R93) -/

/-- The units that use an MU's generators: itself and the compute unit whose home it is (R28). -/
def usersOf (g : Nat) : List Nat := [g, g + 12]

/-- Generators of an MU that are taken: RG0, RG1, WG0, WG1 are 0 to 3. -/
def State.gensTaken (s : State) (g : Nat) : List Nat :=
  (usersOf g).flatMap (fun u => (s.tu u).running.flatMap (fun r => r.gens))

/-- Free generators for `reads` read and `writes` write generators, or none when too few are free (R86, R281). -/
def State.freeGens (s : State) (g reads writes : Nat) : Option (List Nat) :=
  let busy := s.gensTaken g
  let r := [0, 1].filter (fun k => !busy.contains k)
  let w := [2, 3].filter (fun k => !busy.contains k)
  if reads ≤ r.length ∧ writes ≤ w.length then some (r.take reads ++ w.take writes) else none

/-- The descriptors through which an instruction reads: A and B, and the third and fourth operand of a matrix instruction (R120). -/
def readDescs (i : TInstr) (p : BitVec 256) : List Nat :=
  ([i.da, i.db] ++ (match i.op with
    | 0x21 => [recFld p 137 128]
    | 0x23 => [recFld p 137 128, recFld p 147 138]
    | _ => [])).filter (fun k => decide (k < 1024))

/-- Whether a run reads through the transpose buffer. -/
def Run.xposes (r : Run) : Bool := (readDescs r.iss.i r.prm).any (fun k => (r.desc k).xpose)

/-- Whether an instruction at an MU or at the compute unit of that home has the transpose buffer, which it keeps until it completes
(R93). -/
def State.xposeTaken (s : State) (g : Nat) : Bool :=
  (usersOf g).any (fun u => (s.tu u).running.any (fun r => !r.latch.isEmpty && r.xposes))

/-- The generators of its home MU that an instruction which reads or writes there takes when it issues (R86): one of a kind, however many
walks it has (DEDUCED, log 140); none when they are not free. -/
def State.homeGens (s : State) (g : Nat) (reads writes : Bool) : Option (List Nat) := s.freeGens (homeMu g) (b2n reads) (b2n writes)

/-! ### Streams and hand-overs (R222, R227, R292) -/

/-- A flit whose payload words have been read out of a queue: an uncorrectable word has fogged its half (R245). -/
def Flit.settle (f : Flit) : Flit := { f with fog0 := f.fog0 || f.ue0, fog1 := f.fog1 || f.ue1, ce := false, ue0 := false, ue1 := false }

/-- The uncorrectable words of a flit: those of its payload, and that of its side bits (R245). -/
def Flit.badWords (f : Flit) : Nat := b2n f.ue0 + b2n f.ue1 + b2n f.sideBad

/-- Count the errors of flits that leave the queues of a switch, and record those of payload words; bad side bits fail a context, with its
record (R244, R245, R436). -/
def State.countWords (s : State) (c : Nat) (fl : List Flit) : State :=
  let n := (fl.filter (·.ce)).length
  let m := (fl.map Flit.badWords).sum
  if n = 0 ∧ m = 0 then s
  else
    let w := s.sw c
    let s := s.setSw c { w with ce := sat32 w.ce n, ue := sat32 w.ue m }
    let g := gidOf c 24
    fl.foldl (fun s f =>
      let s := if f.ce then s.corrected (s.aboutUnit g { cls := 1, sev := 1, cause := 0x01 }) else s
      (upto 0 (b2n f.ue0 + b2n f.ue1)).foldl (fun s _ => s.recordUnit g { cls := 1, sev := 2, cause := 0x02 }) s) s

/-- Whether a flit handed over is for a stage. -/
def Stage.takes (st : Stage) (f : Flit) : Bool :=
  match f.tag with
  | some t => t.head == st.head && t.id == st.id && t.stage == st.stage
  | none => false

/-- Deliver flits to where an instruction sends its output: the next stage of a CHAIN, over the wide view or a lane, or
the output channel. Masks go to a compute unit over its wide view only (R90). -/
def State.deliver (s : State) (g : Nat) (r : Run) (fl : List Flit) : State :=
  let c := clusterOf g
  let plain := fl.map (fun f => { f with mask := [] })
  let toChannel := fun (s : State) =>
    let t := s.tu g
    let mine := plain.map (fun f => { f with own := r.id })
    if r.iss.i.sout = 1 then s.setTu g { t with outq0 := t.outq0 ++ mine }
    else if r.iss.i.sout = 2 then s.setTu g { t with outq1 := t.outq1 ++ mine }
    else s
  match r.iss.chain with
  | none => toChannel s
  | some st =>
    match st.outTo, st.outLane with
    | none, _ => toChannel s
    | some _, some n =>
      let w := s.sw c
      let l := tabGet {} w.lanes n
      let tag : HandTag := { head := st.head, id := st.id, stage := st.stage + 1, lane := true }
      s.setSw c { w with lanes := tabSet w.lanes n { l with flits := l.flits ++ plain.map (fun f => { f with tag := some tag }) } }
    | some u, none =>
      let t := s.tu (gidOf c u)
      let tag : HandTag := { head := st.head, id := st.id, stage := st.stage + 1, lane := false }
      s.setTu (gidOf c u) { t with hand := t.hand ++ (if 12 ≤ u then fl else plain).map (fun f => { f with tag := some tag }) }

/-- The empty tensor that an instruction of count 0 sends where its output goes (R9); the stages of a CHAIN of count 0 hand nothing over. -/
def State.deliverEmpty (s : State) (g : Nat) (r : Run) : State :=
  if r.iss.chain.any (fun st => st.idle && !st.last) then s else s.deliver g r (tensorFlits 8 [] [])

/-- Where an instruction takes its stream from: what was handed over to its stage of a CHAIN, or an input channel. -/
def State.rawSource (s : State) (g : Nat) (r : Run) : List Flit :=
  let t := s.tu g
  let chan := headData (if r.iss.i.sin = 1 then t.inq0 else if r.iss.i.sin = 2 then t.inq1 else [])
  match r.iss.chain with
  | some st => if st.stage = 0 then chan else t.hand.filter st.takes
  | none => chan

/-- The flits that an instruction finds at its source, up to one whose side bits are uncorrectable (R245). -/
def State.source (s : State) (g : Nat) (r : Run) : List Flit := ((s.rawSource g r).takeWhile (fun f => !f.sideBad)).map Flit.settle

/-- The next flit of an instruction's source has uncorrectable side bits. -/
def State.sourceBad (s : State) (g : Nat) (r : Run) : Bool := (s.rawSource g r).head?.any (·.sideBad)

/-- Take the first `n` flits that satisfy `f` out of a list. -/
def dropWhere {α : Type} (f : α → Bool) : Nat → List α → List α
  | _, [] => []
  | 0, l => l
  | n + 1, a :: t => if f a then dropWhere f n t else a :: dropWhere f (n + 1) t

/-- Take the first `n` flits of the source. -/
def State.takeSource (s : State) (g : Nat) (r : Run) (n : Nat) : State :=
  let t := s.tu g
  let c := clusterOf g
  match r.iss.chain.filter (fun st => st.stage != 0) with
  | some st => (s.countWords c ((t.hand.filter st.takes).take n)).setTu g { t with hand := dropWhere st.takes n t.hand }
  | none =>
    if r.iss.i.sin = 1 then (s.countWords c (t.inq0.take n)).setTu g { t with inq0 := t.inq0.drop n }
    else if r.iss.i.sin = 2 then (s.countWords c (t.inq1.take n)).setTu g { t with inq1 := t.inq1.drop n }
    else s

/-- An instruction reads a flit whose side bits are uncorrectable: they steer control, and its context fails (R245, R444). -/
def State.sideFault (s : State) (g : Nat) (r : Run) : State :=
  (s.takeSource g r 1).failCtx r.iss.ctx stFoggedControl { unit := g, cls := 1, sev := 3, cause := 0x02, op := r.iss.i.op }

/-- A stage that is fed by, or feeds, another stage (R291). -/
def Issued.fed (i : Issued) : Bool := match i.chain with | some st => st.stage != 0 | none => false
def Issued.feeds (i : Issued) : Bool := match i.chain with | some st => !st.last | none => false

/-- Whether the output of an instruction has left its unit (R286): no flit of its own waits at an output channel, nor any on its lane. -/
def State.outputGone (s : State) (g : Nat) (r : Run) : Bool :=
  let c := clusterOf g
  let t := s.tu g
  let chan := !(t.outq0 ++ t.outq1).any (fun f => f.own == r.id)
  match r.iss.chain with
  | none => chan
  | some st =>
    match st.outTo, st.outLane with
    | none, _ => chan
    | some _, some n => (tabGet ({} : Lane) (s.sw c).lanes n).flits.isEmpty
    | some _, none => true

/-! ### The driver of a tensor command -/

/-- The first state that some running instruction of opcode `op` can be advanced to. -/
def firstAdvance (f : Run → Option State) : List Run → Option State
  | [] => none
  | r :: t => match f r with | some s => some s | none => firstAdvance f t

/-- A unit holds its issue while a newer daymark stands at the head of an input, or while configuration flits that it writes
are still to come (R318). -/
def Tu.issueHeld (t : Tu) : Bool :=
  let head := fun (l : List Flit) => match l with
    | f :: _ => f.kind == .daymark && (let d := (fld (ofBytes (f.bytes.take 4)) 11 0 + 4096 - t.epoch % 4096) % 4096; decide (1 ≤ d) && decide (d ≤ 2047))
    | [] => false
  head t.inq0 || head t.inq1 || (t.conf0 != 0 && t.confUse0) || (t.conf1 != 0 && t.confUse1)

/-- The instruction at the head of a unit's issue queue issues, where the command is for its opcode. One whose opcode the unit does not
run fails its context (R270; DESIGN CHOICE, log 36: the first command that addresses the unit finds it). -/
def issueHead (s : State) (g : Nat) (ops : Nat → Bool) (issue : State → Issued → State) : Res :=
  let t := s.tu g
  match t.iq with
  | h :: _ =>
    if t.issueHeld then .next s
    else if ops h.i.op then .next (issue s h)
    else if opRuns (localOf g) h.i.op then .next s
    else .next (s.tensorFault g h stContextFault)
  | [] => .next s

/-- A tensor command at a unit: an instruction of this opcode that runs goes one step further, or the one at the head of
the issue queue issues. A unit that is stopped or whose cluster may not act does nothing (log 1, log 23). -/
def tensorCmd (s : State) (g : Nat) (ops : Nat → Bool) (issue : State → Issued → State) (advance : State → Run → Option State) : Res :=
  let t := s.tu g
  if !s.acts g || t.stopped then .next s
  else match firstAdvance (fun r => if r.phase = 0 && s.myTurn g r && s.sourceBad g r then some (s.sideFault g r) else advance s r) (t.running.filter (fun r => ops r.iss.i.op && !r.finished)) with
    | some s => .next (s.progress (clusterOf g))
    | none => issueHead s g ops issue

/-! ### Completion (R184, R286, R294) -/

/-- Post a tag with its status to the SCU that issued the instruction (R184). -/
def State.postTag (s : State) (g : Nat) (iss : Issued) (status : Nat) : State :=
  if iss.i.tag = 0 then s
  else
    let k := gidOf (clusterOf g) iss.scu
    let u := s.scu k
    s.setScu k { u with tags := u.tags.map (fun e => if e.tag = iss.i.tag ∧ e.posted.isNone then { e with posted := some status } else e) }

/-- The first status that is not OK, stages in stage order (R294). -/
def firstBad (l : List (Nat × Nat)) : Nat :=
  match l.find? (fun e => e.2 != 0) with | some e => e.2 | none => 0

/-- Release the chain lanes of a CHAIN. -/
def State.freeLanes (s : State) (c : Nat) (lanes : List Nat) : State :=
  let w := s.sw c
  s.setSw c { w with lanes := lanes.foldl (fun t n => tabDel t n) w.lanes }

/-- The head leaves the queue and completes at once. -/
def State.headDone (s : State) (g : Nat) (iss : Issued) : State :=
  let t := s.tu g
  ((s.setTu g { t with iq := t.iq.drop 1 }).postTag g iss stOK).progress (clusterOf g)

/-- A stage of a CHAIN has completed: its status is noted; with the last stage the run of the CHAIN ends, and with the last
run the CHAIN itself, which releases its lanes and posts (R294). -/
def State.stageDone (s : State) (st : Stage) (status : Nat) : State :=
  match (s.tu st.head).running.find? (fun r => r.id == st.id) with
  | none => s
  | some r =>
    let r := { r with stageSt := tabSet r.stageSt st.stage status }
    if !st.last then s.putRun st.head r
    else
      let bad := firstBad r.stageSt
      let r := { r with run := r.run + 1, phase := 1, stageSt := [], status := if r.status = 0 then bad else r.status }
      if r.run < r.iss.i.count then s.putRun st.head r
      else ((s.dropRun st.head r.id).freeLanes (clusterOf st.head) r.lanes).postTag st.head r.iss r.status

/-- An instruction completes: it is no longer in progress, its generators are free, and its tag is posted, or its stage
noted (R286, R294). -/
def State.complete (s : State) (g : Nat) (r : Run) : State :=
  let s := s.dropRun g r.id
  let s := match r.iss.chain with
    | some st => s.stageDone st r.status
    | none => s.postTag g r.iss r.status
  s.progress (clusterOf g)

/-- Whether the earlier stages of the same run of the CHAIN have completed; asked of the last stage. -/
def State.stagesReady (s : State) (r : Run) : Bool :=
  match r.iss.chain with
  | none => true
  | some st =>
    !st.last || (match (s.tu st.head).running.find? (fun x => x.id == st.id) with
      | some h => (upto 0 st.stage).all (fun k => h.stageSt.any (fun e => e.1 == k))
      | none => true)

/-- Whether an instruction in progress meets its completion condition. A `QSEND` also waits for the outcome of every
message (R286). -/
def State.mayComplete (s : State) (g : Nat) (r : Run) : Bool :=
  r.finished && s.outputGone g r && s.stagesReady r && r.reqs.all (·.done)
    && !(r.iss.i.op == 0x50 && (s.tu g).send.any (fun e => e.run == r.id))

/-- INSTRUCTION_COMPLETE (R286): a unit completes its first instruction that meets its condition; a VCU completes in issue
order (R170), in which a CHAIN that it holds has no part: that ends with its last stage (R294). -/
def execInstructionComplete (u : TuId) (s : State) : Res :=
  let g := tuGid u
  let l := (s.tu g).holds
  let l := if unitClass u.idx.val = 2 then l.take 1 else l
  if !s.acts g then .next s
  else match l.find? (s.mayComplete g) with
    | some r => .next (s.complete g r)
    | none => .next s

/-! ### QSEND (R285) -/

/-- The fields of a QSEND record (R279). -/
def qsendMsg (g : Nat) (r : Run) (payload : List Byte) (fog : Bool) : Msg :=
  let p := r.prm.toNat
  { unit := fld p 15 0, queue := fld p 21 16, prio := fld p 23 22, fou := bitOf p 24, tag := fld p 39 32,
    payload := payload, fog := fog, sender := g, ctx := r.iss.ctx }

/-- Issue of a QSEND: the checks of R83, R189, R192, R198 and R275, and a read generator of the home MU. Each row of the walk starts on a
byte of the payload (R82). -/
def qsendIssue (s : State) (g : Nat) (iss : Issued) : State :=
  let i := iss.i
  let h := homeMu g
  let m := s.mu h
  let d := m.desc_ i.da
  let p := s.recordOf g i
  match s.issueCheck g iss with
  | some st => s.tensorFault g iss st
  | none =>
    if d.ext || fld p.toNat 31 25 ≠ 0 || fld p.toNat 255 40 ≠ 0 || !s.addrOk (fld p.toNat 15 0) (fld p.toNat 21 16) (fld p.toNat 39 32)
        || decide (4080 < ceilDiv (d.count * d.bits) 8) || decide (4080 < (d.runs.map (fun x => ceilDiv (x.length * d.bits) 8)).sum) then
      s.tensorFault g iss stContextFault
    else match m.checkDesc i.da false .scratch with
      | some st => s.tensorFault g iss st
      | none =>
        match s.freeGens h 1 0 with
        | none => s
        | some gens =>
          if (d.xpose && s.xposeTaken h) || s.unitFull g then s
          else s.beginRun g { iss := iss, prm := p, latch := m.latchOf i, gens := gens, finished := i.count == 0 }

/-- One message of a QSEND: the bytes of the walk go into the send buffer once it has room (R198, R199). Fog toward another
context fails the sender (R444). -/
def qsendAdvance (s : State) (g : Nat) (r : Run) : Option State :=
  let h := homeMu g
  let d := r.desc r.iss.i.da
  let m := s.mu h
  if !s.myTurn g r then none
  else if m.walkAsleep d 0 ≠ 0 then some (s.setMu h { m with waking := m.waking ||| m.walkAsleep d 0 })
  else if 8 ≤ (s.tu g).send.length then none
  else
    let (s, runs, _) := s.readPlain h d 0
    let payload := runs.flatMap (fun x => packEls d.bits (x.map (·.bits)))
    let fog := runs.any (fun x => x.any (·.fog))
    let msg := qsendMsg g r payload fog
    if fog && s.ownerOf (clusterOf msg.unit) != some r.iss.ctx then some (s.tensorFault g r.iss stFoggedOutput)
    else
      let t := s.tu g
      let s := s.setTu g { t with send := t.send ++ [{ msg := msg, scu := r.iss.scu, run := r.id }] }
      some (s.putRun g { r with run := r.run + 1, finished := decide (r.iss.i.count ≤ r.run + 1) })

/-- QSEND_TENSOR (R285). -/
def execQsendTensor (u : TuId) (s : State) : Res :=
  tensorCmd s (tuGid u) (· == 0x50) (fun s h => qsendIssue s (tuGid u) h) (fun s r => qsendAdvance s (tuGid u) r)

/-! ### CHAIN (R291 to R294) -/

/-- Whether two units are a compute unit and its home MU (R28, R292). -/
def homed (a b : Nat) : Bool := a != b && ((decide (12 ≤ a) && homeIdx a == b) || (decide (12 ≤ b) && homeIdx b == a))

/-- A stage as read from its unit: local index, instruction, whether its record has `fuse`, and whether a word is bad. -/
def State.chainStage (s : State) (c : Nat) (e : Nat × Nat) : Nat × TInstr × Bool × Bool :=
  let t := s.tu (gidOf c e.1)
  let i := decodeTensor (t.word e.2)
  (e.1, i, decide (0x20 ≤ i.op) && decide (i.op ≤ 0x23) && recFld (t.recordAt i.par) 106 106 == 1, t.wordBad e.2)

/-- The conditions of R291 on the stages of a CHAIN held at local index `u`. -/
def chainOk (u : Nat) (l : List (Nat × TInstr × Bool × Bool)) : Bool :=
  let n := l.length
  let units := l.map (·.1)
  decide (1 ≤ n) && decide (n ≤ 6) && units.head? == some u && units.all (fun k => decide (k < 20) && (units.filter (· == k)).length == 1)
    && decide (n + (l.filter (fun e => e.2.2.1)).length ≤ 6)
    && (l.zip (upto 0 n)).all (fun ((k, i, fuse, _), j) =>
      fieldsOk k i && [0x01, 0x02, 0x20, 0x22, 0x24, 0x30, 0x31].contains i.op
        && (j + 1 == n || (i.dc == 0xFFFF && i.sout == 0 && i.op != 0x02 && (i.op == 0x24 || !(decide (0x20 ≤ i.op) && decide (i.op ≤ 0x23)) || fuse)))
        && (j == 0 || (i.sin == 0 && (match i.op with
            | 0x02 => true
            | 0x20 | 0x22 => (i.da == 0xFFFF) != (i.db == 0xFFFF)
            | 0x30 => i.da == 0xFFFF
            | _ => false))))

/-- The lanes that the hand-overs need: one for each pair that is not a unit and its home (R292). -/
def chainLanes (l : List (Nat × TInstr × Bool × Bool)) : List Nat :=
  ((l.zip (l.drop 1)).zip (upto 0 l.length)).filterMap (fun ((a, b), j) => if homed a.1 b.1 then none else some j)

/-- The entries of a CHAIN's record. -/
def chainEntries (p : BitVec 256) : List (Nat × Nat) := (upto 0 (recFld p 2 0)).map (chainEntry p)

/-- Reserved bits of a CHAIN record (R279). -/
def chainRecOk (p : BitVec 256) : Bool :=
  recFld p 15 3 == 0 && recFld p 255 160 == 0 && (upto 0 (recFld p 2 0)).all (fun s => recFld p (24 * s + 39) (24 * s + 31) == 0)

/-- Issue of a CHAIN at the head of a queue: the checks, then all the lanes it needs or none (R228, R293). Lane numbers go
to the hand-overs in stage order. -/
def chainIssue (s : State) (g : Nat) (iss : Issued) : State :=
  let c := clusterOf g
  let p := s.recordOf g iss.i
  let st := (chainEntries p).map (s.chainStage c)
  match s.issueCheck g iss with
  | some e => s.tensorFault g iss e
  | none =>
    if st.any (fun e => e.2.2.2) then s.tensorFail g iss stFoggedControl 0x02
    else if !chainRecOk p || !chainOk (localOf g) st || decide (4 < (chainLanes st).length) then s.tensorFault g iss stContextFault
    else
      let w := s.sw c
      let free := (upto 0 4).filter (fun n => !(w.lanes.any (fun e => e.1 == n)))
      let need := (chainLanes st).length
      if free.length < need then s
      else
        let mine := free.take need
        let dst := fun (k : Nat) => ((chainLanes st)[k]?).bind (fun j => (st[j + 1]?).map (·.1))
        let lanes := (mine.zip (upto 0 need)).foldl (fun t (n, k) => tabSet t n { owner := some g, dst := (dst k).getD 0 }) w.lanes
        (s.setSw c { w with lanes := lanes }).beginRun g { iss := iss, prm := p, lanes := mine, phase := 1 }

/-- Place the stage instructions of the next run into the issue queues of their units, all in one step, once each has
room (R293). Phase 1 is a run still to place, 2 one placed. A CHAIN of count 0 places its stages once as instructions of count 0, which end
the last one's stream and the slot accesses (R9). A stage word or a record fetched in error is fog that steers control (R268). -/
def chainAdvance (s : State) (g : Nat) (r : Run) : Option State :=
  let c := clusterOf g
  let st := (chainEntries r.prm).map (s.chainStage c)
  let n := st.length
  let need := chainLanes st
  let idle := r.iss.i.count == 0
  if r.phase ≠ 1 then none
  else if st.any (fun e => 8 ≤ (s.issueQ c e.1).length) then none
  else if st.any (fun e => e.2.2.2) then some (s.tensorFail g r.iss stFoggedControl 0x02)
  else
    let s := (st.zip (upto 0 n)).foldl (fun s ((k, i, _, _), j) =>
      let stage : Stage := { head := g, id := r.id, stage := j, last := j + 1 == n, run := r.run,
                             outTo := (st[j + 1]?).map (·.1), outLane := (need.findIdx? (· == j)).bind (fun q => r.lanes[q]?), idle := idle }
      s.setIssueQ c k (s.issueQ c k ++ [{ i := { i with tag := 0, count := if idle then 0 else i.count }, scu := r.iss.scu, ctx := r.iss.ctx, chain := some stage }])) s
    some (s.putRun g { r with phase := 2 })

/-- CHAIN (R293). -/
def execChain (u : TuId) (s : State) : Res :=
  tensorCmd s (tuGid u) (· == 0x60) (fun s h => chainIssue s (tuGid u) h) (fun s r => chainAdvance s (tuGid u) r)

/-! ### FENCE and DAYMARK (R289, R290) -/

/-- A FENCE at the head leaves once every earlier instruction of the unit has completed. -/
def fenceIssue (s : State) (g : Nat) (iss : Issued) : State :=
  match s.issueCheck g iss with
  | some st => s.tensorFault g iss st
  | none => if s.unitQuiet g then s.headDone g iss else s

/-- FENCE (R289). -/
def execFence (u : TuId) (s : State) : Res :=
  tensorCmd s (tuGid u) (· == 0x70) (fun s h => fenceIssue s (tuGid u) h) (fun _ _ => none)

/-- Whether `(e - q) mod 4096` lies in 1 to 1,024 (R312). -/
def epochOk (e q : Nat) : Bool :=
  let d := (e + 4096 - q % 4096) % 4096
  decide (1 ≤ d) && decide (d ≤ 1024)

/-- A DAYMARK: its token, and the configuration flits of walk A, follow every flit of the earlier instructions of the unit, whatever it goes
to (R290, R315). A channel named that another instruction uses fails the context (R224). -/
def daymarkIssue (s : State) (g : Nat) (iss : Issued) : State :=
  let i := iss.i
  let c := clusterOf g
  let e := fld i.count 11 0
  let m := s.mu g
  let d := m.desc_ i.da
  let chans := namedChans i.sout
  match s.issueCheck g iss with
  | some st => s.tensorFault g iss st
  | none =>
    if !epochOk e (s.cl c).quietEpoch || !chans.all (fun k => s.chanOk g k true) then s.tensorFault g iss stContextFault
    else if (s.tu g).running.any (fun r => (r.iss.i.sout != 0 || r.iss.feeds) && !(r.finished && s.outputGone g r)) || s.unitFull g then s
    else
      let put := fun (s : State) (gens : List Nat) (l : List Flit) =>
        let t := s.tu g
        let l := l.map (fun f => { f with own := t.nextId })
        let t := if chans.contains 1 then { t with outq0 := t.outq0 ++ l } else t
        let t := if chans.contains 2 then { t with outq1 := t.outq1 ++ l } else t
        (s.setTu g t).beginRun g { iss := iss, gens := gens, finished := true }
      let token := fun (n : Nat) (fog : Bool) => ({ bytes := toBytes 128 (e + n * 2 ^ 16), kind := .daymark, fog0 := fog } : Flit)
      if i.da = 0xFFFF then put s [] [token 0 false]
      else if d.ext then s.tensorFault g iss stContextFault
      else match m.checkDesc i.da false .scratch with
        | some st => s.tensorFault g iss st
        | none =>
          match s.freeGens g 1 0 with
          | none => s
          | some gens =>
            if m.walkAsleep d 0 ≠ 0 then s.setMu g { m with waking := m.waking ||| m.walkAsleep d 0 }
            else
              let (s, runs, _) := s.readPlain g d 0
              let els := runs.flatMap (fun x => (packEls d.bits (x.map (·.bits))).zip (x.flatMap (fun y => List.replicate (max 1 (d.bits / 8)) y.fog)))
              let parts := chunks 128 els.length els
              put s gens (token parts.length false :: parts.map (fun q =>
                ({ bytes := q.map (·.1), fog0 := (q.take 64).any (·.2), fog1 := (q.drop 64).any (·.2), kind := .config } : Flit)))

/-- DAYMARK (R290). -/
def execDaymark (u : TuId) (s : State) : Res :=
  tensorCmd s (tuGid u) (· == 0x71) (fun s h => daymarkIssue s (tuGid u) h) (fun _ _ => none)

end Sys2Proof.Machine
end

