-- ==== Sys2Proof/Machine/Stream.lean ====
section
/-!
DEFINITION. The stream fabric (spec/07): queues, circuits and slots, control lanes, steering elements, the foghorn and
the spill ring.
-/

namespace Sys2Proof.Machine

/-! ### Queues of a switch (R214, R222, R223, R240) -/

/-- Number of a queue: buffers 0 to 63, input queues 64 + 2u + c, control buffers 104 + i. -/
def queueNum : QueueRef → Nat
  | .buf b => b.val
  | .inq u ch => 64 + 2 * u.val + ch.val
  | .ctl i => 104 + i.val

/-- A control bit as a record or waiting token carries it. -/
def bitFlit (b : Bool) : Flit := { eot := b }

/-- Whether a flit has come by a chain lane. -/
def laneFlit (f : Flit) : Bool := match f.tag with | some t => t.lane | none => false

/-- The input channel of a unit at which chain lanes end: the first that no circuit ends at, else channel 0 (R227; log 146). -/
def State.laneChan (s : State) (c u : Nat) : Nat :=
  if ((s.sw c).circTo (chanPort u 0)).isSome && ((s.sw c).circTo (chanPort u 1)).isNone then 1 else 0

/-- What a queue holds, control bits as `bitFlit`; the input queue of a lane holds its flits with those of a circuit (R227). -/
def State.queueItems (s : State) (c : Nat) (q : QueueRef) : List Flit :=
  match q with
  | .buf b => tabGet [] (s.sw c).bufs b.val
  | .inq u ch =>
    let t := s.tu (gidOf c u.val)
    (if ch.val = 0 then t.inq0 else t.inq1) ++ (if ch.val = s.laneChan c u.val then t.hand.filter laneFlit else [])
  | .ctl i => (tabGet [] (s.sw c).ctl i.val).map bitFlit

/-- Entries of a queue. -/
def queueCap : QueueRef → Nat
  | .buf _ => 4
  | _ => 16

/-- Append an item to a queue. -/
def State.enqueue (s : State) (c : Nat) (q : QueueRef) (f : Flit) : State :=
  match q with
  | .buf b => let w := s.sw c; s.setSw c { w with bufs := tabSet w.bufs b.val (tabGet [] w.bufs b.val ++ [f]) }
  | .inq u ch =>
    let t := s.tu (gidOf c u.val)
    s.setTu (gidOf c u.val) (if laneFlit f then { t with hand := t.hand ++ [f] } else if ch.val = 0 then { t with inq0 := t.inq0 ++ [f] } else { t with inq1 := t.inq1 ++ [f] })
  | .ctl i => let w := s.sw c; s.setSw c { w with ctl := tabSet w.ctl i.val (tabGet [] w.ctl i.val ++ [f.eot]) }

/-- Take the head of a circuit buffer, and of a control buffer. -/
def Sw.dropBuf (w : Sw) (b : Nat) : Sw := { w with bufs := tabSet w.bufs b ((tabGet [] w.bufs b).drop 1) }
def Sw.dropCtl (w : Sw) (i : Nat) : Sw := { w with ctl := tabSet w.ctl i ((tabGet [] w.ctl i).drop 1) }

/-- Whether a queue is in spill mode. -/
def Sw.spilling (w : Sw) (n : Nat) : Bool := w.spill.contains n

/-- Whether a queue takes one more item: a free entry, or in spill mode no token still waiting for the engine (R238). -/
def State.canTake (s : State) (c : Nat) (q : QueueRef) : Bool :=
  let w := s.sw c
  if w.spilling (queueNum q) then (tabGet [] w.waiting (queueNum q)).isEmpty
  else decide ((s.queueItems c q).length < queueCap q)

/-- An item arrives at a queue; in spill mode it waits for the spill engine (R238). -/
def State.arrive (s : State) (c : Nat) (q : QueueRef) (f : Flit) : State :=
  let w := s.sw c
  let w := if f.fogged then { w with fogSeen := true } else w
  let s := s.setSw c w
  if w.spilling (queueNum q) then s.setSw c { w with waiting := tabSet w.waiting (queueNum q) (tabGet [] w.waiting (queueNum q) ++ [f]) }
  else s.enqueue c q f

/-! ### Circuits (R214 to R216, R302) -/

/-- The used branches of an entry: index, port, and the buffer that feeds the port. -/
def Circ.branches (x : Circ) (n : Nat) : List (Nat × Nat × Nat) :=
  let l := (x.tos.zip (upto 0 4)).filterMap (fun (t, b) => t.map (fun p => (b, p)))
  if l.length ≤ 1 then l.map (fun (b, p) => (b, p, n)) else l.map (fun (b, p) => (b, p, x.buf.getD b 0))

/-- The neighbour of a logical cluster over a link: 0 north, 1 east, 2 south, 3 west; none at the edge (R212, R217). -/
def linkTo (c l : Nat) : Option Nat :=
  let x := c % 64
  let y := c / 64
  match l with
  | 0 => if y = 0 then none else some (c - 64)
  | 1 => if x = 63 then none else some (c + 1)
  | 2 => if y = 31 then none else some (c + 64)
  | 3 => if x = 0 then none else some (c - 1)
  | _ => none

/-- The circuit that owns a slot of a link and lane (R215, R301). -/
def Sw.slotOwner (w : Sw) (link lane slot : Nat) : Option Nat :=
  let b := (tabGet [] w.slotTab (2 * link + lane)).getD slot 0
  if 128 ≤ b then some (b % 64) else none

/-- Whether epoch `e'` is newer or older than `e` (R311). -/
def newer (e e' : Nat) : Bool := let d := (e' + 4096 - e % 4096) % 4096; decide (1 ≤ d) && decide (d ≤ 2047)
def older (e e' : Nat) : Bool := let d := (e' + 4096 - e % 4096) % 4096; decide (2048 ≤ d)

/-- Epoch and number of configuration flits of a daymark token (R315). -/
def Flit.dmEpoch (f : Flit) : Nat := fld (ofBytes (f.bytes.take 4)) 11 0
def Flit.dmConf (f : Flit) : Nat := fld (ofBytes (f.bytes.take 4)) 31 16

/-- The context of a cluster fails in its fabric. -/
def State.fabricFail (s : State) (c unit status cls cause : Nat) : State :=
  match s.ownerOf c with
  | some x => s.failCtx x status { unit := unit, cls := cls, sev := 3, cause := cause }
  | none => s

/-- A token of an older epoch: counted in `CL_STALE`, and the context fails (R314, R327). -/
def State.stale (s : State) (c unit : Nat) : State :=
  let k := s.cl c
  (s.setCl c { k with stale := sat32 k.stale 1 }).fabricFail c unit stStaleToken 7 0x07

/-- Whether the head of an entry's buffer may leave it: a daymark only once its circuit has met it (R311, R314). -/
def Sw.mayLeave (w : Sw) (n : Nat) (f : Flit) : Bool := f.kind != .daymark || f.dmEpoch == tabGet 0 w.circEpoch n

/-- A flit whose side bits cannot be trusted is counted and fails the context when it is read (R245, R444). -/
def State.sideFail (s : State) (c : Nat) (f : Flit) : State := (s.countWords c [f]).fabricFail c (gidOf c 24) stFoggedControl 1 0x02

/-- A flit sent on a link is counted (R244). -/
def Sw.countLink (w : Sw) (link : Option Nat) : Sw :=
  match link with
  | some l => { w with perf := tabSet w.perf l (perfAdd (tabGet {} w.perf l) 1) }
  | none => w

/-- The head of a buffer leaves it: a word in error is corrected or fogs its half, and is counted (R245). -/
def State.leaveBuf (s : State) (c buf : Nat) (f : Flit) : State := (s.setSw c ((s.sw c).dropBuf buf)).countWords c [f]

/-- Move the head of a buffer to a queue, over a link if there is one. -/
def State.moveBuf (s : State) (c n buf : Nat) (f : Flit) (link : Option Nat) (to_ : Nat) (q : QueueRef) : State :=
  if f.sideBad then (s.setSw c ((s.sw c).dropBuf buf)).sideFail c f
  else if !(s.sw c).mayLeave n f || !s.canTake to_ q then s
  else
    let s := s.leaveBuf c buf f
    ((s.setSw c ((s.sw c).countLink link)).arrive to_ q f.settle).progress c

/-- The queue number of a channel of a unit. -/
def chanRef (u ch : Nat) : QueueRef := .inq (Fin.ofNat 20 u) (Fin.ofNat 2 ch)
def bufRef (b : Nat) : QueueRef := .buf (Fin.ofNat 64 b)

/-! ### Die crossings (R226) -/

/-- The flits of a circuit in the queue of a link. -/
def Sw.crossing (w : Sw) (l n : Nat) : List Flit := ((tabGet [] w.cross l).filter (fun e => e.1 == n)).map (·.2)

/-- The first flit in the queue of link `l` of a switch lands in the next buffer of its circuit. -/
def State.landOne (s : State) (c l : Nat) : State :=
  let w := s.sw c
  match tabGet [] w.cross l, linkTo c l with
  | (n, f) :: t, some d =>
    ((s.setSw c { w with cross := if t.isEmpty then tabDel w.cross l else tabSet w.cross l t }).arrive d (bufRef n) f).progress c
  | _, _ => s

/-- Every flit on its way between switches lands (R322): those that the cluster has sent and those sent to it. -/
def State.landAll (s : State) (c : Nat) : State :=
  (upto 0 4).foldl (fun (s : State) l =>
    let s := (tabGet [] (s.sw c).cross l).foldl (fun (s : State) _ => s.landOne c l) s
    match linkTo c l with
    | some d => (upto 0 4).foldl (fun (s : State) k => if linkTo d k = some c then (tabGet [] (s.sw d).cross k).foldl (fun (s : State) _ => s.landOne d k) s else s) s
    | none => s) s

/-- A flit of circuit `n` over a link that crosses a die bridge: the first flit of the queue lands when it is of this circuit, or else
the head of the buffer enters the queue of 32, whose order it keeps. It is sent only when the next buffer will have an entry for it
(R215). -/
def State.crossBuf (s : State) (c n buf : Nat) (link to_ : Nat) : State :=
  let w := s.sw c
  let q := tabGet [] w.cross link
  if (match q with | e :: _ => e.1 == n && s.canTake to_ (bufRef n) | [] => false) then s.landOne c link
  else match tabGet [] w.bufs buf with
    | [] => s
    | f :: _ =>
      let wd := s.sw to_
      let sent := (w.crossing link n).length
      let space := if wd.spilling n then (tabGet [] wd.waiting n).isEmpty && sent == 0 else decide ((tabGet [] wd.bufs n).length + sent < 4)
      if f.sideBad then (s.setSw c (w.dropBuf buf)).sideFail c f
      else if !w.mayLeave n f || 32 ≤ q.length || !space then s
      else
        let s := s.leaveBuf c buf f
        let w := (s.sw c).countLink (some link)
        (s.setSw c { w with cross := tabSet w.cross link (q ++ [(n, f.settle)]) }).progress c

/-- A flit on a channel output or element output enters the buffer that begins its circuit. -/
def State.intoCircuit (s s' : State) (c port : Nat) (f : Flit) : State :=
  match (s.sw c).circFrom port with
  | none => s
  | some n => if s.canTake c (bufRef n) then ((s'.arrive c (bufRef n) f).progress c) else s

/-- STREAM_FLIT_TRANSFER (R215, R216, R222, R226, R227). A slot table in use whose parity is wrong causes a device reset (R245). -/
def execStreamFlitTransfer (c : Fin 2048) (mv : FlitMove) (s : State) : Res :=
  let c := c.val
  let w := s.sw c
  if !s.acts (gidOf c 24) then .next s
  else match mv with
  | .fromUnit u ch =>
    let g := gidOf c u.val
    let t := s.tu g
    let q := if ch.val = 0 then t.outq0 else t.outq1
    match q with
    | [] => .next s
    | f :: r => .next (s.intoCircuit (s.setTu g (if ch.val = 0 then { t with outq0 := r } else { t with outq1 := r })) c (chanPort u.val ch.val) { f with own := 0 })
  | .fromElem e k =>
    let x := tabGet {} w.elems e.val
    let q := if k.val = 0 then x.out0 else x.out1
    match q with
    | [] => .next s
    | f :: r =>
      let x' := if k.val = 0 then { x with out0 := r } else { x with out1 := r }
      .next (s.intoCircuit (s.setSw c { w with elems := tabSet w.elems e.val x' }) c (48 + 2 * e.val + k.val) f)
  | .lane n =>
    let l := tabGet {} w.lanes n.val
    match l.flits with
    | [] => .next s
    | f :: r =>
      let q := chanRef l.dst (s.laneChan c l.dst)
      if !s.canTake c q then .next s
      else .next (((s.setSw c { w with lanes := tabSet w.lanes n.val { l with flits := r } }).arrive c q f).progress c)
  | .fork n =>
    let x := tabGet {} w.circ n.val
    let bs := x.branches n.val
    match tabGet [] w.bufs n.val with
    | [] => .next s
    | f :: _ =>
      if !x.valid || bs.length < 2 then .next s
      else if f.sideBad then .next ((s.setSw c (w.dropBuf n.val)).sideFail c f)
      else if !w.mayLeave n.val f || !bs.all (fun b => s.canTake c (bufRef b.2.2)) then .next s
      else .next ((bs.foldl (fun s b => s.arrive c (bufRef b.2.2) f.settle) (s.leaveBuf c n.val f)).progress c)
  | .link n b slot =>
    let x := tabGet {} w.circ n.val
    match (x.branches n.val).find? (fun y => y.1 == b.val) with
    | none => .next s
    | some (_, port, buf) =>
      match linkTo c port with
      | none => .next s
      | some d =>
        if w.tblBad then .next (s.parityReset)
        else if !(x.valid && decide (port < 4) && w.slotOwner port 0 slot.val == some n.val) then .next s
        else if dieOf c ≠ dieOf d then .next (s.crossBuf c n.val buf port d)
        else match tabGet [] w.bufs buf with
          | f :: _ => .next (s.moveBuf c n.val buf f (some port) d (.buf n))
          | [] => .next s
  | .toUnit n b =>
    let x := tabGet {} w.circ n.val
    match (x.branches n.val).find? (fun y => y.1 == b.val) with
    | none => .next s
    | some (_, port, buf) =>
      match tabGet [] w.bufs buf with
      | [] => .next s
      | f :: _ =>
        let u := (port - 8) / 2
        let g := gidOf c u
        if !x.valid || port < 8 || 48 ≤ port then .next s
        else if f.kind = .data ∧ newer (tabGet 0 w.circEpoch n.val) (s.tu g).epoch then
          .next ((s.setSw c (w.dropBuf buf)).stale c g)
        else .next (s.moveBuf c n.val buf f none c (chanRef u ((port - 8) % 2)))

/-! ### Control lanes (R223) -/

/-- The control circuit that starts at a port. -/
def Sw.ctlFrom (w : Sw) (port : Nat) : Option Nat := (w.circ.find? (fun e => decide (64 ≤ e.1) && e.2.valid && e.2.src == port)).map (·.1 - 64)

/-- A bit arrives at a control buffer. -/
def ctlRef (i : Nat) : QueueRef := .ctl (Fin.ofNat 16 i)

/-- CONTROL_BIT_TRANSFER (R223, R245). -/
def execControlBitTransfer (c : Fin 2048) (mv : BitMove) (s : State) : Res :=
  let c := c.val
  let w := s.sw c
  if !s.acts (gidOf c 24) then .next s
  else match mv with
  | .fromPort k p =>
    let g := gidOf c (20 + k.val)
    let u := s.scu g
    match (if p.val = 0 then u.pport0 else u.pport1), w.ctlFrom (64 + 2 * k.val + p.val) with
    | b :: r, some i =>
      if s.canTake c (ctlRef i) then
        .next (((s.setScu g (if p.val = 0 then { u with pport0 := r } else { u with pport1 := r })).arrive c (ctlRef i) (bitFlit b)).progress c)
      else .next s
    | _, _ => .next s
  | .link i slot =>
    let x := tabGet {} w.circ (64 + i.val)
    match tabGet [] w.ctl i.val, (x.branches 0).head? with
    | b :: _, some (_, port, _) =>
      match linkTo c port with
      | some d =>
        if w.tblBad then .next (s.parityReset)
        else if x.valid && decide (port < 4) && w.slotOwner port 1 slot.val == some i.val && s.canTake d (.ctl i) then
          .next (((s.setSw c (w.dropCtl i.val)).arrive d (.ctl i) (bitFlit b)).progress c)
        else .next s
      | none => .next s
    | _, _ => .next s

/-! ### Steering instructions (R229, R231, R271, R277) -/

/-- Ports that a kind needs at element `e` (R231). -/
def steerPorts (w : Sw) (e kind : Nat) : Bool :=
  let i0 := (w.circTo (48 + 2 * e)).isSome
  let i1 := (w.circTo (49 + 2 * e)).isSome
  let o0 := (w.circFrom (48 + 2 * e)).isSome
  let o1 := (w.circFrom (49 + 2 * e)).isSome
  let k := (w.circTo (72 + e)).isSome
  match kind with
  | 0 => true
  | 1 => i0 && o0 && o1 && k
  | 2 | 4 => i0 && i1 && o0 && k
  | 3 => i0 && o0 && k
  | _ => i0 && o0

/-- A steering instruction at the head of the switch's issue queue: checked, then it waits at its element, one at a
time. -/
def steerCmd (c op : Nat) (s : State) : Res :=
  let w := s.sw c
  if !s.acts (gidOf c 24) then .next s
  else match w.iq with
    | [] => .next s
    | h :: r =>
      if !opRuns 24 h.i.op then .next (s.tensorFault (gidOf c 24) h stContextFault)
      else if h.i.op ≠ op then .next s
      else
        let e := fld h.i.sq 2 0
        let k := op - 0x40
        let cfg : SteerCfg := { kind := k, gran := h.i.gran, n := if 5 ≤ k then h.i.count else 0 }
        if !fieldsOk 24 h.i || !steerPorts w e k || (decide (5 ≤ k) && h.i.count == 0) then .next (s.tensorFault (gidOf c 24) h stContextFault)
        else
          let x := tabGet {} w.elems e
          if x.next.isSome then .next s
          else .next (s.setSw c { w with iq := r, elems := tabSet w.elems e { x with next := some (cfg, h) } })

/-- STEER_OFF (R277). -/
def execSteerOff (c : Fin 2048) (s : State) : Res := steerCmd c.val 0x40 s
/-- STEER_SW (R231). -/
def execSteerSw (c : Fin 2048) (s : State) : Res := steerCmd c.val 0x41 s
/-- STEER_MG (R231). -/
def execSteerMg (c : Fin 2048) (s : State) : Res := steerCmd c.val 0x42 s
/-- STEER_GATE (R231). -/
def execSteerGate (c : Fin 2048) (s : State) : Res := steerCmd c.val 0x43 s
/-- STEER_CARRY (R231). -/
def execSteerCarry (c : Fin 2048) (s : State) : Res := steerCmd c.val 0x44 s
/-- STEER_REP (R231, R233). -/
def execSteerRep (c : Fin 2048) (s : State) : Res := steerCmd c.val 0x45 s
/-- STEER_DEC (R231, R233). -/
def execSteerDec (c : Fin 2048) (s : State) : Res := steerCmd c.val 0x46 s

/-- The control buffer that is an element's control input. -/
def Sw.ctlOf (w : Sw) (e : Nat) : Option Nat := (w.circTo (72 + e)).map (· - 64)

/-- An element is idle (R229). -/
def Sw.idleElem (w : Sw) (e : Nat) : Bool :=
  let x := tabGet {} w.elems e
  x.out0.isEmpty && x.out1.isEmpty && x.replay.isEmpty && !x.inTensor && x.bit.isNone && x.conf0 == 0 && x.conf1 == 0
    && (match w.ctlOf e with | some i => (tabGet [] w.ctl i).isEmpty | none => true) && !(x.cfg.kind == 4 && x.looping)

/-- Whether bits for an element's control input are still in the spill ring or wait to be written there: they belong to its control input,
so the element is not idle (R229, R239). -/
def State.ctlSpilled (s : State) (c e : Nat) : Bool :=
  let w := s.sw c
  match w.ctlOf e with
  | none => false
  | some i =>
    !(tabGet [] w.waiting (104 + i)).isEmpty
      || (match s.sectorOf c with | some r => (s.sf r).ring.any (fun x => !x.read && x.cluster == c && queueNum x.q == 104 + i) | none => false)

/-- STEER_CONFIG_APPLY (R229, R286): the configuration takes effect and the instruction completes. -/
def execSteerConfigApply (c : Fin 2048) (e : Fin 8) (s : State) : Res :=
  let c := c.val
  let w := s.sw c
  let x := tabGet {} w.elems e.val
  match x.next with
  | none => .next s
  | some (cfg, iss) =>
    if !s.acts (gidOf c 24) || !w.idleElem e.val || s.ctlSpilled c e.val then .next s
    else
      let x := { x with cfg := cfg, next := none, looping := false, index := 0, flit := 0, blockBytes := [] }
      .next (((s.setSw c { w with elems := tabSet w.elems e.val x }).postTag (gidOf c 24) iss stOK).progress c)

/-! ### Steering elements at work (R230 to R235) -/

/-- The circuit that ends at input `k` of an element, its entry number, and the buffer that feeds it. -/
def Sw.elemIn (w : Sw) (e k : Nat) : Option (Nat × Nat) :=
  match w.circTo (48 + 2 * e + k) with
  | none => none
  | some n => (((tabGet {} w.circ n).branches n).find? (fun b => b.2.1 == 48 + 2 * e + k)).map (fun b => (n, b.2.2))

/-- The head of an input. -/
def Sw.inHead (w : Sw) (e k : Nat) : Option Flit := (w.elemIn e k).bind (fun b => (tabGet [] w.bufs b.2).head?)

/-- Take the head of an input. -/
def Sw.inDrop (w : Sw) (e k : Nat) : Sw := match w.elemIn e k with | some b => w.dropBuf b.2 | none => w

/-- Put a flit on outputs: bit 0 out0, bit 1 out1. -/
def Elem.put (x : Elem) (outs : Nat) (f : Flit) : Elem :=
  { x with out0 := if outs % 2 = 1 then x.out0 ++ [f] else x.out0, out1 := if 2 ≤ outs then x.out1 ++ [f] else x.out1 }

/-- Space on outputs. -/
def Elem.space (x : Elem) (outs : Nat) : Bool := (outs % 2 == 0 || x.out0.isEmpty) && (decide (outs < 2) || x.out1.isEmpty)

/-- Where daymarks and their configuration flits go (R235): both outputs of SW, out0 of the others. -/
def Elem.dmOuts (x : Elem) : Nat := if x.cfg.kind = 1 then 3 else 1

/-- A flit of the new tensor that flit granularity makes: `eob` and `check` under R220 over what is emitted (R234). -/
def Elem.mark (x : Elem) (f : Flit) (eot : Bool) : Elem × Flit :=
  let acc := x.blockBytes ++ f.bytes
  if eot ∨ 4096 ≤ acc.length then
    ({ x with blockBytes := if eot then [] else acc.drop 4096 }, { f with eot := eot, eob := true, check := crc32c (acc.take 4096) })
  else ({ x with blockBytes := acc }, { f with eot := eot, eob := false, check := 0 })

/-- The route of a bit: input to read and outputs to write (R231). -/
def Elem.routeOf (x : Elem) (b : Bool) : Nat × Nat :=
  match x.cfg.kind with
  | 1 => (0, if b then 2 else 1)
  | 2 => (if b then 1 else 0, 1)
  | 3 => (0, if b then 1 else 0)
  | _ => (1, 1)

/-- Whether the element needs a predicate bit next. -/
def Elem.needsBit (x : Elem) : Bool :=
  !x.inTensor && x.bit.isNone && (x.cfg.kind == 1 || x.cfg.kind == 2 || x.cfg.kind == 3 || (x.cfg.kind == 4 && x.looping))

/-- The input that the element reads next and the outputs it writes, once it has its bit. -/
def Elem.path (x : Elem) : Nat × Nat :=
  if x.inTensor then (x.route / 4, x.route % 4)
  else match x.bit with
    | some b => x.routeOf b
    | none => if x.cfg.kind = 6 then (0, if x.cfg.gran || x.index % x.cfg.n == 0 then 1 else 0) else (0, 1)

/-- The end of a tensor: the bit is spent, a CARRY stays in or enters its loop, DEC counts. -/
def Elem.tensorEnd (x : Elem) : Elem :=
  { x with inTensor := false, bit := none, flit := 0,
           looping := x.cfg.kind == 4, index := if x.cfg.kind = 6 && !x.cfg.gran then x.index + 1 else 0 }

/-- One data flit of the chosen input through the element; none where it must wait. -/
def steerData (w : Sw) (e : Nat) (x : Elem) (f : Flit) (k outs : Nat) : Option (Sw × Elem) :=
  let taken := fun (x : Elem) => some (w.inDrop e k, x)
  if x.cfg.gran then
    if !x.space 1 then none
    else if f.bytes.isEmpty then taken ({ x with flit := 0, index := 0, blockBytes := [] }.put 1 f)
    else if x.cfg.kind = 5 then
      -- REP: n copies in succession; the flit leaves its circuit with the last
      let lastCopy := x.index + 1 == x.cfg.n
      let (x, g) := x.mark f (f.eot && lastCopy)
      let x := { x.put 1 g with inTensor := !(f.eot && lastCopy), route := 1, index := if lastCopy then 0 else x.index + 1 }
      if lastCopy then taken x else some (w, x)
    else
      let keep := x.flit % x.cfg.n == 0 || f.eot
      let x' := { x with flit := if f.eot then 0 else x.flit + 1, inTensor := !f.eot, route := 1 }
      if keep then (let (y, g) := x'.mark f f.eot; taken (y.put 1 g)) else taken x'
  else if x.cfg.kind = 5 then
    if !x.space 1 then none
    else
      let y := { x.put 1 f with replay := x.replay ++ [f], inTensor := true, route := 1, index := 1, flit := 0 }
      taken (if f.eot && x.cfg.n == 1 then { y with replay := [], inTensor := false, index := 0 } else y)
  else if !x.space outs then none
  else
    let y := { x.put outs f with inTensor := true, route := 4 * k + outs }
    taken (if f.eot then y.tensorEnd else y)

/-- The copies that REP in tensor granularity makes of a tensor it holds whole (R233). -/
def steerReplay (x : Elem) : Option Elem :=
  if !x.space 1 then none
  else
    let f := x.replay.getD x.flit {}
    let y := x.put 1 f
    if x.flit + 1 < x.replay.length then some { y with flit := x.flit + 1 }
    else if x.index + 1 < x.cfg.n then some { y with flit := 0, index := x.index + 1 }
    else some { y with replay := [], inTensor := false, flit := 0, index := 0 }

/-- The input, of those with configuration flits still to come, at whose head stands one with uncorrectable side bits (R245). -/
def Sw.confBad (w : Sw) (e : Nat) (x : Elem) : Option (Nat × Flit) :=
  [0, 1].findSome? (fun k => match w.inHead e k with
    | some f => if f.kind == .config && f.sideBad && (if k = 0 then x.conf0 else x.conf1) != 0 then some (k, f) else none
    | none => none)

/-- Configuration flits behind a daymark: forwarded with it, or taken with it (R235, R314). -/
def steerConf (w : Sw) (e : Nat) (x : Elem) (k : Nat) (f : Flit) : Option (Sw × Elem) :=
  let left := if k = 0 then x.conf0 else x.conf1
  let fwd := if k = 0 then x.confFwd0 else x.confFwd1
  if left = 0 ∨ f.kind ≠ .config then none
  else if fwd && !x.space x.dmOuts then none
  else
    let y := if fwd then x.put x.dmOuts f.settle else x
    some (w.inDrop e k, if k = 0 then { y with conf0 := left - 1 } else { y with conf1 := left - 1 })

/-- A flit that has left an input of an element from switch `w` to `w'` is counted (R245). -/
def State.countIn (s : State) (c e k : Nat) (w w' : Sw) : State :=
  match w.elemIn e k, w.inHead e k with
  | some (_, b), some f => if (tabGet [] w'.bufs b).length < (tabGet [] w.bufs b).length then s.countWords c [f] else s
  | _, _ => s

/-- STEER_TOKEN (R230 to R234): an element passes on a configuration flit, replays, takes its predicate bit, or takes one
flit of its token. Nothing passes between a daymark and the configuration flits that are still to come behind it on either input: they
travel as one daymark (R315). -/
def execSteerToken (c : Fin 2048) (e : Fin 8) (s : State) : Res :=
  let c := c.val
  let e := e.val
  let w := s.sw c
  let x := tabGet {} w.elems e
  let put := fun (v : Sw) (x : Elem) => Host.Outcome.next ((((s.setSw c { v with elems := tabSet v.elems e x }).countIn c e 0 w v).countIn c e 1 w v).progress c)
  let conf := match w.inHead e 0 with
    | some f => (match steerConf w e x 0 f with
      | some r => some r
      | none => (match w.inHead e 1 with | some f => steerConf w e x 1 f | none => none))
    | none => (match w.inHead e 1 with | some f => steerConf w e x 1 f | none => none)
  if !s.acts (gidOf c 24) || x.cfg.kind = 0 then .next s
  else match w.confBad e x, conf with
  | some (k, f), _ => .next ((s.setSw c (w.inDrop e k)).sideFail c f)
  | none, some (w, x) => put w x
  | none, none =>
    if x.conf0 != 0 || x.conf1 != 0 then .next s
    else if x.cfg.kind == 5 && !x.cfg.gran && (match x.replay.getLast? with | some f => f.eot | none => false) then
      match steerReplay x with
      | some x => put w x
      | none => .next s
    else if x.needsBit then
      match w.ctlOf e with
      | none => .next s
      | some i =>
        match tabGet [] w.ctl i with
        | [] => .next s
        | b :: _ =>
          let w' := w.dropCtl i
          if newer (tabGet 0 w.circEpoch (64 + i)) x.epoch then .next ((s.setSw c w').stale c (gidOf c 24))
          else if x.cfg.kind = 4 ∧ b = false then put w' { x with looping := false }
          else put w' { x with bit := some b }
    else
      let (k, outs) := x.path
      match w.elemIn e k, w.inHead e k with
      | some (n, _), some f =>
        if f.kind ≠ .data then .next s
        else if f.sideBad then .next ((s.setSw c (w.inDrop e k)).sideFail c f)
        else if newer (tabGet 0 w.circEpoch n) x.epoch then .next ((s.setSw c (w.inDrop e k)).stale c (gidOf c 24))
        else if x.cfg.kind == 5 && !x.cfg.gran && decide (64 ≤ x.replay.length) then
          .next ((s.setSw c (w.inDrop e k)).fabricFail c (gidOf c 24) stOverflow 1 0x08)
        else match steerData w e x f.settle k outs with
          | some (w, x) => put w x
          | none => .next s
      | _, _ => .next s

/-! ### Foghorn (R236, R237) -/

/-- Whether a token waits to enter a circuit buffer: at the unit channel, element output or neighbour that feeds it, or in
the buffer before a fork. -/
def State.feederWaits (s : State) (c b : Nat) : Bool :=
  let w := s.sw c
  let own := match tabFind w.circ b with
    | some x =>
      if x.valid && decide (b < 64) then
        if x.src < 4 then
          (match linkTo c x.src with
            | some d =>
              let wd := s.sw d
              let y := tabGet ({} : Circ) wd.circ b
              y.valid && (y.branches b).any (fun br => linkTo d br.2.1 == some c && decide (br.2.1 < 4) && (!(tabGet [] wd.bufs br.2.2).isEmpty || !(wd.crossing br.2.1 b).isEmpty))
            | none => false)
        else if x.src < 48 then
          (let t := s.tu (gidOf c ((x.src - 8) / 2)); if x.src % 2 = 0 then !t.outq0.isEmpty else !t.outq1.isEmpty)
        else (let el := tabGet ({} : Elem) w.elems ((x.src - 48) / 2); if x.src % 2 = 0 then !el.out0.isEmpty else !el.out1.isEmpty)
      else false
    | none => false
  own || w.circ.any (fun e => decide (e.1 < 64) && e.2.valid && (e.2.branches e.1).any (fun br => br.2.2 == b && br.2.2 != e.1 && !(tabGet [] w.bufs e.1).isEmpty))

/-- A queue is full: no free entry, and a token waits to enter it (R236). -/
def State.queueFull (s : State) (c : Nat) (q : QueueRef) : Bool :=
  let w := s.sw c
  decide (queueCap q ≤ (s.queueItems c q).length) && (match q with
    | .buf b => s.feederWaits c b.val
    | .inq u ch =>
      (ch.val == s.laneChan c u.val && w.lanes.any (fun e => e.2.dst == u.val && !e.2.flits.isEmpty))
        || (match w.circTo (chanPort u.val ch.val) with
          | some n => ((tabGet {} w.circ n).branches n).any (fun br => br.2.1 == chanPort u.val ch.val && !(tabGet [] w.bufs br.2.2).isEmpty)
          | none => false)
    | .ctl i =>
      let x := tabGet ({} : Circ) w.circ (64 + i.val)
      if x.src < 4 then
        (match linkTo c x.src with | some d => !(tabGet [] (s.sw d).ctl i.val).isEmpty | none => false)
      else
        (let u := s.scu (gidOf c (20 + (x.src - 64) / 2)); if x.src % 2 = 0 then !u.pport0.isEmpty else !u.pport1.isEmpty))

/-- All queues of a switch. -/
def allQueues : List QueueRef :=
  (upto 0 64).map bufRef ++ (upto 0 40).map (fun k => chanRef (k / 2) (k % 2)) ++ (upto 0 16).map ctlRef

/-- The full queues of a switch. -/
def State.fullQueues (s : State) (c : Nat) : List Nat := (allQueues.filter (s.queueFull c)).map queueNum

/-- The contexts of a sector whose step is running. -/
def State.runningIn (s : State) (r : Nat) : List (Nat × Ctx) := s.ctxs.filter (fun e => e.2.sector == r && e.2.state == .running)

/-- FOGHORN_STALL (R237): time passes without progress until the threshold is reached; the full queues of the region enter
spill mode, or a starved stall is recorded once and the turn of the running step counts as expired. -/
def execFoghornStall (sec : Fin 64) (s : State) : Res :=
  let r := sec.val
  match s.sector r with
  | none => .next s
  | some x =>
    let f := s.sf r
    let limit := f.thr * 10240
    if s.phase != .ready || f.starvedNow then .next s
    else
      let rate := clock10 s.pwr.step
      let s := if f.noProg < limit then s.advance (ceilDiv (limit - f.noProg) rate) else s
      let full := (s.sws.filter (fun e => inRegion x.region e.1)).filterMap (fun e =>
        let l := (s.fullQueues e.1).filter (fun q => !e.2.spilling q)
        if l.isEmpty then none else some (e.1, l))
      let any := (s.sws.filter (fun e => inRegion x.region e.1)).any (fun e => !(s.fullQueues e.1).isEmpty)
      let n := (full.map (fun e => e.2.length)).sum
      let run := s.runningIn r
      let rec0 : ErrRec := { cls := 1, sev := 0, cause := 0x0B, sector := r, sv := true, aux := n,
                             cv := !run.isEmpty, context := match run with | e :: _ => e.1 | [] => 0,
                             step := match run with | e :: _ => e.2.stepSeq % 2 ^ 32 | [] => 0 }
      let f := s.sf r
      if any then
        let s := full.foldl (fun s (c, l) => s.setSw c { s.sw c with spill := l.foldl setAdd (s.sw c).spill }) s
        .next ((s.setSf r { f with noProg := 0, stalls := sat32 f.stalls 1 }).record rec0)
      else
        let s := (s.setSf r { f with starvedNow := true, starved := sat32 f.starved 1 }).record rec0
        .next (run.foldl (fun s e => s.setCtx e.1 { e.2 with turnExpired := true }) s)

/-! ### The spill ring (R238 to R241) -/

/-- Records that a ring holds at most. -/
def Sf.cap (f : Sf) : Nat := 65536 * 2 ^ f.size

/-- The 48 side bits of a flit, or of a control bit (R218). -/
def Flit.sideBits (f : Flit) (ctl bit : Bool) : Nat :=
  if ctl then 2 ^ 5 + b2n bit * 2 ^ 6
  else b2n f.fog0 + b2n f.fog1 * 2 + b2n f.eot * 2 ^ 2 + b2n f.eob * 2 ^ 3 + b2n (f.kind == .daymark) * 2 ^ 4 + f.check.toNat * 2 ^ 7
    + f.bytes.length % 128 * 2 ^ 39

/-- The 256 bytes of a record. -/
def SpillRec.bytes (r : SpillRec) : List Byte :=
  let n := queueNum r.q
  let ctl := decide (104 ≤ n)
  let qkind := if n < 64 then 0 else if n < 104 then 1 else 2
  let payload := if ctl then [] else r.flit.bytes.take 128
  payload ++ List.replicate (128 - payload.length) 0 ++ toBytes 6 (r.flit.sideBits ctl r.bit)
    ++ [BitVec.ofNat 8 qkind, BitVec.ofNat 8 (n - (if n < 64 then 0 else if n < 104 then 64 else 104))] ++ toBytes 2 r.cluster ++ toBytes 2 (r.ctx % 4096)
    ++ List.replicate 116 0

/-- Whether the ring has a free place: the next one is not that of the oldest record. -/
def Sf.hasRoom (f : Sf) : Bool := match f.ring with | [] => true | r :: _ => f.next != r.pos

/-- The device address of the record at a place of a ring. -/
def Sf.addrOf (f : Sf) (pos : Nat) : Nat := f.base + 256 * pos

/-- Free in ring order: records already read leave from the front. -/
def freeRing : List SpillRec → List SpillRec
  | [] => []
  | r :: t => if r.read then freeRing t else r :: t

/-- Records in the ring. -/
def Sf.records (f : Sf) : Nat := (f.ring.filter (fun r => !r.read)).length

/-- Discard a context's records (R241). -/
def Sf.discard (f : Sf) (x : Nat) : Sf :=
  { f with ring := freeRing (f.ring.map (fun r => if r.ctx = x then { r with read := true } else r)) }

/-- The records of a queue, oldest first. -/
def Sf.ofQueue (f : Sf) (c : Nat) (q : QueueRef) : List SpillRec := f.ring.filter (fun r => !r.read && r.cluster == c && r.q == q)

/-- The sector of a cluster, its context, both known. -/
def State.spillOwner (s : State) (c : Nat) : Option (Nat × Nat) :=
  match s.sectorOf c, s.ownerOf c with
  | some r, some x => some (r, x)
  | _, _ => none

/-- A record stands in the next place of a ring; `high` follows the records in it (R246). -/
def Sf.put (b : Sf) (x : SpillRec) : Sf :=
  let b := { b with ring := b.ring ++ [{ x with pos := b.next }], next := (b.next + 1) % b.cap }
  { b with high := max b.high b.records }

/-- Put a record in the next place of a sector's ring: its 256 bytes lie in the sector's HBM. -/
def State.putRecord (s : State) (r : Nat) (x : SpillRec) : State :=
  let b := s.sf r
  let s := s.hbmWrite { unit := gidOf x.cluster 24, ctx := some x.ctx } (b.addrOf b.next) x.bytes []
  s.setSf r (b.put x)

/-- SPILL_RECORD_WRITE (R238, R240, R241); the engine waits while a stack is being retrained (R343). -/
def execSpillRecordWrite (c : Fin 2048) (q : QueueRef) (s : State) : Res :=
  let c := c.val
  let w := s.sw c
  match tabGet [] w.waiting (queueNum q), s.spillOwner c with
  | f :: t, some (r, x) =>
    let b := s.sf r
    if !s.acts (gidOf c 24) || s.retrains then .next s
    else
      let s := s.setSw c { w with waiting := tabSet w.waiting (queueNum q) t }
      if !b.hasRoom then
        .next ((s.setSf r (b.discard x)).fabricFail c (gidOf c 24) stSpillExhausted 1 0x08)
      else
        let s := s.putRecord r { cluster := c, q := q, flit := f.settle, bit := f.eot, ctx := x }
        .next ((s.setSf r { s.sf r with written := (b.written + 1) % 2 ^ 64 }).progress c)
  | _, _ => .next s

/-- Take the oldest record of a queue out of the ring. -/
def Sf.readOne (f : Sf) (c : Nat) (q : QueueRef) : Sf :=
  match f.ring.findIdx? (fun r => !r.read && r.cluster == c && r.q == q) with
  | some i => { f with ring := freeRing (f.ring.modify i (fun r => { r with read := true })) }
  | none => f

/-- SPILL_RECORD_READ (R238, R241): the oldest record fills a free entry of the queue, or with none free the engine reads one
more record ahead, up to 4; with no record left the queue leaves spill mode. -/
def execSpillRecordRead (c : Fin 2048) (q : QueueRef) (s : State) : Res :=
  let c := c.val
  let w := s.sw c
  let n := queueNum q
  match s.spillOwner c with
  | none => .next s
  | some (r, x) =>
    let b := s.sf r
    let ahead := tabGet 0 w.readAhead n
    let mine := b.ofQueue c q
    let room := decide ((s.queueItems c q).length < queueCap q)
    -- the record that this step fetches from the ring, if any
    let next := if room && ahead != 0 then none else mine[ahead]?
    let (t, lost) := match next with
      | some z => (let (t, _, fog) := s.hbmRead { unit := gidOf c 24, ctx := some x } (b.addrOf z.pos) 256; (t, z.bad || fog.any id))
      | none => (s, false)
    if !s.acts (gidOf c 24) || !w.spilling n || s.retrains then .next s
    else if lost then
      let s := t
      .next ((s.setSf r (b.discard x)).fabricFail c (gidOf c 24) stFoggedControl 1 0x02)
    else let s := t; match mine with
      | [] => .next (if (tabGet [] w.waiting n).isEmpty then s.setSw c { w with spill := setDel w.spill n, readAhead := tabDel w.readAhead n } else s)
      | z :: t =>
        if room then
          let leave := t.isEmpty && (tabGet [] w.waiting n).isEmpty
          let w := { w with readAhead := if ahead ≤ 1 then tabDel w.readAhead n else tabSet w.readAhead n (ahead - 1),
                            spill := if leave then setDel w.spill n else w.spill }
          .next ((((s.setSw c w).setSf r (b.readOne c q)).enqueue c q z.flit).progress c)
        else if ahead < 4 ∧ ahead < mine.length then .next ((s.setSw c { w with readAhead := tabSet w.readAhead n (ahead + 1) }).progress c)
        else .next s

end Sys2Proof.Machine
end

