-- ==== Sys2Proof/Machine/Marnan.lean ====
section
/-!
DEFINITION. Daymark epochs and Marnan stream mode (R311 to R318): tokens at circuits, units and steering elements,
configuration flits, and the switch of slot tables.
-/

namespace Sys2Proof.Machine

/-! ### Bytes of configuration targets (R301, R316) -/

/-- Write bytes into a table of words of `n` bytes each, at a byte offset. -/
def tabBytes (n : Nat) (t : Tab (BitVec (8 * n))) (off : Nat) (l : List Byte) : Tab (BitVec (8 * n)) :=
  let first := off / n
  let cnt := if l.isEmpty then 0 else (off + l.length - 1) / n - first + 1
  (upto first cnt).foldl (fun t w =>
    let old := toBytes n (tabGet 0 t w).toNat
    let new := (old.zip (upto 0 n)).map (fun (b, k) => if off ≤ w * n + k then l.getD (w * n + k - off) b else b)
    let x := BitVec.ofNat (8 * n) (ofBytes new)
    if x = 0 then tabDel t w else tabSet t w x) t

/-- The words that a byte range touches. -/
def wordsTouched (n off len : Nat) : List Nat := if len = 0 then [] else upto (off / n) ((off + len - 1) / n - off / n + 1)

/-- Write bytes into the tensor instruction memory, descriptor table or SCU instruction memory of a unit. -/
def State.writeTim (s : State) (g off : Nat) (l : List Byte) : State :=
  let t := s.tu g
  let hit := wordsTouched 16 off l.length
  s.setTu g { t with tim := tabBytes 16 t.tim off l, timBad := t.timBad.filter (fun w => !hit.contains w), timFog := t.timFog.filter (fun w => !hit.contains w) }
def State.writeDesc (s : State) (g off : Nat) (l : List Byte) : State :=
  let m := s.mu g
  let hit := wordsTouched 64 off l.length
  s.setMu g { m with desc := tabBytes 64 m.desc off l, descBad := m.descBad.filter (fun w => !hit.contains w), descFog := m.descFog.filter (fun w => !hit.contains w) }

/-- An SCU takes the words that have been brought for its memory: it runs them from now on (R318). -/
def Scu.takeNew (u : Scu) (epoch : Nat) : Scu :=
  if u.imemNew.isEmpty then u
  else
    let stale := fun (w : Nat) => (tabFind u.imemNew w).isNone
    { u with imem := u.imemNew.foldl (fun t e => if e.2 = 0 then tabDel t e.1 else tabSet t e.1 e.2) u.imem
             imemCe := u.imemCe.filter stale, imemUe := u.imemUe.filter stale, imemFog := u.imemFog.filter stale, imemNew := [], epoch := epoch }

/-- Words for the memory of an SCU: one that is in a step runs them from its next step (R318). -/
def State.writeImem (s : State) (g off : Nat) (l : List Byte) : State :=
  let u := s.scu g
  let word := fun (w : Nat) =>
    let old := toBytes 4 ((tabFind u.imemNew w).getD (tabGet 0 u.imem w)).toNat
    BitVec.ofNat 32 (ofBytes ((old.zip (upto 0 4)).map (fun (b, k) => if off ≤ w * 4 + k then l.getD (w * 4 + k - off) b else b)))
  let v := { u with imemNew := (wordsTouched 4 off l.length).foldl (fun t w => tabSet t w (word w)) u.imemNew }
  s.setScu g (if u.state = .running ∨ u.state = .blocked then v else v.takeNew (s.cl (clusterOf g)).epoch)

/-- The entry of the circuit table that byte `b` of a slot table of a lane names, if it names one (R215). -/
def slotEntry (lane b : Nat) : Option Nat := if 128 ≤ b then some (if lane = 0 then b % 64 else 64 + b % 64) else none

/-- The links by which a circuit leaves a switch. -/
def Circ.links (x : Circ) : List Nat := (x.tos.filterMap id).filter (fun p => decide (p < 4))

/-- The slots that the table of a lane gives to an entry of the circuit table. -/
def slotCount (lane : Nat) (t : List Nat) (n : Nat) : Nat := ((t.filterMap (slotEntry lane)).filter (· == n)).length

/-- Slots of a circuit on the links next to a switch on its path: the one it comes over, and those it leaves the next switches by, each
under the table that waits there, or else the one in force. -/
def State.slotsBeside (s : State) (c lane n : Nat) : List Nat :=
  let on := fun (d l : Nat) =>
    let w := s.sw d
    slotCount lane (match tabFind w.nextTab (2 * l + lane) with | some e => e.2 | none => tabGet [] w.slotTab (2 * l + lane)) n
  let x := tabGet ({} : Circ) (s.sw c).circ n
  (if x.src < 4 then (match linkTo c x.src with | some d => [on d ((x.src + 2) % 4)] | none => []) else [])
    ++ x.links.flatMap (fun l => match linkTo c l with
      | some d => (tabGet ({} : Circ) (s.sw d).circ n).links.map (on d)
      | none => [])

/-- Whether the slot tables `new` of a switch, by 2 x link + lane, give the circuits that leave by their links the slots they must have: at
least one, and as many on every link of the path that the switch knows of, the other new tables among them (R217; log 67). -/
def State.slotsKept (s : State) (c : Nat) (new : Tab (List Nat)) : Bool :=
  let w := s.sw c
  w.circ.all (fun e =>
    let lane := if 64 ≤ e.1 then 1 else 0
    let ks := e.2.links.map (fun l => 2 * l + lane)
    if ks.any (fun k => (tabFind new k).isSome) then
      let l := ks.map (fun k => slotCount lane ((tabFind new k).getD (tabGet [] w.slotTab k)) e.1) ++ s.slotsBeside c lane e.1
      l.all (fun n => decide (0 < n) && l.head? == some n)
    else true)

/-- Whether a 16-byte slot table agrees with the circuits of a switch: every owned slot names a valid entry of the lane whose
path leaves by that link (R217). -/
def Sw.tableOk (w : Sw) (link lane : Nat) (bytes : List Nat) : Bool :=
  bytes.all (fun b =>
    if 128 ≤ b then
      (let n := if lane = 0 then b % 64 else 64 + b % 64
       let x := tabGet ({} : Circ) w.circ n
       b % 128 < 64 && (lane == 0 || decide (b % 64 < 16)) && x.valid && x.tos.contains (some link))
    else decide (b < 64))

/-! ### Configuration flits (R316, R317) -/

/-- The fields of a configuration flit. -/
structure ConfFlit where
  cluster : Nat
  unit : Nat
  kind : Nat
  off : Nat
  words : Nat
  resv : Bool
  data : List Byte
  deriving DecidableEq, Repr

/-- Read a configuration flit. -/
def confOf (f : Flit) : ConfFlit :=
  let x := ofBytes (f.bytes.take 16)
  let n := fld x 58 56
  { cluster := fld x 10 0, unit := fld x 15 11, kind := fld x 18 16, off := fld x 55 24, words := n,
    resv := fld x 23 19 != 0 || fld x 127 59 != 0, data := (upto 16 (16 * n)).map (fun i => f.bytes.getD i 0) }

/-- What R317 rejects, at the cluster that takes the flit. -/
def ConfFlit.bad (c : ConfFlit) (s : State) : Bool :=
  let n := 16 * c.words
  let row := fun (k : Nat) => ((c.data.drop (16 * k)).take 16).map (·.toNat)
  let at_ := fun (k : Nat) => c.off / 16 + k
  c.resv || c.words == 0 || (match c.kind with
    | 0 => decide (20 ≤ c.unit) || decide (16384 < c.off + n)
    | 1 => decide (12 ≤ c.unit) || decide (16384 < c.off + n)
    | 2 => !(decide (20 ≤ c.unit) && decide (c.unit ≤ 23)) || decide (65536 < c.off + n)
    | 5 => c.unit != 24 || decide (128 < c.off + n) || c.off % 16 != 0
        || !(upto 0 c.words).all (fun k => (s.sw c.cluster).tableOk (at_ k / 2) (at_ k % 2) (row k))
        || !s.slotsKept c.cluster ((upto 0 c.words).foldl (fun t k => tabSet t (at_ k) (row k)) [])
    | _ => true)

/-- Write a configuration flit at its cluster; slot table words wait for SLOT_TABLE_SWITCH (R317, R318). -/
def State.takeConf (s : State) (c : Nat) (epoch : Nat) (f : Flit) : State :=
  let x := confOf f
  if f.sideBad then s.fabricFail c (gidOf c 24) stFoggedControl 1 0x02
  else if f.settle.fogged then s.fabricFail c (gidOf c 24) stFoggedControl 1 0x06
  else if x.cluster ≠ c then s
  else if x.bad s then s.fabricFail c (gidOf c x.unit) stContextFault 5 0x07
  else match x.kind with
    | 0 => s.writeTim (gidOf c x.unit) x.off x.data
    | 1 => s.writeDesc (gidOf c x.unit) x.off x.data
    | 2 => s.writeImem (gidOf c x.unit) x.off x.data
    | _ =>
      let w := s.sw c
      s.setSw c { w with nextTab := (upto 0 x.words).foldl (fun t k =>
        tabSet t (x.off / 16 + k) (epoch, ((x.data.drop (16 * k)).take 16).map (·.toNat))) w.nextTab }

/-! ### Tokens (R314, R318) -/

/-- An element of a cluster has switched to a newer epoch. -/
def State.switched (s : State) (c epoch : Nat) : State :=
  let k := s.cl c
  s.setCl c { k with marnan := true, epoch := if newer k.epoch epoch then epoch else k.epoch }

/-- The input queue of a channel, and its replacement. -/
def Tu.inq (t : Tu) (ch : Nat) : List Flit := if ch = 0 then t.inq0 else t.inq1
def Tu.setInq (t : Tu) (ch : Nat) (l : List Flit) : Tu := if ch = 0 then { t with inq0 := l } else { t with inq1 := l }

/-- Take a daymark off a channel: `n` configuration flits follow, written or not. -/
def Tu.takeMark (t : Tu) (ch n : Nat) (use : Bool) : Tu :=
  let t := t.setInq ch ((t.inq ch).drop 1)
  if ch = 0 then { t with conf0 := n, confUse0 := use } else { t with conf1 := n, confUse1 := use }

/-- A token at the buffer of a circuit: the circuit's epoch follows it. One whose side bits are bad fails its context as it moves on. -/
def dmCircuit (s : State) (c n : Nat) : State :=
  let w := s.sw c
  match tabGet [] w.bufs n with
  | f :: _ =>
    let e := tabGet 0 w.circEpoch n
    if f.kind ≠ .daymark ∨ f.sideBad ∨ f.dmEpoch = e then s
    else if f.settle.fogged then (s.leaveBuf c n f).fabricFail c (gidOf c 24) stFoggedControl 1 0x06
    else if newer e f.dmEpoch then
      let k := s.cl c
      ((s.setSw c { w with circEpoch := tabSet w.circEpoch n f.dmEpoch }).setCl c { k with epoch := if newer k.epoch f.dmEpoch then f.dmEpoch else k.epoch }).progress c
    else (s.leaveBuf c n f).stale c (gidOf c 24)
  | [] => s

/-- A token at the head of a unit's input: an equal epoch is taken with no action, an older one fails the context, a newer
one waits for UNIT_SWITCHOVER. -/
def dmUnit (s : State) (c u ch : Nat) : State :=
  let g := gidOf c u
  let t := s.tu g
  match t.inq ch with
  | f :: _ =>
    let take := fun (_ : Unit) => (s.setTu g (t.takeMark ch f.dmConf false)).countWords c [f]
    if f.kind ≠ .daymark then s
    else if f.sideBad then (take ()).fabricFail c g stFoggedControl 1 0x02
    else if f.settle.fogged then (take ()).fabricFail c g stFoggedControl 1 0x06
    else if f.dmEpoch = t.epoch then (take ()).progress c
    else if older t.epoch f.dmEpoch then (take ()).stale c g
    else s
  | [] => s

/-- Leave `n` configuration flits to come on an input of an element. -/
def Elem.follow (x : Elem) (k n : Nat) (fwd : Bool) : Elem :=
  if k = 0 then { x with conf0 := n, confFwd0 := fwd } else { x with conf1 := n, confFwd1 := fwd }

/-- A token at an input of a steering element (R235): MG and CARRY wait for it on both inputs and emit it once. -/
def dmElem (s : State) (c e k : Nat) : State :=
  let w := s.sw c
  let x := tabGet {} w.elems e
  match w.elemIn e k, w.inHead e k with
  | some (n, _), some f =>
    let put := fun (w : Sw) (x : Elem) => (s.setSw c { w with elems := tabSet w.elems e x }).countWords c [f]
    let drop := fun (_ : Unit) => (s.setSw c (w.inDrop e k)).countWords c [f]
    if f.kind ≠ .daymark ∨ !w.mayLeave n f ∨ x.cfg.kind = 0 ∨ (if k = 0 then x.conf0 else x.conf1) ≠ 0 then s
    else if f.sideBad then (drop ()).fabricFail c (gidOf c 24) stFoggedControl 1 0x02
    else if f.settle.fogged then (drop ()).fabricFail c (gidOf c 24) stFoggedControl 1 0x06
    else if f.dmEpoch = x.epoch then (put (w.inDrop e k) (x.follow k f.dmConf false)).progress c
    else if older x.epoch f.dmEpoch then (drop ()).stale c (gidOf c 24)
    else if x.inTensor || !x.space x.dmOuts then s
    else if x.cfg.kind = 2 ∨ x.cfg.kind = 4 then
      match w.elemIn e (1 - k), w.inHead e (1 - k) with
      | some (n', _), some f' =>
        if f'.kind = .daymark ∧ f'.dmEpoch = f.dmEpoch ∧ w.mayLeave n' f' ∧ !f'.sideBad ∧ !f'.settle.fogged then
          let y := ({ x.put 1 f.settle with epoch := f.dmEpoch } : Elem)
          (((put ((w.inDrop e k).inDrop e (1 - k)) ((y.follow k f.dmConf true).follow (1 - k) f'.dmConf false)).countWords c [f']).switched c f.dmEpoch).progress c
        else s
      | _, _ => s
    else
      let y := ({ x.put x.dmOuts f.settle with epoch := f.dmEpoch } : Elem)
      ((put (w.inDrop e k) (y.follow k f.dmConf true)).switched c f.dmEpoch).progress c
  | _, _ => s

/-- DAYMARK_TOKEN_ARRIVAL (R314). -/
def execDaymarkTokenArrival (c : Fin 2048) (at_ : DaymarkAt) (s : State) : Res :=
  if !s.acts (gidOf c.val 24) then .next s
  else match at_ with
    | .circuit n => .next (dmCircuit s c.val n.val)
    | .unit u ch => .next (dmUnit s c.val u.val ch.val)
    | .elem e k => .next (dmElem s c.val e.val k.val)

/-- UNIT_SWITCHOVER (R318): a configuration flit at the head of the channel is written or taken; a newer daymark is taken once
no instruction of the unit reads the channel, and the unit has its epoch from then on. -/
def execUnitSwitchover (u : TuId) (ch : Fin 2) (s : State) : Res :=
  let g := tuGid u
  let c := u.cluster.val
  let t := s.tu g
  let left := if ch.val = 0 then t.conf0 else t.conf1
  let use := if ch.val = 0 then t.confUse0 else t.confUse1
  if !s.acts g then .next s
  else match t.inq ch.val with
    | [] => .next s
    | f :: _ =>
      if f.kind = .config ∧ left ≠ 0 then
        let t := t.setInq ch.val ((t.inq ch.val).drop 1)
        let s := (s.setTu g (if ch.val = 0 then { t with conf0 := left - 1 } else { t with conf1 := left - 1 })).countWords c [f]
        .next ((if use || f.sideBad then s.takeConf c (s.tu g).epoch f else s).progress c)
      else if f.kind ≠ .daymark ∨ left ≠ 0 ∨ !newer t.epoch f.dmEpoch then .next s
      else if f.sideBad then .next (((s.setTu g (t.takeMark ch.val f.dmConf false)).countWords c [f]).fabricFail c g stFoggedControl 1 0x02)
      else if f.settle.fogged then .next (((s.setTu g (t.takeMark ch.val f.dmConf false)).countWords c [f]).fabricFail c g stFoggedControl 1 0x06)
      else if t.running.any (fun r => !r.finished && r.iss.i.op != 0x71 && r.iss.i.sin == ch.val + 1) then .next s
      else .next ((((s.setTu g { t.takeMark ch.val f.dmConf true with epoch := f.dmEpoch }).countWords c [f]).switched c f.dmEpoch).progress c)

/-- The items of a queue, with those that wait for the spill engine and those in the spill ring. -/
def State.allItems (s : State) (c : Nat) (q : QueueRef) : List Flit :=
  s.queueItems c q ++ (match s.sectorOf c with | some r => ((s.sf r).ofQueue c q).map (·.flit) | none => []) ++ tabGet [] (s.sw c).waiting (queueNum q)

/-- Whether the daymark of epoch `e` has passed a circuit at a switch on its way to a link: it has come, and stands neither in the buffer of
the circuit nor in the one that feeds the link (R318). -/
def State.hasPassed (s : State) (c n link e : Nat) : Bool :=
  let w := s.sw c
  let mark := fun (f : Flit) => f.kind == .daymark && f.dmEpoch == e
  let feeds := (((tabGet ({} : Circ) w.circ n).branches n).filter (fun b => b.2.1 == link)).map (·.2.2)
  !newer (tabGet 0 w.circEpoch n) e && !(match tabGet [] w.bufs n with | f :: _ => mark f | [] => false)
    && !feeds.any (fun b => b != n && (s.allItems c (bufRef b)).any mark)

/-- SLOT_TABLE_SWITCH (R318): a waiting table replaces the table in force once its daymark has passed every circuit that owns a
slot in the old one; no daymark passes a circuit of the control lane (log 65). -/
def execSlotTableSwitch (c : Fin 2048) (link : Fin 4) (lane : Fin 2) (s : State) : Res :=
  let c := c.val
  let w := s.sw c
  let k := 2 * link.val + lane.val
  match tabFind w.nextTab k with
  | none => .next s
  | some (e, l) =>
    let owners := ((tabGet [] w.slotTab k).filterMap (slotEntry lane.val)).filter (fun n => decide (n < 64))
    if !s.acts (gidOf c 24) || !owners.all (fun n => s.hasPassed c n link.val e) then .next s
    else .next (s.setSw c { w with slotTab := tabSet w.slotTab k l, nextTab := tabDel w.nextTab k })

end Sys2Proof.Machine
end

