-- ==== Sys2Proof/Machine/Ext.lean ====
section
/-!
DEFINITION. External requests of a memory unit (R87, R331 to R334, R351, R563): the requests of a walk, sending them to a
controller, a host or a window, what their answers bring, and block checks of device memory (R339, R463).
-/

namespace Sys2Proof.Machine

/-! ### Requests of a walk (R87) -/

/-- The context virtual address of an element (R82). -/
def WEl.va (e : WEl) (xb : Nat) : Nat := wrapInt (e.addr + xb) 64

/-- The requests of one run of a walk. -/
def Desc.runReqs (d : Desc) (xb : Nat) (r : List WEl) : List (Nat × Nat) :=
  joinReq 2048 (r.filterMap (fun e => if e.masked then none else some (e.va xb, d.elBytes)))

/-- Number requests from `id`. -/
def numberReqs (id row : Nat) (write rc pf : Bool) (l : List (Nat × Nat)) : List ExtReq :=
  (l.zip (upto id l.length)).map (fun ((a, n), k) => { id := k, va := a, len := n, write := write, row := row, rc := rc, pf := pf })

/-- A walk of an instruction with the base of its side: the tensor's own, or its companion's scale bytes (R45) with the tensor that
they scale. -/
structure Leg where
  d : Desc
  base : Nat
  ext : Bool
  main : Option Desc := none
  deriving DecidableEq, Repr

/-- The runs of a leg in delivered order, and in the order of its accesses. -/
def Leg.runs (l : Leg) : List (List WEl) := match l.main with | some d => d.maskScales l.d.runs | none => l.d.runs
def Leg.accesses (l : Leg) : List (List WEl) := ({ l with d := l.d.untransposed } : Leg).runs

/-- The walks of a descriptor on a side; the companion of a scaled tensor moves with it between memories (log 24). -/
def Run.legs (r : Run) (i : Nat) (side : Side) (scales : Bool) : List Leg :=
  let ext := match side with | .ext _ => true | _ => false
  let base := match side with | .ext b => b | x => x.base
  let d := r.desc i
  if d.scaled && scales then [⟨d, base, ext, none⟩, ⟨r.comp i, base, ext, some d⟩] else [⟨d, base, ext, none⟩]

/-! ### Sending (R333, R351, R352, R106) -/

/-- What becomes of a request that is sent. -/
inductive Sent where
  | ok (s : State) (q : ExtReq)
  | fail (s : State)
  | fault (s : State) (iova : Nat)
  | wait (s : State)

/-- Whether the port of a context's function may send its requests to host memory: its PASID is valid, and its function's ATS and PASID are
enabled (R394). -/
def State.hostOn (s : State) (c : Ctx) : Bool :=
  let f := s.fn (c.port * 128 + c.fn)
  c.pasidV && !f.noAts && !f.noPasid

/-- Whether the table lines that a request's translation has to read can be read now (R343, R405). -/
def State.mayWalk (s : State) (g x : Nat) (c : Ctx) (va : Nat) : State × Bool :=
  if ((s.mu g).tlbFind x va).isSome then (s, true) else s.directAccess g (s.tableLines c va) []

/-- The opcode of the instruction that makes a request (R437). -/
def State.reqOp (s : State) (g : Nat) (k : ReqKind) (q : ExtReq) : Nat :=
  match k with
  | .xfer | .hostDst | .hostSrc => 0x04
  | .stw => 0x02
  | .plain => match (s.tu g).running.find? (fun r => r.reqs.any (fun e => e.id == q.id)) with | some r => r.iss.i.op | none => 0

/-- Send a request of unit `g` for context `x`, once its translation can be had. Host memory needs a valid PASID (log 139). -/
def State.sendReq (s : State) (g x : Nat) (k : ReqKind) (q : ExtReq) (bytes : List Byte) (fog : List Bool) : Sent :=
  match s.ctx x with
  | none => .fail s
  | some c =>
    match s.mayWalk g x c q.va with
    | (s, false) => .wait s
    | (s, true) =>
    let op := s.reqOp g k q
    let (s, o) := s.xlateFill g x c q.va q.write k
    match o with
    | .fail st ca => .fail (s.failCtx x st { xlatRec g ca q.va with op := op })
    | .hbm a rc =>
      let n := s.stackOf a
      let cc := s.ctrl n
      let h : HbmReq := { unit := g, req := q.id, addr := a, len := q.len, write := q.write, bytes := bytes, fog := fog, keep := q.keep,
                          rc := q.rc && rc, pf := q.pf, ctx := x }
      .ok (s.setCtrl n { cc with queue := cc.queue ++ [h] }) { q with sent := true, target := 0, addr := a }
    | .host iova =>
      if !s.hostOn c then .fail (s.failCtx x stContextFault { xlatRec g 0x07 q.va with op := op })
      else match s.ats c (iova / 4096 * 4096) q.write with
      | (s, none) => .fault s (iova / 4096 * 4096)
      | (s, some e) =>
        let a := e.addr + iova % 4096
        if q.write then
          if fog.any id then .fail (s.failCtx x stFoggedOutput { unit := g, cls := 5, sev := 3, cause := 0x05, op := op, akind := 5, addr := iova })
          else .ok (s.emit (.hostWrite c.port a bytes q.keep)) { q with sent := true, answered := true, target := 1, addr := a, iova := iova }
        else .ok (s.emit (.hostRead c.port a q.len)) { q with sent := true, target := 1, addr := a, iova := iova }
    | .window unit win ep off =>
      let p : Packet := { dest := unit, cls := 0, flits := flitCount bytes.length, src := g, ctx := x,
                          body := .windowWrite win ep off (if k == .xfer then 1 else 0) bytes q.keep (fog.any id) q.id }
      .ok (s.sendPacket (clusterOf g) p) { q with sent := true, target := 2, addr := off }

/-- What becomes of sending a list of requests, as far as room for outstanding ones goes. -/
inductive Push where
  | ok (s : State) (l : List ExtReq)
  | fail (s : State)
  | fault (s : State) (l : List ExtReq) (q : ExtReq) (iova : Nat)

/-- Put a request before those of an outcome. -/
def Push.cons (q : ExtReq) : Push → Push
  | .ok s l => .ok s (q :: l)
  | .fail s => .fail s
  | .fault s l q' i => .fault s (q :: l) q' i

/-- Send the requests not yet sent, in order, up to `room`. A write carries the bytes that `data` and `fog` of the
request hold. -/
def pushReqs (g x : Nat) (k : ReqKind) : Nat → List ExtReq → State → Push
  | _, [], s => .ok s []
  | room, q :: t, s =>
    if q.sent then (pushReqs g x k room t s).cons q
    else match room with
      | 0 => .ok s (q :: t)
      | room + 1 =>
        match s.sendReq g x k q q.data q.fog with
        | .ok s q => (pushReqs g x k room t s).cons q
        | .fail s => .fail s
        | .fault s i => .fault s (q :: t) q i
        | .wait s => .ok s (q :: t)

/-- Send what may be sent while a page is awaited: the requests that find their translation, up to `room` (R352). -/
def pushKnown (g x : Nat) (k : ReqKind) : Nat → List ExtReq → State → Push
  | _, [], s => .ok s []
  | room, q :: t, s =>
    let held := match s.ctx x with
      | none => true
      | some c => match s.xlate g x c q.va q.write k with | .host iova => (s.atcFind c (iova / 4096 * 4096) q.write).isNone | _ => false
    if q.sent || held then (pushKnown g x k room t s).cons q
    else match room with
      | 0 => .ok s (q :: t)
      | room + 1 =>
        match s.sendReq g x k q q.data q.fog with
        | .ok s q => (pushKnown g x k room t s).cons q
        | .fail s => .fail s
        | .fault s i => .fault s (q :: t) q i
        | .wait s => .ok s (q :: t)

/-- Requests outstanding. -/
def outstanding (l : List ExtReq) : Nat := (l.filter (fun q => q.sent && !q.done)).length

/-- Change the request `id` of a unit wherever its run is. -/
def State.modReq (s : State) (g id : Nat) (f : ExtReq → ExtReq) : State :=
  let t := s.tu g
  s.setTu g { t with running := t.running.map (fun r => { r with reqs := r.reqs.map (fun q => if q.id = id then f q else q) }) }

/-- A controller answers request `id` of unit `g`: read data with fog, or the acknowledgement of a write. -/
def State.answerReq (s : State) (g id : Nat) (bytes : List Byte) (fog : List Bool) : State :=
  s.modReq g id (fun q => if q.write then { q with answered := true } else { q with answered := true, data := bytes, fog := fog })

/-! ### Bytes that came back -/

/-- The byte at an address among read requests, with its fog. -/
def reqByte (l : List ExtReq) (a : Nat) : Byte × Bool :=
  match l.find? (fun q => !q.write && decide (q.va ≤ a) && decide (a < q.va + q.len)) with
  | some q => (q.data.getD (a - q.va) 0, q.fog.getD (a - q.va) false)
  | none => (0, false)

/-- The elements of a run from the data of its requests. -/
def Desc.extRun (d : Desc) (xb : Nat) (reqs : List ExtReq) (r : List WEl) : List El :=
  r.map (fun e =>
    if e.masked then d.padEl e
    else
      let bs := (upto (e.va xb) d.elBytes).map (reqByte reqs)
      let x := ofBytes (bs.map (·.1))
      { bits := if d.bits = 4 then (if e.nib then x / 16 else x % 16) else x, fog := bs.any (·.2) })

/-! ### Writes of a run -/

/-- The write requests of a run: its bytes, joined as reads are. The half of a byte that a 4-bit element leaves alone is kept where
the write is performed (R38, R89). -/
def Desc.runWrites (d : Desc) (xb id row : Nat) (ws : List WEl) (xs : List El) : List ExtReq :=
  let l := joinBytes 2048 (d.runBytes (fun _ => 0) xb (pairUp ws xs))
  let hi := if d.bits = 4 then joinBytes 2048 (d.runBytes (fun _ => 0xFF) xb (pairUp ws xs)) else l
  ((l.zip hi).zip (upto id l.length)).map (fun (((a, bs, fs), (_, hs, _)), k) =>
    let keep := if d.bits = 4 then (bs.zip hs).map (fun (x, y) => x ^^^ y) else []
    { id := k, va := a, len := bs.length, write := true, row := row, data := bs, fog := fs,
      keep := if keep.all (· == 0) then [] else keep })

/-! ### Block checks of external walks (R99, R100, R339, R357, R463) -/

/-- Where a byte of an external walk of unit `g` lies: a device address, or a host I/O virtual address above all of them. -/
def State.placeOf (s : State) (g x va : Nat) : Option Nat :=
  match s.ctx x with
  | none => none
  | some c => match s.xlate g x c va false .plain with
    | .hbm a _ => some a
    | _ => match s.xlate g x c va false .xfer with | .host i => some (2 ^ 64 + i) | _ => none

/-- The first byte of an external walk that is dense where it lies: a multiple of 4,096, nothing masked, consecutive bytes in walk
order (R99, R339). -/
def State.denseFrom (s : State) (g x : Nat) (d : Desc) (xb : Nat) : Option Nat :=
  let els := d.runs.flatten
  let per : Nat := if d.bits = 4 then 2 else 1
  match els.head? with
  | none => none
  | some e0 => (s.placeOf g x (e0.va xb)).bind (fun a =>
      if a % 4096 = 0 ∧ els.all (fun e => !e.masked) ∧ !(d.bits == 4 && d.bnd 0 % 2 == 1 && decide (1 < d.runs.length))
          ∧ (els.zip (upto 0 els.length)).all (fun (e, i) => s.placeOf g x (e.va xb) == some (a + i / per * d.elBytes)) then some a
      else none)

/-- The same, of a walk that lies in HBM. -/
def State.denseHbm (s : State) (g x : Nat) (l : Leg) : Option Nat := (s.denseFrom g x l.d l.base).filter (fun a => decide (a < 2 ^ 64))

/-- Whether a walk is dense on its side. -/
def State.denseLeg (s : State) (g x : Nat) (l : Leg) : Bool := if l.ext then (s.denseFrom g x l.d l.base).isSome else l.d.dense l.base

/-- First byte and length of the blocks of a dense walk. -/
def Desc.blocks (d : Desc) (a : Nat) : List (Nat × Nat) := (upto 0 (ceilDiv d.bytes 4096)).map (fun k => (a + k * 4096, min 4096 (d.bytes - k * 4096)))

/-- A transfer engine verifies the valid blocks of a dense device walk that it reads whole: a block that fails is fogged, and so delivered
with fog (R463, R465). -/
def State.verifyExt (s : State) (g x : Nat) (l : Leg) : State :=
  match s.denseHbm g x l with
  | none => s
  | some a => (l.d.blocks a).foldl (fun s (b, n) => s.hbmVerify { unit := g, ctx := some x } b n) s

/-- Fog the bytes of a range in what a request has brought. -/
def ExtReq.fogRange (q : ExtReq) (va n : Nat) : ExtReq :=
  { q with fog := (upto 0 q.data.length).map (fun i => q.fog.getD i false || (decide (va ≤ q.va + i) && decide (q.va + i < va + n))) }

/-- A read generator compares the valid blocks of a dense device walk with what has landed of them, before it delivers any byte: one that
fails comes with fog, and its lines are poisoned (R463 to R465). -/
def State.verifyLanded (s : State) (g x : Nat) (l : Leg) (reqs : List ExtReq) : State × List ExtReq :=
  match s.denseHbm g x l, l.d.runs.flatten.head? with
  | some a, some e0 =>
    (l.d.blocks a).foldl (fun (acc : State × List ExtReq) (b, n) =>
      let (s, q) := acc
      match tabFind s.hbm.checks (b / 4096) with
      | none => acc
      | some e =>
        let va := e0.va l.base + (b - a)
        let got := (upto va n).map (reqByte q)
        let crc := crc32c (got.map (·.1))
        if e.n ≠ n then acc
        else if got.any (·.2) then (s.setHbm { s.hbm with checks := tabDel s.hbm.checks (b / 4096) }, q)
        else if crc = e.crc then acc
        else (s.hbmBadBlock { unit := g, ctx := some x } 0 b n e.crc crc, q.map (fun r => r.fogRange va n))) (s, reqs)
  | _, _ => (s, reqs)

/-- The CRCs that a dense device walk forwards (R100, R339). -/
def State.forwardedExt (s : State) (g x : Nat) (l : Leg) : List (Option (BitVec 32)) :=
  match s.denseHbm g x l with
  | none => []
  | some a => (l.d.blocks a).map (fun (b, n) =>
      match tabFind s.hbm.checks (b / 4096) with | some e => if e.n = n then some e.crc else none | none => none)

/-- Store the checks of a dense destination that has been written whole; `came` are the CRCs that came with the data, one for each
block, none where the write generator computes it (R99, R339). -/
def State.storeChecks (s : State) (g x : Nat) (l : Leg) (came : List (Option (BitVec 32))) : State :=
  if l.ext then
    match s.denseHbm g x l with
    | none => s
    | some a => ((l.d.blocks a).zip (upto 0 (l.d.blocks a).length)).foldl (fun s ((b, n), k) => s.hbmStoreCheck { ctx := some x } b n (came.getD k none)) s
  else if l.d.dense l.base then
    let bs := l.d.blocks (l.d.base + l.base)
    (bs.zip (upto 0 bs.length)).foldl (fun s ((b, n), k) => s.muStoreCheck g b n (came.getD k none)) s
  else s

end Sys2Proof.Machine
end

