-- ==== Sys2Proof/Machine/MuInstr.lean ====
section
/-!
DEFINITION. The instructions of a memory unit (R277, R280 to R284, R347, R379): slots (R101 to R104), windows (R105, R107),
data movement, prefetch, contributions, and the events of generators and slots.
-/

namespace Sys2Proof.Machine

/-! ### Slots (R102, R103) -/

/-- Whether a write, or a read, may start on a slot now. -/
def Slot.mayStart (x : Slot) (write : Bool) : Bool :=
  if write then x.state == .empty
  else x.state == .full || (x.state == .draining && decide (x.started < x.readers))

/-- Start a write or a read. -/
def Slot.start (x : Slot) (write : Bool) : Slot :=
  if write then { x with state := .filling }
  else if x.state = .full then { x with state := .draining, started := 1, completed := 0 }
  else { x with started := x.started + 1 }

/-- Complete a write or a read. -/
def Slot.finish (x : Slot) (write : Bool) : Slot :=
  if write then { x with state := .full, started := 0, completed := 0 }
  else if x.completed + 1 = x.readers then { x with state := .empty, started := 0, completed := 0 }
  else { x with completed := x.completed + 1 }

/-- Grant a slot to a run. -/
def State.grantSlot (s : State) (g k : Nat) (write : Bool) (r : Run) : State :=
  let m := s.mu g
  let s := s.setMu g { m.setSlot k ((m.slot k).start write) with slotQ := m.slotQ.filter (fun e => e.2.1 != r.id) }
  s.putRun g { r with slotGranted := true, slotGen := (m.slot k).gen }

/-- A run that needs slot `k` begins: it is granted the slot, or waits behind those that wait for the same kind of access,
or ends with SLOT_EMPTY when it may not wait (R102, R103, R287). None: it waits already. -/
def State.beginSlot (s : State) (g k : Nat) (write nw : Bool) (r : Run) : Option State :=
  let m := s.mu g
  if m.slotQ.any (fun e => e.2.1 == r.id) then none
  else if (m.slot k).mayStart write && !m.slotQ.any (fun e => e.1 == k && e.2.2 == write) then some (s.grantSlot g k write r)
  else if nw && ((m.slot k).state == .empty || (m.slot k).state == .filling) then some (s.putRun g { r with status := stSlotEmpty, finished := true })
  else some (s.setMu g { m with slotQ := m.slotQ ++ [(k, r.id, write)] })

/-- SLOT_GRANT (R103): the first waiter of a slot that its state allows is granted it. -/
def execSlotGrant (m : MuId) (slot : Fin 256) (s : State) : Res :=
  let g := muGid m
  let u := s.mu g
  if !s.acts g || (s.tu g).stopped then .next s
  else match u.slotQ.find? (fun e => e.1 == slot.val && (u.slot slot.val).mayStart e.2.2) with
    | none => .next s
    | some e =>
      match (s.tu g).running.find? (fun r => r.id == e.2.1) with
      | some r => .next ((s.grantSlot g slot.val e.2.2 r).progress m.cluster.val)
      | none => .next (s.setMu g { u with slotQ := u.slotQ.filter (fun x => x.2.1 != e.2.1) })

/-- The current run of an instruction ends: its slot access completes, unless the slot was cleared since (R104), and the
next run begins (R121). -/
def State.endRun (s : State) (g : Nat) (r : Run) (slot : Option Nat) (write : Bool) : State :=
  let m := s.mu g
  let s := match slot with
    | some k => if r.slotGranted && (m.slot k).gen == r.slotGen then s.setMu g (m.setSlot k ((m.slot k).finish write)) else s
    | none => s
  s.putRun g { r with run := r.run + 1, slotGranted := false, phase := 0, els := [], came := [], reqs := [],
                      finished := decide (r.iss.i.count ≤ r.run + 1) }

/-! ### Fields of the MU record (R279) -/

def Run.xa (r : Run) : Nat := recFld r.prm 63 0
def Run.xc (r : Run) : Nat := recFld r.prm 127 64
def Run.slotNum (r : Run) : Option Nat := if r.iss.i.slot then some r.iss.i.num else none

/-- Sides of descriptors A and C of a run, as checked at issue. -/
def Run.sideA (r : Run) : Side :=
  ((r.desc r.iss.i.da).sideOf (if r.iss.i.op = 0x01 ∧ r.iss.i.slot then some (r.slotBase, r.slotLen) else none) r.xa).getD .scratch
def Run.sideC (r : Run) : Side :=
  ((r.desc r.iss.i.dc).sideOf (if r.iss.i.op ≠ 0x01 ∧ r.iss.i.slot then some (r.slotBase, r.slotLen) else none) r.xc).getD .scratch

/-! ### Issue (R83, R86, R270, R281) -/

/-- What an MU instruction asks of its descriptors at issue: A used, C used, C optional, A external, C in the MU. -/
structure MuNeeds where
  a : Bool
  c : Bool
  stream : Bool
  reads : Nat
  writes : Nat
  deriving DecidableEq, Repr

/-- Needs by opcode: LD.W with C 0xFFFF sends to a stream. -/
def muNeeds (i : TInstr) : MuNeeds :=
  match i.op with
  | 0x01 => { a := true, c := i.dc != 0xFFFF, stream := i.dc == 0xFFFF, reads := 1, writes := if i.dc = 0xFFFF then 0 else 1 }
  | 0x02 => { a := false, c := true, stream := true, reads := 0, writes := 1 }
  | 0x03 => { a := true, c := false, stream := false, reads := 1, writes := 0 }
  | 0x04 => { a := true, c := true, stream := false, reads := 0, writes := 0 }
  | 0x09 => { a := true, c := true, stream := false, reads := 1, writes := 1 }
  | _ => { a := true, c := false, stream := false, reads := 1, writes := 0 }

/-- Reserved bits of the MU record, whose `round` and `blk` only CONTRIB uses (R279). -/
def muRecordBad (p : BitVec 256) : Bool := recFld p 255 154 != 0

/-- The status of the checks of one operand. -/
def Mu.operandBad (m : Mu) (i : Nat) (write : Bool) (slot : Option Nat) (xb : Nat) : Option Nat :=
  if 1024 ≤ i then some stContextFault
  else match (m.desc_ i).sideOf (slot.map m.slotRange) xb with
    | none => some stContextFault
    | some side => m.checkDesc i write side

/-- The checks of a data movement instruction: operands, streams, formats and counts. -/
def State.moveBad (s : State) (g : Nat) (iss : Issued) : Option Nat :=
  let i := iss.i
  let m := s.mu g
  let n := muNeeds i
  let p := s.recordOf g i
  let slot := if i.slot then some i.num else none
  let slotA := if i.op = 0x01 then slot else none
  let slotC := if i.op = 0x01 then none else slot
  let da := m.desc_ i.da
  let dc := m.desc_ i.dc
  let inUsed := i.op == 0x02
  let outUsed := i.op == 0x01 && i.dc == 0xFFFF
  if muRecordBad p then some stContextFault
  else if n.a && (m.operandBad i.da false slotA (recFld p 63 0)).isSome then m.operandBad i.da false slotA (recFld p 63 0)
  else if n.c && (m.operandBad i.dc true slotC (recFld p 127 64)).isSome then m.operandBad i.dc true slotC (recFld p 127 64)
  else if !n.a && i.da ≠ 0xFFFF then some stContextFault
  else if n.a && n.c && (da.fmt != dc.fmt || da.count != dc.count) then some stContextFault
  else if n.a && n.c && da.scaled && ((m.desc_ (i.da + 1)).asScales.count != (m.desc_ (i.dc + 1)).asScales.count) then some stContextFault
  else if !outUsed && i.sout ≠ 0 then some stContextFault
  else if outUsed && !iss.feeds && (i.sout == 0 || !s.chanOk g i.sout true) then some stContextFault
  else if inUsed && !iss.fed && (i.sin == 0 || !s.chanOk g i.sin false) then some stContextFault
  else if i.op = 0x03 ∧ da.ext = false then some stContextFault
  else if i.op = 0x09 ∧ da.ext = false then some stContextFault
  else if i.op = 0x04 && i.slot && dc.ext then some stContextFault
  else if i.op = 0x0A ∧ da.ext then some stContextFault
  else none

/-- Issue of a data movement instruction: checks, the transfer engine for an XFER, the generators, the transpose buffer. -/
def moveIssue (s : State) (g : Nat) (iss : Issued) : State :=
  let i := iss.i
  let m := s.mu g
  let n := muNeeds i
  match s.issueCheck g iss with
  | some st => s.tensorFault g iss st
  | none =>
    match s.moveBad g iss with
    | some st => s.tensorFault g iss st
    | none =>
      match s.freeGens g n.reads n.writes with
      | none => s
      | some gens =>
        if n.a && i.count != 0 && (m.desc_ i.da).xpose && s.xposeTaken g then s
        else if i.op == 0x04 && m.xf.active then s
        else
          let s := s.beginRun g { iss := iss, prm := s.recordOf g i, latch := m.latchOf i, gens := gens,
                                  slotBase := (m.slotRange i.num).1, slotLen := (m.slotRange i.num).2 }
          if i.op = 0x04 then s.setMu g { s.mu g with xf := { (s.mu g).xf with active := true, faultWait := false, delivered := [] } }
          else s

/-! ### Moving a walk (R87, R280) -/

/-- Wake the sleeping groups of walks; none when all are awake. -/
def State.wakeLegs (s : State) (g : Nat) (l : List Leg) : Option State :=
  let m := s.mu g
  let z := l.foldl (fun a x => if x.ext then a else a ||| m.walkAsleep x.d x.base) 0
  if z = 0 then none else some (s.setMu g { m with waking := m.waking ||| z })

/-- Give a run requests of its own numbers. -/
def State.withReqs (s : State) (g : Nat) (r : Run) (mk : Nat → List ExtReq) : State × Run :=
  let t := s.tu g
  let l := mk t.nextId
  (s.setTu g { t with nextId := t.nextId + l.length }, { r with reqs := l })

/-- Limit of outstanding requests of a walk (R87). -/
def Desc.limit (d : Desc) : Nat := min 64 (4 * (d.ahead + 1))

/-- Send what may be sent of a run's requests; the run waits when nothing changes. -/
def State.pushRun (s : State) (g : Nat) (r : Run) (k : ReqKind) (limit : Nat) : Option State :=
  let room := limit - outstanding r.reqs
  if r.reqs.all (·.sent) ∨ room = 0 then none
  else match pushReqs g r.iss.ctx k room r.reqs s with
    | .ok t l => if l == r.reqs && t.snoops == s.snoops then none else some (t.putRun g { r with reqs := l })
    | .fail s => some s
    | .fault s _ _ _ => some (s.tensorFault g r.iss stContextFault)

/-- The read requests of external walks, row by row: row k is walk k. A transposed walk is requested along loop 0 (R87, R93). -/
def legReads (rc pf : Bool) (id : Nat) : List Leg → Nat → List ExtReq
  | [], _ => []
  | l :: t, k =>
    let a := numberReqs id k false rc pf (l.accesses.flatMap (l.d.runReqs l.base))
    a ++ legReads rc pf (id + a.length) t (k + 1)

/-- The write requests of external walks. -/
def legWrites (id : Nat) : List (Leg × List El) → Nat → List ExtReq
  | [], _ => []
  | (l, xs) :: t, k =>
    let rows := splitRuns l.d xs
    let a := (l.d.runs.zip rows).foldl (fun acc (ws, ys) => acc ++ l.d.runWrites l.base (id + acc.length) k ws ys) []
    a ++ legWrites (id + a.length) t (k + 1)

/-- The checks of the external walks that have been written whole. -/
def State.legChecks (s : State) (g x : Nat) (legs : List Leg) (came : List (List (Option (BitVec 32)))) : State :=
  (legs.zip (upto 0 legs.length)).foldl (fun s (l, k) => if l.ext then s.storeChecks g x l (came.getD k []) else s) s

/-- Write statuses that a window refusal leaves (R288). -/
def reqsStatus (l : List ExtReq) : Nat := match l.find? (fun q => q.status != 0) with | some q => q.status | none => 0

/-- Write elements through walk `c`, as far as there are any: in the scratchpad unless a bank group of it is off, in device memory where each
write's address translates. -/
def State.writeSome (s : State) (g x : Nat) (c : Leg) (els : List El) : State :=
  let runs := splitRuns c.d els
  if c.ext then
    match s.ctx x with
    | none => s
    | some k => (((c.d.runs.zip runs).flatMap (fun (ws, xs) => c.d.runWrites c.base 0 0 ws xs))).foldl (fun s q =>
        match s.xlate g x k q.va true .plain with
        | .hbm a _ => s.hbmWriteKeep { unit := g, ctx := some x } a q.data q.keep q.fog
        | _ => s) s
  else if (s.mu g).walkAsleep c.d c.base ≠ 0 then s
  else s.writeRuns g c.d c.base runs

/-- A request of a move has failed its context: the elements that have landed before it in walk order are delivered, and stay (R283,
R379). -/
def State.deliverLanded (s : State) (g : Nat) (r : Run) (legsA legsC : List Leg) : State :=
  ((legsA.zip legsC).zip (upto 0 legsC.length)).foldl (fun s ((a, c), k) =>
    let q := r.reqs.filter (fun q => q.row == k && q.done)
    let here := fun (e : WEl) => e.masked || q.any (fun q => decide (q.va ≤ e.va a.base) && decide (e.va a.base < q.va + q.len))
    s.writeSome g r.iss.ctx c (a.d.extRun a.base q (a.runs.flatten.takeWhile here))) s

/-- One step of a run that moves walk A to walk C, or to a stream (LD.W, IMPORT). With count 0 it moves nothing, and ends its stream
output and its slot access as an empty run does (R9, R121). -/
def moveAdvance (s : State) (g : Nat) (r : Run) : Option State :=
  let i := r.iss.i
  let toMem := i.dc != 0xFFFF
  let slot := if i.op = 0x01 then r.slotNum else none
  let legsA := r.legs i.da r.sideA toMem
  let extA := legsA.any (·.ext)
  let legsC := if toMem then r.legs i.dc r.sideC true else []
  let rc := (r.desc i.da).rc && i.op != 0x09
  match slot, r.slotGranted with
  | some k, false => s.beginSlot g k false i.nw r
  | _, _ =>
    if i.count = 0 then some ((if toMem then s else s.deliverEmpty g r).endRun g r slot false)
    else match r.phase with
    | 0 =>
      if extA then
        let (s, r) := s.withReqs g r (fun id => legReads rc false id legsA 0)
        some (s.putRun g { r with phase := 1 })
      else match s.wakeLegs g legsA with
        | some s => some s
        | none =>
          let (s, els, came) := legsA.foldl (fun (acc : State × List (List El) × List (List (Option (BitVec 32)))) l =>
            let (s, runs, c) := acc.1.readRaw g l.d l.base l.runs
            (s, acc.2.1 ++ [runs.flatten], acc.2.2 ++ [c])) (s, [], [])
          some (s.putRun g { r with phase := 2, els := els, came := came })
    | 1 =>
      match s.pushRun g r .plain (r.desc i.da).limit with
      | some s => some (if s.ctxFailed r.iss.ctx then s.deliverLanded g r legsA legsC else s)
      | none =>
        if r.reqs.all (·.done) then
          let (s, els, came) := (legsA.zip (upto 0 legsA.length)).foldl (fun (acc : State × List (List El) × List (List (Option (BitVec 32)))) (l, k) =>
            let (s, q) := acc.1.verifyLanded g r.iss.ctx l (r.reqs.filter (fun q => q.row == k))
            (s, acc.2.1 ++ [(l.runs.map (l.d.extRun l.base q)).flatten], acc.2.2 ++ [s.forwardedExt g r.iss.ctx l])) (s, [], [])
          some (s.putRun g { r with phase := 2, els := els, came := came, reqs := [] })
        else none
    | 2 =>
      if !toMem then
        let d := r.desc i.da
        some ((s.deliver g r (tensorFlits d.bits (splitRuns d (r.els.getD 0 [])) (r.came.getD 0 []))).endRun g r slot false)
      else if legsC.any (·.ext) then
        let (s, r) := s.withReqs g r (fun id => legWrites id (legsC.zip r.els) 0)
        some (s.putRun g { r with phase := 3 })
      else match s.wakeLegs g legsC with
        | some s => some s
        | none =>
          let s := ((legsC.zip r.els).zip (upto 0 legsC.length)).foldl (fun s ((l, xs), k) =>
            s.writeWalk g l.d l.base (splitRuns l.d xs) (r.came.getD k [])) s
          some (s.endRun g r slot false)
    | _ =>
      match s.pushRun g r .plain 64 with
      | some s => some s
      | none => if r.reqs.all (·.done) then some ((s.legChecks g r.iss.ctx legsC r.came).endRun g r slot false) else none

/-- LD_W (R280). -/
def execLdW (m : MuId) (s : State) : Res :=
  tensorCmd s (muGid m) (· == 0x01) (fun s h => moveIssue s (muGid m) h) (fun s r => moveAdvance s (muGid m) r)

/-- IMPORT (R379). -/
def execImportMu (m : MuId) (s : State) : Res :=
  tensorCmd s (muGid m) (· == 0x09) (fun s h => moveIssue s (muGid m) h) (fun s r => moveAdvance s (muGid m) r)

/-- One step of a run that writes a stream input through C (ST.W): flits are taken in, and with the last one the tensor is
checked against the walk and written (R282). With count 0 it takes nothing, and its slot becomes FULL (R9, R102). -/
def stwAdvance (s : State) (g : Nat) (r : Run) : Option State :=
  let i := r.iss.i
  let slot := r.slotNum
  let legs := r.legs i.dc r.sideC false
  let d := r.desc i.dc
  let lens := d.runs.map (·.length)
  let need := (lens.map (runLen d.bits)).foldl (· + ·) 0
  match slot, r.slotGranted with
  | some k, false => s.beginSlot g k true false r
  | _, _ =>
    if i.count = 0 then some (s.endRun g r slot true)
    else match r.phase with
    | 0 =>
      match takeTensor r.flits with
      | none =>
        let src := s.source g r
        if src.isEmpty then none
        else
          let (mine, _) := (takeTensor src).getD (src, [])
          let s := s.takeSource g r mine.length
          let flits := r.flits ++ mine
          if need < ((flits.map (fun f => f.bytes.length)).foldl (· + ·) 0) then some (s.tensorFault g r.iss stContextFault)
          else some (s.putRun g { r with flits := flits })
      | some (t, _) =>
        let bytes := t.flatMap (·.bytes)
        let fog := t.flatMap (·.byteFog)
        if bytes.length ≠ need then some (s.tensorFault g r.iss stContextFault)
        else
          let els := (bytesToRuns d.bits lens bytes fog).flatten
          some (s.putRun g { r with phase := 2, els := [els], came := [flitChecks t], flits := [] })
    | 2 =>
      if legs.any (·.ext) then
        let (s, r) := s.withReqs g r (fun id => legWrites id (legs.zip r.els) 0)
        some (s.putRun g { r with phase := 3 })
      else match s.wakeLegs g legs with
        | some s => some s
        | none =>
          let s := (legs.zip r.els).foldl (fun s (l, xs) => s.writeWalk g l.d l.base (splitRuns l.d xs) (r.came.getD 0 [])) s
          some (s.endRun g r slot true)
    | _ =>
      match s.pushRun g r .stw 64 with
      | some s => some s
      | none =>
        if r.reqs.all (·.done) then
          some ((s.legChecks g r.iss.ctx legs r.came).endRun g { r with status := if r.status = 0 then reqsStatus r.reqs else r.status } slot true)
        else none

/-- ST_W (R280). -/
def execStW (m : MuId) (s : State) : Res :=
  tensorCmd s (muGid m) (· == 0x02) (fun s h => moveIssue s (muGid m) h) (fun s r => stwAdvance s (muGid m) r)

/-- One step of a prefetch: read requests that deliver nothing; they enter the cache only when the descriptor allows it (R334, R347).
With count 0 there are none. -/
def pfAdvance (s : State) (g : Nat) (r : Run) : Option State :=
  let legs := r.legs r.iss.i.da (.ext r.xa) true
  match r.phase with
  | 0 =>
    let (s, r) := s.withReqs g r (fun id => if r.iss.i.count = 0 then [] else legReads (r.desc r.iss.i.da).rc true id legs 0)
    some (s.putRun g { r with phase := 1 })
  | _ =>
    match s.pushRun g r .plain (r.desc r.iss.i.da).limit with
    | some s => some s
    | none => if r.reqs.all (·.done) then some (s.endRun g r none false) else none

/-- PF (R347). -/
def execPf (m : MuId) (s : State) : Res :=
  tensorCmd s (muGid m) (· == 0x03) (fun s h => moveIssue s (muGid m) h) (fun s r => pfAdvance s (muGid m) r)

/-! ### Contributions (R259, R284, R362, R363, R366) -/

/-- Whether a format may be contributed to a group: float or integer as its output format (R259). -/
def contribFmtOk (code ofmt : Nat) : Bool :=
  let float := [0x00, 0x01, 0x02]
  let int := [0x08, 0x09]
  (float.contains code && !fmtInt ofmt) || (int.contains code && fmtInt ofmt)

/-- A CONTRIB whose group, format or blocks break R259: no member of a valid group of its context with slots, or too many blocks; an empty
walk has none (R9). -/
def State.contribBad (s : State) (c : Nat) (r : Run) (d : Desc) (k : Nat) : Bool :=
  let gr := s.grp k
  !gr.valid || gr.owner != r.iss.ctx || !gr.members.contains c || gr.rslots == 0 || !contribFmtOk d.code gr.ofmt
    || (d.count != 0 && decide (ceilDiv gr.elems 16 < recFld r.prm 153 144 + ceilDiv d.count 16))

/-- One run of a CONTRIB: its blocks go to the unit's router when the round is current; a later round is held, an earlier
one fails the context (R366); an empty walk contributes to no round and is over at once (R9). -/
def contribAdvance (s : State) (g : Nat) (r : Run) : Option State :=
  let i := r.iss.i
  let c := clusterOf g
  let k := tabGet 256 (((s.ctx r.iss.ctx).map (·.binds)).getD []) i.num
  let gr := s.grp k
  let d := r.desc i.da
  let round := (recFld r.prm 143 128 + r.run) % 65536
  let dist := (round + 65536 - tabGet 0 (s.rt c).rounds k % 65536) % 65536
  let blk := recFld r.prm 153 144
  if i.count = 0 then some (s.endRun g r none false)
  else if s.contribBad c r d k then some (s.tensorFault g r.iss stContextFault)
  else if d.count = 0 then some (s.endRun g r none false)
  else if dist ≠ 0 ∧ dist < 32768 then none
  else if dist ≠ 0 then some (s.tensorFault g r.iss stContextFault)
  else match s.wakeLegs g [⟨d, 0, false, none⟩] with
    | some s => some s
    | none =>
      let (s', runs, _) := s.readPlain g d 0
      let blocks := chunks 16 d.count runs.flatten
      let pk := (blocks.zip (upto blk blocks.length)).map (fun (b, j) =>
        ({ dest := gidOf gr.root 0, cls := 0, flits := flitCount (b.length * (d.bits / 8)), src := g, ctx := r.iss.ctx,
           body := .contribution k round j d.code (b.map (·.bits)) (b.any (·.fog)) } : Packet))
      let rt := s'.rt c
      some ((s'.setRt c { rt with inbox := rt.inbox ++ pk }).endRun g r none false)

/-- CONTRIB (R284). -/
def execContrib (m : MuId) (s : State) : Res :=
  tensorCmd s (muGid m) (· == 0x0A) (fun s h => moveIssue s (muGid m) h) (fun s r => contribAdvance s (muGid m) r)

/-! ### SLOT.DEF, SLOT.CLR (R101, R104) -/

/-- Issue of a SLOT.DEF. -/
def slotDefIssue (s : State) (g : Nat) (iss : Issued) : State :=
  let p := s.recordOf g iss.i
  let m := s.mu g
  match s.issueCheck g iss with
  | some st => s.tensorFault g iss st
  | none =>
    if recFld p 27 14 = 0 ∨ recFld p 31 28 = 0 ∨ recFld p 255 32 ≠ 0 ∨ (m.slot iss.i.num).state ≠ .empty then
      s.tensorFault g iss stContextFault
    else
      let x : Slot := { base := recFld p 13 0, length := recFld p 27 14, readers := recFld p 31 28, gen := (m.slot iss.i.num).gen + 1 }
      (s.setMu g (m.setSlot iss.i.num x)).headDone g iss

/-- SLOT_DEF (R104). -/
def execSlotDef (m : MuId) (s : State) : Res :=
  tensorCmd s (muGid m) (· == 0x05) (fun s h => slotDefIssue s (muGid m) h) (fun _ _ => none)

/-- Issue of a SLOT.CLR. -/
def slotClrIssue (s : State) (g : Nat) (iss : Issued) : State :=
  let m := s.mu g
  match s.issueCheck g iss with
  | some st => s.tensorFault g iss st
  | none =>
    let x := m.slot iss.i.num
    (s.setMu g (m.setSlot iss.i.num { x with state := .empty, started := 0, completed := 0, gen := x.gen + 1 })).headDone g iss

/-- SLOT_CLR (R104). -/
def execSlotClr (m : MuId) (s : State) : Res :=
  tensorCmd s (muGid m) (· == 0x06) (fun s h => slotClrIssue s (muGid m) h) (fun _ _ => none)

/-! ### WIN.OPEN, WIN.CLOSE (R105, R107, R108) -/

/-- The bank groups that a window covers. -/
def Win.groups (w : Win) : BitVec 8 := groupsOf (w.base * 64) (w.length * 64)

/-- Close a window; none of its accepted writes is lost by that (R107). -/
def Mu.closeWin (m : Mu) (k : Nat) : Mu := m.setWin k { m.win k with opened := false }

/-- Whether a write that a window accepted has still to be performed. -/
def Mu.winBusy (m : Mu) (k : Nat) : Bool := m.accepted.any (fun a => a.win == k)

/-- Issue of a WIN.OPEN: an open window is closed first, and opens again once every write accepted before has been performed; a bad
range or a length of 0 fails the context and leaves it closed; a pending power-down of a covered group is cancelled (R105, R108). -/
def winOpenIssue (s : State) (g : Nat) (iss : Issued) : State :=
  let p := s.recordOf g iss.i
  let k := iss.i.num
  let m := s.mu g
  let base := recFld p 15 0
  let len := recFld p 31 16
  match s.issueCheck g iss with
  | some st => s.tensorFault g iss st
  | none =>
    if recFld p 255 47 ≠ 0 then s.tensorFault g iss stContextFault
    else if len = 0 || !m.rangeOk (base * 64) (len * 64) then (s.setMu g (m.closeWin k)).tensorFault g iss stContextFault
    else if m.winBusy k then s.setMu g (m.closeWin k)
    else
      let w : Win := { base := base, length := len, writer := recFld p 43 32, rights := recFld p 46 44, opened := true,
                       epoch := ((m.win k).epoch + 1) % 65536 }
      let hit := m.downReq &&& m.powered &&& w.groups
      let m := { m.setWin k w with downReq := m.downReq &&& ~~~ hit, cancelled := m.cancelled ||| hit }
      (s.setMu g m).headDone g iss

/-- WIN_OPEN (R105). -/
def execWinOpen (m : MuId) (s : State) : Res :=
  tensorCmd s (muGid m) (· == 0x07) (fun s h => winOpenIssue s (muGid m) h) (fun _ _ => none)

/-- Issue of a WIN.CLOSE: the window is closed at once, and the instruction completes once every write accepted before has been
performed. -/
def winCloseIssue (s : State) (g : Nat) (iss : Issued) : State :=
  let m := s.mu g
  match s.issueCheck g iss with
  | some st => s.tensorFault g iss st
  | none =>
    let s := s.setMu g (m.closeWin iss.i.num)
    if m.winBusy iss.i.num then s else s.headDone g iss

/-- WIN_CLOSE (R107). -/
def execWinClose (m : MuId) (s : State) : Res :=
  tensorCmd s (muGid m) (· == 0x08) (fun s h => winCloseIssue s (muGid m) h) (fun _ _ => none)

end Sys2Proof.Machine
end

