-- ==== Sys2Proof/Machine/Mcu.lean ====
section
/-!
DEFINITION. Matrix units (spec/04, R47 to R73): geometry, binding and its checks, the quanta of every mode, pip planes, the
epilogue, and one meaning for each matrix command.
-/

namespace Sys2Proof.Machine

/-! ### The parameter record and the geometry (R120, R124, R125) -/

/-- The fields of R120. -/
structure Mm where
  op : Nat
  m : Nat
  n : Nat
  k : Nat
  accBase : Nat
  accV : Nat
  accG : Nat
  acc : Bool
  order : Nat
  kc : Nat
  fuse : Bool
  rank : Nat
  phase : Nat
  pip : Nat
  pipDesc : Nat
  x1 : Nat
  x2 : Nat
  epiRec : Nat
  resv : Bool
  deriving DecidableEq, Repr

/-- Read a record. -/
def mmOf (op : Nat) (p : BitVec 256) : Mm :=
  { op := op, m := recFld p 23 0, n := recFld p 47 24, k := recFld p 71 48, accBase := recFld p 76 72, accV := recFld p 81 77,
    accG := recFld p 86 82, acc := recFld p 87 87 == 1, order := recFld p 89 88, kc := recFld p 105 90, fuse := recFld p 106 106 == 1,
    rank := recFld p 113 107, phase := recFld p 114 114, pip := recFld p 116 115, pipDesc := recFld p 126 117,
    x1 := recFld p 137 128, x2 := recFld p 147 138, epiRec := recFld p 157 148,
    resv := recFld p 127 127 != 0 || recFld p 255 158 != 0 }

/-- Reserved bits and values of a record in the layout of R120 for its opcode; parameter index 1,023 is one of them (R268). -/
def Mm.recBad (x : Mm) : Bool :=
  let plain := x.op == 0x20 || x.op == 0x22
  let reads := !(x.op == 0x23 && x.phase == 1)
  x.resv || (x.fuse && !parIdxOk x.epiRec) || (plain && decide (2 ≤ x.order)) || (plain && x.order == 1 && (x.kc == 0 || x.kc % 16 != 0 || x.fuse))
    || (x.op == 0x23 && decide (64 < x.rank)) || (x.op != 0x20 && reads && x.pip == 3)

/-- Tiles that cover `n` rows or columns. -/
def tilesOf (n : Nat) : Nat := ceilDiv n 32

/-- A forward product or a PASS, whose quanta are groups on one tile. -/
def Mm.plain (x : Mm) : Bool := x.op == 0x20 || x.op == 0x22

/-- Output tiles in a row of the C or dX grid, the rows, and the reduction length of a plain mode. -/
def Mm.mt (x : Mm) : Nat := tilesOf x.m
def Mm.cols (x : Mm) : Nat := if x.op = 0x20 then x.n else x.k
def Mm.ct (x : Mm) : Nat := tilesOf x.cols
def Mm.red (x : Mm) : Nat := if x.op = 0x20 then x.k else x.n
def Mm.nt (x : Mm) : Nat := tilesOf x.n
def Mm.dt (x : Mm) : Nat := tilesOf x.k
def Mm.rho (x : Mm) : Nat := tilesOf x.rank
def Mm.tiles (x : Mm) : Nat := x.mt * x.ct

/-- An empty instruction: a zero bound (R120), or phase 1 with rank 0 (R131). A forward product of depth 0 is not empty
(R73). -/
def Mm.empty (x : Mm) : Bool :=
  x.m == 0 || x.n == 0 || (x.k == 0 && x.op != 0x20) || (x.op == 0x23 && x.phase == 1 && x.rank == 0)

/-- Accumulator tiles of C or dX: two that alternate for a fused OS product that starts from zero (R125). -/
def Mm.alternates (x : Mm) : Bool := x.plain && x.order == 0 && x.fuse && !x.acc
def Mm.baseTiles (x : Mm) : Nat := if x.alternates then min 2 x.tiles else x.tiles
def Mm.tileAt (x : Mm) (i : Nat) : Nat := x.accBase + (if x.alternates then i % 2 else i)

/-- The ranges of R125: first tile and number. -/
def Mm.ranges (x : Mm) : List (Nat × Nat) :=
  if x.empty then []
  else match x.op with
    | 0x21 => [(x.accBase, x.tiles), (x.accG, x.dt * x.nt)]
    | 0x23 =>
      if x.phase = 0 then [(x.accBase, x.tiles), (x.accV, x.mt * x.rho), (x.accG, x.rho * x.nt)]
      else [(x.accBase, x.tiles), (x.accV, x.mt * x.rho), (x.accG, x.dt * x.rho)]
    | _ => [(x.accBase, x.baseTiles)]

/-- Whether two ranges overlap. -/
def rangesMeet (a b : Nat × Nat) : Bool := decide (0 < a.2) && decide (0 < b.2) && decide (a.1 < b.1 + b.2) && decide (b.1 < a.1 + a.2)

/-- The tile check of R126. -/
def tilesBad (l : List (Nat × Nat)) : Option Nat :=
  if l.any (fun e => decide (0 < e.2) && decide (32 < e.1 + e.2)) then some stOverflow
  else if ((upto 0 l.length).any (fun i => (upto 0 i).any (fun j => rangesMeet (l.getD i (0, 0)) (l.getD j (0, 0))))) then some stContextFault
  else none

/-- Whether the mode reads dY and W through A and B. -/
def Mm.readsAB (x : Mm) : Bool := !(x.op == 0x23 && x.phase == 1)

/-- Whether the mode applies a pip plane (R133). -/
def Mm.usesPip (x : Mm) : Bool := x.pip != 0 && x.op != 0x20 && x.readsAB

/-- Strips of one dY tile that the source delivers. -/
def Mm.tileStrips (x : Mm) : Nat := if x.usesPip && x.pip == 2 then 16 else 32

/-- Strips that a run takes from A and from B, from the third and from the fourth operand (R118, R119, R128, R130, R133). -/
def Mm.needA (x : Mm) : Nat :=
  if x.empty || !x.readsAB then 0
  else if x.plain then x.tiles * (if x.usesPip && x.pip == 2 then x.nt * 16 else x.red)
  else x.mt * x.nt * x.tileStrips
def Mm.needB (x : Mm) : Nat :=
  if x.empty || !x.readsAB then 0 else if x.plain then x.tiles * x.red else x.mt * x.nt * x.dt * 32
def Mm.need1 (x : Mm) : Nat :=
  if x.empty then 0
  else match x.op with
    | 0x21 => x.mt * x.nt * x.dt * 32
    | 0x23 => if x.phase = 0 then x.mt * x.nt * x.rho * 32 else x.mt * x.rho * x.dt * 32
    | _ => 0
def Mm.need2 (x : Mm) : Nat :=
  if x.empty then 0
  else if x.op = 0x23 then (if x.phase = 0 then x.mt * x.nt * x.rho * 32 else x.mt * x.rho * x.dt * 32) else 0

/-! ### Formats and passes (R60, R115, R116) -/

/-- A format that takes several passes. -/
def multiPass (code : Nat) : Bool := code == 0x00 || code == 0x08

/-- Which piece of an operand a pass uses: whole, low or high. -/
inductive Piece where
  | whole | low | high
  deriving DecidableEq, Repr

/-- The passes of a pair of formats, in order (R60). -/
def passesOf (a b : Nat) : List (Piece × Piece) :=
  match multiPass a, multiPass b with
  | false, false => [(.whole, .whole)]
  | true, false => [(.low, .whole), (.high, .whole)]
  | false, true => [(.whole, .low), (.whole, .high)]
  | true, true => [(.low, .high), (.high, .low), (.high, .high)]

/-- An element as an operand of a pass. -/
def operOf (code : Nat) (p : Piece) (e : El) : Oper :=
  match p with
  | .whole => decodeOper code e.bits e.scale
  | .high => (pieces code e.bits).1
  | .low => (pieces code e.bits).2

/-- The format codes of A and B; a stream operand has the format of the other operand (log 26). -/
def Run.codeA (r : Run) : Nat := if r.iss.i.da = 0xFFFF then (r.desc r.iss.i.db).code else (r.desc r.iss.i.da).code
def Run.codeB (r : Run) : Nat := if r.iss.i.db = 0xFFFF then (r.desc r.iss.i.da).code else (r.desc r.iss.i.db).code

/-- The format pairs of array 0 and array 1. -/
def Mm.pair0 (x : Mm) (r : Run) : Nat × Nat :=
  if x.readsAB then (r.codeA, r.codeB) else (0x01, (r.desc x.x2).code)
def Mm.pair1 (x : Mm) (r : Run) : List (Nat × Nat) :=
  match x.op with
  | 0x21 => [((r.desc x.x1).code, r.codeA)]
  | 0x23 => if x.phase = 0 then [(r.codeA, (r.desc x.x2).code), ((r.desc x.x1).code, r.codeA)] else [((r.desc x.x1).code, 0x01)]
  | _ => []

/-- Number of passes of an instruction: the most that any of its pairs takes. -/
def Mm.passes (x : Mm) (r : Run) : Nat :=
  ((x.pair0 r :: x.pair1 r).map (fun (a, b) => (passesOf a b).length)).foldl max 1

/-! ### Descriptors latched by a matrix instruction -/

/-- The descriptors that an MM instruction latches beside A, B and C: third, fourth operand, pip plane, sign plane. -/
def Mu.latchMore (m : Mu) (t : Tab (BitVec 512)) (l : List Nat) : Tab (BitVec 512) :=
  l.foldl (fun t k => if k < 1024 then tabSet t k (tabGet 0 m.desc k) else t) t

/-- The check of one operand walk: in the home MU, R83, loop 0 of bound 32 or 0, exactly the strips needed (R118, R119). -/
def Mu.stripBad (m : Mu) (i need : Nat) : Option Nat :=
  let d := m.desc_ i
  if 1024 ≤ i then some stContextFault
  else if d.ext then some stContextFault
  else match m.checkDesc i false .scratch with
    | some st => some st
    | none =>
      let b := d.bnd (d.loopDim 0)
      if (b = 32 ∨ b = 0) ∧ d.count = 32 * need then none else some stContextFault

/-! ### The epilogue record (R140) -/

/-- The fields of R140. -/
structure Epi where
  ofmt : Nat
  rmode : Nat
  hasScale : Bool
  hasBias : Bool
  sbOff : Nat
  lo : BitVec 32
  hi : BitVec 32
  em : Nat
  en : Nat
  ebase : Nat
  pipDesc : Nat
  pipOut : Bool
  resv : Bool
  deriving DecidableEq, Repr

/-- Read an epilogue record. -/
def epiOf (p : BitVec 256) : Epi :=
  { ofmt := recFld p 7 0, rmode := recFld p 9 8, hasScale := recFld p 10 10 == 1, hasBias := recFld p 11 11 == 1,
    sbOff := recFld p 37 16, lo := BitVec.ofNat 32 (recFld p 95 64), hi := BitVec.ofNat 32 (recFld p 127 96),
    em := recFld p 151 128, en := recFld p 175 152, ebase := recFld p 180 176, pipDesc := recFld p 190 181,
    pipOut := recFld p 191 191 == 1, resv := recFld p 15 12 != 0 || recFld p 63 38 != 0 || recFld p 255 192 != 0 }

/-- Reserved bits and values of an epilogue record. -/
def Epi.recBad (e : Epi) : Bool := e.resv || e.rmode == 3 || !fmtByteOk e.ofmt || e.sbOff % 256 != 0

/-- The checks of an epilogue that writes `tiles` tiles of a grid with `ct` tile columns: record, table, output descriptor
and sign plane. C has format byte `ofmt` and one run of 32 for each tile row (log 27). -/
def State.epiBad (s : State) (h : Nat) (e : Epi) (i : TInstr) (tiles ct : Nat) : Option Nat :=
  let m := s.mu h
  let d := m.desc_ i.dc
  let b := d.bnd (d.loopDim 0)
  if e.recBad then some stContextFault
  else if (e.hasScale || e.hasBias) && !m.rangeOk e.sbOff (256 * ct) then some stOverflow
  else if i.dc ≠ 0xFFFF ∧ 1024 ≤ i.dc then some stContextFault
  else if i.dc ≠ 0xFFFF ∧ (d.ext ∨ d.fmt ≠ e.ofmt ∨ ¬ (b = 32 ∨ b = 0) ∨ d.count ≠ 1024 * tiles) then some stContextFault
  else if i.dc ≠ 0xFFFF ∧ (m.checkDesc i.dc true .scratch).isSome then m.checkDesc i.dc true .scratch
  else if e.pipOut then
    let p := m.desc_ e.pipDesc
    if p.ext ∨ p.fmt ≠ 0x08 ∨ p.count ≠ 32 * tiles then some stContextFault else m.checkDesc e.pipDesc true .scratch
  else none

/-! ### Binding (R117, R126, R135, R137, R278) -/

/-- The checks at bind of a matrix instruction. In a shared mode one pair that takes several passes makes every tile be read again in
each of them, so that a stream operand then breaks R116 whatever its own pair takes (DEDUCED, log 141). -/
def State.mmBad (s : State) (g : Nat) (iss : Issued) (r : Run) (x : Mm) : Option Nat :=
  let i := iss.i
  let h := homeMu g
  let m := s.mu h
  let t := s.tu g
  let a := i.da == 0xFFFF
  let b := i.db == 0xFFFF
  let strm := x.readsAB && (a || b)
  let pipN := x.mt * x.nt * (if x.pip = 2 then 16 else 32)
  if x.recBad || (x.usesPip && x.pip == 2 && (x.m % 2 == 1 || x.n % 2 == 1)) then some stContextFault
  else if a && b then some stContextFault
  else if (!x.fuse && (i.dc != 0xFFFF || i.sout != 0)) || (x.fuse && i.dc != 0xFFFF && i.sout != 0)
      || (x.fuse && i.dc == 0xFFFF && !iss.feeds && i.sout == 0) then some stContextFault
  else if (strm && !iss.fed && i.sin == 0) || (!strm && i.sin != 0) || (iss.fed && !strm) then some stContextFault
  else if x.readsAB && !a && (m.stripBad i.da x.needA).isSome then m.stripBad i.da x.needA
  else if x.readsAB && !b && (m.stripBad i.db x.needB).isSome then m.stripBad i.db x.needB
  else if x.need1 ≠ 0 && (m.stripBad x.x1 x.need1).isSome then m.stripBad x.x1 x.need1
  else if x.need2 ≠ 0 && (m.stripBad x.x2 x.need2).isSome then m.stripBad x.x2 x.need2
  else if strm && decide (1 < (if x.plain then (passesOf r.codeA r.codeB).length else x.passes r)) then some stContextFault
  else if x.usesPip && ((m.desc_ x.pipDesc).ext || (m.desc_ x.pipDesc).fmt != 0x08 || (!x.empty && (m.desc_ x.pipDesc).count != pipN)) then some stContextFault
  else if x.usesPip && (m.checkDesc x.pipDesc false .scratch).isSome then m.checkDesc x.pipDesc false .scratch
  else if x.fuse && t.recordBad x.epiRec then some stFoggedControl
  else if x.fuse && (s.epiBad h (epiOf (t.recordAt x.epiRec)) i (if x.empty then 0 else x.tiles) x.ct).isSome then
    s.epiBad h (epiOf (t.recordAt x.epiRec)) i (if x.empty then 0 else x.tiles) x.ct
  else tilesBad x.ranges

/-- The slots of an MCU, forward first (R135), and their replacement. -/
def Mcu.slots (m : Mcu) : List (Option Bound) := [m.f0, m.f1, m.b0, m.b1]
def Mcu.setSlotB (m : Mcu) (k : Nat) (b : Option Bound) : Mcu :=
  match k with
  | 0 => { m with f0 := b } | 1 => { m with f1 := b } | 2 => { m with b0 := b } | _ => { m with b1 := b }

/-- The run of an instruction number. -/
def State.runOf (s : State) (g id : Nat) : Option Run := (s.tu g).running.find? (fun r => r.id == id)

/-- A matrix instruction at the head of the queue leaves it and waits to bind; only one waits at a time (R135, log 28). Its channels are
checked when it leaves the queue (R224). -/
def mmIssue (s : State) (g : Nat) (iss : Issued) : State :=
  match s.issueCheck g iss with
  | some st => s.tensorFault g iss st
  | none =>
    if (s.tu g).running.any (fun r => decide (0x20 ≤ r.iss.i.op) && decide (r.iss.i.op ≤ 0x23) && r.phase == 0) then s
    else if (iss.i.sin != 0 && !s.chanOk g iss.i.sin false) || (iss.i.sout != 0 && !s.chanOk g iss.i.sout true) then s.tensorFault g iss stContextFault
    else s.beginRun g { iss := iss, prm := s.recordOf g iss.i }

/-- A command of a matrix instruction. -/
def mmCmd (u : McuId) (op : Nat) (s : State) : Res :=
  tensorCmd s (mcuGid u) (· == op) (fun s h => mmIssue s (mcuGid u) h) (fun _ _ => none)

/-- MM_FWD (R124). -/
def execMmFwd (u : McuId) (s : State) : Res := mmCmd u 0x20 s
/-- MM_DUAL (R128). -/
def execMmDual (u : McuId) (s : State) : Res := mmCmd u 0x21 s
/-- MM_PASS (R129). -/
def execMmPass (u : McuId) (s : State) : Res := mmCmd u 0x22 s
/-- MM_ADPT (R130). -/
def execMmAdpt (u : McuId) (s : State) : Res := mmCmd u 0x23 s

/-- Tiles that epilogue instructions issued before instruction `id` still have to read: those of an EPI that has a run still to queue,
and the queued ones of an EPI; the queued tiles of a fused instruction keep that one bound (R137, R138; DEDUCED, log 35: an EPI issued
later waits itself for the matrix instruction). -/
def State.unreadTiles (s : State) (g id : Nat) : List (Nat × Nat) :=
  (((s.tu g).running.takeWhile (fun q => q.id != id)).filterMap (fun r =>
    if r.iss.i.op = 0x24 ∧ (r.phase = 0 ∨ r.run + 1 < r.iss.i.count) ∧ !r.finished then
      let e := epiOf r.prm
      some (e.ebase, tilesOf e.em * tilesOf e.en)
    else none)) ++ (s.mcu g).epiQ.filterMap (fun e =>
      match s.runOf g e.id with
      | some r => if r.iss.i.op = 0x24 then some (e.tile, 1) else none
      | none => none)

/-- Whether a matrix instruction reads its home MU, and whether its epilogue writes there (R86). -/
def Mm.readsHome (x : Mm) (r : Run) : Bool :=
  (x.readsAB && (r.iss.i.da != 0xFFFF || r.iss.i.db != 0xFFFF)) || x.op == 0x21 || x.op == 0x23
def Mm.writesHome (_ : Mm) (r : Run) : Bool := r.iss.i.dc != 0xFFFF

/-- MCU_BIND (R135): the instruction that waits takes a free slot of its class once it passes the checks, and once no
tile that an EPI has still to read is among its own (R137), with the generators that it needs (R86). One of count 0 ends at once, with
an empty tensor on its stream output (R9). -/
def execMcuBind (u : McuId) (s : State) : Res :=
  let g := mcuGid u
  let h := homeMu g
  let mm := fun (r : Run) => decide (0x20 ≤ r.iss.i.op) && decide (r.iss.i.op ≤ 0x23) && r.phase == 0
  if !s.acts g || (s.tu g).stopped then .next s
  else match (s.tu g).running.find? mm with
    | none => .next s
    | some r =>
      let x := mmOf r.iss.i.op r.prm
      let m := s.mu h
      let r := { r with latch := m.latchMore (m.latchOf r.iss.i) [x.x1, x.x1 + 1, x.x2, x.x2 + 1, x.pipDesc, (epiOf ((s.tu g).recordAt x.epiRec)).pipDesc] }
      let others := { s with tus := tabSet s.tus g { s.tu g with running := (s.tu g).running.filter (fun q => q.id != r.id) } }
      match others.mmBad g r.iss r x with
      | some st => .next (s.tensorFault g r.iss st)
      | none =>
        let c := s.mcu g
        let mine := if r.iss.i.op = 0x20 then [0, 1] else [2, 3]
        match mine.find? (fun k => (c.slots.getD k none).isNone) with
        | none => .next s
        | some k =>
          if x.ranges.any (fun a => (s.unreadTiles g r.id).any (rangesMeet a)) then .next s
          else if r.xposes && others.xposeTaken h then .next s
          else match s.homeGens g (x.readsHome r) (x.fuse && (x.writesHome r || (epiOf ((s.tu g).recordAt x.epiRec)).pipOut)) with
          | none => .next s
          | some gens =>
            let s := s.setMcu g { c.setSlotB k (some { id := r.id, order := c.bindCount }) with bindCount := c.bindCount + 1 }
            let empty := r.iss.i.count == 0
            let s := if empty && x.fuse && r.iss.i.dc == 0xFFFF then s.deliverEmpty g r else s
            .next (s.putRun g { r with phase := 1, gens := gens, finished := empty })

/-! ### Quanta of the plain modes (R124, R129, R136) -/

/-- A group of a plain mode: its tile, pass, first and last k, the walk index of strip (tile, 0), and the walk index of the
pooled strip of k = 0 under pip 2. -/
structure PlainQ where
  tile : Nat
  pass : Nat
  k0 : Nat
  k1 : Nat
  strip : Nat → Nat
  pooled : Nat → Nat

/-- Quanta of one run, and quantum `q`. -/
def Mm.plainTotal (x : Mm) (passes : Nat) : Nat := x.tiles * passes * ceilDiv x.red 16
def Mm.plainAt (x : Mm) (passes q : Nat) : PlainQ :=
  let G := ceilDiv x.red 16
  if x.order = 0 then
    let ti := q / (passes * G)
    let k0 := q % G * 16
    { tile := ti, pass := q / G % passes, k0 := k0, k1 := min (k0 + 16) x.red,
      strip := fun k => ti * x.red + k, pooled := fun k => ti * (x.nt * 16) + k / 2 }
  else
    let r := q % (x.tiles * G)
    let per := x.tiles * (x.kc / 16)
    let ci := r / per
    let c0 := ci * x.kc
    let c1 := min (c0 + x.kc) x.red
    let gc := ceilDiv (c1 - c0) 16
    let r2 := r - ci * per
    let ti := r2 / gc
    let k0 := c0 + r2 % gc * 16
    let pc := (if c1 = x.red then x.nt * 16 else c1 / 2) - c0 / 2
    { tile := ti, pass := q / (x.tiles * G), k0 := k0, k1 := min (k0 + 16) c1,
      strip := fun k => c0 * x.tiles + ti * (c1 - c0) + (k - c0), pooled := fun k => c0 / 2 * x.tiles + ti * pc + (k / 2 - c0 / 2) }

/-! ### Quanta of the shared-tile modes (R127, R128, R130, R136) -/

/-- Output tiles of array 0 and 1 for each shared tile, and the shared tiles. -/
def Mm.steps (x : Mm) : Nat := if x.op = 0x23 ∧ x.phase = 0 then max x.dt (2 * x.rho) else x.dt
def Mm.sharedTiles (x : Mm) : Nat := x.mt * (if x.readsAB then x.nt else x.rho)
def Mm.sharedTotal (x : Mm) (passes : Nat) : Nat := passes * x.sharedTiles * x.steps

/-- Quanta of one run. -/
def Mm.total (x : Mm) (r : Run) : Nat :=
  if x.empty then 0 else if x.plain then x.plainTotal (passesOf r.codeA r.codeB).length else x.sharedTotal (x.passes r)

/-! ### Tiles of the accumulator (R122) -/

/-- The entries of a tile. -/
def Mcu.tile (m : Mcu) (t : Nat) : List (BitVec 32) := tabGet (List.replicate 1024 0) m.acc t

/-- Set tiles to +0 and clear their fog bits (R120, R122). -/
def Mcu.clearTiles (m : Mcu) (ts : List Nat) : Mcu :=
  { m with acc := ts.foldl (fun t k => tabDel t k) m.acc, tileFog := ts.foldl (fun f k => f &&& ~~~ (1#32 <<< k)) m.tileFog,
           accCe := m.accCe.filter (fun e => !ts.contains (e / 1024)), accBad := m.accBad.filter (fun e => !ts.contains (e / 1024)), injAcc := m.injAcc.filter (fun e => !ts.contains (e / 1024)) }

/-- A product's operand pairs for one group, element by element: `a k i`, `b k j`. -/
abbrev Slice := List (List Oper)

/-- Add one group into a tile: entry (i, j) takes the products of `a` row by row with `b`, where the entry is admitted
(R55, R56, R131). -/
def addGroup (tile : List (BitVec 32)) (a b : Slice) (rows cols : Nat) : List (BitVec 32) :=
  (tile.zip (upto 0 1024)).map (fun (v, e) =>
    let i := e / 32
    let j := e % 32
    if i < rows ∧ j < cols then
      groupAdd v ((a.zip b).map (fun (x, y) => product (x.getD i (operOf 0 .high { bits := 0 })) (y.getD j (operOf 0 .high { bits := 0 }))))
    else v)

/-- Reading a tile finds what has become of its entries: a single-bit error is corrected in place and counted, an uncorrectable one sets
the tile's fog bit, is counted and recorded (R143). -/
def State.readTile (s : State) (g t : Nat) : State :=
  let m := s.mcu g
  let ce := m.accCe.filter (fun e => e / 1024 == t)
  let bad := m.accBad.filter (fun e => e / 1024 == t)
  if ce.isEmpty && bad.isEmpty then s
  else
    let s := s.setMcu g { m with
      accCe := m.accCe.filter (fun e => e / 1024 != t), ceCount := sat32 m.ceCount ce.length
      accBad := m.accBad.filter (fun e => e / 1024 != t), injAcc := m.injAcc.filter (fun e => e / 1024 != t), ueCount := sat32 m.ueCount bad.length
      tileFog := if bad.isEmpty then m.tileFog else m.tileFog ||| (1#32 <<< t) }
    let s := ce.foldl (fun s e => s.corrected (s.aboutUnit g { cls := 0, sev := 1, cause := 0x01, addr := e })) s
    bad.foldl (fun s e => s.recordUnit g { cls := 0, sev := 2, cause := 0x02, inj := m.injAcc.contains e }) s

/-- What a group update meets in an MCU: a residue mismatch, which an injection makes of its next product (R461), and a parity error of the antilog table fog the tile, are counted and are
reported (R144). The audit may sample it (R469). `fog` is the fog of the operands. -/
def State.groupUpdate (s : State) (g t : Nat) (fog : Bool) (a b : Slice) (rows cols : Nat) (words : List (BitVec 32)) : State :=
  let s := s.readTile g t
  let m := s.mcu g
  let before := m.tile t
  let after := addGroup before a b rows cols
  let fogIn := m.tileFog.getLsbD t
  let res := s.armed 3 g
  let hit := res || m.tblNext
  let fogged := fog || hit
  let s := s.setMcu g { m with
    acc := tabSet m.acc t after
    tileFog := if fogged then m.tileFog ||| (1#32 <<< t) else m.tileFog
    resCount := if res then sat32 m.resCount 1 else m.resCount
    tblPar := if m.tblNext then sat32 m.tblPar 1 else m.tblPar
    tblNext := false }
  let s := if res then (s.disarm.recordUnit g { cls := 3, sev := 2, cause := 0x04, inj := true }).reportUnit g else s
  let s := if m.tblNext then (s.recordUnit g { cls := 3, sev := 2, cause := 0x03 }).reportUnit g else s
  let (gen, s) := s.eligible g m.gen m.forced (fogged || fogIn) (before ++ words ++ after)
  s.setMcu g { s.mcu g with gen := gen, forced := false }

/-! ### Operands of a quantum -/

/-- Words of a plane: the elements `ks` of its walk. -/
def planeEls (d : Desc) (ks : List Nat) : List WEl :=
  ks.map (fun k => d.runs.flatten.getD k { addr := 0, nib := false, masked := true, run := 0, idx := [] })

/-- The bank groups that must wake for some words of a plane. -/
def Mu.planeAsleep (m : Mu) (es : List WEl) : BitVec 8 := es.foldl (fun a e => if e.masked then a else a ||| m.asleep e.addr.toNat 4) 0

/-- Read the words `ks` of a pip plane. -/
def State.planeWords (s : State) (g : Nat) (r : Run) (i : Nat) (ks : List Nat) : State × List El :=
  let h := homeMu g
  let d := r.desc i
  let es := planeEls d ks
  let s := (joinReq 256 (es.filterMap (fun e => if e.masked then none else some (e.addr.toNat, 4)))).foldl (fun s (a, n) => s.touchRead h a n) s
  let s := s.verifyRuns h d [es]
  (s, es.map ((s.mu h).readEl d 0))

/-- Take elements of the stream operand into its queue of 32 strips (R135), checking the count of the run (R119). None when
nothing moves. -/
def State.fillStream (s : State) (g : Nat) (r : Run) (k : Nat) (b : Bound) (code need : Nat) : Option State :=
  let room := 1024 - b.strm.length
  match s.source g r with
  | [] => if s.sourceBad g r && !b.ended then some (s.sideFault g r) else none
  | f :: _ =>
    let n := if f.bytes.isEmpty then 0 else f.bytes.length * 8 / fmtBits code
    if b.ended || decide (room < n) then none
    else
      let els := (bytesToRuns (fmtBits code) [n] f.bytes f.byteFog).flatten
      let got := b.got + n
      if need * 32 < got ∨ (f.eot ∧ got < need * 32) then some (s.tensorFault g r.iss stContextFault)
      else
        let s := s.takeSource g r 1
        some (s.setMcu g ((s.mcu g).setSlotB k (some { b with strm := b.strm ++ els, got := got, ended := f.eot })))

/-- One operand of a quantum: its descriptor, 0xFFFF for the stream, the strips that its source gives up, and the runs of its walk that
are used. -/
structure Need where
  desc : Nat
  due : Nat
  ks : List Nat

/-- What there is of the operands of a quantum (R136): all of them; enough for the first rank-1 update; not that much; or a bank group that
must wake first. -/
inductive Ready where
  | all
  | first
  | no
  | asleep (z : BitVec 8)
  deriving DecidableEq, Repr

/-- Two operands together. -/
def Ready.and : Ready → Ready → Ready
  | .asleep a, .asleep b => .asleep (a ||| b)
  | .asleep a, _ | _, .asleep a => .asleep a
  | .no, _ | _, .no => .no
  | .first, _ | _, .first => .first
  | .all, .all => .all

/-- What there is of one operand. -/
def State.readyOf (s : State) (g : Nat) (r : Run) (b : Bound) (n : Need) : Ready :=
  if n.desc = 0xFFFF then
    if n.due * 32 ≤ b.strm.length then .all else if 32 ≤ b.strm.length then .first else .no
  else
    let z := (s.mu (homeMu g)).runsAsleep (r.desc n.desc) (r.comp n.desc) n.ks
    if z = 0 then .all else .asleep z

/-- What there is of the words of a plane. -/
def State.readyPlane (s : State) (g : Nat) (r : Run) (i : Nat) (ks : List Nat) : Ready :=
  let z := (s.mu (homeMu g)).planeAsleep (planeEls (r.desc i) ks)
  if z = 0 then .all else .asleep z

/-- Read the strips of an operand, which are there. -/
def State.fetch (s : State) (g : Nat) (r : Run) (b : Bound) (n : Need) : State × List (List El) :=
  if n.desc = 0xFFFF then (s, chunks 32 n.due (b.strm.take (n.due * 32)))
  else s.readRuns (homeMu g) (r.desc n.desc) (r.comp n.desc) n.ks

/-- Elements taken off the stream queue. -/
def Bound.taken (b : Bound) (n : Need) : Bound := if n.desc = 0xFFFF then { b with strm := b.strm.drop (n.due * 32) } else b

/-- What one step of a bound instruction came to: it must wait, it has asked bank groups to wake, or it went on. -/
inductive QStep where
  | wait
  | woke (s : State)
  | did (s : State)

/-- Ask bank groups of the home MU to wake. -/
def State.wakeHome (s : State) (g : Nat) (z : BitVec 8) : State :=
  let h := homeMu g
  s.setMu h { s.mu h with waking := (s.mu h).waking ||| z }

/-- Run a quantum as far as its operands allow (R136): whole, or with its first strips only, when the arrays are its from then on until the
others have come. -/
def State.runQuantum (s : State) (g : Nat) (b : Bound) (ready : Ready) (whole : Unit → State) : QStep :=
  match ready with
  | .asleep z => .woke (s.wakeHome g z)
  | .no => .wait
  | .first => if (s.mcu g).current = some b.id then .wait else .did (s.setMcu g { s.mcu g with current := some b.id })
  | .all => .did (whole ())

/-- +0 in a format: zero bits, or the value that decodes to zero. -/
def zeroEl : El := { bits := 0 }

/-- Apply plane bits to a dY tile held as rows: pip 1 clears elements; pip 2 spreads pooled rows (R133). -/
def applyPip (pip : Nat) (rows : List (List El)) (plane : List El) : List (List El) :=
  if pip = 1 then
    (rows.zip plane).map (fun (row, w) => (row.zip (upto 0 32)).map (fun (e, j) =>
      if bitOf w.bits j then { e with fog := e.fog || w.fog } else { zeroEl with fog := e.fog || w.fog }))
  else
    (upto 0 32).map (fun i => (upto 0 32).map (fun j =>
      let w := plane.getD (i / 2) zeroEl
      let e := (rows.getD (i / 2) []).getD (j / 2) zeroEl
      let win := fld w.bits (2 * (j / 2) + 1) (2 * (j / 2))
      if win = 2 * (i % 2) + j % 2 then { e with fog := e.fog || w.fog } else { zeroEl with fog := e.fog || w.fog }))

/-- The strip of dY column `c` (0 to 31) of a tile row under a pip plane, from full strips (pip 1) or pooled ones (pip 2). -/
def pipStrip (pip c : Nat) (strip : List El) (plane : List El) : List El :=
  if pip = 1 then
    (strip.zip plane).map (fun (e, w) => if bitOf w.bits c then { e with fog := e.fog || w.fog } else { zeroEl with fog := e.fog || w.fog })
  else
    (upto 0 32).map (fun i =>
      let w := plane.getD (i / 2) zeroEl
      let e := strip.getD (i / 2) zeroEl
      let win := fld w.bits (2 * (c / 2) + 1) (2 * (c / 2))
      if win = 2 * (i % 2) + c % 2 then { e with fog := e.fog || w.fog } else { zeroEl with fog := e.fog || w.fog })

/-- Strips as operands of a pass. -/
def asSlice (code : Nat) (p : Piece) (l : List (List El)) : Slice := l.map (fun st => st.map (operOf code p))
def anyFog (l : List (List El)) : Bool := l.any (fun st => st.any (·.fog))
def bitsOf (l : List (List El)) : List (BitVec 32) := (l.flatten).map (fun e => BitVec.ofNat 32 e.bits)

/-- The pieces of a pass, none where the pair has fewer passes. -/
def pieceAt (a b p : Nat) : Option (Piece × Piece) := (passesOf a b)[p]?

/-! ### Running a quantum (R136) -/

/-- Tiles queued for the epilogue or not: a tile waits. -/
def Mcu.tileWaits (m : Mcu) (t : Nat) : Bool := m.epiQ.any (fun e => e.tile == t)

/-- The next bound state after quantum `q`: the next quantum, or the end of the run. -/
def State.afterQuantum (s : State) (g k : Nat) (r : Run) (x : Mm) (b : Bound) : State :=
  let m := s.mcu g
  let strm := x.readsAB && (r.iss.i.da == 0xFFFF || r.iss.i.db == 0xFFFF)
  if b.quantum + 1 < x.total r then s.setMcu g (m.setSlotB k (some { b with quantum := b.quantum + 1 }))
  else if strm && !b.ended then s.setMcu g (m.setSlotB k (some { b with quantum := b.quantum + 1 }))
  else
    let r := { r with run := r.run + 1, finished := decide (r.iss.i.count ≤ r.run + 1) && !(x.fuse && !x.empty) }
    (s.setMcu g (m.setSlotB k (some { id := b.id, order := b.order }))).putRun g r

/-- Queue a fused tile. -/
def State.queueTile (s : State) (g : Nat) (r : Run) (x : Mm) (i idx : Nat) (lastOfRun : Bool) : State :=
  let m := s.mcu g
  if !x.fuse then s
  else s.setMcu g { m with epiQ := m.epiQ ++ [{ id := r.id, tile := x.tileAt i, row := i / x.ct, col := i % x.ct, index := idx,
                                                lastOfRun := lastOfRun, last := lastOfRun && decide (r.iss.i.count ≤ r.run + 1) }] }

/-- One group of a plain mode (R124, R129). Under pip 2 a stream gives 16 strips for every dY tile: those beyond the reduction range go
with the tile's last group (R133). With `acc` 0 the tiles of a run are cleared before its first group, once none of them waits for the
epilogue any more (R121, R122). -/
def State.plainQuantum (s : State) (g k : Nat) (r : Run) (x : Mm) (b : Bound) : QStep :=
  let pl := passesOf r.codeA r.codeB
  let q := x.plainAt pl.length b.quantum
  let t := x.tileAt q.tile
  let first := q.pass == 0 && q.k0 == 0
  let last := q.pass + 1 == pl.length && q.k1 == x.red
  let ks := upto q.k0 (q.k1 - q.k0)
  let pip := if x.usesPip then x.pip else 0
  let na : Need :=
    if pip = 2 then { desc := r.iss.i.da, due := if q.k1 = x.red then x.nt * 16 - q.k0 / 2 else (q.k1 - q.k0) / 2
                      ks := upto (q.pooled q.k0) (ceilDiv (q.k1 - q.k0) 2) }
    else { desc := r.iss.i.da, due := ks.length, ks := ks.map q.strip }
  let nb : Need := { desc := r.iss.i.db, due := ks.length, ks := ks.map q.strip }
  let per := if pip = 2 then 16 else 32
  let pk := if pip = 0 then [] else upto ((q.tile / x.ct * x.nt + q.k0 / 32) * per) per
  let clear := if x.acc then [] else if b.quantum = 0 then (upto 0 x.baseTiles).map (fun i => x.accBase + i) else if first then [t] else []
  if (t :: clear).any (s.mcu g).tileWaits then .wait
  else s.runQuantum g b (((s.readyOf g r b na).and (s.readyOf g r b nb)).and (s.readyPlane g r x.pipDesc pk)) (fun _ =>
    let (s, as_) := s.fetch g r b na
    let (s, bs) := s.fetch g r b nb
    let (s, plane) := s.planeWords g r x.pipDesc pk
    let as_ := if pip = 0 then as_
      else if pip = 1 then (as_.zip ks).map (fun (st, kk) => pipStrip 1 (kk % 32) st plane)
      else ks.map (fun kk => pipStrip 2 (kk % 32) (as_.getD ((kk - q.k0) / 2) []) plane)
    let (pa, pb) := pl.getD q.pass (.whole, .whole)
    let s := s.setMcu g { (s.mcu g).clearTiles clear with current := none }
    let s := s.groupUpdate g t (anyFog as_ || anyFog bs) (asSlice r.codeA pa as_) (asSlice r.codeB pb bs) 32 32 (bitsOf as_ ++ bitsOf bs)
    let s := if last then s.queueTile g r x q.tile q.tile (q.tile + 1 == x.tiles) else s
    s.afterQuantum g k r x ((b.taken na).taken nb))

/-- Two groups of one array on one output tile: 32 rank-1 updates, of which those below `n` form products (R119, R128). -/
def State.arrayWork (s : State) (g t : Nat) (fog : Bool) (a b : Slice) (n rows cols : Nat) (words : List (BitVec 32)) : State :=
  (upto 0 (ceilDiv n 16)).foldl (fun s q =>
    let lo := q * 16
    let hi := min (lo + 16) n
    s.groupUpdate g t fog ((a.take hi).drop lo) ((b.take hi).drop lo) rows cols words) s

/-- Columns of a tile held as rows. -/
def columns (rows : List (List El)) : List (List El) := (upto 0 32).map (fun j => rows.map (fun row => row.getD j zeroEl))

/-- The V tile (m, q) of phase 1, each entry rounded to BF16 (R130). -/
def Mcu.vTile (m : Mcu) (t : Nat) : List (List El) :=
  let fog := m.tileFog.getLsbD t
  chunks 32 32 ((m.tile t).map (fun v => ({ bits := (convert 0x01 0 (val32 v)).1, fog := fog } : El)))

/-- The tile in the shared tile buffer that an instruction is at. -/
def Mcu.sharedTile (m : Mcu) (id num : Nat) : Option SharedTile := m.shared.find? (fun t => t.id == id && t.num == num)

/-- Whether an instruction has no tile in the shared tile buffer. -/
def Mcu.noTile (m : Mcu) (id : Nat) : Bool := !m.shared.any (fun t => t.id == id)

/-- Load the next shared tile of an instruction (R127): 32 row strips of dY with its pip plane, or the V tile of phase 1 as the accumulator
holds it then. The buffer holds two tiles; a second one of an instruction leaves room for `others`, bound ones that have none. With
`acc` 0 every tile that the instruction names is cleared first, V tiles included (R122; DEDUCED, log 142), once none of them waits for
the epilogue any more. -/
def State.loadShared (s : State) (g k : Nat) (r : Run) (x : Mm) (b : Bound) (others : Bool) : QStep :=
  let m := s.mcu g
  let w := b.loaded % x.sharedTiles
  let n := x.tileStrips
  let clear := if x.acc || b.loaded != 0 then [] else x.ranges.flatMap (fun e => upto e.1 e.2)
  let na : Need := { desc := r.iss.i.da, due := n, ks := upto (w * n) n }
  let pk := if x.usesPip then upto (w * n) n else []
  if x.passes r * x.sharedTiles ≤ b.loaded || 2 ≤ m.shared.length || (!m.noTile b.id && others) || clear.any m.tileWaits then .wait
  else
    let ready := if x.readsAB then (s.readyOf g r b na).and (s.readyPlane g r x.pipDesc pk) else .all
    match ready with
    | .asleep z => .woke (s.wakeHome g z)
    | .no | .first => .wait
    | .all =>
      let s := s.setMcu g (m.clearTiles clear)
      let (s, rows) :=
        if !x.readsAB then
          let s := s.readTile g (x.accV + w)
          (s, (s.mcu g).vTile (x.accV + w))
        else
          let (s, rows) := s.fetch g r b na
          if !x.usesPip then (s, rows)
          else
            let (s, plane) := s.planeWords g r x.pipDesc pk
            (s, applyPip x.pip rows plane)
      let b := { (if x.readsAB then b.taken na else b) with loaded := b.loaded + 1 }
      let m := s.mcu g
      .did (s.setMcu g { m.setSlotB k (some b) with shared := m.shared ++ [{ id := b.id, num := b.loaded - 1, rows := rows }] })

/-- One quantum of a shared-tile mode on its tile in the buffer (R128, R130). The output tiles of a range lie row by row in it, as those
of C do, and in phase 0 array 1 does every V tile and then every dB tile (DEDUCED, log 143). A fogged strip fogs every tile that the quantum
updates (R143). -/
def State.sharedQuantum (s : State) (g k : Nat) (r : Run) (x : Mm) (b : Bound) : QStep :=
  let S := x.steps
  let W := x.sharedTiles
  let num := b.quantum / S
  let p := num / W
  let w := num % W
  let t := b.quantum % S
  let wc := if x.readsAB then x.nt else x.rho
  let mi := w / wc
  let ni := w % wc
  let adpt0 := x.op == 0x23 && x.phase == 0
  let do0 := decide (t < x.dt)
  let doV := adpt0 && decide (t < x.rho)
  let doB := adpt0 && decide (x.rho ≤ t) && decide (t < 2 * x.rho)
  let doX := !adpt0 && decide (t < x.dt)
  let need := fun (use : Bool) (i at_ : Nat) => ({ desc := if use then i else 0, due := if use then 32 else 0, ks := if use then upto at_ 32 else [] } : Need)
  let n0 := need do0 (if x.readsAB then r.iss.i.db else x.x2) ((w * x.dt + t) * 32)
  let n1 := need (doB || doX) x.x1 (if doB then (w * x.rho + (t - x.rho)) * 32 else (w * x.dt + t) * 32)
  let n2 := need doV x.x2 ((w * x.rho + t) * 32)
  match (s.mcu g).sharedTile b.id num with
  | none => .wait
  | some held =>
    let tile := held.rows
    let done := do0 && p + 1 == x.passes r && ni + 1 == wc
    if do0 && (s.mcu g).tileWaits (x.accBase + mi * x.dt + t) then .wait
    else s.runQuantum g b (((s.readyOf g r b n0).and (s.readyOf g r b n1)).and (s.readyOf g r b n2)) (fun _ =>
      let (s, ws) := s.fetch g r b n0
      let (s, xs) := s.fetch g r b n1
      let (s, bas) := s.fetch g r b n2
      let fog := anyFog tile || anyFog ws || anyFog xs || anyFog bas
      let cols := columns tile
      let redN := if x.readsAB then min 32 (x.n - 32 * ni) else min 32 (x.rank - 32 * ni)
      let redM := min 32 (x.m - 32 * mi)
      let s := s.setMcu g { s.mcu g with current := none }
      let c0 := x.pair0 r
      let s := match do0, pieceAt c0.1 c0.2 p with
        | true, some (pa, pb) =>
          s.arrayWork g (x.accBase + mi * x.dt + t) fog (asSlice c0.1 pa cols) (asSlice c0.2 pb ws) redN 32 32 (bitsOf tile ++ bitsOf ws)
        | _, _ => s
      let codeT := if x.readsAB then r.codeA else 0x01
      let code1 := (r.desc x.x1).code
      let code2 := (r.desc x.x2).code
      let s := if doV then
          (match pieceAt codeT code2 p with
            | some (pa, pb) =>
              s.arrayWork g (x.accV + mi * x.rho + t) fog (asSlice codeT pa cols) (asSlice code2 pb bas) redN 32 (x.rank - 32 * t) (bitsOf tile ++ bitsOf bas)
            | none => s)
        else if doB then
          (match pieceAt code1 codeT p with
            | some (pa, pb) =>
              s.arrayWork g (x.accG + (t - x.rho) * x.nt + ni) fog (asSlice code1 pa xs) (asSlice codeT pb tile)
                redM (x.rank - 32 * (t - x.rho)) 32 (bitsOf xs ++ bitsOf tile)
            | none => s)
        else if doX then
          (match pieceAt code1 codeT p with
            | some (pa, pb) =>
              s.arrayWork g (x.accG + t * wc + ni) fog (asSlice code1 pa xs) (asSlice codeT pb tile)
                redM 32 (if x.readsAB then 32 else x.rank - 32 * ni) (bitsOf xs ++ bitsOf tile)
            | none => s)
        else s
      let i := mi * x.dt + t
      let s := if done then s.queueTile g r x i i (i + 1 == x.tiles) else s
      let m := s.mcu g
      let s := if t + 1 = S then s.setMcu g { m with shared := m.shared.filter (fun h => !(h.id == b.id && h.num == num)) } else s
      s.afterQuantum g k r x (b.taken n0))

/-- The end of an empty run, which takes the empty tensor of its stream operand and puts an empty tensor on its stream output after the tiles
that wait (R9, R220); of a forward product of depth 0, which leaves its tiles unchanged (R73); of a run whose stream has ended. -/
def State.endOfRun (s : State) (g k : Nat) (r : Run) (x : Mm) (b : Bound) : QStep :=
  let strm := x.readsAB && (r.iss.i.da == 0xFFFF || r.iss.i.db == 0xFFFF)
  if x.empty then
    if strm && !b.ended then .wait
    else if x.fuse && r.iss.i.dc == 0xFFFF then
      if (s.mcu g).epiQ.isEmpty then .did ((s.deliver g r (tensorFlits 8 [] [])).afterQuantum g k r x b) else .wait
    else .did (s.afterQuantum g k r x b)
  else if x.total r = 0 then
    if (strm && !b.ended) || (upto 0 x.tiles).any (fun i => (s.mcu g).tileWaits (x.tileAt i)) then .wait
    else .did (((upto 0 x.tiles).foldl (fun s i => s.queueTile g r x i i (i + 1 == x.tiles)) s).afterQuantum g k r x b)
  else if b.ended then .did (s.afterQuantum g k r x b)
  else .wait

/-- The next quantum of a bound instruction, or the end of its run; the arrays are another's while a quantum of that one has begun. -/
def State.boundStep (s : State) (g k : Nat) (b : Bound) : QStep :=
  match s.runOf g b.id with
  | none => .wait
  | some r =>
    let x := mmOf r.iss.i.op r.prm
    let m := s.mcu g
    if r.iss.i.count ≤ r.run || m.current.any (· != b.id) then .wait
    else if x.total r ≤ b.quantum then s.endOfRun g k r x b
    else if x.plain then s.plainQuantum g k r x b
    else s.sharedQuantum g k r x b

/-- What a bound instruction takes in beside its quanta: its next shared tile, or a flit of its stream (R127, R135). -/
def State.boundFill (s : State) (g k : Nat) (b : Bound) (others : Bool) : QStep :=
  match s.runOf g b.id with
  | none => .wait
  | some r =>
    let x := mmOf r.iss.i.op r.prm
    let a := r.iss.i.da == 0xFFFF
    let strm := x.readsAB && (a || r.iss.i.db == 0xFFFF)
    if r.iss.i.count ≤ r.run then .wait
    else match (if x.plain || x.empty then .wait else s.loadShared g k r x b others) with
      | .did s => .did s
      | w =>
        match (if strm then s.fillStream g r k b (if a then r.codeA else r.codeB) (if a then x.needA else x.needB) else none) with
        | some s => .did s
        | none => w

/-- Whether a bound instruction may run: no earlier bound one, still bound, has tiles of its own (R137). -/
def State.eligibleBound (s : State) (g : Nat) (b : Bound) : Bool :=
  let rg := fun (b : Bound) => match s.runOf g b.id with | some r => (mmOf r.iss.i.op r.prm).ranges | none => []
  !((s.mcu g).slots.any (fun o => match o with
    | some c => decide (c.order < b.order) && (rg b).any (fun x => (rg c).any (rangesMeet x))
    | none => false))

/-- Put a bound instruction before the later-bound ones. -/
def insertBound (x : Nat × Bound) : List (Nat × Bound) → List (Nat × Bound)
  | [] => [x]
  | y :: t => if x.2.order < y.2.order then x :: y :: t else y :: insertBound x t

/-- The bound instructions with their slots, earliest bound first. -/
def Mcu.boundOrder (m : Mcu) : List (Nat × Bound) :=
  ((m.slots.zip (upto 0 4)).filterMap (fun (o, k) => o.map (fun b => (k, b)))).foldl (fun l x => insertBound x l) []

/-- The first of some bound instructions, earliest bound first, that goes on; one that waits for a bank group does not hold back a later
one (R136). -/
def State.firstStep (s : State) (f : State → Nat × Bound → QStep) : List (Nat × Bound) → QStep
  | [] => .wait
  | b :: t =>
    match f s b with
    | .did s => .did s
    | .wait => s.firstStep f t
    | .woke s => match s.firstStep f t with | .wait => .woke s | q => q

/-- Whether some eligible bound instruction of a shared mode, other than `id`, has no tile in the shared tile buffer. -/
def State.tileWanted (s : State) (g id : Nat) : Bool :=
  (s.mcu g).boundOrder.any (fun e => e.2.id != id && s.eligibleBound g e.2 && (s.mcu g).noTile e.2.id
    && (match s.runOf g e.2.id with
      | some r => let x := mmOf r.iss.i.op r.prm; !x.plain && !x.empty && decide (r.run < r.iss.i.count) && decide (e.2.loaded < x.passes r * x.sharedTiles)
      | none => false))

/-- MCU_QUANTUM (R136): the bound instructions that are eligible (R137) first take in the shared tiles and the flits of their streams that
are there, one at a command; once nothing more comes in, the earliest-bound one whose next quantum is ready runs it. -/
def execMcuQuantum (u : McuId) (s : State) : Res :=
  let g := mcuGid u
  let l := (s.mcu g).boundOrder.filter (fun e => s.eligibleBound g e.2)
  let run := fun (s : State) (e : Nat × Bound) => s.boundStep g e.1 e.2
  let fill := fun (s : State) (e : Nat × Bound) => s.boundFill g e.1 e.2 (s.tileWanted g e.2.id)
  if !s.acts g || (s.tu g).stopped then .next s
  else match s.firstStep fill l with
    | .did s => .next (s.progress u.cluster.val)
    | .wait => (match s.firstStep run l with | .did s => .next (s.progress u.cluster.val) | .woke s => .next s | .wait => .next s)
    | .woke s => (match s.firstStep run l with | .did s => .next (s.progress u.cluster.val) | .woke s => .next s | .wait => .next s)

/-! ### The epilogue (R63 to R72, R134, R140, R141) -/

/-- The epilogue record of a run: EPI's own, or the fused one. -/
def State.epiOfRun (s : State) (g : Nat) (r : Run) : Epi :=
  if r.iss.i.op = 0x24 then epiOf r.prm else epiOf ((s.tu g).recordAt (mmOf r.iss.i.op r.prm).epiRec)

/-- The value of one element: one fused multiply-add, then the clip (R63). A bound that is NaN compares as the bound is written: below a
NaN `lo` nothing is left but `hi`, above a NaN `hi` nothing but that NaN (DESIGN CHOICE, log 144). -/
def epiValue (acc scale bias lo hi : BitVec 32) : BitVec 32 :=
  let y := round32 (((val32 acc).mul (val32 scale)).add (val32 bias))
  if val32 y = .nan then y
  else
    let v := if (val32 lo).le (val32 y) then y else lo
    if (val32 v).le (val32 hi) then v else hi

/-- The rows of a tile through the epilogue: values y. `sc` and `bi` are per column. -/
def epiRows (tile : List (BitVec 32)) (sc bi : List (BitVec 32)) (lo hi : BitVec 32) : List (List (BitVec 32)) :=
  (chunks 32 32 tile).map (fun row => (row.zip (sc.zip bi)).map (fun (a, s, b) => epiValue a s b lo hi))

/-- The sign plane word of a row (R134). -/
def signWord (ys : List (BitVec 32)) (masked : List Bool) (lo hi : BitVec 32) : Nat :=
  ((ys.zip masked).zip (upto 0 32)).foldl (fun w ((y, mk), j) =>
    let v := val32 y
    if !mk && v != .nan && (val32 lo).lt v && v.lt (val32 hi) then w + 2 ^ j else w) 0

/-- The flags of one tile: the first non-finite value written, and saturation (R72). -/
def Mcu.noteFlags (m : Mcu) (vals : List (Nat × Nat × BitVec 32)) (sat : Bool) (tag index : Nat) : Mcu :=
  let m := if sat then { m with satFlag := true } else m
  match vals.find? (fun e => !(val32 e.2.2).finite) with
  | none => m
  | some (i, j, _) =>
    if m.nfFlag then m else { m with nfFlag := true, nfRow := i, nfCol := j, nfTag := tag, nfTile := min index 0xFFFFFF }

/-- The scale and bias words of tile column `col`, with their fog (R140). -/
def State.scaleBias (s : State) (h : Nat) (e : Epi) (col : Nat) : State × List (BitVec 32) × List (BitVec 32) × Bool :=
  let one := List.replicate 32 (0x3F800000#32)
  let negz := List.replicate 32 (0x80000000#32)
  if !e.hasScale && !e.hasBias then (s, one, negz, false)
  else
    let a := e.sbOff + 256 * col
    let s := s.touchRead h a 256
    let m := s.mu h
    let w := fun (o : Nat) => (upto 0 32).map (fun k => BitVec.ofNat 32 (ofBytes (memRead m.mem (a + o + 4 * k) 4)))
    (s, if e.hasScale then w 0 else one, if e.hasBias then w 128 else negz,
      (e.hasScale && m.fogAt a 128) || (e.hasBias && m.fogAt (a + 128) 128))

/-- One row written through C: element bits, block scale, and whether a value saturated. -/
def rowBits (e : Epi) (ys : List (BitVec 32)) (masked : List Bool) : List Nat × Option Nat × Bool :=
  let code := e.ofmt % 32
  if bitOf e.ofmt 5 then
    let vs := (ys.zip masked).filterMap (fun (y, mk) => if mk then none else some (val32 y))
    let (sc, bits, sat) := blockElements code e.rmode vs
    let place := (masked.foldl (fun (acc : List Nat × List Nat) mk => if mk then (acc.1 ++ [0], acc.2) else (acc.1 ++ [acc.2.headD 0], acc.2.drop 1)) ([], bits)).1
    (place, if vs.isEmpty then none else some sc, sat)
  else
    let cs := (ys.zip masked).map (fun (y, mk) => if mk then (0, false) else convert code e.rmode (val32 y))
    (cs.map (·.1), none, cs.any (·.2))

/-- The element bits of one row put on the stream, which carries elements outside the output too: a block scale is chosen from the others
alone (R71; DEDUCED, log 145). -/
def rowSent (e : Epi) (ys : List (BitVec 32)) (masked : List Bool) : List Nat :=
  let code := e.ofmt % 32
  let vs := ys.map val32
  if bitOf e.ofmt 5 then
    (scaledElements code e.rmode (blockScale code ((vs.zip masked).filterMap (fun (v, mk) => if mk then none else some v))) vs).1
  else vs.map (fun v => (convert code e.rmode v).1)

/-- Write one row of a run of walk `d` with its fog, and its scale byte. A tile row is one block where loop 0 is dimension 0; of another
walk the row has one scale all the same, in the block of its first element (R71; DESIGN CHOICE, log 158). -/
def State.writeRow (s : State) (h : Nat) (d c : Desc) (ws : List WEl) (xs : List El) (scale : Option Nat) (fog : Bool) : State :=
  let s := (joinBytes 256 (d.runBytes (memGet (s.mu h).mem) 0 (pairUp ws xs))).foldl (fun s (a, bs, fs) => s.muWritePlain h a bs fs) s
  match scale, ws.head? with
  | some sc, some e => s.muWritePlain h (c.scaleAddr e.idx).toNat [BitVec.ofNat 8 sc] [fog]
  | _, _ => s

/-- Store the checks of a dense output that has been written whole (R99). -/
def State.denseDone (s : State) (h : Nat) (d : Desc) : State :=
  if !d.dense 0 then s
  else (upto 0 (ceilDiv d.bytes 4096)).foldl (fun s k => s.muStoreCheck h (d.base + k * 4096) (min 4096 (d.bytes - k * 4096)) none) s

/-- An epilogue tile has left: the run of an EPI or of a fused instruction may be over. `crcTail` are the bytes of a stream output whose
block is still open. -/
def State.tileOut (s : State) (g : Nat) (r : Run) (t : EpiTile) : State :=
  let m := s.mcu g
  let s := s.setMcu g { m with epiQ := m.epiQ.drop 1 }
  let epi := r.iss.i.op == 0x24
  let r := if t.lastOfRun then { r with crcTail := [], run := if epi then r.run + 1 else r.run, phase := if epi && !t.last then 0 else r.phase } else r
  s.putRun g { r with finished := t.last }

/-- EPILOGUE_TILE (R141): the tile that has waited longest goes through the epilogue row by row, into the walk of C, or onto the
stream, which the last tile of a run closes. On a stream the tile goes out whole, elements outside the output among them, which
set no flag (R72; DEDUCED, log 145). Of a sign plane no word of a row outside the output is written (R134). -/
def execEpilogueTile (u : McuId) (s : State) : Res :=
  let g := mcuGid u
  let h := homeMu g
  let m := s.mcu g
  if !s.acts g || (s.tu g).stopped then .next s
  else match m.epiQ with
    | [] => .next s
    | t :: _ =>
      match s.runOf g t.id with
      | none => .next (s.setMcu g { m with epiQ := m.epiQ.drop 1 })
      | some r =>
        let e := s.epiOfRun g r
        let x := mmOf r.iss.i.op r.prm
        let toMem := r.iss.i.dc != 0xFFFF
        let d := r.desc r.iss.i.dc
        let c := r.comp r.iss.i.dc
        let rows := upto (t.index * 32) 32
        let mu := s.mu h
        let pd := r.desc e.pipDesc
        let em := if r.iss.i.op = 0x24 then e.em else x.m
        let en := if r.iss.i.op = 0x24 then e.en else x.cols
        let inRows := fun (i : Nat) => decide (t.row * 32 + i < em)
          && !(toMem && (match (d.runs.getD (t.index * 32 + i) []).head? with | some w => d.maskedBy w.idx 1 | none => false))
        let pe := if e.pipOut then ((planeEls pd (upto (t.index * 32) 32)).zip (upto 0 32)).map (fun (w, i) => { w with masked := w.masked || !inRows i }) else []
        let z := (if toMem then mu.runsAsleep d c rows else 0) ||| (if e.hasScale || e.hasBias then mu.asleep (e.sbOff + 256 * t.col) 256 else 0)
          ||| mu.planeAsleep pe
        if z ≠ 0 then .next (s.setMu h { mu with waking := mu.waking ||| z })
        else
          let s := s.readTile g t.tile
          let fogT := (s.mcu g).tileFog.getLsbD t.tile
          let (s, sc, bi, fogS) := s.scaleBias h e t.col
          let fog := fogT || fogS
          let ys := epiRows (m.tile t.tile) sc bi e.lo e.hi
          let masks := (upto 0 32).map (fun i =>
            if toMem then (let ws := d.runs.getD (t.index * 32 + i) []; (upto 0 32).map (fun j => match ws[j]? with | some w => w.masked | none => true))
            else (upto 0 32).map (fun j => decide (em ≤ t.row * 32 + i) || decide (en ≤ t.col * 32 + j)))
          let out := (ys.zip masks).map (fun (y, mk) => rowBits e y mk)
          let written := ((ys.zip masks).zip (upto 0 32)).flatMap (fun ((y, mk), i) =>
            ((y.zip mk).zip (upto 0 32)).filterMap (fun ((v, q), j) => if q then none else some (i, j, v)))
          let s := s.setMcu g ((s.mcu g).noteFlags written (out.any (·.2.2)) r.iss.i.tag t.index)
          let els := (if toMem then out.map (·.1) else (ys.zip masks).map (fun (y, mk) => rowSent e y mk)).map
            (fun o => o.map (fun b => ({ bits := b, fog := fog } : El)))
          let s := if e.pipOut then
              ((ys.zip masks).zip pe).foldl (fun s ((y, mk), w) =>
                if w.masked then s else s.muWritePlain h w.addr.toNat (toBytes 4 (signWord y mk e.lo e.hi)) (List.replicate 4 fog)) s
            else s
          let s := if e.pipOut && t.lastOfRun then s.denseDone h pd else s
          if toMem then
            let s := ((out.zip els).zip rows).foldl (fun s ((o, xs), k) => s.writeRow h d c (d.runs.getD k []) xs o.2.1 fog) s
            let s := if t.lastOfRun then s.denseDone h d else s
            let s := if t.lastOfRun && d.scaled then s.denseDone h c else s
            .next ((s.tileOut g r t).progress u.cluster.val)
          else
            let (fl, open_) := partFlits (fmtBits (e.ofmt % 32)) t.lastOfRun r.crcTail els
            .next (((s.deliver g r fl).tileOut g { r with crcTail := open_ } t).progress u.cluster.val)

/-! ### EPI (R137, R140) -/

/-- Issue of an EPI: record, output and range checks, and the generator that it writes with (R86). -/
def epiIssue (s : State) (g : Nat) (iss : Issued) : State :=
  let h := homeMu g
  let i := iss.i
  let p := s.recordOf g i
  let e := epiOf p
  let tiles := tilesOf e.em * tilesOf e.en
  match s.issueCheck g iss with
  | some st => s.tensorFault g iss st
  | none =>
    match s.epiBad h e i tiles (tilesOf e.en) with
    | some st => s.tensorFault g iss st
    | none =>
      if 32 < e.ebase + tiles ∧ 0 < tiles then s.tensorFault g iss stOverflow
      else if (i.dc != 0xFFFF && i.sout != 0) || (i.dc == 0xFFFF && !iss.feeds && i.sout == 0) || iss.fed
          || (i.sout != 0 && !s.chanOk g i.sout true) then s.tensorFault g iss stContextFault
      else match s.homeGens g false (i.dc != 0xFFFF || e.pipOut) with
        | none => s
        | some gens => s.beginRun g { iss := iss, prm := p, latch := (s.mu h).latchMore ((s.mu h).latchOf i) [e.pipDesc], gens := gens }

/-- An EPI queues its tiles once no matrix instruction issued before it, and not completed, names one of them (R137). An
empty geometry ends at once; on a stream it sends an empty tensor, as one of count 0 does (R9). -/
def epiAdvance (s : State) (g : Nat) (r : Run) : Option State :=
  let e := epiOf r.prm
  let nt := tilesOf e.en
  let tiles := tilesOf e.em * nt
  let earlier := (s.tu g).running.takeWhile (fun q => q.id != r.id)
  let clash := earlier.any (fun q => decide (0x20 ≤ q.iss.i.op) && decide (q.iss.i.op ≤ 0x23)
    && (mmOf q.iss.i.op q.prm).ranges.any (rangesMeet (e.ebase, tiles)))
  if r.iss.i.count = 0 then
    let s := if r.iss.i.dc = 0xFFFF then s.deliverEmpty g r else s
    some (s.putRun g { r with finished := true })
  else if r.phase ≠ 0 ∨ clash then none
  else if tiles = 0 ∧ r.iss.i.dc = 0xFFFF ∧ !(s.mcu g).epiQ.isEmpty then none
  else if tiles = 0 then
    let s := if r.iss.i.dc = 0xFFFF then s.deliver g r (tensorFlits 8 [] []) else s
    some (s.endRun g r none false)
  else
    let m := s.mcu g
    let last := decide (r.iss.i.count ≤ r.run + 1)
    let q := (upto 0 tiles).map (fun k => ({ id := r.id, tile := e.ebase + k, row := k / nt, col := k % nt, index := k,
                                             lastOfRun := k + 1 == tiles, last := last && k + 1 == tiles } : EpiTile))
    some ((s.setMcu g { m with epiQ := m.epiQ ++ q }).putRun g { r with phase := 1 })

/-- EPI (R140). -/
def execEpi (u : McuId) (s : State) : Res :=
  tensorCmd s (mcuGid u) (· == 0x24) (fun s h => epiIssue s (mcuGid u) h) (fun s r => epiAdvance s (mcuGid u) r)

/-- NF_FLAG_CLEAR (R145, R72): a write that clears `nf_flag` re-arms the record of the first non-finite value. -/
def clearNf (m : Mcu) (v : Word) : Mcu :=
  let m := if v.getLsbD 0 then { m with nfFlag := false, nfRow := 0, nfCol := 0, nfTag := 0, nfTile := 0 } else m
  if v.getLsbD 1 then { m with satFlag := false } else m

end Sys2Proof.Machine
end

