-- ==== Sys2Proof/Machine/Operands.lean ====
section
/-!
DEFINITION. Operands: integer operations at any width (R157, R176), scalar registers and predicates (R175, R180), and
operand forms of the scalar instructions (R296, R562).
-/

namespace Sys2Proof.Machine

/-! ### Integer operations, two's complement, wrapping (R157, R176) -/

/-- The signed upper half of a product. -/
def mulHigh {w : Nat} (a b : BitVec w) : BitVec w := BitVec.ofInt w (a.toInt * b.toInt / ((2 ^ w : Nat) : Int))

/-- A shift amount modulo the width. -/
def shAmt {w : Nat} (b : BitVec w) : Nat := b.toNat % w

/-- The register operations of opcodes 0x01 to 0x0E, in the order of R297. Division rounds toward zero; by zero the
quotient is 0 and the remainder the dividend; the most negative number by -1 gives itself and 0 (R157). -/
def aluOp {w : Nat} (op : Nat) (a b : BitVec w) : BitVec w :=
  match op with
  | 0 => a + b
  | 1 => a - b
  | 2 => a &&& b
  | 3 => a ||| b
  | 4 => a ^^^ b
  | 5 => a <<< shAmt b
  | 6 => a >>> shAmt b
  | 7 => a.sshiftRight (shAmt b)
  | 8 => a * b
  | 9 => mulHigh a b
  | 10 => a.sdiv b
  | 11 => a.srem b
  | 12 => if a.slt b then a else b
  | _ => if a.slt b then b else a

/-- A comparison (R297). -/
def condHolds (c : Cond) (a b : Word) : Bool :=
  match c with
  | .eq => a == b
  | .ne => a != b
  | .lt => a.slt b
  | .le => a.sle b
  | .ltu => a.ult b
  | .leu => a.ule b
  | .gt => b.slt a
  | .ge => b.sle a

/-- A `pop` function with its fog: set 1 and set 0 are clear of fog (R180, R297). -/
def popVal (f : PopFn) (a b : Pred) : Pred :=
  match f with
  | .and => { v := a.v && b.v, fog := a.fog || b.fog }
  | .or => { v := a.v || b.v, fog := a.fog || b.fog }
  | .xor => { v := a.v ^^ b.v, fog := a.fog || b.fog }
  | .andNot => { v := a.v && !b.v, fog := a.fog || b.fog }
  | .notA => { v := !a.v, fog := a.fog }
  | .set1 => { v := true, fog := false }
  | .set0 => { v := false, fog := false }

/-! ### Scalar registers (R175) -/

/-- Register g`r`; g0 reads as zero with a clear fog bit. -/
def Scu.reg (u : Scu) (r : Nat) : Reg := if r = 0 then {} else tabGet {} u.g r

/-- Write register g`r`; a write to g0 is ignored. -/
def Scu.setReg (u : Scu) (r : Nat) (v : Reg) : Scu := if r = 0 then u else { u with g := tabSet u.g r v }

/-- Predicate p`r`, and its write. -/
def Scu.pred (u : Scu) (r : Nat) : Pred := tabGet {} u.p r
def Scu.setPred (u : Scu) (r : Nat) (v : Pred) : Scu := { u with p := tabSet u.p r v }

/-- Word `w` of an instruction memory. -/
def Scu.word (u : Scu) (w : Nat) : Nat := (tabGet 0 u.imem w).toNat

/-- Bytes of a narrow access by size code (R297). -/
def narrowBytes (sz : Fin 4) : Nat := 2 ^ sz.val

/-- The offset of a narrow access: register plus the sign-extended immediate (R178, R297; log 18). -/
def narrowOff (a : Word) (imm : BitVec 16) : Nat := (a + imm.signExtend 64).toNat

/-- The value of the `SCU_SEND_STATUS` register (R210). -/
def Scu.sendStatus (u : Scu) : Nat := u.lastStatus + u.lastUnit * 2 ^ 16 + u.undeliv * 2 ^ 32

end Sys2Proof.Machine
end

