-- ==== Sys2Proof/Machine/Special.lean ====
section
/-!
DEFINITION. The error bounds of the S4 functions (R158): a fixed-point approximation of the exact result, far finer than one
FP32 unit in the last place, and the test whether an FP32 value lies within the bound. Function codes as in R155. Log 10.
-/

namespace Sys2Proof.Machine

/-- One in fixed point with 128 fraction bits. -/
def fixOne : Nat := 2 ^ 128

/-- The natural logarithm of 2 in fixed point, from the series of 1 / (k x 2^k). -/
def fixLn2 : Nat := ((upto 1 160).foldl (fun a k => a + 2 ^ 192 / (k * 2 ^ k)) 0) / 2 ^ 64

/-- e to the power of a fixed-point number below 1, by its power series. -/
def fixExp (t : Nat) : Nat := (upto 1 40).foldr (fun k acc => fixOne + t * acc / (k * fixOne)) fixOne

/-- A dyadic number in fixed point, rounded down. -/
def fixFloor (neg : Bool) (m : Nat) (e : Int) : Int :=
  let k := e + 128
  let i : Int := if 0 ≤ k then ((m * 2 ^ k.toNat : Nat) : Int) else ((m / 2 ^ (-k).toNat : Nat) : Int)
  if !neg then i else if 0 ≤ k ∨ m % 2 ^ (-k).toNat = 0 then -i else -i - 1

/-- 2 to the power of a fixed-point number, limited to the range FP32 can hold. -/
def fixExp2 (q : Int) : Val :=
  let n := q / (fixOne : Int)
  let f := (q % (fixOne : Int)).toNat
  .fin false (fixExp (f * fixLn2 / fixOne)) (max n (-400) - 128)

/-- e to the power of -c x |x| for |x| = m x 2^e, in fixed point; zero where it is below the last place. -/
def fixDecay (c m : Nat) (e : Int) : Nat :=
  let t := (fixFloor false m e).toNat
  if 128 * fixOne ≤ t then 0
  else
    let q := c * t * fixOne / fixLn2
    fixExp ((fixOne - q % fixOne) * fixLn2 / fixOne) / 2 ^ (q / fixOne + 1)

/-- The fraction bits of log2 y, most significant first, for y in [1, 2) with 192 fraction bits. -/
def log2Bits : Nat → Nat → Nat
  | 0, _ => 0
  | n + 1, y =>
    let z := y * y / 2 ^ 192
    if 2 * 2 ^ 192 ≤ z then 2 ^ n + log2Bits n (z / 2) else log2Bits n z

/-- The exact result of exp2, log2, rsqrt, tanh, sigmoid or silu of a finite value, as approximated. -/
def s4Exact (fn : Nat) (neg : Bool) (m : Nat) (e : Int) : Val :=
  match fn with
  | 1 => fixExp2 (fixFloor neg m e)
  | 2 =>
    let k := Nat.log2 m
    let i : Int := ((k : Int) + e) * (2 ^ 80 : Nat) + (log2Bits 80 (m * 2 ^ 192 / 2 ^ k) : Nat)
    .fin (decide (i < 0)) i.natAbs (-80)
  | 5 =>
    let (m, e) := if e % 2 = 0 then (m, e) else (2 * m, e - 1)
    .fin false (Nat.sqrt (2 ^ 400 / m)) (-200 - e / 2)
  | 6 =>
    let u := fixDecay 2 m e
    .fin neg ((fixOne - u) * fixOne / (fixOne + u)) (-128)
  | _ =>
    let u := fixDecay 1 m e
    let g := (if neg then u else fixOne) * fixOne / (fixOne + u)
    if fn = 7 then .fin false g (-128) else .fin neg (g * m) (e - 128)

/-- One unit in the last place of FP32 at a value. -/
def ulp32 : Val → Val
  | .fin _ m e => .fin false 1 (if m = 0 then -149 else max ((Nat.log2 m : Int) + e - 23) (-149))
  | v => v

/-- The error bound of R158 at an input and an exact result. -/
def s4Bound (fn : Nat) (x y : Val) : Val :=
  let u := ulp32 y
  match fn with
  | 1 => u
  | 2 => if (Val.fin false 1 (-1)).le x && x.le (.fin false 2 0) then .fin false 1 (-22) else u
  | 5 => u
  | _ => (u.mul (.fin false 2 0)).max (.fin false 1 (-24))

/-- Whether a value lies within a bound of another; the slack of 2^-40 of the bound is for the approximation. -/
def Val.within (c y b : Val) : Bool :=
  c.finite && (c.add y.neg).abs.le (b.add (b.mul (.fin false 1 (-40))))

/-- The value an S4 function returns where R157 states none: the free value where it lies within the bound of R158, else the
nearest FP32 value to the exact result. So every value the bound admits is possible, and no other. Of an infinity the exact results are
+0 for rsqrt and +infinity for log2, which no finite value comes near (DEDUCED, log 168). -/
def s4Open (fn : Nat) (x : BitVec 32) : BitVec 32 :=
  let c := Config.s4Value fn x
  let y := match val32 x with
    | .fin neg m e => s4Exact fn neg m e
    | _ => if fn = 5 then .fin false 0 0 else .inf false
  if y.finite && (val32 c).within y (s4Bound fn (val32 x) y) then c else round32 y

end Sys2Proof.Machine
end

