-- ==== Sys2Proof/Machine/Vcu.lean ====
section
/-!
DEFINITION. Vector units (spec/05): the operation record, stages S1 to S6 on one lane, reductions, pip planes, the keep
generator, and the meanings of VOP, VRED and EXPORT.SIGN (spec/12).
-/

namespace Sys2Proof.Machine

/-! ### The operation record (R153, R154, R295) -/

/-- The fields of R153. -/
structure Vr where
  s2op : Nat
  s2 : List Nat
  s3op : Nat
  s3 : List Nat
  s4fn : Nat
  s4src : Nat
  s5op : Nat
  s5 : List Nat
  ofmt : Nat
  rmode : Nat
  ct : Nat
  audit : Bool
  gather : Bool
  consts : List (BitVec 32)
  seed : Nat
  rop : Nat
  rlev : Nat
  pool2 : Bool
  plane : Bool
  planeDesc : Nat
  resv : Bool
  deriving DecidableEq, Repr

/-- Sign-extend the low 16 bits, the value form of compute type 2. -/
def low16 (x : BitVec 32) : BitVec 32 := (x.setWidth 16).signExtend 32

/-- Read a record. -/
def vrOf (p : BitVec 256) : Vr :=
  let ct := recFld p 61 60
  let k := fun (hi lo : Nat) => let x := BitVec.ofNat 32 (recFld p hi lo); if ct = 2 then low16 x else x
  { s2op := recFld p 5 0, s2 := [recFld p 8 6, recFld p 11 9, recFld p 14 12]
    s3op := recFld p 20 15, s3 := [recFld p 23 21, recFld p 26 24, recFld p 29 27]
    s4fn := recFld p 33 30, s4src := recFld p 36 34
    s5op := recFld p 40 37, s5 := [recFld p 43 41, recFld p 46 44, recFld p 49 47]
    ofmt := recFld p 57 50, rmode := recFld p 59 58, ct := ct
    audit := recFld p 62 62 == 1, gather := recFld p 63 63 == 1
    consts := [k 95 64, k 127 96, k 159 128], seed := recFld p 191 160
    rop := recFld p 193 192, rlev := recFld p 196 194, pool2 := recFld p 197 197 == 1
    plane := recFld p 198 198 == 1, planeDesc := recFld p 208 199, resv := recFld p 255 209 != 0 }

/-- Lanes by compute type (R147). -/
def Vr.lanes (v : Vr) : Nat := if v.ct = 2 then 64 else 32

/-- How many sources an operation of S2 or S3 reads. -/
def aluArity (op : Nat) : Nat := if op = 5 ∨ op = 6 then 3 else if op = 0 ∨ op = 9 ∨ op = 10 then 1 else 2

/-- How many sources an operation of S5 reads: a comparison reads a, b and c. -/
def s5Arity (op : Nat) : Nat := if 1 ≤ op ∧ op ≤ 6 then 3 else 1

/-- The sources of S2, S3, S4 and S5 that are read. -/
def Vr.srcs (v : Vr) : List Nat :=
  v.s2.take (aluArity v.s2op) ++ v.s3.take (aluArity v.s3op) ++ [v.s4src] ++ v.s5.take (s5Arity v.s5op)

/-- An operation of S2 or S3 that R155 lists for a compute type. -/
def aluOpOk (ct op : Nat) : Bool :=
  if ct = 0 then decide (op ≤ 10) else decide (op ≤ 19) && op != 5 && op != 6 && op != 9 && op != 10

/-- Reserved values in used fields (R153, R154, R155, R295). -/
def Vr.resvBad (v : Vr) (red : Bool) : Bool :=
  v.resv || v.ct == 3 || v.rmode == 3 || !fmtByteOk v.ofmt || !aluOpOk v.ct v.s2op || !aluOpOk v.ct v.s3op
    || decide (8 < v.s4fn) || (v.ct != 0 && v.s4fn != 0) || decide (7 < v.s5op) || (v.ct != 0 && v.s5op == 7)
    || (v.s2.take (aluArity v.s2op)).contains 7 || (v.gather && v.ct == 2)
    || (red && (v.rlev == 0 || v.rlev == 7))

/-- Whether a stage reads B or S. -/
def Vr.readsB (v : Vr) : Bool := v.srcs.contains 2
def Vr.readsS (v : Vr) : Bool := v.srcs.contains 3

/-! ### Value flags (R173) -/

/-- The flags that an operation sets. -/
structure VFlags where
  nan : Bool := false
  sat : Bool := false
  div0 : Bool := false
  oob : Bool := false
  deriving DecidableEq, Repr

def VFlags.join (a b : VFlags) : VFlags :=
  { nan := a.nan || b.nan, sat := a.sat || b.sat, div0 := a.div0 || b.div0, oob := a.oob || b.oob }

def VFlags.any (a : VFlags) : Bool := a.nan || a.sat || a.div0 || a.oob

/-- Set flags; `first_tag` is taken when all were clear (R174). -/
def Vcu.note (m : Vcu) (f : VFlags) (tag : Nat) : Vcu :=
  { m with
    nan := m.nan || f.nan, sat := m.sat || f.sat, div0 := m.div0 || f.div0, oob := m.oob || f.oob
    firstTag := if f.any && !(m.nan || m.sat || m.div0 || m.oob) then tag else m.firstTag }

/-! ### S1: decoding to the compute type (R148, R70) -/

/-- An element in the compute type, and whether a finite value saturated. Under `ct` 2 a block-scaled INT8 element, which R148 neither
rejects nor can widen exactly, is rounded and saturated to INT16, and under `ct` 1 a block-scaled integer that is no INT32 is rounded to
nearest even and saturated as a floating one is (DESIGN CHOICE, log 147). -/
def toCt (ct code bits scale : Nat) : BitVec 32 × Bool :=
  let v := decodeVal code bits scale
  if ct = 0 then (round32 v, false)
  else if ct = 1 then (let r := convert 0x08 0 v; (BitVec.ofNat 32 r.1, r.2))
  else (let r := convert 0x09 0 v; (low16 (BitVec.ofNat 32 r.1), r.2))

/-- The exact value of a word of a compute type: an integer enters S6 as it is, not rounded to FP32 first (R65; DEDUCED, log 148). -/
def ctVal (ct : Nat) (x : BitVec 32) : Val :=
  if ct = 0 then val32 x else .fin (decide (x.toInt < 0)) x.toInt.natAbs 0

/-! ### S2 and S3 (R155 to R157) -/

/-- A floating operation: the exact result before its one rounding. -/
def fpVal (op : Nat) (a b c : Val) : Val :=
  match op with
  | 1 => a.add b
  | 2 => a.add b.neg
  | 3 => a.mul b
  | 4 => a.div b
  | 5 => (a.mul b).add c
  | 6 => (a.mul b).add c.neg
  | 7 => a.min b
  | 8 => a.max b
  | 9 => a.abs
  | _ => a.neg

/-- A floating operation of S2 or S3 with its flags; pass forwards the bits. A NaN divided by zero is no division by zero that occurred:
it sets no `div0_flag` (R173; DESIGN CHOICE, log 159). -/
def fpOp (op : Nat) (a b c : BitVec 32) : BitVec 32 × VFlags :=
  if op = 0 then (a, {})
  else
    let used := ([val32 a, val32 b, val32 c]).take (aluArity op)
    let y := fpVal op (val32 a) (val32 b) (val32 c)
    (round32 y, { nan := y == .nan && !used.any (· == .nan), div0 := op == 4 && (val32 b).isZero && !used.any (· == .nan) })

/-- A saturating sum. -/
def addSat {w : Nat} (a b : BitVec w) : BitVec w :=
  let t := a.toInt + b.toInt
  let lim : Int := (2 ^ (w - 1) : Nat)
  if t < -lim then BitVec.ofInt w (-lim) else if lim ≤ t then BitVec.ofInt w (lim - 1) else BitVec.ofInt w t

/-- An integer operation at width `w`. -/
def intOpW {w : Nat} (op : Nat) (a b : BitVec w) : BitVec w :=
  match op with
  | 0 => a
  | 1 => aluOp 0 a b
  | 2 => aluOp 1 a b
  | 3 => aluOp 8 a b
  | 4 => aluOp 10 a b
  | 7 => aluOp 12 a b
  | 8 => aluOp 13 a b
  | 11 => addSat a b
  | 12 => aluOp 9 a b
  | 13 => aluOp 11 a b
  | 14 => aluOp 2 a b
  | 15 => aluOp 3 a b
  | 16 => aluOp 4 a b
  | 17 => aluOp 5 a b
  | 18 => aluOp 6 a b
  | _ => aluOp 7 a b

/-- An integer operation of S2 or S3 with its flags. -/
def intOp (ct op : Nat) (a b : BitVec 32) : BitVec 32 × VFlags :=
  let y := if ct = 2 then (intOpW op (a.setWidth 16) (b.setWidth 16)).signExtend 32 else intOpW op a b
  (y, { div0 := (op == 4 || op == 13) && b == 0 })

/-- An operation of S2 or S3. -/
def stageOp (ct op : Nat) (a b c : BitVec 32) : BitVec 32 × VFlags := if ct = 0 then fpOp op a b c else intOp ct op a b

/-! ### S4 (R157, R158) -/

/-- The canonical NaN. -/
def vNan : BitVec 32 := 0x7FC00000#32

/-- An S4 function where R157 or R158 fixes the result; none where the exact bits are left open (log 10). -/
def s4Fixed (fn : Nat) (x : BitVec 32) : Option (BitVec 32) :=
  let v := val32 x
  if v = .nan then some vNan
  else match fn with
    | 1 => if v = .inf false then some 0x7F800000#32 else if v = .inf true then some 0#32
           else if (Val.fin false 128 0).le v then some 0x7F800000#32 else none
    | 2 => if v.isZero then some 0xFF800000#32 else if v.lt (.fin false 0 0) then some vNan else none
    | 3 => some (round32 ((Val.fin false 1 0).div v))
    | 4 => some (round32 v.sqrt)
    | 5 => if v.isZero then some (if x.getLsbD 31 then 0xFF800000#32 else 0x7F800000#32)
           else if v.lt (.fin false 0 0) then some vNan else none
    | 6 => if v = .inf false then some 0x3F800000#32 else if v = .inf true then some 0xBF800000#32 else none
    | 7 => if v = .inf false then some 0x3F800000#32 else if v = .inf true then some 0#32 else none
    | 8 => if v = .inf false then some 0x7F800000#32 else if v = .inf true then some 0x80000000#32 else none
    | _ => some x

/-- An S4 function with its flags; function 0 forwards its source. -/
def s4Op (fn : Nat) (x : BitVec 32) : BitVec 32 × VFlags :=
  if fn = 0 then (x, {})
  else
    let y := match s4Fixed fn x with | some y => y | none => s4Open fn x
    (y, { nan := val32 y == .nan && val32 x != .nan, div0 := fn == 3 && (val32 x).isZero })

/-! ### S5 (R155, R162, R163) -/

/-- A comparison. -/
def cmpOp (ct op : Nat) (a b : BitVec 32) : Bool :=
  let x := ctVal ct a
  let y := ctVal ct b
  if x = .nan ∨ y = .nan then op == 2
  else match op with
    | 1 => x.eqNum y
    | 2 => !x.eqNum y
    | 3 => x.lt y
    | 4 => x.lt y || x.eqNum y
    | 5 => y.lt x
    | _ => y.lt x || x.eqNum y

/-- The word of the keep generator (R163). -/
def keepWord (seed idx : Nat) : BitVec 32 :=
  let x := BitVec.ofNat 32 idx ^^^ (BitVec.ofNat 32 seed * 0x9E3779B9#32)
  let x := (x ^^^ (x >>> 16)) * 0x85EBCA6B#32
  let x := (x ^^^ (x >>> 13)) * 0xC2B2AE35#32
  x ^^^ (x >>> 16)

/-- One lane: operands, activity, fog, and the index of the element in A's walk. -/
structure VLane where
  a : BitVec 32
  b : BitVec 32 := 0
  s : BitVec 32 := 0
  act : Bool := true
  fog : Bool := false
  idx : Nat := 0
  flags : VFlags := {}
  deriving DecidableEq, Repr

/-- A source (R154). -/
def Vr.pick (v : Vr) (l : VLane) (prev r2 : BitVec 32) (code : Nat) : BitVec 32 :=
  match code with
  | 0 => prev
  | 1 => l.a
  | 2 => l.b
  | 3 => l.s
  | 4 => v.consts.getD 0 0
  | 5 => v.consts.getD 1 0
  | 6 => v.consts.getD 2 0
  | _ => r2

/-- S2 to S5 on one lane, with the flags that they set. With `s4_fn` none, S4 forwards its source under every compute type (R155). -/
def Vr.lane (v : Vr) (l : VLane) : LaneVal × VFlags :=
  let (r2, f2) := stageOp v.ct v.s2op (v.pick l l.a l.a (v.s2.getD 0 0)) (v.pick l l.a l.a (v.s2.getD 1 0)) (v.pick l l.a l.a (v.s2.getD 2 0))
  let (r3, f3) := stageOp v.ct v.s3op (v.pick l r2 r2 (v.s3.getD 0 0)) (v.pick l r2 r2 (v.s3.getD 1 0)) (v.pick l r2 r2 (v.s3.getD 2 0))
  let (r4, f4) := s4Op v.s4fn (v.pick l r3 r2 v.s4src)
  let a := v.pick l r4 r2 (v.s5.getD 0 0)
  let (y, m) :=
    if v.s5op = 0 then (a, true)
    else if v.s5op = 7 then
      (let k := decide ((v.consts.getD 2 0).toNat ≤ (keepWord v.seed l.idx).toNat); (if k then a else 0, k))
    else
      (let k := cmpOp v.ct v.s5op a (v.pick l r4 r2 (v.s5.getD 1 0)); (if k then a else v.pick l r4 r2 (v.s5.getD 2 0), k))
  ({ y := y, m := m, act := l.act, fog := l.fog }, ((l.flags.join f2).join f3).join f4)

/-! ### Reductions (R165 to R168) -/

/-- The first best of a list of active values with their positions: the first NaN, else the first largest (smallest). -/
def bestOf (least : Bool) : List (Nat × Val) → Option (Nat × Val)
  | [] => none
  | (i, v) :: t =>
    if v = .nan then some (i, v)
    else match bestOf least t with
      | none => some (i, v)
      | some (j, w) => if w = .nan then some (j, w) else if (if least then v.le w else w.le v) then some (i, v) else some (j, w)

/-- The best active element of a range with its position in walk order; +0 stands above -0 (R167). -/
def rangeBest (least : Bool) (l : List LaneVal) (ct : Nat) : Option (Nat × Val) :=
  bestOf least (((upto 0 l.length).zip l).filterMap (fun (i, x) => if x.act then some (i, ctVal ct x.y) else none))

/-- The value of one reduced range, and whether a NaN came from values that are not NaN. -/
def reduceRange (rop ct : Nat) (l : List LaneVal) : Val × Bool :=
  let act := (l.filter (·.act)).map (fun x => ctVal ct x.y)
  match rop with
  | 0 =>
    if ct = 0 then
      (let a := act.foldl Acc.add {}; (a.val, a.val == .nan && !a.nan))
    else ((act.foldl (fun (a : Acc) v => match v with | .fin n m _ => a.addInt (if n then -(m : Int) else m) | _ => a) {}).intVal, false)
  | 3 => (match rangeBest false l ct with | some (i, _) => .fin false i 0 | none => .fin true 1 0, false)
  | 1 => (match rangeBest false l ct with | some (_, v) => v | none => .inf true, false)
  | _ => (match rangeBest true l ct with | some (_, v) => v | none => .inf false, false)

/-! ### Shapes and checks at issue (R148, R151, R165, R168, R278) -/

/-- The bound of loop 0 of a walk, and the number of its runs. -/
def Desc.bound0 (d : Desc) : Nat := d.bnd (d.loopDim 0)
def Desc.runCount (d : Desc) : Nat := (upto 1 (d.levels - 1)).foldl (fun a j => a * d.bnd (d.loopDim j)) 1

/-- Elements of loops 0 to `k` - 1, and of the loops outside them. -/
def Desc.inner (d : Desc) (k : Nat) : Nat := (upto 0 (min k d.levels)).foldl (fun a j => a * d.bnd (d.loopDim j)) 1
def Desc.outer (d : Desc) (k : Nat) : Nat := (upto (min k d.levels) (d.levels - min k d.levels)).foldl (fun a j => a * d.bnd (d.loopDim j)) 1

/-- A code that compute type 2 takes. -/
def ct2Code (code : Nat) : Bool := code == 0x09 || code == 0x0A || code == 0x0B || code == 0x0C

/-- The number of results of an instruction whose A lies in the home MU. -/
def Vr.results (v : Vr) (d : Desc) (red : Bool) : Nat := if red then d.outer v.rlev else d.count

/-- The number of plane elements: one for each 32 elements of a run, or each 16 pooled windows in walk order. -/
def Desc.planeCount (d : Desc) (red : Bool) : Nat := if red then ceilDiv (d.outer 1) 16 else d.runCount * ceilDiv d.bound0 32

/-- Whether an instruction writes a plane: `plane_out` of VOP, and every pooling VRED. -/
def Vr.planes (v : Vr) (red : Bool) : Bool := if red then v.pool2 else v.plane

/-- A walk in the home MU, read or written, that is not external (R275). -/
def Mu.homeBad (m : Mu) (i : Nat) (write : Bool) : Option Nat :=
  if 1024 ≤ i ∨ (m.desc_ i).ext then some stContextFault else m.checkDesc i write .scratch

/-- The checks at issue of VOP and VRED. The format of a stream is that of `ofmt` (log 26), and the format byte of C must be
`ofmt`; an `rlev` above the levels of A reduces every loop. A gather whose B has a loop-0 bound of 1 is a broadcast, even where A has that
bound too, and R160 forbids it (DESIGN CHOICE, log 160). When A is a stream, a B that is not broadcast gives its shape (R151). -/
def State.vecBad (s : State) (g : Nat) (iss : Issued) (v : Vr) (red : Bool) : Option Nat :=
  let i := iss.i
  let m := s.mu (homeMu g)
  let sIn := i.da == 0xFFFF || v.readsS
  let d := m.desc_ i.da
  let e := m.desc_ i.db
  let c := m.desc_ i.dc
  let p := m.desc_ v.planeDesc
  let shape := if i.da ≠ 0xFFFF then some d else if i.db ≠ 0xFFFF ∧ e.bound0 ≠ 1 then some e else none
  let fail := some stContextFault
  if v.resvBad red then fail
  else if red && i.da == 0xFFFF then fail
  else if (v.readsB || v.gather) && i.db == 0xFFFF then fail
  else if (sIn && !iss.fed && i.sin == 0) || (!sIn && (i.sin != 0 || iss.fed)) || (i.sin != 0 && !s.chanOk g i.sin false) then fail
  else if (i.dc == 0xFFFF && !iss.feeds && i.sout == 0) || (i.dc != 0xFFFF && i.sout != 0) || (i.sout != 0 && !s.chanOk g i.sout true) then fail
  else if i.da ≠ 0xFFFF ∧ (m.homeBad i.da false).isSome then m.homeBad i.da false
  else if i.db ≠ 0xFFFF ∧ (m.homeBad i.db false).isSome then m.homeBad i.db false
  else if i.dc ≠ 0xFFFF ∧ (m.homeBad i.dc true).isSome then m.homeBad i.dc true
  else if v.ct == 2 && ((i.da != 0xFFFF && !ct2Code d.code) || (i.db != 0xFFFF && !ct2Code e.code) || (sIn && !ct2Code (v.ofmt % 32))) then fail
  else if i.dc ≠ 0xFFFF ∧ c.fmt ≠ v.ofmt then fail
  else if i.db ≠ 0xFFFF ∧ v.gather ∧ e.bound0 = 1 then fail
  else if i.da ≠ 0xFFFF ∧ i.db ≠ 0xFFFF ∧ ¬ (e.runCount = d.runCount ∧ (e.bound0 = d.bound0 ∨ e.bound0 = 1)) then fail
  else if red && !v.pool2 && v.rop == 3 && v.ofmt != 0x08 then fail
  else if red && v.pool2 && (v.rop != 3 || v.rlev != 1 || !(d.bound0 == 4 || d.bound0 == 0)) then fail
  else if red && decide (2 ^ 40 < d.inner v.rlev) then fail
  else if i.dc ≠ 0xFFFF ∧ shape.any (fun w => c.count != v.results w red) then fail
  else if v.planes red then
    if p.ext ∨ p.fmt ≠ 0x08 ∨ shape.any (fun w => p.count != w.planeCount red) then fail else m.checkDesc v.planeDesc true .scratch
  else none

/-- A vector instruction at the head of the queue issues when fewer than two instructions are held (R170) and the generators of its
home MU that it needs are free (R86). -/
def vecIssue (s : State) (g : Nat) (iss : Issued) (bad : State → BitVec 256 → Option Nat) (more : BitVec 256 → List Nat) (writes : BitVec 256 → Bool) : State :=
  let h := homeMu g
  let p := s.recordOf g iss.i
  match s.issueCheck g iss with
  | some st => s.tensorFault g iss st
  | none =>
    if s.unitFull g then s
    else match bad s p with
      | some st => s.tensorFault g iss st
      | none =>
        match s.homeGens g (iss.i.da != 0xFFFF || iss.i.db != 0xFFFF) (iss.i.dc != 0xFFFF || writes p) with
        | none => s
        | some gens =>
          let r : Run := { iss := iss, prm := p, latch := (s.mu h).latchMore ((s.mu h).latchOf iss.i) (more p), gens := gens }
          if r.xposes && s.xposeTaken h then s else s.beginRun g r

/-! ### Operands (R149 to R151, R160) -/

/-- An element of A on its way: its run, its place in the run, and the element. -/
abbrev LaneIn := Nat × Nat × El

/-- The elements of a flit of a stream, those masked that its masks name (R90, R219). -/
def flitRun (code : Nat) (f : Flit) : List El :=
  let n := f.bytes.length * 8 / fmtBits code
  let l := (bytesToRuns (fmtBits code) [n] f.bytes f.byteFog).flatten
  (l.zip (upto 0 n)).map (fun (x, j) => { x with masked := f.mask.getD j false })

/-- The flits that a walk of A forms: the elements of each run by lanes (R150), and eight windows in each of a pooling VRED (R168). -/
def Vr.plan (v : Vr) (red : Bool) (d : Desc) : List (List (Nat × Nat × WEl)) :=
  let rs := (d.runs.zip (upto 0 d.runs.length)).map (fun (r, k) => (r.zip (upto 0 r.length)).map (fun (w, j) => (k, j, w)))
  if red && v.pool2 then chunks 32 rs.flatten.length rs.flatten else rs.flatMap (fun r => chunks v.lanes r.length r)

/-- Read some flits of a walk of A; with the first of them a dense walk is verified (R463). -/
def State.readPart (s : State) (h : Nat) (d c : Desc) (first : Bool) (fl : List (List (Nat × Nat × WEl))) : State × List (List LaneIn) :=
  let s := s.touchRuns h d c 0 (fl.map (fun l => l.map (·.2.2)))
  let s := if first && d.dense 0 then s.muVerify h 0 d.base d.bytes else s
  (s, fl.map (fun l => l.map (fun (k, j, w) => (k, j, (s.mu h).readScaled d c 0 w))))

/-- What B gives a lane: the element, and whether an index was out of range. -/
abbrev LaneB := El × Bool

/-- One gathered element: an index in range is one scratchpad read of B at its current outer position, any other gives B's pad (R160). -/
def State.gatherOne (s : State) (h : Nat) (d c : Desc) (codeA : Nat) (x : LaneIn) : State × LaneB :=
  let (k, j, e) := x
  let pad : El := { bits := d.pad % 2 ^ d.bits }
  if e.masked then (s, (pad, false))
  else
    let i := (BitVec.ofNat 32 (convert 0x08 0 (decodeVal codeA e.bits e.scale)).1).toInt
    if 0 ≤ i ∧ i < d.bnd 0 then
      match (d.runs.getD k [])[j]? with
      | some w =>
        let w := d.element k (w.idx.set 0 i.toNat)
        let s := s.touchRuns h d c 0 [[w]]
        (s, ((s.mu h).readScaled d c 0 w, false))
      | none => (s, (pad, false))
    else (s, (pad, true))

/-- The gathered elements of some lanes. -/
def State.gatherAll (s : State) (h : Nat) (d c : Desc) (codeA : Nat) (l : List LaneIn) : State × List LaneB :=
  l.foldl (fun (a : State × List LaneB) x =>
    let (s, b) := a.1.gatherOne h d c codeA x
    (s, a.2 ++ [b])) (s, [])

/-- The elements of B that go with some lanes, read once for each run when they are broadcast (R151); inactive lanes read nothing (R169).
The valid blocks of a dense B that they lie in are verified (R463). -/
def State.readB (s : State) (h : Nat) (d c : Desc) (l : List LaneIn) : State × List LaneB :=
  let wide := d.bound0 == 1
  let at_ := fun (k j : Nat) => (d.runs.getD k [])[if wide then 0 else j]?
  let on := l.filter (fun x => !x.2.2.masked)
  let need := if wide then (on.map (·.1)).eraseDups.filterMap (fun k => at_ k 0) else on.filterMap (fun x => at_ x.1 x.2.1)
  let s := (s.touchRuns h d c 0 [need]).verifyRuns h d [need]
  (s, l.map (fun x => ((match at_ x.1 x.2.1 with | some w => if x.2.2.masked then { bits := 0 } else (s.mu h).readScaled d c 0 w | none => { bits := 0 }), false)))

/-- The lanes of one flit of A; `bs` and `sf` are what goes with it of B and of S, `base` the index of its first element. When A is taken
from S, code 3 reads A's own element (log 149). A masked element of B gives its pad to an active lane (log 150); a lane beyond the valid
bytes of its S flit is not active (R219; log 151). -/
def Vr.runLanes (v : Vr) (codeA codeB : Nat) (as_ : List LaneIn) (bs : Option (List LaneB)) (fromS : Bool) (sf : Option (List El)) (base : Nat) : List VLane :=
  (as_.zip (upto 0 as_.length)).map (fun ((_, _, x), j) =>
    let (a, sa) := toCt v.ct codeA x.bits x.scale
    let (b, sb, fb, ob) := match bs with
      | some l => (let e := l.getD j ({ bits := 0 }, false); let r := toCt v.ct codeB e.1.bits e.1.scale; (r.1, r.2, e.1.fog, e.2))
      | none => (0, false, false, false)
    let (sv, ss, fs, there) := match sf with
      | some l => (match l[j]? with
        | some e => (let r := toCt v.ct (v.ofmt % 32) e.bits 127; (r.1, r.2, e.fog, true))
        | none => (0, false, false, false))
      | none => (if fromS then a else 0, false, false, true)
    let act := !x.masked && there
    { a := a, b := b, s := sv, act := act, fog := act && (x.fog || fb || fs), idx := (base + j) % 2 ^ 32,
      flags := if act then { sat := sa || sb || ss, oob := ob } else {} })

/-! ### S6 and the outputs (R71, R150, R161, R165, R169) -/

/-- One result on its way out: value, fog, whether it is written. -/
structure VOut where
  v : Val
  fog : Bool
  act : Bool
  deriving DecidableEq, Repr

/-- Bits of results under an unscaled format, with saturation of the written ones. -/
def packPlain (code mode : Nat) (l : List VOut) : List El × Bool :=
  let cs := l.map (fun o => convert code mode o.v)
  ((cs.zip l).map (fun (c, o) => { bits := c.1, fog := o.fog && o.act, masked := !o.act }), (cs.zip l).any (fun (c, o) => c.2 && o.act))

/-- Bits of results under a scaled format: results with one key form one block, which has its own amax. Answers elements with their
scale in `scale`, and saturation (R71). -/
def packScaled {κ : Type} [BEq κ] (code mode : Nat) (l : List (VOut × κ)) : List El × Bool :=
  let keys := (l.map (·.2)).eraseDups
  let table := keys.map (fun a => (a, blockScale code (l.filterMap (fun (o, k) => if o.act && k == a then some o.v else none))))
  let one := fun (o : VOut) (a : κ) =>
    match table.find? (fun t => t.1 == a) with
    | some (_, sc) =>
      if sc = 0xFF then (({ bits := 0, fog := o.fog && o.act, masked := !o.act, scale := sc } : El), false)
      else
        let c := convert code mode (o.v.scale (127 - (sc : Int)))
        (({ bits := c.1, fog := o.fog && o.act, masked := !o.act, scale := sc } : El), c.2 && o.act)
    | none => (({ bits := 0, masked := true } : El), false)
  let es := l.map (fun (o, a) => one o a)
  (es.map (·.1), es.any (·.2))

/-- Results as elements for a walk `d`, in walk order: blocks are of 32 consecutive elements along dimension 0. -/
def packFor (ofmt mode : Nat) (d : Desc) (l : List VOut) : List El × Bool :=
  let ws := d.runs.flatten
  if bitOf ofmt 5 then
    packScaled (ofmt % 32) mode ((l.zip ws).map (fun (o, w) => ({ o with act := o.act && !w.masked }, w.idx.set 0 (w.idx.getD 0 0 / 32))))
  else packPlain (ofmt % 32) mode ((l.zip ws).map (fun (o, w) => { o with act := o.act && !w.masked }))

/-- A run of results as elements for a stream: blocks are of 32 consecutive elements of the run. -/
def packRun (ofmt mode : Nat) (l : List VOut) : List El × Bool :=
  if bitOf ofmt 5 then packScaled (ofmt % 32) mode ((l.zip (upto 0 l.length)).map (fun (o, j) => (o, j / 32))) else packPlain (ofmt % 32) mode l

/-- Write results through a walk of the home MU: elements, scale bytes, checks of a dense output. -/
def State.vecWrite (s : State) (h : Nat) (d c : Desc) (els : List El) : State :=
  let s := (d.runs.zip (splitRuns d els)).foldl (fun s (ws, xs) =>
    let ws := (ws.zip xs).map (fun (w, x) => { w with masked := w.masked || x.masked })
    (joinBytes 256 (d.runBytes (memGet (s.mu h).mem) 0 (pairUp ws xs))).foldl (fun s (a, bs, fs) => s.muWritePlain h a bs fs) s) s
  let s := if d.scaled then
      (d.runs.flatten.zip els).foldl (fun s (w, x) =>
        if x.masked then s
        else
          let a := (c.scaleAddr w.idx).toNat
          let fog := (d.runs.flatten.zip els).any (fun (w', x') => !x'.masked && x'.fog && c.scaleAddr w'.idx == c.scaleAddr w.idx)
          s.muWritePlain h a [BitVec.ofNat 8 x.scale] [fog]) s
    else s
  if els.any (·.masked) then s
  else
    let s := s.denseDone h d
    if d.scaled then s.denseDone h c else s

/-- Write INT32 words with fog through a walk, one for each element. -/
def State.wordsOut (s : State) (h : Nat) (d : Desc) (ws : List (Nat × Bool)) : State :=
  s.vecWrite h d d (ws.map (fun (x, f) => { bits := x % 2 ^ 32, fog := f }))

/-- Plane words of a VOP: one for each 32 elements of a run (R161). -/
def planeOf (l : List LaneVal) : List (Nat × Bool) :=
  (chunks 32 l.length l).map (fun c =>
    (((c.zip (upto 0 32)).foldl (fun w (x, j) => if x.act && x.m then w + 2 ^ j else w) 0), c.any (fun x => x.act && x.fog)))

/-- Winner codes of pooled windows, 16 to a word (R132, R168). -/
def poolPlane (l : List (Nat × Bool)) : List (Nat × Bool) :=
  (chunks 16 l.length l).map (fun c => (((c.zip (upto 0 16)).foldl (fun w (x, j) => w + x.1 * 4 ^ j) 0), c.any (·.2)))

/-- The accumulator of a reduction after the values of some lanes: those of the range that is not complete (R470). -/
def Vr.accWords (v : Vr) (n : Nat) (l : List LaneVal) : List (BitVec 32) :=
  let part := (l.drop (l.length / max 1 n * n)).filter (·.act)
  if v.rop = 0 then
    (let a := part.foldl (fun (a : Acc) x => match ctVal v.ct x.y with | .fin sg m 0 => if v.ct = 0 then a.add (.fin sg m 0) else a.addInt (if sg then -(m : Int) else m) | y => a.add y) {}
     (upto 0 10).map (fun k => BitVec.ofNat 32 (wrapInt a.sum 320 / 2 ^ (32 * k))))
  else match (match rangeBest (v.rop == 2) part v.ct with | some (i, _) => part[i]? | none => none) with
    | some x => [x.y]
    | none => []

/-- Spans of 8 flits for the audit (R470): the words of each, and whether fog entered it. `old` are the values before the part. -/
def Vr.spans (v : Vr) (prm : BitVec 256) (red : Bool) (n : Nat) (old : List LaneVal) (lanes : List (List VLane)) (res : List (List LaneVal)) :
    List (List (BitVec 32) × Bool) :=
  let fl := lanes.zip res
  let rec_ := (upto 0 8).map (fun k => BitVec.ofNat 32 (recFld prm (32 * k + 31) (32 * k)))
  let spans := chunks 8 fl.length fl
  (spans.zip (upto 0 spans.length)).map (fun (c, i) =>
    let before := old ++ (res.take (8 * i)).flatten
    let acc := if red then v.accWords n before ++ v.accWords n (before ++ (c.map (·.2)).flatten) else []
    (rec_ ++ c.flatMap (fun (l, r) => l.flatMap (fun x => [x.a, x.b, x.s, BitVec.ofNat 32 x.idx, BitVec.ofNat 32 (b2n x.act)])
        ++ r.map (fun x => if red || bitOf v.ofmt 5 then x.y else BitVec.ofNat 32 (convert (v.ofmt % 32) v.rmode (ctVal v.ct x.y)).1)) ++ acc,
      c.any (fun (l, _) => l.any (·.fog))))

/-- Sample the spans of an instruction whose record has `audit` set. -/
def State.auditSpans (s : State) (g : Nat) (l : List (List (BitVec 32) × Bool)) : State :=
  l.foldl (fun s (ws, fog) =>
    let m := s.vcu g
    let (gen, s) := s.eligible g m.gen m.forced fog ws
    s.setVcu g { s.vcu g with gen := gen, forced := false }) s

/-- An injected parity error of an S4 table fogs the first result that uses it (R159). -/
def State.tableError (s : State) (g : Nat) (v : Vr) (res : List (List LaneVal)) : State × List (List LaneVal) :=
  let m := s.vcu g
  if m.tblBadNext && v.s4fn != 0 && res.any (fun r => r.any (·.act)) then
    let s := s.setVcu g { m with tblBadNext := false, tblPar := sat32 m.tblPar 1 }
    let s := (s.recordUnit g { cls := 3, sev := 2, cause := 0x03 }).reportUnit g
    (s, (res.foldl (fun (acc : List (List LaneVal) × Bool) r =>
      let (r', hit) := r.foldl (fun (b : List LaneVal × Bool) x => if x.act && !b.2 then (b.1 ++ [{ x with fog := true }], true) else (b.1 ++ [x], b.2)) ([], acc.2)
      (acc.1 ++ [r'], hit)) ([], false)).1)
  else (s, res)

/-- The results of a reduction: values in walk order, the words of a plane, and whether a NaN came from values that are not NaN. -/
def Vr.reduced (v : Vr) (d : Desc) (all : List LaneVal) : List VOut × List (Nat × Bool) × Bool :=
  let n := d.inner v.rlev
  let ranges := (upto 0 (d.outer v.rlev)).map (fun k => (all.drop (k * n)).take n)
  let fogOf := fun (l : List LaneVal) => l.any (fun x => x.act && x.fog)
  if v.pool2 then
    let win := ranges.map (fun l => (rangeBest false l v.ct, fogOf l))
    (win.map (fun (o, f) => { v := match o with | some (_, x) => x | none => .inf true, fog := f, act := true }),
      poolPlane (win.map (fun (o, f) => (match o with | some (i, _) => i % 4 | none => 0, f))), false)
  else
    let rs := ranges.map (fun l => (reduceRange v.rop v.ct l, fogOf l))
    (rs.map (fun (o, f) => { v := o.1, fog := f, act := true }), [], rs.any (fun (o, _) => o.2))

/-- The values of lanes as outputs. -/
def Vr.outs (v : Vr) (l : List LaneVal) : List VOut := l.map (fun x => { v := ctVal v.ct x.y, fog := x.fog, act := x.act })

/-- End a run of a vector instruction: the next run, or the wait for completion. -/
def State.vecEnd (s : State) (g : Nat) (r : Run) : State :=
  let m := s.vcu g
  (s.setVcu g { m with redBusy := false }).putRun g
    { r with run := r.run + 1, flits := [], els := [], pos := 0, keepIdx := 0, vals := [], crcTail := [], finished := decide (r.iss.i.count ≤ r.run + 1) }

/-- The last of a run of VOP or VRED: what is still to leave by a stream, or everything through C and the plane. The results of each run
of A fill flits of 128 B of their own, those of a VRED are one run (R147; DEDUCED, log 153). A conversion in S6 that writes the NaN of R66
for an overflow is no operation that produced NaN: it sets no `nan_flag` (R173; DESIGN CHOICE, log 161). -/
def State.vecFinish (s : State) (g : Nat) (r : Run) (v : Vr) (red : Bool) : State :=
  let h := homeMu g
  let i := r.iss.i
  let d := r.desc i.da
  let c := r.desc i.dc
  let pd := r.desc v.planeDesc
  let all := (r.vals.map (·.2)).flatten
  let (outs, plane, nan) := if red then v.reduced d all else (v.outs all, r.vals.flatMap (fun e => planeOf e.2), false)
  let fromS := i.da == 0xFFFF
  if fromS && ((i.dc != 0xFFFF && c.count != outs.length) || (v.planes red && pd.count != plane.length)) then s.tensorFault g r.iss stContextFault
  else
    let (els, sat) :=
      if i.dc ≠ 0xFFFF then (let p := packFor v.ofmt v.rmode c outs; ([p.1], p.2))
      else
        let ps := (if red then [outs] else r.vals.map (fun e => v.outs e.2)).map (packRun v.ofmt v.rmode)
        (ps.map (·.1), ps.any (·.2))
    let s := s.setVcu g ((s.vcu g).note { nan := nan, sat := sat } i.tag)
    let s := if v.planes red then s.wordsOut h pd plane else s
    let s := if i.dc = 0xFFFF then s.deliver g r (partFlits (fmtBits (v.ofmt % 32)) true r.crcTail els).1 else s.vecWrite h c (r.comp i.dc) els.flatten
    s.vecEnd g r

/-- What a part of a run has come to, but for its last flits: whole runs leave by a stream at once. -/
def State.vecEmit (s : State) (g : Nat) (r : Run) (v : Vr) (red : Bool) : State × Run :=
  let i := r.iss.i
  if red || i.dc != 0xFFFF || v.planes red then (s, r)
  else
    let whole := fun (l : List LaneVal) => i.da == 0xFFFF || l.length == (r.desc i.da).bound0
    let ps := ((r.vals.filter (fun e => whole e.2)).map (fun e => packRun v.ofmt v.rmode (v.outs e.2)))
    let (fl, tail) := partFlits (fmtBits (v.ofmt % 32)) false r.crcTail (ps.map (·.1))
    let s := s.setVcu g ((s.vcu g).note { sat := ps.any (·.2) } i.tag)
    (s.deliver g r fl, { r with crcTail := tail, vals := r.vals.filter (fun e => !whole e.2) })

/-- Flits of A, with what goes with each of S, through S1 to S5: their values join those of the run, and their flags are set. -/
def State.vecFlits (s : State) (g : Nat) (r : Run) (v : Vr) (red : Bool) (fl : List (List LaneIn)) (sfl : List (List El)) : State × Run :=
  let h := homeMu g
  let i := r.iss.i
  let fromS := i.da == 0xFFFF
  let codeA := if fromS then v.ofmt % 32 else (r.desc i.da).code
  let db := r.desc i.db
  let hasB := i.db != 0xFFFF
  let all := fl.flatten
  let (s, bs) :=
    if hasB && v.gather then s.gatherAll h db (r.comp i.db) codeA all
    else if hasB then s.readB h db (r.comp i.db) all
    else (s, [])
  let starts := fl.foldl (fun (l : List Nat × Nat) x => (l.1 ++ [l.2], l.2 + x.length)) (([] : List Nat), 0)
  let lanes := ((fl.zip starts.1).zip (upto 0 fl.length)).map (fun ((x, n), q) =>
    v.runLanes codeA db.code x (if hasB then some ((bs.drop n).take x.length) else none) fromS (if fromS || !v.readsS then none else some (sfl.getD q [])) (r.keepIdx + n))
  let m := s.vcu g
  let seen := lanes.any (fun l => l.any (·.fog)) || all.any (fun x => !x.2.2.masked && x.2.2.fog)
  let s := s.setVcu g { m with fogSeen := m.fogSeen || seen, redBusy := red, flits := perfAdd m.flits fl.length }
  let out := lanes.map (fun l => l.map v.lane)
  let flags := (out.flatten.filter (·.1.act)).foldl (fun f x => f.join x.2) ({} : VFlags)
  let s := s.setVcu g ((s.vcu g).note flags i.tag)
  let (s, res) := s.tableError g v (out.map (fun l => l.map (·.1)))
  let s := if v.audit then
      s.auditSpans g (v.spans r.prm red ((r.desc i.da).inner v.rlev) ((r.vals.map (·.2)).flatten) lanes res)
    else s
  let vals := (all.zip res.flatten).foldl (fun t (x, y) => tabSet t x.1 (tabGet [] t x.1 ++ [y])) r.vals
  (s, { r with pos := r.pos + fl.length, keepIdx := r.keepIdx + starts.2, vals := vals })

/-- The first flit with an active fogged element, of those whose elements are gather indices (R169). -/
def Vr.fogAt (v : Vr) (hasB : Bool) (fl : List (List LaneIn)) : Option Nat :=
  if hasB && v.gather then fl.findIdx? (fun l => l.any (fun x => !x.2.2.masked && x.2.2.fog)) else none

/-- A part of a run: its flits, of which `fin` tells that they are the last, and then what leaves. A fogged gather index fails the
context when it enters S1, behind the flits before it, of which whole spans of 8 are audited (R169, R173, R470). -/
def State.vecPart (s : State) (g : Nat) (r : Run) (v : Vr) (red fin : Bool) (fl : List (List LaneIn)) (sfl : List (List El)) : State :=
  match v.fogAt (r.iss.i.db != 0xFFFF) fl with
  | some q =>
    let n := q / 8 * 8
    let (s, r) := s.vecFlits g r v red (fl.take n) (sfl.take n)
    let (s, r) := s.vecFlits g r { v with audit := false } red ((fl.take q).drop n) ((sfl.take q).drop n)
    let m := s.vcu g
    (s.setVcu g { m with fogSeen := true, flits := perfAdd m.flits 1 }).tensorFault g r.iss stFoggedControl
  | none =>
    let (s, r) := s.vecFlits g r v red fl sfl
    if fin then s.vecFinish g r v red
    else
      let (s, r) := s.vecEmit g r v red
      s.putRun g r

/-- How many flits the next part takes of `n` that are there: at most to the next safe point (R172), and whole spans of 8 when the
instruction is audited (R470), unless they are the last. -/
def partSize (pos n : Nat) (audit last : Bool) : Nat :=
  let k := min n (1024 - pos % 1024)
  if audit && !(last && k == n) then k / 8 * 8 else k

/-- One step of a run whose A lies in the home MU: the next flits of its walk, each with a flit of S when S is read. -/
def State.vecFromHome (s : State) (g : Nat) (r : Run) (v : Vr) (red : Bool) : Option State :=
  let h := homeMu g
  let i := r.iss.i
  let d := r.desc i.da
  let plan := v.plan red d
  let left := plan.length - r.pos
  let src := if v.readsS then s.source g r else []
  let wrong := some (s.tensorFault g r.iss stContextFault)
  if v.readsS && left == 0 then
    -- an empty walk takes an empty tensor
    match src with
    | [] => none
    | f :: _ => if f.eot && f.bytes.isEmpty then some ((s.takeSource g r 1).vecPart g r v red true [] []) else wrong
  else
    let have_ := if v.readsS then min left src.length else left
    let k := partSize r.pos have_ v.audit (have_ == left)
    let mine := src.take k
    let fin := k == left
    if k = 0 ∧ left ≠ 0 then none
    else if (mine.zip (upto 0 k)).any (fun (f, q) => f.bytes.isEmpty || f.eot != (fin && q + 1 == k)) then wrong
    else
      let s := if v.readsS then s.takeSource g r k else s
      let (s, fl) := s.readPart h d (r.comp i.da) (r.pos == 0) ((plan.drop r.pos).take k)
      some (s.vecPart g r v red fin fl (mine.map (flitRun (v.ofmt % 32))))

/-- One step of a run whose A is S: each flit that has come is a run (R150), which B must match. -/
def State.vecFromStream (s : State) (g : Nat) (r : Run) (v : Vr) (red : Bool) : Option State :=
  let i := r.iss.i
  let db := r.desc i.db
  let src := s.source g r
  let upTo := match takeTensor src with | some (l, _) => l | none => src
  let ended := upTo.any (·.eot)
  let k := partSize r.pos upTo.length v.audit ended
  let mine := upTo.take k
  let fin := ended && k == upTo.length
  let data := mine.filter (fun f => !f.bytes.isEmpty)
  let runs := data.map (flitRun (v.ofmt % 32))
  let n := r.pos + data.length
  let fits := i.db == 0xFFFF || (decide (n ≤ db.runCount) && (!fin || n == db.runCount) && (db.bound0 == 1 || runs.all (fun x => x.length == db.bound0)))
  if k = 0 then none
  else if !fits then some (s.tensorFault g r.iss stContextFault)
  else some ((s.takeSource g r k).vecPart g r v red fin
    ((runs.zip (upto r.pos runs.length)).map (fun (l, q) => (l.zip (upto 0 l.length)).map (fun (x, j) => (q, j, x)))) [])

/-- The bank groups that are off and that a vector instruction reads or writes, scales among them (R109). -/
def Run.vecAsleep (r : Run) (m : Mu) (l : List Nat) : BitVec 8 :=
  (l.filter (fun k => decide (k < 1024))).foldl (fun a k => a ||| m.scaledAsleep (r.desc k) (r.comp k)) 0

/-- One step of a vector instruction in its turn (R170). With count 0 it is empty, and sends an empty tensor on a stream (R9). -/
def vecAdvance (s : State) (g : Nat) (red : Bool) (r : Run) : Option State :=
  let h := homeMu g
  let v := vrOf r.prm
  let i := r.iss.i
  let m := s.mu h
  let z := r.vecAsleep m ([i.da, i.db, i.dc] ++ (if v.planes red then [v.planeDesc] else []))
  if !s.myTurn g r then none
  else if i.count = 0 then
    let s := if i.dc = 0xFFFF then s.deliverEmpty g r else s
    some (s.putRun g { r with finished := true })
  else if z ≠ 0 then some (s.setMu h { m with waking := m.waking ||| z })
  else if i.da = 0xFFFF then s.vecFromStream g r v red
  else s.vecFromHome g r v red

/-- VOP (R153 to R164). -/
def execVop (u : VcuId) (s : State) : Res :=
  let g := vcuGid u
  tensorCmd s g (· == 0x30) (fun s h => vecIssue s g h (fun s p => s.vecBad g h (vrOf p) false) (fun p => [(vrOf p).planeDesc]) (fun p => (vrOf p).planes false))
    (fun s r => vecAdvance s g false r)

/-- VRED (R165 to R168). -/
def execVred (u : VcuId) (s : State) : Res :=
  let g := vcuGid u
  tensorCmd s g (· == 0x31) (fun s h => vecIssue s g h (fun s p => s.vecBad g h (vrOf p) true) (fun p => [(vrOf p).planeDesc]) (fun p => (vrOf p).planes true))
    (fun s r => vecAdvance s g true r)

/-! ### EXPORT.SIGN (R374 to R377) -/

/-- The descriptors of a record. -/
def eOut (p : BitVec 256) : Nat := recFld p 9 0
def sOut (p : BitVec 256) : Nat := recFld p 19 10

/-- Sign blocks of one walk: 256 elements from the start of each loop-0 run (R375). -/
def Desc.signBlocks (d : Desc) : Nat := d.runCount * ceilDiv d.bound0 256

/-- INT32 sign elements of one walk. -/
def Desc.signWords (d : Desc) : Nat := d.runCount * (d.bound0 / 256 * 8 + ceilDiv (d.bound0 % 256) 32)

/-- The checks at issue. A log format is a float format of R374, since R70 decodes it (DEDUCED, log 157). -/
def State.signBad (s : State) (g : Nat) (iss : Issued) (p : BitVec 256) : Option Nat :=
  let m := s.mu (homeMu g)
  let i := iss.i
  let a := m.desc_ i.da
  let chk := [(i.da, false), (i.db, false), (i.dc, true), (eOut p, true), (sOut p, true)].filterMap (fun (k, w) => m.homeBad k w)
  if recFld p 255 20 ≠ 0 then some stContextFault
  else match chk with
    | st :: _ => some st
    | [] =>
      if !(fmtFloat a.code || fmtLog a.code) || (m.desc_ i.db).fmt != 0x00 || (m.desc_ i.dc).fmt != 0x08 || (m.desc_ (eOut p)).fmt != 0x00 || (m.desc_ (sOut p)).fmt != 0x00
          || (m.desc_ i.db).count != a.count || (m.desc_ (eOut p)).count != a.count || (m.desc_ i.dc).count != a.signWords
          || (m.desc_ (sOut p)).count != a.signBlocks then some stContextFault
      else none

/-- One block: new error memory, sign words, scale, and whether a value was not finite (R376, R377). -/
def exportBlock (g e : List (BitVec 32 × Bool)) : List (BitVec 32 × Bool) × List Nat × BitVec 32 × Bool :=
  let vs := (g.zip e).map (fun ((x, act), (y, _)) => (round32 ((val32 x).add (val32 y)), act))
  let act := vs.filter (·.2)
  let bad := act.any (fun v => !(val32 v.1).finite)
  let sum := (act.foldl (fun (a : Acc) v => a.add (val32 v.1).abs) {}).val
  let scale := if bad then vNan else if act.isEmpty then 0#32 else round32 (sum.div (.fin false act.length 0))
  let sg := vs.map (fun (v, a) => a && !bad && v.getLsbD 31)
  let new := (vs.zip sg).map (fun ((v, a), b) =>
    (if bad then 0#32 else round32 ((val32 v).add (if b then val32 scale else (val32 scale).neg)), a))
  (new, (chunks 32 sg.length sg).map (fun c => (c.zip (upto 0 32)).foldl (fun w (b, j) => if b then w + 2 ^ j else w) 0), scale, bad)

/-- Read some blocks of a walk. -/
def State.readBlocks (s : State) (h : Nat) (d c : Desc) (first : Bool) (bl : List (List WEl)) : State × List (List El) :=
  let s := s.touchRuns h d c 0 bl
  let s := if first && d.dense 0 then s.muVerify h 0 d.base d.bytes else s
  (s, bl.map (fun l => l.map ((s.mu h).readScaled d c 0)))

/-- The blocks of an EXPORT.SIGN from block `pos` on, at most `n`, of the gradient and of the error memory beside it. -/
def Run.signBlocksAt (r : Run) (pos n : Nat) : List (List WEl) × List (List WEl) :=
  let d := r.desc r.iss.i.da
  let e := (r.desc r.iss.i.db).runs.flatten
  let es := (d.runs.foldl (fun (acc : List (List WEl) × List WEl) x => (acc.1 ++ [acc.2.take x.length], acc.2.drop x.length)) ([], e)).1
  let cut := fun (rs : List (List WEl)) => ((rs.flatMap (fun x => chunks 256 x.length x)).drop pos).take n
  (cut d.runs, cut es)

/-- The next block of a run of an EXPORT.SIGN, 8 flits (R378): its sign words, scale and new error memory join those of
the run, which are written with the last. -/
def State.signPart (s : State) (g : Nat) (r : Run) : State :=
  let h := homeMu g
  let i := r.iss.i
  let d := r.desc i.da
  let (ga, ge) := r.signBlocksAt r.pos 1
  let (s, as_) := s.readBlocks h d (r.comp i.da) (r.pos == 0) ga
  let (s, es) := s.readBlocks h (r.desc i.db) (r.comp i.db) (r.pos == 0) ge
  let out := (as_.zip es).map (fun (x, y) =>
    let o := exportBlock (x.map (fun (e : El) => ((toCt 0 d.code e.bits e.scale).1, !e.masked))) (y.map (fun (e : El) => (BitVec.ofNat 32 e.bits, true)))
    (o, (x.zip y).any (fun ((e : El), (f : El)) => !e.masked && (e.fog || f.fog))))
  let m := s.vcu g
  let flits := (as_.map (fun l => ceilDiv l.length 32)).sum
  let s := s.setVcu g (({ m with fogSeen := m.fogSeen || out.any (·.2), flits := perfAdd m.flits flits } : Vcu).note { nan := out.any (fun (o, _) => o.2.2.2) } i.tag)
  let words := r.els.getD 0 [] ++ out.flatMap (fun (o, f) => o.2.1.map (fun w => ({ bits := w, fog := f } : El)))
  let scales := r.els.getD 1 [] ++ out.map (fun (o, f) => ({ bits := o.2.2.1.toNat, fog := f } : El))
  let news := r.els.getD 2 [] ++ out.flatMap (fun (o, f) => o.1.map (fun ((v : BitVec 32), a) => ({ bits := v.toNat, fog := f && a, masked := !a } : El)))
  let pos := r.pos + ga.length
  if pos < d.signBlocks then s.putRun g { r with pos := pos, els := [words, scales, news] }
  else
    let s := s.vecWrite h (r.desc i.dc) (r.desc i.dc) words
    let s := s.vecWrite h (r.desc (sOut r.prm)) (r.desc (sOut r.prm)) scales
    let s := s.vecWrite h (r.desc (eOut r.prm)) (r.desc (eOut r.prm)) news
    s.vecEnd g r

/-- One step of an EXPORT.SIGN in its turn. -/
def signAdvance (s : State) (g : Nat) (r : Run) : Option State :=
  let h := homeMu g
  let m := s.mu h
  let i := r.iss.i
  let z := r.vecAsleep m [i.da, i.db, i.dc, eOut r.prm, sOut r.prm]
  if !s.myTurn g r then none
  else if i.count = 0 then some (s.putRun g { r with finished := true })
  else if z ≠ 0 then some (s.setMu h { m with waking := m.waking ||| z })
  else some (s.signPart g r)

/-- EXPORT.SIGN (R374). -/
def execExportSign (u : VcuId) (s : State) : Res :=
  let g := vcuGid u
  tensorCmd s g (· == 0x32) (fun s h => vecIssue s g h (fun s p => s.signBad g h p) (fun p => [eOut p, sOut p]) (fun _ => true))
    (fun s r => signAdvance s g r)

end Sys2Proof.Machine
end

