-- ==== Sys2Proof/Machine/Xfer.lean ====
section
/-!
DEFINITION. The transfer engine (R348 to R357): rows, delivery and watermark, page faults and their answers (R351 to R354),
and the events of a memory unit: window writes, scrubbing, bank groups, external data and acknowledgements.
-/

namespace Sys2Proof.Machine

/-! ### Rows (R348, R349) -/

/-- A row of a transfer: source elements with their walk, destination elements with theirs. -/
structure XRow where
  src : List WEl
  sl : Leg
  dst : List WEl
  dl : Leg
  deriving DecidableEq, Repr

/-- Cut source elements into the rows of a destination walk. -/
def cutRows (sl dl : Leg) : List WEl → List (List WEl) → List XRow
  | _, [] => []
  | src, r :: t => ⟨src.take r.length, sl, r, dl⟩ :: cutRows sl dl (src.drop r.length) t

/-- The rows of a run, in walk order; rows of scale bytes follow (log 24). -/
def Run.xferRows (r : Run) : List XRow :=
  ((r.legs r.iss.i.da r.sideA true).zip (r.legs r.iss.i.dc r.sideC true)).flatMap
    (fun (a, c) => cutRows a c a.runs.flatten c.d.runs)

/-- The watermark moved past rows recorded as delivered. -/
def moveMark : Nat → Nat → List Nat → Nat
  | 0, wm, _ => wm
  | n + 1, wm, l => if l.contains wm then moveMark n (wm + 1) l else wm

/-- Row `k` is delivered (R349). -/
def State.rowDone (s : State) (g : Nat) (r : Run) (k : Nat) : State :=
  let m := s.mu g
  let l := setAdd m.xf.delivered k
  let wm := moveMark l.length m.xf.watermark l
  let mine := r.reqs.filter (fun q => q.row == k)
  let s := s.setMu g { m with xf := { m.xf with watermark := wm, delivered := l.filter (fun x => decide (wm ≤ x)) } }
  s.putRun g { r with reqs := r.reqs.filter (fun q => q.row != k), status := if r.status = 0 then reqsStatus mine else r.status }

/-- Write a row whose source elements have come: into the scratchpad at once, or as write requests. -/
def State.rowWrite (s : State) (g : Nat) (r : Run) (k : Nat) (x : XRow) (els : List El) : State :=
  if x.dl.ext then
    let t := s.tu g
    let l := x.dl.d.runWrites x.dl.base t.nextId k x.dst els
    let s := s.setTu g { t with nextId := t.nextId + l.length }
    if l.isEmpty then s.rowDone g r k
    else s.putRun g { r with reqs := r.reqs.filter (fun q => q.row != k) ++ l }
  else
    let s := (joinBytes 256 (x.dl.d.runBytes (memGet (s.mu g).mem) x.dl.base (pairUp x.dst els))).foldl
      (fun s (a, bs, fs) => s.muWritePlain g a bs fs) s
    s.rowDone g r k

/-- Whether any access of a row side translates to host memory (R348). -/
def State.toHost (s : State) (g x : Nat) (l : Leg) (els : List WEl) (write : Bool) : Bool :=
  l.ext && els.any (fun e => !e.masked && (match s.ctx x with
    | some c => (match s.xlate g x c (e.va l.base) write .xfer with | .host _ => true | _ => false)
    | none => false))

/-- Start row `k`: a row from host to host fails the context; a scratchpad source is read at once, an external one is
requested. -/
def State.rowStart (s : State) (g : Nat) (r : Run) (k : Nat) (x : XRow) : State :=
  if s.toHost g r.iss.ctx x.sl x.src false && s.toHost g r.iss.ctx x.dl x.dst true then s.tensorFault g r.iss stContextFault
  else if x.sl.ext then
    let t := s.tu g
    let l := numberReqs t.nextId k false ((r.desc r.iss.i.da).rc) false (x.sl.d.runReqs x.sl.base x.src)
    let s := s.setTu g { t with nextId := t.nextId + l.length }
    if l.isEmpty then s.rowWrite g r k x (x.sl.d.extRun x.sl.base [] x.src)
    else s.putRun g { r with reqs := r.reqs ++ l }
  else
    let s := (x.sl.d.runAccesses x.sl.base x.src).foldl (fun s (a, n) => s.touchRead g a n) s
    s.rowWrite g r k x (x.src.map ((s.mu g).readEl x.sl.d x.sl.base))

/-- The checks of the blocks that a transfer has written whole, where both sides of a walk are dense (R357). -/
def State.xferChecks (s : State) (g : Nat) (r : Run) : State :=
  let pairs := (r.legs r.iss.i.da r.sideA true).zip (r.legs r.iss.i.dc r.sideC true)
  (pairs.zip (upto 0 pairs.length)).foldl (fun s ((a, c), k) =>
    if s.denseLeg g r.iss.ctx a && s.denseLeg g r.iss.ctx c then s.storeChecks g r.iss.ctx c (r.came.getD k []) else s) s

/-- Page requests that a context has outstanding (R354). -/
def State.pagesOf (s : State) (x : Nat) : Nat := (s.pageReqs.filter (fun p => p.ctx == x && p.answer.isNone)).length

/-- The next step of a transfer that waits for a page: raise the request when it may be raised (R352, R354), or take the
answer once nothing is outstanding and resume at the watermark. -/
def State.faultStep (s : State) (g : Nat) (r : Run) : Option State :=
  let m := s.mu g
  let x := r.iss.ctx
  match s.ctx x with
  | none => none
  | some c =>
    match s.pageReqs.find? (fun p => p.unit == g && p.ctx == x) with
    | none =>
      if (s.fn (c.port * 128 + c.fn)).priFailed then
        some (s.failCtx x stPageFault { unit := g, cls := 6, sev := 3, cause := 0x0C, op := 0x04, akind := 5, addr := m.xf.faultVa })
      else if 32 ≤ s.pagesOf x then none
      else
        let p : PageReq := { fn := c.port * 128 + c.fn, ctx := x, unit := g, req := r.id, va := m.xf.faultVa, write := m.xf.faultWrite, sentAt := s.time }
        some ({ s with pageReqs := s.pageReqs ++ [p] }.emit (.pageRequest c.port c.fn c.pasid m.xf.faultVa m.xf.faultWrite))
    | some p =>
      match p.answer with
      | some (.success a true) =>
        if outstanding r.reqs ≠ 0 then none
        else
          let rows := (r.reqs.foldl (fun l q => setAdd l q.row) []).length
          let e : Atc := { port := c.port, pasid := c.pasid, iova := p.va, addr := a / 4096 * 4096, w := p.write }
          let s := ({ s with pageReqs := s.pageReqs.filter (fun q => !(q.unit == g && q.ctx == x)) } : State).atcAdd e
          let s := s.setMu g { m with xf := { m.xf with faultWait := false, refetch := sat32 m.xf.refetch rows } }
          some (s.putRun g { r with reqs := [] })
      | _ => none

/-- The start of a transfer's run, once its slot is granted: the watermark is at row 0 when there are rows (R11), the valid blocks of
its sources are verified, and the CRCs that go with them are noted. -/
def State.xferStart (s : State) (g : Nat) (r : Run) (legs : List Leg) : State :=
  let s := if r.xferRows.isEmpty then s else s.setMu g { s.mu g with xf := { (s.mu g).xf with active := true, watermark := 0, delivered := [] } }
  let s := legs.foldl (fun s l =>
    if l.ext then s.verifyExt g r.iss.ctx l
    else if l.d.dense l.base then s.muVerify g 2 (l.d.base + l.base) l.d.bytes else s) s
  let came := legs.map (fun l =>
    if l.ext then s.forwardedExt g r.iss.ctx l
    else if l.d.dense l.base then (s.mu g).forwarded (l.d.base + l.base) l.d.bytes else [])
  s.putRun g { r with phase := 1, came := came }

/-- The run of a transfer is over: checks, slot, and with the last run the engine. -/
def State.xferEnd (s : State) (g : Nat) (r : Run) (slot : Option Nat) : State :=
  let s := ((if r.iss.i.count = 0 then s else s.xferChecks g r)).endRun g r slot true
  if r.iss.i.count ≤ r.run + 1 then s.setMu g { s.mu g with xf := { (s.mu g).xf with active := false } } else s

/-- Send requests of a transfer. While it waits for a page, only those go that find their translation (R352). -/
def State.xferPush (s : State) (g : Nat) (r : Run) : Option State :=
  let room := 64 - outstanding r.reqs
  if room = 0 ∨ r.reqs.all (·.sent) then none
  else
    let wait := (s.mu g).xf.faultWait
    match (if wait then pushKnown g r.iss.ctx .xfer room r.reqs s else pushReqs g r.iss.ctx .xfer room r.reqs s) with
    | .ok t l => if l == r.reqs && t.snoops == s.snoops then none else some (t.putRun g { r with reqs := l })
    | .fail s => some s
    | .fault s l q iova =>
      let m := s.mu g
      let s := s.setMu g { m with xf := { m.xf with faultWait := true, faultVa := iova, faultWrite := q.write, faults := sat32 m.xf.faults 1 } }
      some (s.putRun g { r with reqs := l })

/-- One step of a transfer (R348 to R352). A page that is awaited stops new rows only: those under way go on. -/
def xferAdvance (s : State) (g : Nat) (r : Run) : Option State :=
  let m := s.mu g
  let slot := r.slotNum
  let legsA := r.legs r.iss.i.da r.sideA true
  let rows := r.xferRows
  let full := fun k => let l := r.reqs.filter (fun q => q.row == k); !l.isEmpty && l.all (·.done)
  let writes := fun k => (r.reqs.filter (fun q => q.row == k)).any (·.write)
  let ks := r.reqs.foldl (fun l q => setAdd l q.row) []
  match slot, r.slotGranted with
  | some k, false => s.beginSlot g k true false r
  | _, _ =>
    if r.iss.i.count = 0 then some (s.xferEnd g r slot)
    else if r.phase = 0 then
      match s.wakeLegs g legsA with
      | some s => some s
      | none => some (s.xferStart g r legsA)
    else match ks.find? (fun k => full k && writes k) with
      | some k => some (s.rowDone g r k)
      | none =>
        if rows.length ≤ m.xf.watermark then some (s.xferEnd g r slot)
        else match s.wakeLegs g (rows.flatMap (fun x => [x.sl, x.dl])) with
        | some s => some s
        | none => match ks.find? (fun k => full k && !writes k) with
          | some k =>
            (rows[k]?).map (fun x => s.rowWrite g r k x (x.sl.d.extRun x.sl.base (r.reqs.filter (fun q => q.row == k)) x.src))
          | none => match s.xferPush g r with
            | some s => some s
            | none =>
              if m.xf.faultWait then s.faultStep g r
              else if r.reqs.any (fun q => !q.sent) then none
              else
                let next := (upto m.xf.watermark (min 128 (rows.length - m.xf.watermark))).find? (fun k => !m.xf.delivered.contains k && !ks.contains k)
                next.bind (fun k => (rows[k]?).map (fun x => s.rowStart g r k x))

/-- XFER (R348). -/
def execXfer (m : MuId) (s : State) : Res :=
  tensorCmd s (muGid m) (· == 0x04) (fun s h => moveIssue s (muGid m) h) (fun s r => xferAdvance s (muGid m) r)

/-- GENERATOR_ACQUIRE (R86): the instruction at the head of the queue that waited for generators takes them. -/
def execGeneratorAcquire (m : MuId) (s : State) : Res :=
  let g := muGid m
  let ops := fun op => op == 0x01 || op == 0x02 || op == 0x03 || op == 0x09 || op == 0x0A || op == 0x50
  if !s.acts g || (s.tu g).stopped then .next s
  else issueHead s g ops (fun s h => if h.i.op = 0x50 then qsendIssue s g h else moveIssue s g h)

/-! ### Page responses (R353) and ATS invalidation (R351) -/

/-- The n-th page request of a function that has no answer. -/
def State.pageOf (s : State) (f n : Nat) : Option (Nat × PageReq) :=
  ((s.pageReqs.zip (upto 0 s.pageReqs.length)).filter (fun (p, _) => p.fn == f && p.answer.isNone))[n]?.map (fun (p, i) => (i, p))

/-- A failure that a page request ends in. -/
def State.pageFail (s : State) (i : Nat) (p : PageReq) (status cause : Nat) : State :=
  { s with pageReqs := listDel s.pageReqs i }.failCtx p.ctx status { unit := min p.unit 0xFFFF, cls := 6, sev := 3, cause := cause, op := if p.unit < 0xFFFF then 0x04 else 0, akind := 5, addr := p.va }

/-- PAGE_RESPONSE (R353). -/
def execPageResponse (f : FnId) (n : Nat) (code : PriCode) (s : State) : Res :=
  match s.pageOf (fnKey f) n with
  | none => .next s
  | some (i, p) =>
    match code with
    | .success _ true => .next { s with pageReqs := listSet s.pageReqs i { p with answer := some code } }
    | .success _ false => .next (s.pageFail i p stPageFault 0x0C)
    | .invalidRequest => .next (s.pageFail i p stPageFault 0x0C)
    | .responseFailure =>
      let s := s.setFn (fnKey f) { s.fn (fnKey f) with priFailed := true }
      .next (s.pageFail i p stPageFault 0x0C)

/-- PAGE_REQUEST_TIMEOUT (R353): 1 s without an answer. -/
def execPageRequestTimeout (f : FnId) (n : Nat) (s : State) : Res :=
  match s.pageOf (fnKey f) n with
  | none => .next s
  | some (i, p) => .next ((s.advanceTo (p.sentAt + 1000000000)).pageFail i p stTimeout 0x0B)

/-- Whether a run has a request to host memory of a port under way that used a translation of a range (R351). -/
def State.usesPage (s : State) (p iova len : Nat) (r : Run) : Bool :=
  (match s.ctx r.iss.ctx with | some c => c.port == p | none => false)
    && r.reqs.any (fun q => q.target == 1 && q.sent && !q.done && decide (q.iova / 4096 * 4096 < iova + len) && decide (iova < q.iova / 4096 * 4096 + 4096))

/-- ATS_INVALIDATION (R351): completed once no request that used the translation is outstanding; until then it waits. -/
def execAtsInvalidation (p : Fin 8) (iova len : Nat) (s : State) : Res :=
  let hit := fun (e : Atc) => e.port == p.val && decide (e.iova < iova + len) && decide (iova < e.iova + 4096)
  let used := s.tus.any (fun (_, t) => t.running.any (s.usesPage p.val iova len))
  if used then .next s
  else .next ({ s with atc := s.atc.filter (fun e => !hit e) }.emit (.atsDone p.val iova))

/-! ### Window writes (R106) -/

/-- What a window answers: the write is performed; it is accepted and waits for a bank group to wake, behind the accepted ones; it is
refused with a status to the writer; or the writer's context fails. -/
inductive WinOut where
  | done
  | accepted
  | refused
  | writerFails
  deriving DecidableEq, Repr

/-- The checks of R106 in their order; `right` is 0 `wr`, 1 `dma`, 2 `red`. -/
def Win.check (w : Win) (epoch off n ctx right : Nat) : WinOut :=
  if !w.opened then .refused
  else if epoch ≠ w.epoch then .refused
  else if ctx ≠ w.writer then .writerFails
  else if !bitOf w.rights right then .writerFails
  else if w.length * 64 < off + n then .writerFails
  else .done

/-- Perform a window write. -/
def State.performWin (s : State) (g : Nat) (a : WinWrite) : State :=
  s.muWritePlain g a.addr (keepBits (memGet (s.mu g).mem) a.addr a.bytes a.keep) (List.replicate a.bytes.length a.fog)

/-- A write into window `a.win` of an MU, `a.addr` its offset in the window: checked, then performed or accepted, or dropped and
counted (R106). -/
def State.windowWrite (s : State) (g epoch right : Nat) (a : WinWrite) : State × WinOut :=
  let m := s.mu g
  let w := m.win a.win
  match w.check epoch a.addr a.bytes.length a.ctx right with
  | .done =>
    let a := { a with addr := w.base * 64 + a.addr }
    if m.accepted.isEmpty && m.asleep a.addr a.bytes.length == 0 then (s.performWin g a, .done)
    else (s.setMu g { m.wake a.addr a.bytes.length with accepted := m.accepted ++ [a] }, .accepted)
  | o => (s.setMu g { m with winDrop := sat32 m.winDrop 1 }, o)

/-- The first accepted write of an MU, once its bank groups are awake (R107, R109). -/
def Mu.acceptedReady (m : Mu) : Option WinWrite := m.accepted.head?.filter (fun a => m.asleep a.addr a.bytes.length == 0)

/-- Perform the first accepted write and acknowledge it. -/
def State.performAccepted (s : State) (g : Nat) (a : WinWrite) : State :=
  let m := s.mu g
  ((s.setMu g { m with accepted := m.accepted.drop 1 }).performWin g a).reply (clusterOf g) g a.src a.ctx (.writeAck a.req stOK)

/-- WINDOW_WRITE (R106): an accepted write whose bank groups have woken, or the first window write that waits for this MU. -/
def execWindowWrite (m : MuId) (s : State) : Res :=
  let g := muGid m
  let c := m.cluster.val
  if s.phase ≠ .ready || (s.mu g).zeroizing || s.logWaits g then .next s
  else match (s.mu g).acceptedReady with
  | some a => .next ((s.performAccepted g a).progress c)
  | none => match s.takeInbox c (·.isWindowWrite g) with
    | none => .next s
    | some (p, s) =>
      match p.body with
      | .windowWrite k ep off right bytes keep fog req =>
        match s.windowWrite g ep right { win := k, addr := off, bytes := bytes, keep := keep, fog := fog, src := p.src, ctx := p.ctx, req := req } with
        | (t, .done) => .next ((t.reply c g p.src p.ctx (.writeAck req stOK)).progress c)
        | (t, .accepted) => .next t
        | (t, .refused) => .next (t.reply c g p.src p.ctx (.writeAck req stWindowClosed))
        | (t, .writerFails) => .next (t.failCtx p.ctx stContextFault p.sent)
      | _ => .next s

/-! ### External data and acknowledgements (R87) -/

/-- A request of any running instruction of a unit that `f` selects: the n-th. -/
def State.reqWhere (s : State) (g n : Nat) (f : ExtReq → Bool) : Option ExtReq :=
  (((s.tu g).running.flatMap (·.reqs)).filter f)[n]?

/-- The fog of `len` bytes from an address, by the lines of 64 B in which they lie. -/
def lineFog (addr len : Nat) (poison : List Bool) : List Bool := (upto 0 len).map (fun i => poison.getD ((addr + i) / 64 - addr / 64) false)

/-- EXTERNAL_READ_DATA (R87): the n-th read request that is on its way completes; a controller's data came with its answer,
a host's data comes now, with a mark for each of its lines that is poisoned, whose bytes come as fog (R445). -/
def execExternalReadData (m : MuId) (n : Nat) (host : List Byte) (poison : List Bool) (s : State) : Res :=
  let g := muGid m
  match s.reqWhere g n (fun q => !q.write && q.sent && !q.done && (q.answered || q.target == 1)) with
  | none => .next s
  | some q =>
    let s := s.progress m.cluster.val
    if q.target = 1 then
      .next (s.modReq g q.id (fun q => { q with done := true, data := (host ++ List.replicate q.len 0).take q.len, fog := lineFog q.addr q.len poison }))
    else .next (s.modReq g q.id (fun q => { q with done := true }))

/-- WRITE_ACKNOWLEDGEMENT (R87, R288): an acknowledgement of a window write that has come over the mesh, or the first
write that a controller or host has acknowledged. -/
def execWriteAcknowledgement (m : MuId) (s : State) : Res :=
  let g := muGid m
  match s.takeInbox m.cluster.val (·.isWriteAck g) with
  | some (p, s) =>
    match p.body with
    | .writeAck req status => .next ((s.modReq g req (fun q => { q with done := true, status := status })).progress m.cluster.val)
    | _ => .next s
  | none =>
    match s.reqWhere g 0 (fun q => q.write && q.answered && !q.done) with
    | none => .next s
    | some q => .next ((s.modReq g q.id (fun q => { q with done := true })).progress m.cluster.val)

/-! ### Scrubbing and bank groups (R97, R108, R109) -/

/-- The next granule of a powered bank group at or after `p`; none when every group is off. -/
def Mu.nextPowered (m : Mu) (p : Nat) : Option Nat :=
  let g0 := groupOf (p * 64)
  (upto 0 9).findSome? (fun k =>
    let g := (g0 + k) % 8
    if m.powered.getLsbD g then some (if k = 0 then p else g * 0x1800) else none)

/-- MU_SCRUB_READ (R97): the granule at the scrub position is read and checked; a pass ends at the top. -/
def execMuScrubRead (m : MuId) (s : State) : Res :=
  let g := muGid m
  let u := s.mu g
  if s.phase ≠ .ready || u.scrubInt == 0 then .next s
  else match u.nextPowered u.scrubPos with
    | none => .next s
    | some p =>
      let s := (s.touchRead g (p * 64) 64).progress m.cluster.val
      let u := s.mu g
      let q := (p + 1) % 49152
      let wrapped := decide (p < u.scrubPos) || q == 0
      .next (s.setMu g { u with scrubPos := q, scrubPasses := if wrapped then sat32 u.scrubPasses 1 else u.scrubPasses })

/-- The bytes, fog, codes and checks of a bank group are lost (R109). -/
def Mu.loseGroup (m : Mu) (g : Nat) : Mu :=
  let lo := g * 0x60000
  let out := fun (unit i : Nat) => !(decide (lo ≤ i * unit) && decide (i * unit < lo + 0x60000))
  { m with
    mem := memZero m.mem lo 0x60000
    fog := m.fog.filter (out 64)
    fogBad := m.fogBad.filter (out 64)
    ceWords := m.ceWords.filter (out 8)
    ueWords := m.ueWords.filter (out 8)
    injWords := m.injWords.filter (out 8)
    checks := m.checks.filter (fun e => out 4096 e.1) }

/-- A memory unit once the bank groups of a mask have woken: they read as zero, their `down_req` bits are clear (R109). -/
def Mu.wakeNow (m : Mu) (z : BitVec 8) : Mu :=
  let m := (upto 0 8).foldl (fun m g => if z.getLsbD g then m.loseGroup g else m) m
  { m with powered := m.powered ||| z, waking := m.waking &&& ~~~ z, downReq := m.downReq &&& ~~~ z }

/-- Whether a bank group may be powered down (R108): requested, on, no accepted write of it still to be performed, no open window over
it, not of the configuration store. -/
def Mu.mayPowerDown (m : Mu) (g : Nat) : Bool :=
  m.downReq.getLsbD g && m.powered.getLsbD g && !m.waking.getLsbD g
    && !m.accepted.any (fun a => (groupsOf a.addr a.bytes.length).getLsbD g)
    && !m.wins.any (fun e => e.2.opened && e.2.groups.getLsbD g)
    && decide (g * 0x60000 + 0x60000 ≤ cfgBase m.cfgStore)

/-- BANK_GROUP_POWER_DOWN (R108). -/
def execBankGroupPowerDown (m : MuId) (g : Fin 8) (s : State) : Res :=
  let u := s.mu (muGid m)
  if s.phase = .ready ∧ u.mayPowerDown g.val then
    .next (s.setMu (muGid m) { u.loseGroup g.val with powered := u.powered &&& ~~~ (1#8 <<< g.val) })
  else .next s

/-- BANK_GROUP_WAKE (R109): the group is on again and reads as zero; its `down_req` bit clears. -/
def execBankGroupWake (m : MuId) (g : Fin 8) (s : State) : Res :=
  let u := s.mu (muGid m)
  let bit := 1#8 <<< g.val
  if u.waking.getLsbD g.val then
    .next (s.setMu (muGid m) (u.wakeNow bit))
  else .next s

end Sys2Proof.Machine
end

