-- ==== Sys2Proof/Machine/Image.lean ====
section
/-!
DEFINITION. Program images (R300 to R313): reading and verifying an image, loading a cluster, the quiet check, discarding,
native reconfiguration of a region.
-/

namespace Sys2Proof.Machine

/-! ### The form of an image (R300, R301, R303) -/

/-- Targets of a section kind: first and last unit, granule, bytes (R301). -/
def kindOf (k : Nat) : Option (Nat × Nat × Nat × Nat) :=
  match k with
  | 0 => some (0, 19, 16, 16384)
  | 1 => some (0, 11, 64, 65536)
  | 2 => some (20, 23, 4, 65536)
  | 3 => some (0, 11, 8, 2048)
  | 4 => some (20, 23, 16, 1024)
  | 5 => some (24, 24, 16, 128)
  | 6 => some (24, 24, 8, 640)
  | 7 => some (24, 24, 8, 64)
  | 8 => some (25, 25, 32, 8192)
  | 9 => some (0, 19, 16, 256)
  | _ => none

/-- A section names a target of its kind and lies in it on its granule. -/
def Section.ok (x : Section) : Bool :=
  match kindOf x.kind with
  | none => false
  | some (lo, hi, g, n) =>
    decide (lo ≤ x.unit) && decide (x.unit ≤ hi) && x.off % g == 0 && x.data.length % g == 0 && decide (x.off + x.data.length ≤ n)

/-- Two sections write one target byte. -/
def sectionsMeet (a b : Section) : Bool :=
  a.kind == b.kind && a.unit == b.unit && decide (0 < a.data.length) && decide (0 < b.data.length)
    && decide (a.off < b.off + b.data.length) && decide (b.off < a.off + a.data.length)

/-- Read `n` sections; none when one runs past the end or sets a reserved bit. -/
def parseSections : Nat → List Byte → Option (List Section)
  | 0, _ => some []
  | n + 1, l =>
    let h := ofBytes (l.take 16)
    let len := fld h 95 64
    let d := l.drop 16
    if l.length < 16 ∨ d.length < len ∨ fld h 31 13 ≠ 0 ∨ fld h 127 96 ≠ 0 then none
    else (parseSections n (d.drop ((len + 15) / 16 * 16))).map
      (fun t => { kind := fld h 7 0, unit := fld h 12 8, off := fld h 63 32, data := d.take len } :: t)

/-- Whether no two sections of a list meet. -/
def noClash : List Section → Bool
  | [] => true
  | x :: t => !t.any (sectionsMeet x) && noClash t

/-- The bytes of an image with its `crc` field zero (R300). -/
def withoutCrc (l : List Byte) : List Byte := l.take 12 ++ List.replicate 4 0 ++ l.drop 16

/-- The image that begins a byte string; none when R303 rejects its form. -/
def parseImage (l : List Byte) : Option Staged :=
  let h := ofBytes (l.take 64)
  let n := fld h 50 32
  let l := l.take n
  let crc := BitVec.ofNat 32 (fld h 127 96)
  if fld h 31 0 ≠ 0x4B524F56 ∨ n < 64 ∨ 262144 < n ∨ n % 64 ≠ 0 ∨ l.length < n ∨ crc32c (withoutCrc l) ≠ crc then none
  else if fld h 63 51 ≠ 0 ∨ fld h 95 82 ≠ 0 ∨ fld h 511 128 ≠ 0 ∨ fld h 81 80 = 3 ∨ 4096 < fld h 79 64 then none
  else match parseSections (fld h 79 64) (l.drop 64) with
    | none => none
    | some secs => if secs.all Section.ok && noClash secs then some { crc := crc, store := fld h 81 80, secs := secs, bytes := l } else none

/-- Byte `i` of a target: the section that names it, or zero (R301). -/
def secByte (secs : List Section) (kind unit i : Nat) : Byte :=
  match secs.find? (fun x => x.kind == kind && x.unit == unit && decide (x.off ≤ i) && decide (i < x.off + x.data.length)) with
  | some x => x.data.getD (i - x.off) 0
  | none => 0

/-- The number in `n` bytes of a target. -/
def secNum (secs : List Section) (kind unit off n : Nat) : Nat := ofBytes ((upto off n).map (secByte secs kind unit))

/-- The words of `n` bytes that a target of `count` words holds, as a table without the zero ones. -/
def secWords (secs : List Section) (kind unit n : Nat) : Tab (BitVec (8 * n)) :=
  (secs.filter (fun x => x.kind == kind && x.unit == unit)).foldl (fun t x => tabBytes n t x.off x.data) []

/-! ### Loading a cluster (R308) -/

/-- Whether an image has a section for a unit; a target that none names is zero (R301). -/
def hasSection (secs : List Section) (kind unit : Nat) : Bool := secs.any (fun x => x.kind == kind && x.unit == unit)

/-- The word marks of a unit (R301). -/
def secMarks (secs : List Section) (u : Nat) : Tab Nat :=
  if !hasSection secs 9 u then []
  else (upto 0 1024).filterMap (fun w =>
    let m := (secByte secs 9 u (w / 4)).toNat / 4 ^ (w % 4) % 4
    if m = 0 then none else some (w, m))

/-- A tensor unit after a load. -/
def loadTu (t : Tu) (secs : List Section) (u epoch : Nat) : Tu :=
  { tim := secWords secs 0 u 16, marks := secMarks secs u, epoch := epoch, nextId := t.nextId }

/-- The slot definitions of an MU. -/
def secSlots (secs : List Section) (u : Nat) : Tab Slot :=
  if !hasSection secs 3 u then []
  else (upto 0 256).filterMap (fun k =>
    let x := secNum secs 3 u (8 * k) 8
    if fld x 27 14 = 0 then none else some (k, { base := fld x 13 0, length := fld x 27 14, readers := fld x 31 28 }))

/-- A memory unit after a load: contents, fog and checks stay, windows close and their epochs are 0. -/
def loadMu (m : Mu) (secs : List Section) (u store : Nat) : Mu :=
  { m with desc := secWords secs 1 u 64, descBad := [], descFog := [], descNew := [], slots := secSlots secs u, slotQ := [], wins := []
           cfgStore := if u = 11 then store else m.cfgStore, xf := { faults := m.xf.faults, refetch := m.xf.refetch } }

/-- A matrix unit after a load: accumulators and tile fog cleared, nothing bound; flags and counters stay. -/
def clearMcu (m : Mcu) : Mcu :=
  { m with acc := [], tileFog := 0, accCe := [], accBad := [], injAcc := [], shared := [], current := none, f0 := none, f1 := none, b0 := none, b1 := none, epiQ := [] }

/-- A queue as the image configures it: open unless off (R188, R308). -/
def secQueue (secs : List Section) (u q : Nat) : Queue :=
  let x := secNum secs 4 u (16 * q) 8
  let r := secNum secs 4 u (16 * q + 8) 8
  let mode := if fld x 1 0 = 0 then QMode.off else if fld x 1 0 = 1 then QMode.register else if fld x 1 0 = 2 then QMode.ring else QMode.combining
  { mode := mode, opened := mode != .off, otherOk := bitOf x 3, otherCtx := fld x 15 4, nElem := fld x 24 16, cfmt := fld x 29 25,
    contrib := fld x 36 30, ofmt := fld x 41 37, rmode := fld x 43 42, base := fld r 21 6 * 64, size := fld r 27 24 }

/-- A scalar unit after a load: registers zero, program counter 0, halted until the next step. -/
def loadScu (u : Scu) (secs : List Section) (k epoch : Nat) : Scu :=
  { u with g := [], p := [], pc := 0, imem := secWords secs 2 k 4, imemCe := [], imemUe := [], imemFog := [], imemNew := [], epoch := epoch, tags := [], lastTag := 0
           state := .halted, cause := 0, blocked := none, pport0 := [], pport1 := []
           queues := (upto 0 64).filterMap (fun q => let x := secQueue secs k q; if x.mode = .off then none else some (q, x))
           rot := 63, send := [] }

/-- A circuit table entry (R302). -/
def circOf (x : Nat) : Circ :=
  { src := fld x 6 0, valid := bitOf x 7
    tos := (upto 0 4).map (fun b => if bitOf x (8 * b + 15) then some (fld x (8 * b + 14) (8 * b + 8)) else none)
    buf := (upto 0 4).map (fun b => fld x (6 * b + 45) (6 * b + 40)) }

/-- The circuit table of an image. -/
def secCirc (secs : List Section) : Tab Circ :=
  (upto 0 80).filterMap (fun n => let x := circOf (secNum secs 6 24 (8 * n) 8); if x.valid then some (n, x) else none)

/-- A steering configuration (R301). -/
def secSteer (secs : List Section) (e : Nat) : SteerCfg :=
  let x := secNum secs 7 24 (8 * e) 8
  { kind := fld x 2 0, gran := bitOf x 3, n := if 5 ≤ fld x 2 0 then fld x 31 16 else 0 }

/-- A switch after a load. -/
def loadSw (w : Sw) (secs : List Section) (epoch : Nat) : Sw :=
  let circ := secCirc secs
  { slotTab := (upto 0 8).map (fun t => (t, (upto (16 * t) 16).map (fun i => (secByte secs 5 24 i).toNat)))
    circ := circ, circEpoch := circ.map (fun e => (e.1, epoch))
    elems := (upto 0 8).map (fun e => (e, { cfg := secSteer secs e, epoch := epoch }))
    tblSel := w.tblSel, fogSeen := w.fogSeen, bypass := w.bypass, ce := w.ce, ue := w.ue, perfStall := w.perfStall, perf := w.perf }

/-- The links of a cluster become physical paths: those that R26 gives a cluster which a swap has moved, its own links of any other (R217;
log 32). -/
def State.translateLinks (s : State) (c : Nat) : State :=
  let p := s.physOf c
  let ways : List Placed := if p = homePhys c then [] else (upto 0 8).map (fun way => ⟨c, way, Config.linkPath c p way⟩)
  { s with placed := s.placed.filter (fun x => x.cluster != c) ++ ways }

/-- Load an image into a cluster: its units, switch with the paths of its links, and control registers (R217, R308). A place that the store
of the image does not have holds no staged image any more (R110, R304). -/
def State.loadCluster (s : State) (c : Nat) (img : Staged) (place epoch : Nat) : State :=
  let s := (upto 0 20).foldl (fun (s : State) u => s.setTu (gidOf c u) (loadTu (s.tu (gidOf c u)) img.secs u epoch)) s
  let s := (upto 0 12).foldl (fun (s : State) u => s.setMu (gidOf c u) (loadMu (s.mu (gidOf c u)) img.secs u img.store)) s
  let s := (upto 12 4).foldl (fun (s : State) u => s.setMcu (gidOf c u) (clearMcu (s.mcu (gidOf c u)))) s
  let s := (upto 16 4).foldl (fun (s : State) u => s.setVcu (gidOf c u) { s.vcu (gidOf c u) with redBusy := false }) s
  let s := (upto 20 4).foldl (fun (s : State) u => s.setScu (gidOf c u) (loadScu (s.scu (gidOf c u)) img.secs u epoch)) s
  let s := (s.setSw c (loadSw (s.sw c) img.secs epoch)).translateLinks c
  let k := s.cl c
  s.setCl c { k with
    epoch := epoch, quietEpoch := epoch, place := place, loading := false, marnan := false, imageCrc := img.crc
    staged0 := if img.store = 0 then none else k.staged0, staged1 := if img.store < 2 then none else k.staged1 }

/-! ### What the SCU checks (R188) -/

/-- The queue configuration fault of an SCU, by the first row of the table of R188 that holds. A combining queue of the reserved `rmode` 3
fails by the last row, where R64 speaks of the loader (DESIGN CHOICE, log 165). -/
def queueFault (u : Scu) (m : Mu) : Option Nat :=
  let rings := u.queues.filter (fun e => e.2.isRing)
  let comb := u.queues.filter (fun e => e.2.mode == .combining)
  let range := fun (q : Queue) => (q.base, ringBytes q.size)
  let pairs := (upto 0 rings.length).flatMap (fun i => (upto 0 i).map (fun j => (rings.getD i (0, {}), rings.getD j (0, {}))))
  if u.queues.any (fun e => e.2.mode == .register && decide (15 < e.1)) then some stContextFault
  else if rings.any (fun e => !m.rangeOk e.2.base (ringBytes e.2.size)) then some stOverflow
  else if pairs.any (fun p => rangesMeet (range p.1.2) (range p.2.2)) then some stContextFault
  else if decide (512 < comb.foldl (fun (a : Nat) (e : Nat × Queue) => a + e.2.nElem) 0) then some stOverflow
  else if rings.any (fun e => ringBytes e.2.size == 0)
      || comb.any (fun e => e.2.nElem == 0 || decide (256 < e.2.nElem) || e.2.contrib == 0 || decide (64 < e.2.contrib)
          || !([0, 1, 2, 8, 9].contains e.2.cfmt) || fmtBits e.2.ofmt == 0 || e.2.rmode == 3) then some stContextFault
  else none

/-! ### What the loader checks (R45, R217, R231, R260, R267, R270, R303) -/

/-- Reserved bits and values of a record in the layout that an opcode reads (R279 and the unit chapters). -/
def recLayoutBad (op : Nat) (p : BitVec 256) : Bool :=
  match op with
  | 0x05 => recFld p 27 14 == 0 || recFld p 31 28 == 0 || recFld p 255 32 != 0
  | 0x07 => recFld p 31 16 == 0 || recFld p 255 47 != 0
  | 0x20 | 0x21 | 0x22 | 0x23 => (mmOf op p).recBad
  | 0x24 => (epiOf p).recBad
  | 0x30 => (vrOf p).resvBad false
  | 0x31 => (vrOf p).resvBad true
  | 0x32 => recFld p 255 20 != 0
  | 0x50 => recFld p 31 25 != 0 || recFld p 255 40 != 0
  | 0x60 => recFld p 2 0 == 0 || recFld p 2 0 == 7 || !chainRecOk p
  | _ => muRecordBad p

/-- The rules on which fields an instruction sets that do not depend on descriptors (R117, R153, R167, R168, R277, R278). `staged`: a
CHAIN names the word, whose operand and output may then be its neighbours' (R291). -/
def ruleBad (i : TInstr) (p : BitVec 256) (staged : Bool) : Bool :=
  let noIn := !staged && i.sin == 0
  let noOut := !staged && i.sout == 0
  let a := i.da == 0xFFFF
  let b := i.db == 0xFFFF
  let c := i.dc == 0xFFFF
  match i.op with
  | 0x01 => a || (!c && i.sout != 0) || (c && noOut)
  | 0x02 => c || noIn
  | 0x03 | 0x0A | 0x50 => a
  | 0x04 | 0x09 => a || c
  | 0x20 | 0x21 | 0x22 | 0x23 =>
    let x := mmOf i.op p
    (a && b) || (!x.fuse && (!c || i.sout != 0)) || (x.fuse && !c && i.sout != 0) || (x.fuse && c && noOut)
      || (!(x.readsAB && (a || b)) && i.sin != 0) || (x.readsAB && (a || b) && noIn)
  | 0x24 => (!c && i.sout != 0) || (c && noOut)
  | 0x30 | 0x31 =>
    let v := vrOf p
    (i.op == 0x31 && a) || ((v.readsB || v.gather) && b) || (!(a || v.readsS) && i.sin != 0) || ((a || v.readsS) && noIn)
      || (!c && i.sout != 0) || (c && noOut) || (i.op == 0x31 && !v.pool2 && v.rop == 3 && v.ofmt != 0x08)
      || (i.op == 0x31 && v.pool2 && (v.rop != 3 || v.rlev != 1))
  | 0x32 => a || b || c
  | 0x45 | 0x46 => i.count == 0
  | _ => false

/-- An instruction word that R270 rejects, in the memory of local index `u`. -/
def State.instrBad (s : State) (c u : Nat) (i : TInstr) (staged : Bool) : Bool :=
  let t := s.tu (gidOf c u)
  let mark := fun (w : Nat) => tabGet 0 t.marks w
  let p := t.recordAt i.par
  let uses := (opUses i.op).par
  !fieldsOk u i || (i.cls == 3 && !(decide (8 ≤ u) && decide (u ≤ 11)))
    || (uses && ((i.par != 0xFFFF && mark i.par != 2) || recLayoutBad i.op p))
    || (decide (0x20 ≤ i.op) && decide (i.op ≤ 0x23) && (mmOf i.op p).fuse
        && (mark (mmOf i.op p).epiRec != 2 || (epiOf (t.recordAt (mmOf i.op p).epiRec)).recBad))
    || ruleBad i p staged
    || (i.op == 0x60
        && ((chainEntries p).any (fun e => decide (20 ≤ e.1) || tabGet 0 (s.tu (gidOf c e.1)).marks e.2 != 1)
            || !chainOk u ((chainEntries p).map (s.chainStage c)) || decide (4 < (chainLanes ((chainEntries p).map (s.chainStage c))).length)))

/-- The words that the CHAINs of an image name as stages: unit and word (R291). -/
def State.stageWords (s : State) (c : Nat) : List (Nat × Nat) :=
  (upto 0 20).flatMap (fun u =>
    let t := s.tu (gidOf c u)
    t.tim.flatMap (fun e =>
      let i := decodeTensor e.2
      if i.op == 0x60 && tabGet 0 t.marks e.1 == 1 then chainEntries (t.recordAt i.par) else []))

/-- A word of a tensor instruction memory that R270 rejects; `st` are the words that CHAINs name. -/
def State.wordRejected (s : State) (c : Nat) (st : List (Nat × Nat)) (u w : Nat) : Bool :=
  let t := s.tu (gidOf c u)
  let mark := fun (k : Nat) => tabGet 0 t.marks k
  match mark w with
  | 0 => t.word w != 0
  | 2 => mark (w + 1) != 3
  | 3 => w == 0 || mark (w - 1) != 2
  | _ => s.instrBad c u (decodeTensor (t.word w)) (st.contains (u, w))

/-- A descriptor table entry that the loader rejects ahead of use: a reserved format or a set reserved bit (R83). -/
def descResv (x : BitVec 512) : Bool := !fmtByteOk (fld x.toNat 39 32) || fld x.toNat 511 490 != 0

/-- Slot definitions that R303 rejects. -/
def slotsBad (secs : List Section) (u : Nat) : Bool :=
  hasSection secs 3 u && (upto 0 256).any (fun k =>
    let x := secNum secs 3 u (8 * k) 8
    fld x 63 32 != 0 || (fld x 27 14 == 0 && x != 0) || (fld x 27 14 != 0 && fld x 31 28 == 0))

/-- Ports of a circuit entry: reserved codes, and no branch or too many (R217, R223, R302). -/
def Circ.portsBad (x : Circ) (n : Nat) : Bool :=
  let to_ := x.tos.filterMap id
  if n < 64 then
    !(decide (x.src < 4) || (decide (8 ≤ x.src) && decide (x.src < 64))) || to_.isEmpty
      || to_.any (fun p => !(decide (p < 4) || (decide (8 ≤ p) && decide (p < 64))))
  else
    !(decide (x.src < 4) || (decide (64 ≤ x.src) && decide (x.src < 72))) || to_.length != 1
      || to_.any (fun p => !(decide (p < 4) || (decide (72 ≤ p) && decide (p < 80))))

/-- Whether a list names a number twice. -/
def hasTwice : List Nat → Bool
  | [] => false
  | x :: t => t.contains x || hasTwice t

/-- The circuit buffers of a switch: each data entry's own, and one for each branch of a fork (R216). -/
def Sw.buffers (w : Sw) : List Nat :=
  (w.circ.filter (fun e => decide (e.1 < 64))).flatMap (fun (n, x) =>
    n :: (if 2 ≤ (x.tos.filterMap id).length then (x.tos.zip x.buf).filterMap (fun (t, b) => t.map (fun _ => b)) else []))

/-- `buf` fields that must be zero and are not (R302). -/
def Circ.bufStray (x : Circ) : Bool :=
  let fork := decide (2 ≤ (x.tos.filterMap id).length)
  (x.tos.zip x.buf).any (fun (t, b) => b != 0 && !(fork && t.isSome))

/-- Slots that a table gives to entry `n` on a link. -/
def Sw.slotsOf (w : Sw) (n link : Nat) : Nat :=
  ((tabGet [] w.slotTab (2 * link + n / 64)).filter (fun b => decide (128 ≤ b) && b % 64 == n % 64)).length

/-- A switch configuration that R217, R223 or R231 rejects by itself. -/
def Sw.rejected (w : Sw) : Bool :=
  let srcs := (w.circ.map (·.2.src)).filter (fun p => decide (8 ≤ p))
  let to_ := (w.circ.flatMap (fun e => e.2.tos.filterMap id)).filter (fun p => decide (8 ≤ p))
  w.circ.any (fun (n, x) => x.portsBad n || x.bufStray
      || (let links := (x.tos.filterMap id).filter (fun p => decide (p < 4))
          links.any (fun l => w.slotsOf n l == 0 || w.slotsOf n l != w.slotsOf n (links.getD 0 0))))
    || hasTwice srcs || hasTwice to_ || hasTwice w.buffers || decide (64 < w.buffers.length)
    || (upto 0 4).any (fun l => (upto 0 2).any (fun n => !w.tableOk l n (tabGet [] w.slotTab (2 * l + n))))
    || w.elems.any (fun (e, x) =>
      x.cfg.kind == 7 || (x.cfg.gran && !(x.cfg.kind == 5 || x.cfg.kind == 6)) || (decide (5 ≤ x.cfg.kind) && x.cfg.n == 0)
        || !steerPorts w e x.cfg.kind)

/-- Reserved bits of steering configurations (R301). -/
def steerResv (secs : List Section) : Bool :=
  (upto 0 8).any (fun e => let x := secNum secs 7 24 (8 * e) 8; fld x 15 4 != 0 || fld x 63 32 != 0)

/-- The definition of image group `g`: control, destination, notify and last word. -/
def secGroup (secs : List Section) (g : Nat) : Nat × Nat × Nat × Nat :=
  (secNum secs 8 25 (32 * g) 8, secNum secs 8 25 (32 * g + 8) 8, secNum secs 8 25 (32 * g + 16) 8, secNum secs 8 25 (32 * g + 24) 8)

/-- The image groups that a cluster's image defines. -/
def secGroups (secs : List Section) : List Nat := (upto 0 256).filter (fun g => bitOf (secGroup secs g).1 0)

/-- Reserved values of a group definition (R260, R267). -/
def groupBad (d : Nat × Nat × Nat × Nat) : Bool :=
  let x : Grp := { ctl := BitVec.ofNat 64 d.1, dest := BitVec.ofNat 64 d.2.1 }
  decide (48 < x.rslots) || (x.rslots != 0 && (x.contribs == 0 || x.elems == 0 || decide (16 * x.rslots < x.elems)))
    || !([0, 1, 2, 8].contains x.ofmt) || decide (12 ≤ localOf (fld d.2.1 15 0)) || clusterOf (fld d.2.1 15 0) != x.root
    || fld d.2.1 63 52 != 0 || fld d.2.2.1 63 25 != 0 || d.2.2.2 != 0

/-- A cluster's image, loaded on an empty device, and what the loader rejects in it by itself. -/
def probe (c : Nat) (img : Staged) : State := ({} : State).loadCluster c img 0 0
def imageRejected (c : Nat) (img : Staged) : Bool :=
  let s := probe c img
  (let st := s.stageWords c; (upto 0 20).any (fun u => (hasSection img.secs 0 u || hasSection img.secs 9 u) && (upto 0 1024).any (s.wordRejected c st u)))
    || (upto 0 12).any (fun u => ((s.mu (gidOf c u)).desc_ 1023).scaled || (s.mu (gidOf c u)).desc.any (fun e => descResv e.2) || slotsBad img.secs u)
    || (s.sw c).rejected || steerResv img.secs || (secGroups img.secs).any (fun g => groupBad (secGroup img.secs g))

/-- The checks between the switches of a set of images: no path leaves the sector, and a circuit owns equally many slots on
both sides of a switch (R217). -/
def pathsBad (inSector : Nat → Bool) (imgs : List (Nat × Staged)) : Bool :=
  imgs.any (fun (c, i) =>
    let w := loadSw {} i.secs 0
    w.circ.any (fun (n, x) => ((x.tos.filterMap id).filter (fun p => decide (p < 4))).any (fun l =>
      match linkTo c l with
      | none => true
      | some d => !inSector d || (match imgs.find? (fun e => e.1 == d) with
        | none => false
        | some (_, j) =>
          let v := loadSw {} j.secs 0
          match tabFind v.circ n with
          | some y => y.src == farSide l && (((y.tos.filterMap id).filter (fun p => decide (p < 4))).any (fun k => v.slotsOf n k != w.slotsOf n l))
          | none => false))))

/-- The ranges that a loaded image fixes (R432): what the walks, tiles, tables, windows and rings of a unit's instructions name. -/
def State.rangeRejected (s : State) (c u w : Nat) : Bool :=
  let t := s.tu (gidOf c u)
  let m := s.mu (gidOf c (homeIdx u))
  let i := decodeTensor (t.word w)
  let p := t.recordAt i.par
  let slot := if i.slot then some i.num else none
  let walk := fun (k : Nat) (write : Bool) (sl : Option Nat) => decide (k < 1024) && m.operandBad k write sl 0 == some stOverflow
  tabGet 0 t.marks w == 1 && (
    match i.op with
    | 0x01 => walk i.da false slot || walk i.dc true none
    | 0x02 | 0x04 | 0x09 => walk i.da false none || walk i.dc true slot
    | 0x07 => !m.rangeOk (recFld p 15 0 * 64) (recFld p 31 16 * 64)
    | 0x20 | 0x21 | 0x22 | 0x23 =>
      let x := mmOf i.op p
      walk i.da false none || walk i.db false none || walk i.dc true none || (tilesBad x.ranges).isSome
        || (x.need1 != 0 && walk x.x1 false none) || (x.need2 != 0 && walk x.x2 false none) || (x.usesPip && walk x.pipDesc false none)
        || (x.fuse && (let e := epiOf (t.recordAt x.epiRec); ((e.hasScale || e.hasBias) && !m.rangeOk e.sbOff (256 * x.ct)) || (e.pipOut && walk e.pipDesc true none)))
    | 0x24 =>
      let e := epiOf p
      let n := tilesOf e.em * tilesOf e.en
      walk i.dc true none || (decide (0 < n) && decide (32 < e.ebase + n)) || ((e.hasScale || e.hasBias) && !m.rangeOk e.sbOff (256 * tilesOf e.en))
        || (e.pipOut && walk e.pipDesc true none)
    | 0x30 | 0x31 =>
      let v := vrOf p
      walk i.da false none || walk i.db false none || walk i.dc true none || (v.planes (i.op == 0x31) && walk v.planeDesc true none)
    | 0x32 => walk i.da false none || walk i.db false none || walk i.dc true none || walk (eOut p) true none || walk (sOut p) true none
    | _ => walk i.da false none || walk i.db false none || walk i.dc true none)
def rangesRejected (c : Nat) (img : Staged) : Bool :=
  let s := probe c img
  (upto 0 20).any (fun u => (upto 0 1024).any (s.rangeRejected c u))
    || (upto 20 4).any (fun k => (queueFault (s.scu (gidOf c k)) (s.mu (gidOf c (homeIdx k)))).isSome)

/-! ### Quiet, and what is discarded (R306, R307) -/

/-- Messages that a ring holds: its headers followed from the read pointer (R194, R197). -/
def ringCount (mem : Mem) (q : Queue) : Nat → Nat → Nat
  | 0, _ => 0
  | n + 1, rp =>
    if rp = q.wp then 0
    else
      let h := ofBytes (memRead mem (q.base + rp) 16)
      if bitOf h 72 then ringCount mem q n 0
      else 1 + ringCount mem q n ((rp + up64 (fld h 15 0)) % ringBytes q.size)

/-- Flits and control bits that a cluster holds. -/
def State.flitsAt (s : State) (c : Nat) : Nat :=
  let w := s.sw c
  let len := fun {α : Type} (t : Tab (List α)) => t.foldl (fun a e => a + e.2.length) 0
  len w.bufs + len w.cross + len w.ctl + w.lanes.foldl (fun a e => a + e.2.flits.length) 0 + len w.waiting
    + w.elems.foldl (fun a e => a + e.2.replay.length + e.2.out0.length + e.2.out1.length + b2n e.2.bit.isSome) 0
    + (upto 0 20).foldl (fun a u => let t := s.tu (gidOf c u); a + t.inq0.length + t.inq1.length + t.outq0.length + t.outq1.length + t.hand.length) 0
    + (upto 20 4).foldl (fun a k => let u := s.scu (gidOf c k); a + u.pport0.length + u.pport1.length) 0

/-- The cluster of a region to which the root slots of a group that is defined in it are counted: the root itself, or else the first
member in the region; none for a group that is not defined there. -/
def State.rootHolder (s : State) (cs : List Nat) (g : Nat) : Option Nat :=
  let x := s.grp g
  let here := x.members.filter cs.contains
  if !x.valid || here.isEmpty then none else if cs.contains x.root then some x.root else here.head?

/-- The root slots, at whatever router, of the groups that are counted to a cluster of a region. -/
def State.rootSlots (s : State) (cs : List Nat) (c : Nat) : List Comb :=
  (s.groups.filter (fun e => s.rootHolder cs e.1 == some c)).flatMap (fun e =>
    ((s.rt e.2.root).slots.filter (fun k => k.2.root && k.2.g == e.1)).map (·.2))

/-- Messages, queue entries, instructions, contributions and spill records that a cluster of a region holds. -/
def State.itemsAt (s : State) (cs : List Nat) (c : Nat) : Nat :=
  let w := s.sw c
  w.iq.length + w.running.length + (w.elems.filter (fun e => e.2.next.isSome)).length
    + (upto 0 20).foldl (fun a u => let t := s.tu (gidOf c u); a + t.iq.length + t.running.length + t.send.length) 0
    + (upto 20 4).foldl (fun a k =>
        let u := s.scu (gidOf c k)
        let m := (s.mu (homeMu (gidOf c k))).mem
        a + u.send.length + u.queues.foldl (fun a (e : Nat × Queue) =>
          a + e.2.entries.length + e.2.senders.length + b2n e.2.result.isSome
            + (if e.2.isRing then ringCount m e.2 16384 e.2.rp else 0)) 0) 0
    + (s.rt c).notes.length + (s.rootSlots cs c).foldl (fun a e => a + max 1 e.count) 0
    + (match s.sectorOf c with | some r => ((s.sf r).ring.filter (fun x => !x.read && x.cluster == c)).length | none => 0)

/-- A cluster of a region is quiet (R306). -/
def State.quiet (s : State) (cs : List Nat) (c : Nat) : Bool :=
  s.flitsAt c == 0 && s.itemsAt cs c == 0 && !(s.sw c).elems.any (fun e => e.2.inTensor)

/-- Take the root slots of a group out of its root's router. -/
def State.dropRoots (s : State) (g : Nat) : State :=
  let c := (s.grp g).root
  let r := s.rt c
  s.setRt c { r with slots := r.slots.filter (fun e => !(e.2.root && e.2.g == g)) }

/-- Take the root slots that lie at a cluster out of its router: they are part of its state (R264). -/
def State.dropRootsAt (s : State) (c : Nat) : State :=
  let r := s.rt c
  s.setRt c { r with slots := r.slots.filter (fun e => !e.2.root) }

/-- Take out of a cluster everything that R306 lists, the root slots of groups apart. -/
def State.clearLocal (s : State) (c : Nat) : State :=
  let s := (upto 0 20).foldl (fun (s : State) u =>
    let t := s.tu (gidOf c u)
    s.setTu (gidOf c u) { tim := t.tim, marks := t.marks, timBad := t.timBad, timFog := t.timFog, epoch := t.epoch, nextId := t.nextId, stopped := t.stopped, lastScu := t.lastScu }) s
  let s := (upto 0 12).foldl (fun (s : State) u =>
    let m := s.mu (gidOf c u)
    s.setMu (gidOf c u) { m with slotQ := [], xf := { m.xf with active := false, faultWait := false } }) s
  let s := (upto 12 4).foldl (fun (s : State) u =>
    s.setMcu (gidOf c u) { s.mcu (gidOf c u) with f0 := none, f1 := none, b0 := none, b1 := none, epiQ := [], shared := [], current := none }) s
  let s := (upto 20 4).foldl (fun (s : State) u =>
    let x := s.scu (gidOf c u)
    s.setScu (gidOf c u) { x with
      send := [], pport0 := [], pport1 := []
      queues := x.queues.map (fun (e : Nat × Queue) => (e.1, { e.2 with entries := [], rp := e.2.wp, accs := [], senders := [], combFog := false, result := none })) }) s
  let w := s.sw c
  let s := s.setSw c { w with
    bufs := [], cross := [], ctl := [], lanes := [], iq := [], running := [], waiting := [], spill := [], readAhead := []
    elems := w.elems.map (fun e => (e.1, { cfg := e.2.cfg, epoch := e.2.epoch, looping := e.2.looping })) }
  let r := s.rt c
  let s := s.setRt c { r with notes := [] }
  match s.sectorOf c with
  | some k => let f := s.sf k; s.setSf k { f with ring := f.ring.filter (fun x => x.cluster != c) }
  | none => s

/-- Take out of a cluster of a region everything that R306 lists. -/
def State.clearItems (s : State) (cs : List Nat) (c : Nat) : State :=
  ((s.groups.filter (fun e => s.rootHolder cs e.1 == some c)).foldl (fun (s : State) e => s.dropRoots e.1) s).clearLocal c

/-- Discard what a cluster of a region holds: counted, with one record if there was anything (R307). -/
def State.discardCluster (s : State) (cs : List Nat) (c : Nat) : State :=
  let f := s.flitsAt c
  let n := s.itemsAt cs c
  let k := s.cl c
  let s := ((s.clearItems cs c).voidMessages [c]).setCl c { k with flits := sat32 k.flits f, items := sat32 k.items n }
  if f + n = 0 then s else s.recordUnit (gidOf c 26) { cls := 7, sev := 0, cause := 0x09 }

/-! ### Groups (R257, R267, R301) -/

/-- A scan image without the root slots and the round of a group. -/
def ScanImg.withoutGroup (i : ScanImg) (g : Nat) : ScanImg := { i with rounds := tabDel i.rounds g, roots := i.roots.filter (fun e => e.2.g != g) }

/-- The current round of a group is 0 at the root and in every copy, those in scan images among them (R365, R369). -/
def State.zeroRounds (s : State) (g : Nat) : State :=
  { s with
    rts := tabMap s.rts (fun _ r => { r with rounds := tabDel r.rounds g })
    groups := tabMap s.groups (fun k x => if k = g then { x with round := 0, blocks := 0, status := 0 } else x)
    ctxs := tabMap s.ctxs (fun _ x => { x with scans := tabMap x.scans (fun _ i => i.withoutGroup g) })
    scanImgs := tabMap s.scanImgs (fun _ i => i.withoutGroup g) }

/-- Free a group: its definition, its slots and rounds in every router and scan image, and its shares under way (R264). -/
def State.freeGroup (s : State) (g : Nat) : State :=
  let s := (s.zeroRounds g).voidShares g
  let s : State := { s with rts := tabMap s.rts (fun _ r => { r with slots := r.slots.filter (fun e => e.2.g != g) }) }
  s.setGrp g {}

/-- The groups of a set of images, with the clusters whose images define them. -/
def imageGroups (imgs : List (Nat × Staged)) : List (Nat × List Nat) :=
  (upto 0 256).filterMap (fun g =>
    let l := (imgs.filter (fun e => bitOf (secGroup e.2.secs g).1 0)).map (·.1)
    if l.isEmpty then none else some (g, l))

/-- The definition that a group's first member gives. -/
def defOf (imgs : List (Nat × Staged)) (g : Nat) : Nat × Nat × Nat × Nat :=
  match imgs.find? (fun e => bitOf (secGroup e.2.secs g).1 0) with
  | some e => secGroup e.2.secs g
  | none => (0, 0, 0, 0)

/-- The groups of a sector that no other context uses. -/
def State.groupsFree (s : State) (x : Sector) (ctx : Nat) : List Nat :=
  x.groups.filter (fun g => !(s.grp g).valid || (s.grp g).owner == ctx)

/-- What the loader rejects in the groups of a set of images: roots outside the sector, definitions that differ, more groups than
the sector has free, and more than 48 root slots at a cluster. -/
def State.groupsBad (s : State) (x : Sector) (ctx : Nat) (imgs : List (Nat × Staged)) : Bool :=
  let l := imageGroups imgs
  let root := fun (g : Nat) => fld (defOf imgs g).1 29 19
  let used := fun (c : Nat) =>
    (l.filter (fun e => root e.1 == c)).foldl (fun a e => a + fld (defOf imgs e.1).1 35 30) 0
      + (s.groups.filter (fun e => e.2.valid && e.2.owner != ctx && e.2.root == c)).foldl (fun a e => a + e.2.rslots) 0
  decide ((s.groupsFree x ctx).length < l.length)
    || l.any (fun (g, cs) => !inRegion x.region (root g) || decide (48 < used (root g))
        || imgs.any (fun e => cs.contains e.1 && secGroup e.2.secs g != defOf imgs g))

/-- Bind the groups of a context's images to groups of its sector, in order, each with its current round at 0 (R257, R301, R365;
log 30). `rest` are clusters outside the images that keep their configuration: a group that one of them defines stays bound. -/
def State.bindGroups (s : State) (sec ctx : Nat) (imgs : List (Nat × Staged)) (rest : List Nat) : State :=
  match s.sector sec, s.ctx ctx with
  | some x, some k =>
    let stays := fun (g : Nat) => (s.grp g).members.filter rest.contains
    let kept := k.binds.filter (fun e => (s.grp e.2).valid && !(stays e.2).isEmpty)
    let free := (s.groupsFree x ctx).filter (fun g => !kept.any (fun e => e.2 == g))
    let s := (free.filter (fun g => (s.grp g).valid)).foldl State.freeGroup s
    let defs := imageGroups imgs
    let fresh := ((defs.filter (fun e => (tabFind kept e.1).isNone)).map (·.1)).zip free
    let binds := fresh.foldl (fun t e => tabSet t e.1 e.2) kept
    let s := defs.foldl (fun (s : State) (g, cs) =>
      match tabFind binds g with
      | none => s
      | some d =>
        let (ctl, dest, note, _) := defOf imgs g
        let ctl := BitVec.ofNat 64 (ctl / 2 ^ 19 * 2 ^ 19 + ctx * 2 ^ 7 + sec * 2 + 1)
        (s.zeroRounds d).setGrp d { ctl := ctl, dest := BitVec.ofNat 64 dest, notify := BitVec.ofNat 64 note, members := stays d ++ cs }) s
    match s.ctx ctx with
    | some k => s.setCtx ctx { k with binds := binds }
    | none => s
  | _, _ => s

/-! ### Queues that admit another context (R190, R431) -/

/-- What the loader admits of `other_ctx` (R190, R431): both contexts in dedicated residency and a grant that names them. -/
def State.grantAdmits (s : State) (n other : Nat) : Bool :=
  let ded := fun (k : Nat) => match (s.ctx k).bind (fun x => s.sector x.sector) with | some r => r.res | none => false
  ded n && ded other && s.sec.grants.any (fun g => g.recv == n && g.admitted == other)

/-- Withdraw every `other_ctx` that is not admitted, in the queues of a cluster. -/
def State.admitOther (s : State) (c : Nat) : State :=
  match s.ownerOf c with
  | none => s
  | some n =>
    (upto 20 4).foldl (fun (s : State) u =>
      let x := s.scu (gidOf c u)
      s.setScu (gidOf c u) { x with queues := tabMap x.queues (fun _ q => if q.otherOk && !s.grantAdmits n q.otherCtx then { q with otherOk := false } else q) }) s

/-! ### Native reconfiguration (R305 to R311) -/

/-- The newest epoch of a region (R311). -/
def State.newestEpoch (s : State) (cs : List Nat) : Nat :=
  cs.foldl (fun e c => let k := (s.cl c).epoch; if newer e k then k else e) ((s.cl (cs.headD 0)).epoch)

/-- The image staged in a place of a cluster. -/
def Cl.staged (k : Cl) (place : Nat) : Option Staged := if place = 0 then k.staged0 else k.staged1

/-- Whether the configuration store in force of a cluster has a place (R110, R304); on a cluster that holds no context's state nothing
of its scratchpad is in use (log 30). -/
def State.hasPlace (s : State) (c place : Nat) : Bool :=
  (s.cl c).owner.isNone || decide (place < (s.mu (gidOf c 11)).cfgStore)

/-- The images staged in a place of every cluster of a region, if all are. -/
def State.stagedIn (s : State) (cs : List Nat) (place : Nat) : Option (List (Nat × Staged)) :=
  let l := cs.filterMap (fun c => if s.hasPlace c place then ((s.cl c).staged place).map (fun i => (c, i)) else none)
  if l.length = cs.length then some l else none

/-- The places of the configuration store (R304). -/
def placeBase (place : Nat) : Nat := if place = 0 then 0x2C0000 else 0x280000

/-- Stage a verified image in a place of a cluster: its bytes lie in MU11 from then on (R304). The transfer waits for bank groups that
are off to wake (R109). -/
def State.stage (s : State) (c place : Nat) (img : Staged) : State :=
  let m := s.mu (gidOf c 11)
  let s := s.setMu (gidOf c 11) (m.wakeNow (m.asleep (placeBase place) img.bytes.length))
  let s := s.muWritePlain (gidOf c 11) (placeBase place) img.bytes []
  let k := s.cl c
  s.setCl c (if place = 0 then { k with staged0 := some img } else { k with staged1 := some img })

/-- No step runs on a cluster, no scan of it is under way and no load (R305, R310, R326). -/
def State.atBoundary (s : State) (c : Nat) : Bool :=
  (s.cl c).scan == .running && !(s.cl c).scanned && !(s.cl c).loading
    && !s.ctxs.any (fun e => (e.2.state == .running) && ((s.cl c).owner == some e.1))

/-- The clusters of a region that a quiet check of a context examines: those that hold its state or nobody's (R419). -/
def State.examined (s : State) (cs : List Nat) (ctx : Option Nat) : List Nat :=
  cs.filter (fun c => (s.cl c).owner == none || (s.cl c).owner == ctx || ctx == none)

/-- Load staged images into the clusters of a region, without a quiet check, set the epochs, and check the queues (R188, R308,
R311). -/
def State.loadRegion (s : State) (sec : Nat) (imgs : List (Nat × Staged)) (place : Nat) (ctx : Option Nat) : State :=
  let cs := imgs.map (·.1)
  let e := (s.newestEpoch cs + 1) % 4096
  let s := imgs.foldl (fun (s : State) (c, i) =>
    let s := (s.clearItems cs c).loadCluster c i place e
    match ctx with | some x => s.setCl c { s.cl c with owner := some x } | none => s) s
  match ctx.orElse (fun _ => s.ownerOf (cs.headD 0)) with
  | none => s
  | some x =>
    let rest := if ctx.isSome then [] else ((s.cls.filter (fun k => k.2.owner == some x)).map (·.1)).filter (fun c => !cs.contains c)
    let s := cs.foldl State.admitOther (s.bindGroups sec x imgs rest)
    let bad := (cs.flatMap (fun c => (upto 20 4).map (gidOf c))).filterMap (fun g => (queueFault (s.scu g) (s.mu (homeMu g))).map (fun st => (g, st)))
    match bad with
    | [] => s
    | (g, st) :: _ => s.failCtx x st { unit := g, cls := 5, sev := 3, cause := causeOf st }

/-- Native reconfiguration: refused when the region is not quiet and the discard flag is clear; else what it holds is
discarded and every image is loaded (R305, R307). Answers the status of a LOAD_PROGRAM. -/
def State.reconfigure (s : State) (sec : Nat) (imgs : List (Nat × Staged)) (place : Nat) (disc : Bool) (ctx : Option Nat) : State × Nat :=
  let look := s.examined (imgs.map (·.1)) ctx
  if !look.all (s.quiet look) && !disc then (s, stRegionNotQuiet)
  else
    let s := if look.all (s.quiet look) then s else look.foldl (fun (s : State) c => s.discardCluster look c) s
    (s.loadRegion sec imgs place ctx, stOK)

/-- A region of quads inside a sector. -/
def Sector.holds (x : Sector) (g : Region) : Bool :=
  decide (x.qx ≤ g.qx) && decide (g.qx + g.qw ≤ x.qx + x.qw) && decide (x.qy ≤ g.qy) && decide (g.qy + g.qh ≤ x.qy + x.qh)

/-- NATIVE_RECONFIGURATION (R305): it waits for the region's step boundary; every cluster must hold a staged image. -/
def execNativeReconfiguration (sec : Fin 64) (g : Region) (place : Fin 2) (disc : Bool) (s : State) : Res :=
  let cs := regionClusters g
  match s.sector sec.val, s.stagedIn cs place.val with
  | some x, some imgs =>
    if s.phase ≠ .ready || !x.holds g || !cs.all s.atBoundary then .next s
    else .next (s.reconfigure sec.val imgs place.val disc none).1
  | _, _ => .next s

/-- How far a region's newest epoch is ahead of its q, the epoch of its last quiet check (R313). -/
def State.drainAge (s : State) (cs : List Nat) : Nat := (s.newestEpoch cs + 4096 - (s.cl (cs.headD 0)).quietEpoch % 4096) % 4096

/-- A cluster stands at a step boundary for a drain: no scan of the Keeper and no load is under way, and no step of the context whose state
lies there has begun; its units may be held until its next step starts (R313, R428). -/
def State.drainable (s : State) (c : Nat) : Bool :=
  let k := s.cl c
  !k.scanned && !k.loading && (k.scan == .running || k.scan == .frozen)
    && (match k.owner.bind s.ctx with | some x => x.state != .running && !x.begun | none => true)

/-- FORCED_DRAIN (R313): at a step boundary with the newest epoch 512 or more ahead of q; items of a region that is not quiet are
discarded and their contexts fail. -/
def execForcedDrain (sec : Fin 64) (g : Region) (s : State) : Res :=
  let cs := regionClusters g
  let newest := s.newestEpoch cs
  match s.sector sec.val with
  | none => .next s
  | some x =>
    if s.phase ≠ .ready || !x.holds g || !cs.all s.drainable || decide (s.drainAge cs < 512) then .next s
    else
      let busy := cs.filter (fun c => !s.quiet cs c)
      let s := busy.foldl (fun (s : State) c =>
        let s := s.discardCluster cs c
        s.fabricFail c (gidOf c 26) stStaleToken 7 0x07) s
      .next (cs.foldl (fun (s : State) c => s.setCl c { s.cl c with quietEpoch := newest }) s)

end Sys2Proof.Machine
end

