-- ==== Sys2Proof/Machine/Reduction.lean ====
section
/-!
DEFINITION. In-network reduction (R257 to R264, R362 to R370): transit slots, flushes, the root, rounds.
-/

namespace Sys2Proof.Machine

/-! ### Combiner slots (R260) -/

/-- Slots reserved for the groups rooted at a cluster. -/
def State.reservedSlots (s : State) (c : Nat) : Nat :=
  ((s.groups.filter (fun e => e.2.valid && e.2.root == c)).map (fun e => e.2.rslots)).sum

/-- Slots that hold a key. -/
def Rt.used (r : Rt) : Nat := r.slots.length

/-- The slot that holds a key, among root slots or transit slots. -/
def Rt.slotOf (r : Rt) (root : Bool) (g round blk : Nat) : Option Nat :=
  (r.slots.find? (fun e => e.2.root == root && e.2.g == g && e.2.round == round && e.2.blk == blk)).map (·.1)

/-- The lowest slot that holds no key. -/
def Rt.freeSlot (r : Rt) : Option Nat := (upto 0 64).find? (fun k => (tabFind r.slots k).isNone)

/-- Transit slots in use. -/
def Rt.transit (r : Rt) : Nat := (r.slots.filter (fun e => !e.2.root)).length

/-- What a contribution or partial sum brings: key, accumulators, count, fog. -/
structure Share where
  g : Nat
  round : Nat
  blk : Nat
  accs : List Acc
  count : Nat
  fog : Bool
  deriving DecidableEq, Repr

/-- A contribution's elements as accumulators (R259, R260). -/
def accOf (fmt x : Nat) : Acc := if fmtInt fmt then ({} : Acc).addInt (decodeInt fmt x) else ({} : Acc).add (decodeFloat fmt x)

/-- The share a packet carries. -/
def shareOf (p : Packet) : Option Share :=
  match p.body with
  | .contribution g round blk fmt vals fog => some { g := g, round := round, blk := blk, accs := vals.map (accOf fmt), count := 1, fog := fog }
  | .partialSum g round blk accs count fog => some { g := g, round := round, blk := blk, accs := accs, count := count, fog := fog }
  | _ => none

/-- Add two accumulators of a group: exact for floats, wrapping at 64 bits for integers. -/
def joinAcc (int : Bool) (a b : Acc) : Acc := if int then { a.merge b with sum := sext (wrapInt (a.sum + b.sum) 64) 64 } else a.merge b

/-- Merge a share into a slot. -/
def Comb.take (k : Comb) (int : Bool) (x : Share) : Comb :=
  let n := max k.accs.length x.accs.length
  { k with accs := (upto 0 n).map (fun i => joinAcc int (k.accs.getD i {}) (x.accs.getD i {})), count := k.count + x.count, fog := k.fog || x.fog }

/-- Reading a slot of a router finds what has become of its accumulators: a corrected word is counted, an uncorrectable one fogs the slot and
is counted (R265, R266). -/
def State.readSlot (s : State) (c n : Nat) : State :=
  let r := s.rt c
  match tabFind r.slots n with
  | some k =>
    if k.ce || k.ue then (s.setRt c { r with slots := tabSet r.slots n { k with ce := false, ue := false, fog := k.fog || k.ue } }).eccError c k.ce k.ue else s
  | none => s

/-- Put a share into slot `n`, new or held. -/
def Rt.fill (r : Rt) (n : Nat) (root int : Bool) (now : Nat) (x : Share) : Rt :=
  let k := match tabFind r.slots n with
    | some k => k.take int x
    | none => { g := x.g, round := x.round, blk := x.blk, accs := x.accs, count := x.count, fog := x.fog, since := now, root := root }
  let slots := tabSet r.slots n k
  { r with slots := slots, high := max r.high slots.length, fogSeen := r.fogSeen || x.fog }

/-- The fan-in of a router in a group's reduction tree: the members whose route to the root passes it (R257, R261). -/
def State.fanIn (s : State) (c g : Nat) : Nat :=
  let gr := s.grp g
  (gr.members.filter (fun m => onRoute (s.posOf m) (s.posOf gr.root) (s.posOf c))).length

/-- Send a transit slot on as a partial sum: 11 flits for floats, 3 for integers (R261). -/
def State.sendPartial (s : State) (c n : Nat) : State :=
  let s := s.readSlot c n
  let r := s.rt c
  match tabFind r.slots n with
  | none => s
  | some k =>
    let gr := s.grp k.g
    let p : Packet := { dest := gidOf gr.root 0, cls := 0, flits := if fmtInt gr.ofmt then 3 else 11, src := gidOf c 25, ctx := gr.owner,
                        body := .partialSum k.g k.round k.blk k.accs k.count k.fog }
    (s.setRt c { r with slots := tabDel r.slots n }).sendPacket c p

/-- The first packet of an inbox that merges, at a router that is or is not the root of its group. -/
def mergesAt (s : State) (c : Nat) (root : Bool) (p : Packet) : Bool :=
  match shareOf p with
  | some x => ((s.grp x.g).root == c && (s.grp x.g).valid) == root
  | none => false

/-- Whether a router may merge: in service, not frozen for a scan. -/
def State.routing (s : State) (c : Nat) : Bool := s.phase == .ready && (s.cl c).scan == .running

/-- CONTRIBUTION_MERGE (R261): a share of a freed group, though another context may own its number by now, is discarded (R264); else it takes its slot, and a slot at its fan-in is
sent on. -/
def execContributionMerge (c : Fin 2048) (s : State) : Res :=
  let c := c.val
  if !s.routing c then .next s
  else match s.takeInbox c (mergesAt s c false) with
    | none => .next s
    | some (p, s') =>
      match shareOf p with
      | none => .next s
      | some x =>
        let gr := s.grp x.g
        let r := s'.rt c
        let spot := match r.slotOf false x.g x.round x.blk with
          | some n => some n
          | none => if r.transit < 64 - s.reservedSlots c then r.freeSlot else none
        if r.tblBad then .next (s.parityReset)
        else if !gr.valid || p.ctx ≠ gr.owner then .next (s'.setRt c { r with waited := false })
        else match spot with
          | none => .next (if r.waited then s else s.setRt c { s.rt c with waited := true, slotWaits := sat32 r.slotWaits 1 })
          | some n =>
            let s' := s'.readSlot c n
            let r := { (s'.rt c).fill n false (fmtInt gr.ofmt) s.time x with waited := false }
            let s := (s'.setRt c r).progress c
            let full := match tabFind r.slots n with | some k => decide (s.fanIn c x.g ≤ k.count) | none => false
            .next (if full then s.sendPartial c n else s)

/-- TRANSIT_SLOT_FLUSH (R261): a transit slot held for `flush` x 64 mesh cycles, 32 ns each 64, is sent on. -/
def execTransitSlotFlush (c : Fin 2048) (slot : Fin 64) (s : State) : Res :=
  let c := c.val
  match tabFind (s.rt c).slots slot.val with
  | none => .next s
  | some k =>
    if k.root || !s.routing c then .next s
    else
      let s := s.advanceTo (k.since + s.pmFlush * 32)
      let r := s.rt c
      .next ((s.setRt c { r with flushes := sat32 r.flushes 1 }).sendPartial c slot.val)

/-! ### The root (R262, R367) -/

/-- Elements of block `blk` that a round holds. -/
def Grp.blockLen (g : Grp) (blk : Nat) : Nat := min 16 (g.elems - 16 * blk)
def Grp.blockCount (g : Grp) : Nat := ceilDiv g.elems 16

/-- Bytes of one delivered element. -/
def Grp.elBytes (g : Grp) : Nat := if g.wide then (if fmtInt g.ofmt then 8 else 40) else fmtBits g.ofmt / 8

/-- One delivered element (R262): rounded once, or the accumulator whole. The 320 bits of a sum that is not finite are left open: they
are free, and depend on nothing but what has been summed (R263; log 6). -/
def Grp.elementOut (g : Grp) (a : Acc) : List Byte :=
  if g.wide then
    if fmtInt g.ofmt then toBytes 8 (wrapInt a.sum 64)
    else if a.nan || a.pinf || a.ninf then toBytes 40 (Config.wideValue a.nan a.pinf a.ninf a.sum).toNat
    else toBytes 40 (wrapInt a.sum 320)
  else toBytes (fmtBits g.ofmt / 8) (convert g.ofmt 0 (if fmtInt g.ofmt then a.intVal else a.val)).1

/-- The elements of block `blk`: an element that no contribution brought is an empty sum. -/
def Grp.blockOut (g : Grp) (blk : Nat) (accs : List Acc) : List Byte :=
  (upto 0 (g.blockLen blk)).flatMap (fun i => g.elementOut (accs.getD i {}))

/-- The destination of a group's results (R267): MU, window, epoch, offset in bytes. -/
def Grp.dstMu (g : Grp) : Nat := fld g.dest.toNat 15 0
def Grp.dstWin (g : Grp) : Nat := fld g.dest.toNat 19 16
def Grp.dstEpoch (g : Grp) : Nat := fld g.dest.toNat 35 20
def Grp.dstOff (g : Grp) : Nat := fld g.dest.toNat 51 36 * 64

/-- The notify message of a round (R262). -/
def notifyMsg (g : Grp) (c : Nat) : Msg :=
  let q := fld g.notify.toNat 24 0
  { unit := fld q 15 0, queue := fld q 21 16, prio := fld q 23 22, fou := bitOf q 24, tag := 0,
    payload := toBytes 8 (g.round + g.status * 2 ^ 16), sender := gidOf c 25, ctx := g.owner }

/-- A block of the round is written or refused; with the last one the notify message is sent, the group's root slots are free, the next
round becomes current, and its number goes along the multicast tree (R262, R367). A slot holds its block until then, so that a
contribution above `contrib` is counted with the others (R364). -/
def State.blockDone (s : State) (c k status : Nat) : State :=
  let g := s.grp k
  let g := { g with blocks := g.blocks + 1, status := if g.status = 0 then status else g.status }
  if g.blocks < g.blockCount then s.setGrp k g
  else
    let m := notifyMsg g c
    let r := s.rt c
    let slots := r.slots.filter (fun e => !(e.2.root && e.2.g == k))
    let s := (s.setRt c { r with slots := slots, notes := r.notes ++ [m] }).sendPacket c (msgPacket m)
    let round := (g.round + 1) % 65536
    let s := s.setGrp k { g with round := round, blocks := 0, rounds := sat32 g.rounds 1, status := 0 }
    s.sendPacket c { dest := k, mc := true, cls := 0, src := gidOf c 25, ctx := g.owner, body := .roundAdvance k round }

/-- What a share of block `x.blk` of group `x.g` breaks when its count goes above `contrib`: CONTEXT_FAULT in the owning context (R262). -/
def State.overCount (s : State) (c : Nat) (x : Share) : State :=
  s.failCtx (s.grp x.g).owner stContextFault { unit := gidOf c 25, cls := 5, sev := 3, cause := 0x07 }

/-- A block that has reached `contrib` is written to the destination window of its group (R262). The write may wait for a bank group to
wake (R109): the block is then done with the acknowledgement. -/
def State.putBlock (s : State) (c : Nat) (k : Comb) : State :=
  let g := s.grp k.g
  let w : WinWrite := { win := g.dstWin, addr := g.dstOff + 16 * k.blk * g.elBytes, bytes := g.blockOut k.blk k.accs, keep := [],
                        fog := k.fog, src := gidOf c 25, ctx := g.owner, req := k.g }
  match s.windowWrite g.dstMu g.dstEpoch 2 w with
  | (t, .done) => t.blockDone c k.g stOK
  | (t, .accepted) => t
  | (t, .refused) => t.blockDone c k.g stWindowClosed
  | (t, .writerFails) => t.failCtx g.owner stContextFault { unit := gidOf c 25, cls := 5, sev := 3, cause := 0x07 }

/-- A share merges into the root's slot for its key; a share of another round than the current one is above the count of a round that
is over (R262, R368). -/
def State.rootMerge (s : State) (c n : Nat) (x : Share) : State :=
  let g := s.grp x.g
  if x.round ≠ g.round then s.overCount c x
  else
    let s := s.readSlot c n
    let r := (s.rt c).fill n true (fmtInt g.ofmt) s.time x
    let s := (s.setRt c r).progress c
    match tabFind r.slots n with
    | none => s
    | some k => if g.contribs < k.count then s.overCount c x else if k.count < g.contribs then s else s.putBlock c k

/-- ROOT_MERGE (R262): the acknowledgement of a block's write that waited, or the first share for this root: it merges into the slot for
its key; at `contrib` the block is written to the destination window as a write with the `red` right; above it the owning context
fails. A share that another context sent is of a group that was freed since, and is discarded (R264). -/
def execRootMerge (c : Fin 2048) (s : State) : Res :=
  let c := c.val
  if !s.routing c then .next s
  else match s.takeInbox c (·.isWriteAck (gidOf c 25)) with
  | some (p, s') =>
    match p.body with
    | .writeAck k status => .next (if p.ctx = (s.grp k).owner then s'.blockDone c k status else s')
    | _ => .next s'
  | none => match s.takeInbox c (mergesAt s c true) with
    | none => .next s
    | some (p, s') =>
      match shareOf p with
      | none => .next s
      | some x =>
        let r := s'.rt c
        if r.tblBad then .next (s.parityReset)
        else if p.ctx ≠ (s.grp x.g).owner then .next s'
        else match (match r.slotOf true x.g x.round x.blk with | some n => some n | none => r.freeSlot) with
          | none => .next s
          | some n => .next (s'.rootMerge c n x)

/-- A router's copy of a group's round follows it. -/
def State.takeRound (s : State) (c g round : Nat) : State := let r := s.rt c; s.setRt c { r with rounds := tabSet r.rounds g round }

/-- So does the copy in the scan image that the owning context has of the cluster: a turn keeps the round (R369). -/
def State.imageRound (s : State) (c g round : Nat) : State :=
  let n := (s.grp g).owner
  match s.ctx n with
  | some k => s.setCtx n { k with scans := tabMap k.scans (fun d i => if d = c then { i with rounds := tabSet i.rounds g round } else i) }
  | none => s

/-- ROUND_ADVANCE (R367): the packet reaches a member router, whose copy of the round follows it. -/
def execRoundAdvance (c : Fin 2048) (s : State) : Res :=
  let c := c.val
  if !s.routing c then .next s
  else match s.takeInbox c Packet.isAdvance with
    | none => .next s
    | some (p, s) =>
      match p.body with
      | .roundAdvance g round =>
        .next (if (s.grp g).valid then ((s.takeRound c g round).imageRound c g round).progress c else s)
      | _ => .next s

end Sys2Proof.Machine
end

