-- ==== Sys2Proof/Machine/RegRead.lean ====
section
/-!
DEFINITION. What a register reads as: requester classes and rights (R538 to R542), the registers of the units (R112, R145, R173,
R210, R244, R266, R327, R359) and of the global blocks (R246, R267, R358, R411, R461, R479, R498, R515, R533, R534, R546, R547),
and BAR0 (R383, R410). What a read does beside that is `State.readAccess` in Machine/Regs.lean; reads with an effect of their own are
commands.
-/

namespace Sys2Proof.Machine

/-! ### Requesters (R538, R539) -/

/-- The class of an access. -/
inductive ReqClass where
  | keeper | owner | management | other
  deriving DecidableEq, Repr

/-- The class of a requester at a cluster, or at a global block (`none`). -/
def State.classOf (s : State) (r : Requester) (c : Option Nat) : ReqClass :=
  match r with
  | .keeper => .keeper
  | .board => .management
  | .fn f =>
    let own := match (c.bind s.ownerOf).bind s.ctx with
      | some x => x.port == f.port.val && x.fn == f.fn.val
      | none => false
    if own then .owner
    else if f.fn.val == 0 && s.kpr.mgmt.getLsbD f.port.val then .management
    else .other

/-- Whether a path of a requester reaches a management offset (R538). -/
def reaches (r : Requester) (off : Nat) : Bool :=
  match r with
  | .keeper => true
  | .board => decide (off < 0x40000)
  | .fn f => f.fn.val == 0 || (decide (0x4000000 ≤ off) && decide (off < 0x8000000))

/-- Whether a read of a redacted field of a cluster shows the value: in a production sector to the owning context alone, as R112, R145, R173,
R209, R244, R359 and R493 say, though R540 gives the Keeper the value (DEDUCED, log 164); in a `debug` sector to the Keeper and management
too (R494). -/
def State.shows (s : State) (k : ReqClass) (c : Nat) : Bool :=
  match k with
  | .owner => true
  | .keeper => match (s.sectorOf c).bind s.sector with | some x => x.debug | none => true
  | .management => match (s.sectorOf c).bind s.sector with | some x => x.debug | none => false
  | .other => false

/-! ### Words from fields -/

/-- The low 32 bits and the high 32 bits. -/
def pair32 (a b : Nat) : Nat := a % 2 ^ 32 + b % 2 ^ 32 * 2 ^ 32

/-- A performance counter register. -/
def perfWord (p : Perf) : Nat := p.count + b2n p.ovf * 2 ^ 48

/-- A bit mask of numbers. -/
def maskOf (l : List Nat) : Nat := (l.foldl (fun (a : Nat) k => if a.testBit k then a else a + 2 ^ k) 0)

/-! ### Error records as words (R437) -/

/-- The bits of a record with its `crc` field zero; `copy` marks a mailbox copy. -/
def ErrRec.raw (r : ErrRec) (copy : Bool) : Nat :=
  word [(0, r.time % 2 ^ 64), (64, r.boot % 2 ^ 16), (80, r.unit % 2 ^ 16), (96, r.sector % 64), (102, b2n r.sv), (103, b2n r.cv),
    (104, r.context % 4096), (116, r.cls % 16), (120, r.sev % 8), (123, b2n r.opk), (124, b2n copy), (125, b2n r.inj),
    (128, r.step % 2 ^ 32), (160, r.op % 256), (168, r.cause % 256), (176, r.status % 2 ^ 16), (192, wrapInt r.temp 16),
    (208, r.mv % 2 ^ 16), (224, r.akind % 16), (232, r.addr % 2 ^ 56), (288, r.syndrome % 2 ^ 64), (352, r.rep % 2 ^ 16),
    (368, r.pcl % 2 ^ 12), (384, r.aux % 2 ^ 64), (448, r.lseq % 2 ^ 32)]

/-- The 64 bytes of a record, with its CRC. -/
def ErrRec.toBytes (r : ErrRec) (copy : Bool) : List Byte :=
  let l := Machine.toBytes 64 (r.raw copy)
  l.take 60 ++ Machine.toBytes 4 (crc32c l).toNat

/-- Word `k` of a record as a requester sees it: `pcl` is zero to every reader but the Keeper (R547). -/
def ErrRec.word (r : ErrRec) (k : ReqClass) (i : Nat) : Nat :=
  ofBytes (((if k == .keeper then r else { r with pcl := 0 }).toBytes false).drop (8 * i) |>.take 8)

/-! ### Registers of a cluster window (R537) -/

/-- Requests outstanding of a generator of an MU: a read generator has reads, a write generator writes, of the instruction that holds
it (R86, R112). -/
def State.genOut (s : State) (g n : Nat) : Nat :=
  (usersOf g).foldl (fun a u => (s.tu u).running.foldl (fun a r =>
    if r.gens.contains n then a + outstanding (r.reqs.filter (fun q => q.write == decide (2 ≤ n))) else a) a) 0

/-- The code of a slot state (R102). -/
def slotCode : SlotState → Nat
  | .empty => 0 | .filling => 1 | .full => 2 | .draining => 3

/-- An MU register; `full` is whether redacted fields show. -/
def State.readMu (s : State) (g o : Nat) (r : Requester) (full : Bool) : Nat :=
  let m := s.mu g
  let busy := s.gensTaken g
  let sel := selOf m.dtSel r
  let x := m.slot (selOf m.slotSel r).sel
  let xfReqs := (s.tu g).running.foldl (fun (a : Nat) q => if q.iss.i.op = 0x04 then a + outstanding q.reqs else a) 0
  if o = 0x000 then
    word [(0, maskOf busy), (4, b2n (s.xposeTaken g)), (5, b2n m.zeroizing), (6, b2n (!m.fog.isEmpty)), (7, b2n (m.waking != 0))]
  else if o = 0x008 then m.downReq.toNat
  else if o = 0x010 then word [(0, m.powered.toNat), (8, (m.downReq &&& m.powered).toNat), (16, m.cancelled.toNat)]
  else if o = 0x018 then pair32 m.ceCount m.ueCount
  else if o = 0x020 then m.errAddr
  else if o = 0x028 then pair32 m.scrubInt m.scrubPasses
  else if o = 0x030 then m.cfgStore
  else if o = 0x038 then sel.sel
  else if 0x040 ≤ o ∧ o < 0x080 then (if full then fld (tabGet 0 m.desc sel.sel).toNat (o / 8 % 8 * 64 + 63) (o / 8 % 8 * 64) else 0)
  else if o = 0x080 then (selOf m.slotSel r).sel
  else if o = 0x088 then
    (if full then word [(0, x.base), (14, x.length), (28, x.readers), (32, slotCode x.state), (34, x.started % 16), (38, x.completed % 16)] else 0)
  else if o = 0x090 then word ((upto 0 4).flatMap (fun n => [(16 * n, min 64 (s.genOut g n)), (16 * n + 7, b2n (busy.contains n))]))
  else if o = 0x098 then m.winDrop
  else if 0x100 ≤ o ∧ o < 0x200 then
    let w := m.win ((o - 0x100) / 16)
    if o % 16 = 0 then word [(0, w.base), (16, w.length)] else word [(0, w.writer), (12, w.rights), (15, b2n w.opened), (16, w.epoch)]
  else if o = 0x200 then word [(0, b2n m.xf.active), (1, b2n m.xf.faultWait), (2, min 63 xfReqs)]
  else if o = 0x208 then (if full then m.xf.watermark % 2 ^ 48 else 0)
  else if o = 0x210 then pair32 m.xf.faults m.xf.refetch
  else 0

/-- The tag of a bound slot, 0 when free. -/
def State.boundTag (s : State) (g : Nat) (b : Option Bound) : Nat :=
  match b.bind (fun x => s.runOf g x.id) with | some r => r.iss.i.tag | none => 0

/-- The arrays that run between two commands: those with an output tile in the quantum that has begun, on whose one tile both work in a
plain mode (R115, R128, R130, R145). -/
def State.arraysBusy (s : State) (g : Nat) : Nat :=
  match (s.mcu g).current.bind (fun id => (s.runOf g id).bind (fun r =>
      ((s.mcu g).slots.filterMap (fun b => b)).find? (fun b => b.id == id) |>.map (fun b => (mmOf r.iss.i.op r.prm, b)))) with
  | none => 0
  | some (x, b) =>
    if x.plain then 0b11
    else
      let t := b.quantum % x.steps
      b2n (decide (t < x.dt)) + 2 * b2n (decide (t < (if x.op = 0x23 ∧ x.phase = 0 then 2 * x.rho else x.dt)))

/-- An MCU register. -/
def State.readMcu (s : State) (g o : Nat) (full : Bool) : Nat :=
  let m := s.mcu g
  if o = 0x000 then
    word (((m.slots.zip (upto 0 4)).map (fun (b, k) => (k, b2n b.isSome)))
      ++ [(4, s.arraysBusy g), (6, b2n (!m.epiQ.isEmpty)), (7, b2n (m.tileFog != 0)), (8, b2n (!m.shared.isEmpty))])
  else if o = 0x008 then (if full then word ((m.slots.zip (upto 0 4)).map (fun (b, k) => (16 * k, s.boundTag g b))) else 0)
  else if o = 0x010 then
    word ([(0, b2n m.nfFlag), (1, b2n m.satFlag)]
      ++ (if full then [(2, m.nfRow % 32), (7, m.nfCol % 32), (16, m.nfTag % 2 ^ 16), (32, min m.nfTile 0xFFFFFF)] else []))
  else if o = 0x018 then m.tileFog.toNat
  else if o = 0x020 then pair32 m.ceCount m.ueCount
  else if o = 0x028 then pair32 m.resCount m.tblPar
  else if o = 0x030 then perfWord m.busy
  else if o = 0x038 then perfWord m.waitP
  else if o = 0x040 then perfWord m.epiP
  else 0

/-- A VCU register. -/
def State.readVcu (s : State) (g o : Nat) (full : Bool) : Nat :=
  let m := s.vcu g
  let held := (s.tu g).running.filter (fun r => decide (0x30 ≤ r.iss.i.op) && decide (r.iss.i.op ≤ 0x32))
  let tag := fun (k : Nat) => match held[k]? with | some r => r.iss.i.tag | none => 0
  if o = 0x000 then word [(0, min 2 held.length), (2, b2n m.redBusy), (3, b2n m.fogSeen)]
  else if o = 0x008 then (if full then word [(0, tag 0), (16, tag 1)] else 0)
  else if o = 0x010 then word [(0, b2n m.nan), (1, b2n m.sat), (2, b2n m.div0), (3, b2n m.oob), (16, if full then m.firstTag else 0)]
  else if o = 0x018 then m.tblPar % 2 ^ 32
  else if o = 0x020 then perfWord m.busy
  else if o = 0x028 then perfWord m.waitP
  else if o = 0x030 then perfWord m.flits
  else 0

/-- The code of an SCU run state. -/
def scuCode : ScuState → Nat
  | .noProgram => 0 | .running => 1 | .blocked => 2 | .halted => 3

/-- The code of a queue mode. -/
def modeCode : QMode → Nat
  | .off => 0 | .register => 1 | .ring => 2 | .combining => 3

/-- `SCU_Q_CFG`, `SCU_Q_PTR`, `SCU_Q_HEAD` and `SCU_Q_HEAD_TAG` of a queue. -/
def Queue.cfgWord (q : Queue) : Nat :=
  word [(0, modeCode q.mode), (2, b2n q.opened), (3, b2n q.otherOk), (4, q.otherCtx), (16, q.nElem), (25, q.cfmt), (30, q.contrib),
    (37, q.ofmt), (42, q.rmode), (44, q.senders.length % 128)]
def Queue.ptrWord (q : Queue) : Nat := word [(0, q.wp), (20, q.rp), (40, q.seq)]
def State.headWord (s : State) (g : Nat) (q : Queue) : Nat :=
  if q.isRing then (if q.holds then ofBytes (memRead (s.mu (homeMu g)).mem (q.base + q.rp) 8) else 0)
  else match q.entries with | e :: _ => e.data.toNat | [] => 0
def State.headTagWord (s : State) (g : Nat) (q : Queue) : Nat :=
  let h := ofBytes (memRead (s.mu (homeMu g)).mem (q.base + q.rp) 16)
  if q.isRing then (if q.holds then word [(0, fld h 71 64), (14, fld h 73 73)] else 0)
  else match q.entries with
    | e :: _ => word [(0, e.tag), (8, q.entries.length), (14, b2n e.fog)]
    | [] => 0

/-- An SCU register. -/
def State.readScu (s : State) (g o : Nat) (r : Requester) (full : Bool) : Nat :=
  let u := s.scu g
  let k := (selOf u.qSel r).sel
  let q := u.queue k
  if o = 0x000 then word [(0, scuCode u.state), (2, u.cause), (5, b2n (u.g.any (fun e => e.2.fog) || u.p.any (fun e => e.2.fog)))]
  else if o = 0x008 then (if full then u.pc else 0)
  else if o = 0x010 then (if full then u.tags.length else 0)
  else if o = 0x018 then u.sendStatus
  else if o = 0x020 then pair32 u.ceCount u.ueCount
  else if o = 0x028 then k
  else if o = 0x030 then q.cfgWord
  else if o = 0x038 then word [(0, q.base), (24, q.size)]
  else if o = 0x040 then q.ptrWord
  else if o = 0x048 then (if full then s.headWord g q else 0)
  else if o = 0x050 then (if full then s.headTagWord g q else word [(8, q.entries.length)])
  else if o = 0x058 then maskOf ((u.queues.filter (fun e => e.2.holds)).map (·.1))
  else if o = 0x060 then perfWord u.busy
  else if o = 0x068 then perfWord u.waitP
  else if o = 0x070 then perfWord u.instr
  else 0

/-- Whether a steering element waits for a token: no predicate bit is due, and the input that it reads next is empty while nothing is
replayed (R230 to R234, R244). -/
def Sw.waitsIn (w : Sw) (e : Nat) (x : Elem) : Bool :=
  let replays := x.cfg.kind == 5 && !x.cfg.gran && (match x.replay.getLast? with | some f => f.eot | none => false)
  x.cfg.kind != 0 && !replays && !x.needsBit && (w.inHead e x.path.1).isNone

/-- A stream switch register (R244). -/
def State.readSw (s : State) (c o : Nat) (r : Requester) (full : Bool) : Nat :=
  let w := s.sw c
  let sel := (selOf w.tblSel r).sel
  let bits := fun (lo n : Nat) (l : List Nat) => maskOf ((l.filter (fun k => decide (lo ≤ k) && decide (k < lo + n))).map (· - lo))
  let full_ := (allQueues.filter (s.queueFull c)).map queueNum
  if o = 0x000 then word [(0, b2n w.bypass), (1, min 64 w.buffers.length), (8, b2n (!w.spill.isEmpty)), (9, b2n w.fogSeen)]
  else if o = 0x008 then bits 0 64 full_
  else if o = 0x010 then bits 0 64 w.spill
  else if o = 0x018 then bits 64 56 full_
  else if o = 0x020 then bits 64 56 w.spill
  else if o = 0x028 then
    word (w.elems.flatMap (fun (e, x) => [(8 * e, x.cfg.kind), (8 * e + 3, b2n x.cfg.gran),
      (8 * e + 4, b2n (x.needsBit && x.bit.isNone)), (8 * e + 5, b2n (w.waitsIn e x)),
      (8 * e + 6, b2n (!x.out0.isEmpty || !x.out1.isEmpty))]))
  else if o = 0x030 then sel
  else if o = 0x038 then
    (if full then ofBytes (((((tabGet [] w.slotTab (2 * (sel % 4) + sel / 4 % 2)).drop (sel / 8 % 2 * 8)).take 8).map (BitVec.ofNat 8))) else 0)
  else if o = 0x040 then pair32 w.ce w.ue
  else if o = 0x048 then perfWord w.perfStall
  else if 0x050 ≤ o ∧ o ≤ 0x068 then perfWord (tabGet {} w.perf ((o - 0x050) / 8))
  else 0

/-- A router register (R266). -/
def State.readRt (s : State) (c o : Nat) : Nat :=
  let r := s.rt c
  if o = 0x000 then word [(0, r.used), (7, min 48 (s.reservedSlots c)), (14, b2n r.fogSeen), (15, b2n r.waited)]
  else if o = 0x008 then r.high
  else if o = 0x010 then pair32 r.discard r.p0Demote
  else if o = 0x018 then pair32 r.ce r.ue
  else if o = 0x020 then pair32 r.flushes r.slotWaits
  else if 0x028 ≤ o ∧ o ≤ 0x050 then perfWord (tabGet {} r.perf ((o - 0x028) / 8))
  else 0

/-- The code of a scan state. -/
def scanCode : ScanState → Nat
  | .running => 0 | .freezing => 1 | .frozen => 2 | .moving => 3

/-- A cluster control register (R327). -/
def State.readCl (s : State) (c o : Nat) : Nat :=
  let k := s.cl c
  if o = 0x000 then word [(0, k.epoch), (12, k.quietEpoch), (24, k.place), (25, b2n k.loading), (26, b2n k.marnan), (32, k.imageCrc.toNat)]
  else if o = 0x008 then pair32 k.flits k.items
  else if o = 0x010 then word [(3, b2n k.prog), (12, k.buf)]
  else if o = 0x018 then word [(0, scanCode k.scan), (2, b2n k.done), (3, b2n k.bad), (8, k.kib)]
  else if o = 0x020 then k.stale
  else 0

/-- A register at offset `x` of a logical cluster's window. -/
def State.readCluster (s : State) (c x : Nat) (r : Requester) : Nat :=
  let k := s.classOf r (some c)
  let full := s.shows k c
  let u := x / 0x400
  let o := x % 0x400
  if (s.cl c).retired || k == .other then 0
  else if u < 12 then s.readMu (gidOf c u) o r full
  else if u < 16 then s.readMcu (gidOf c u) o full
  else if u < 20 then s.readVcu (gidOf c u) o full
  else if u < 24 then s.readScu (gidOf c u) o r full
  else if u = 24 then s.readSw c o r full
  else if u = 25 then s.readRt c o
  else if u = 26 then s.readCl c o
  else 0

/-! ### Registers of the global blocks -/

/-- The device address of the entry of the device log at a log position (R458). -/
def logAddr (p : Nat) : Nat := 0xB380000000 + 64 * (p % 65536)

/-- An `ERR` register (R461, R547). The window shows no entry that an uncorrectable error has lost (R460). -/
def State.readErr (s : State) (o : Nat) (k : ReqClass) : Nat :=
  let e := s.err
  let log := fun (p i : Nat) => if e.wr ≤ p || s.hbmBad (logAddr p) 64 then 0 else match tabFind e.log (p % 65536) with | some r => r.word k i | none => 0
  if o = 0x000 then word [(0, b2n e.alert), (1, b2n e.halted), (2, b2n e.tablesLost), (16, s.flash.boot % 65536)]
  else if o = 0x008 then logAddr 0
  else if o = 0x010 then e.wr % 2 ^ 64
  else if o = 0x018 then e.rd % 2 ^ 64
  else if o = 0x020 then e.ovf % 2 ^ 64
  else if o = 0x028 then e.dropped
  else if o = 0x030 then word [(0, min e.resets 65535), (16, e.cause % 256)]
  else if o = 0x038 then b2n e.firstValid
  else if 0x040 ≤ o ∧ o < 0x080 then (match e.first with | some r => r.word k ((o - 0x040) / 8) | none => 0)
  else if o = 0x080 then word [(0, e.injUnit), (16, e.injKind), (20, e.injOffset), (63, b2n e.arm)]
  else if 0x8000 ≤ o ∧ o < 0xC000 then log (e.rd + (o - 0x8000) / 64) ((o - 0x8000) / 8 % 8)
  else 0

/-- A Keeper register (R533, R546). -/
def State.readKpr (s : State) (o : Nat) (r : Requester) : Nat :=
  let k := s.kpr
  let f := s.flash
  if o = 0x000 then k.beacon % 2 ^ 64
  else if o = 0x008 then
    word [(0, b2n k.restarting), (1, b2n k.trial), (2, b2n (!k.swapQ.isEmpty)), (3, b2n k.retrainStack.isSome), (4, k.retrainStack.getD 0), (9, b2n k.failing)]
  else if o = 0x010 then k.fwResult * 256
  else if o = 0x018 then word ((upto 0 8).map (fun d => (5 * d, min 16 (s.lightships d).length)))
  else if o = 0x020 then k.retrainH
  else if o = 0x028 then (selOf k.wrapSel r).sel
  else if o = 0x030 then tabGet 0 k.wraps (selOf k.wrapSel r).sel
  else if o = 0x038 then word [(0, min f.swaps 65535), (16, f.pcRetired.length % 65536), (32, f.stacksRetired.length % 256), (40, min f.fwUpdates 65535)]
  else if o = 0x040 then 0x35313934414B + 0x01 * 2 ^ 48
  else if o = 0x048 then k.serial
  else if o = 0x050 then k.mgmt.toNat
  else if o = 0x058 then pair32 k.timeouts k.bad
  else 0

/-- A power register (R515). -/
def State.readPwr (s : State) (o : Nat) : Nat :=
  let p := s.pwr
  if o = 0x000 then
    word [(0, p.step), (3, b2n (p.powerStep != 0)), (4, b2n (p.thermStep != 0)), (5, b2n (p.supplyStep != 0)), (6, b2n s.pins.coolFault), (7, b2n (p.maxStep != 0 && p.step == p.maxStep)),
      (8, b2n s.pins.leak), (9, b2n (p.pausedPower || p.pausedThermal || p.pausedCool || p.inWarn || p.dies.any (fun d => d.2.railWarn))), (10, b2n (p.inDoubt || p.dies.any (fun d => d.2.railDoubt)))]
  else if o = 0x008 then word [(0, p.capW), (10, p.maxStep)]
  else if o = 0x010 then word [(0, p.mv), (16, p.da), (32, p.watt), (48, p.peak)]
  else if o = 0x018 then word [(0, p.warn), (16, p.doubt), (32, p.therm), (48, p.cool)]
  else if 0x100 ≤ o ∧ o < 0x140 then
    let d := s.die ((o - 0x100) / 8)
    word [(0, wrapInt d.tj 12), (12, wrapInt d.tjHigh 12), (24, d.railLow % 256), (32, b2n d.railWarn), (33, b2n d.railDoubt)]
  else 0

/-- A security register (R498); a read of `SEC_DBG_NONCE` is DEBUG_NONCE_READ. -/
def State.readSec (s : State) (o : Nat) : Nat :=
  let x := s.sec
  let now := (upto 0 8).foldl (fun a d => a + (s.lightships d).length) 0
  if o = 0x000 then word [(0, s.flash.inForce), (1, b2n x.idOk), (2, b2n x.unlocked)]
  else if o = 0x008 then word [(0, x.version % 2 ^ 32), (32, x.svn % 2 ^ 16), (48, s.flash.floor % 2 ^ 16)]
  else if o = 0x010 then word [(0, s.flash.grade % 4), (2, min 255 (128 - s.flash.shipFailed.length)), (10, min 255 now)]
  else if o = 0x018 then maskOf ((s.sectors.filter (fun e => e.2.keyed)).map (·.1))
  else if o = 0x028 then word [(1, x.perms % 8), (32, if x.unlocked then min (2 ^ 17 - 1) (ceilDiv (x.ttlEnd - s.time) 1000000000) else 0)]
  else if o = 0x030 then pair32 x.bootMs (x.failStep % 16)
  else 0

/-- A transaction register (R534). -/
def State.readTxn (s : State) (o : Nat) : Nat :=
  let t := s.txn
  let st := match t.state with | .idle => 0 | .opened => 1 | .committing => 2
  if o = 0x008 then word [(0, st), (12, t.staged.length), (32, t.status), (48, t.failIdx)]
  else if o = 0x010 then t.id % 2 ^ 64
  else if o = 0x018 then t.addr
  else 0

/-- An audit register (R479). -/
def State.readAud (s : State) (o : Nat) : Nat :=
  let a := s.aud
  if o = 0x000 then word [(0, a.floor), (16, a.watchN)]
  else if o = 0x010 then pair32 a.taken a.skipped
  else if o = 0x018 then pair32 a.clean a.mismatch
  else if o = 0x020 then word [(0, min 65535 a.unitBad), (16, min 65535 a.partnerBad), (32, min 65535 a.both), (48, min 65535 a.noThird)]
  else if o = 0x028 then pair32 a.crcMm a.watch
  else if o = 0x030 then min 255 a.pending.length
  else if 0x100 ≤ o ∧ o < 0x300 then tabGet 16 a.sect ((o - 0x100) / 8)
  else 0

/-- A port register (R411). -/
def State.readCx (s : State) (p o : Nat) : Nat :=
  let x := s.port p
  if o = 0x000 then
    word [(0, x.rate), (2, x.width), (5, b2n x.cxl), (6, b2n x.cacheEn), (7, b2n x.memEn), (8, b2n x.ideSecure), (32, min 65535 x.retrains)]
  else if o = 0x008 then word [(0, min 65535 x.perst), (16, min 65535 x.flr), (32, min 65535 x.hot)]
  else if o = 0x010 then pair32 x.bisnp x.biTimeout
  else if o = 0x018 then pair32 x.unmapped x.resetDrop
  else if 0x1000 ≤ o ∧ o < 0x1000 + 8 * 718 then
    (match tabFind x.hdmMap ((o - 0x1000) / 8) with | some g => g + 2 ^ 10 | none => tabGet 0 x.hdmIdle ((o - 0x1000) / 8))
  else 0

/-- A controller register (R358). -/
def State.readHbm (s : State) (n o : Nat) : Nat :=
  let c := s.ctrl n
  if o = 0x000 then word [(0, c.pcRetired % 2 ^ 32), (32, b2n c.trained), (33, b2n c.retraining), (34, b2n c.retired)]
  else if o = 0x008 then pair32 c.ce c.ue
  else if o = 0x010 then c.inner
  else if o = 0x018 then c.errAddr
  else if o = 0x020 then pair32 c.scrubInt c.passes
  else if o = 0x028 then perfWord c.rcHit
  else if o = 0x030 then perfWord c.rcMiss
  else if o = 0x038 then perfWord c.perfRd
  else if o = 0x040 then perfWord c.perfWr
  else if 0x100 ≤ o ∧ o < 0x300 then tabGet 0 c.quota ((o - 0x100) / 8)
  else 0

/-- A foghorn, spill ring or frame register (R246). -/
def State.readSf (s : State) (o : Nat) : Nat :=
  let f := s.sf (o / 64)
  if 0x1000 ≤ o ∧ o < 0x1040 then (s.die ((o - 0x1000) / 8)).frame
  else if 0x1000 ≤ o then 0
  else if o % 64 = 0x00 then f.thr
  else if o % 64 = 0x08 then word [(0, f.base), (40, f.size)]
  else if o % 64 = 0x10 then word [(0, f.records), (24, f.high)]
  else if o % 64 = 0x18 then pair32 f.stalls f.starved
  else if o % 64 = 0x20 then f.written % 2 ^ 64
  else 0

/-- A group register, or `PM_CTL` (R267). -/
def State.readPm (s : State) (o : Nat) : Nat :=
  let g := s.grp (o / 64)
  if o = 0x4000 then s.pmFlush
  else if 0x4000 ≤ o then 0
  else if o % 64 = 0x00 then g.ctl.toNat
  else if o % 64 = 0x08 then g.dest.toNat
  else if o % 64 = 0x10 then g.notify.toNat
  else if o % 64 = 0x18 then word [(0, g.round % 65536), (16, g.blocks % 1024), (32, min g.rounds 0xFFFFFFFF)]
  else 0

/-- Offsets of the blocks of R535; the rest is unassigned. -/
def assigned (x : Nat) : Bool :=
  decide (x < 0x60000) || (decide (0x100000 ≤ x) && decide (x < 0x180000)) || (decide (0x200000 ≤ x) && decide (x < 0x340000))
    || (decide (0x400000 ≤ x) && decide (x < 0x410000)) || (decide (0x480000 ≤ x) && decide (x < 0x490000))
    || (decide (0x4000000 ≤ x) && decide (x < 0xC400000))

/-- A register of the management space as a requester reads it (R535 to R547). From the trigger of a device reset until `ready`, BAR2 and MCTP read all
ones (R545). -/
def State.readMgmt (s : State) (r : Requester) (x : Nat) : Nat :=
  let k := s.classOf r none
  let o := x % 0x10000
  if r != .keeper && s.inReset then 2 ^ 64 - 1
  else if !reaches r x || x % 8 ≠ 0 then 0
  else if 0x4000000 ≤ x ∧ x < 0x8000000 then s.readCluster ((x - 0x4000000) / 0x8000) (x % 0x8000) r
  else if 0x8000000 ≤ x ∧ x < 0xC400000 then
    let q := posOfPhys ((x - 0x8000000) / 0x8000)
    if !(r == .keeper || (k == .management && s.sec.unlocked && bitOf s.sec.perms 2)) then 0
    else match s.logicalAt q.1 q.2 with
      | some c => s.readCluster c (x % 0x8000) .keeper
      | none => if x % 0x8000 = 0x6000 then 1 else if x % 0x8000 = 0x6400 then 2 ^ 13 else 0
  else if k == .other then 0
  else if x < 0x10000 then s.readKpr o r
  else if x < 0x20000 then s.readErr o k
  else if x < 0x30000 then s.readPwr o
  else if x < 0x40000 then s.readSec o
  else if x < 0x50000 then s.readTxn o
  else if x < 0x60000 then s.readAud o
  else if 0x100000 ≤ x ∧ x < 0x180000 then s.readCx ((x - 0x100000) / 0x10000) o
  else if 0x200000 ≤ x ∧ x < 0x340000 then s.readHbm ((x - 0x200000) / 0x10000) o
  else if 0x400000 ≤ x ∧ x < 0x410000 then s.readSf o
  else if 0x480000 ≤ x ∧ x < 0x490000 then s.readPm o
  else 0

/-! ### BAR0 (R383, R410) -/

/-- Entries of a ring by size code; 0 for a reserved code. -/
def ringEntries (size : Nat) : Nat := if 1 ≤ size ∧ size ≤ 13 then 2 ^ (size + 3) else 0

/-- A ring register. -/
def Ring.read (r : Ring) (o : Nat) : Nat :=
  if o = 0x00 then r.cmdBase
  else if o = 0x08 then r.cplBase
  else if o = 0x10 then word [(0, b2n r.enable), (1, r.size), (5, r.vec), (9, b2n r.shadow), (10, r.coalN), (18, r.coalUs), (34, b2n r.intEn)]
  else if o = 0x18 then word [(0, b2n (r.d != r.f)), (1, b2n r.stalled), (2, b2n r.overrun)]
  else if o = 0x20 then r.f % 2 ^ 64
  else if o = 0x28 then r.d % 2 ^ 64
  else 0

/-- A word of a function's MSI-X table: at reset every vector is masked (log 8). -/
def Fn.msixWord (x : Fn) (k : Nat) : Nat := (tabGet (if k % 2 = 1 then BitVec.ofNat 64 (2 ^ 32) else 0) x.msix k).toNat

/-- A function's register as its driver reads it. The queue debug registers read as zero unless the context on the cluster is
bound to the function. -/
def State.readBar0 (s : State) (f o : Nat) : Nat :=
  let x := s.fn f
  let g := gidOf x.qCluster (20 + x.qScu)
  let q := (s.scu g).queue x.qQueue
  let mine := match (s.ownerOf x.qCluster).bind s.ctx with | some c => c.port * 128 + c.fn == f | none => false
  if o = 0x0000 then word [(0, b2n (s.phase == .ready)), (1, b2n x.resetSeen), (2, b2n x.priFailed), (16, s.flash.boot % 65536)]
  else if o = 0x0008 then s.kpr.beacon % 2 ^ 64
  else if o = 0x0010 then s.time % 2 ^ 64
  else if o = 0x0018 then x.shadowBase
  else if 0x1000 ≤ o ∧ o < 0x1400 then (s.ring f ((o - 0x1000) / 0x40)).read (o % 0x40)
  else if o = 0x3000 then x.mbx.base
  else if o = 0x3008 then word [(0, b2n x.mbx.enable), (1, x.mbx.size), (5, x.mbx.vec)]
  else if o = 0x3010 then x.mbx.wr % 2 ^ 64
  else if o = 0x3018 then x.mbx.rd % 2 ^ 64
  else if o = 0x3020 then x.mbx.lost
  else if o = 0x4000 then word [(0, x.qCluster), (11, x.qScu), (13, x.qQueue)]
  else if o = 0x4008 then (if mine then q.cfgWord else 0)
  else if o = 0x4010 then (if mine then q.ptrWord else 0)
  else if o = 0x4018 then (if mine then s.headWord g q else 0)
  else if o = 0x4020 then (if mine then s.headTagWord g q else 0)
  else if 0x8000 ≤ o ∧ o < 0x8100 then x.msixWord ((o - 0x8000) / 8)
  else if o = 0x9000 then x.msixPending
  else 0

/-- What a register reads as. -/
def State.regRead (s : State) (r : Requester) (a : RegAddr) : Word :=
  match a with
  | .mgmt x => BitVec.ofNat 64 (s.readMgmt r x)
  | .bar0 f o => if r == .fn f then BitVec.ofNat 64 (s.readBar0 (fnKey f) o) else 0

end Sys2Proof.Machine
end

