-- ==== Sys2Proof/WellFormed.lean ====
section
/-!
DEFINITION. What the types of the operands do not already say: alignment, lengths and ranges of a command.
-/

namespace Sys2Proof

/-- A naturally aligned 64-bit access to register space (R5). -/
def RegAddr.aligned : RegAddr → Bool
  | .mgmt off => decide (off < 2 ^ 28) && (off % 8 == 0)
  | .bar0 _ off => decide (off < 0x10000) && (off % 8 == 0)

/-- The offset of a register address. -/
def RegAddr.offset : RegAddr → Nat
  | .mgmt off => off
  | .bar0 _ off => off

/-- An offset of the management space at which no block lies (R536). -/
def RegAddr.unassigned : RegAddr → Bool
  | .mgmt x => (decide (0x60000 ≤ x) && decide (x < 0x100000)) || (decide (0x180000 ≤ x) && decide (x < 0x200000))
      || (decide (0x340000 ≤ x) && decide (x < 0x400000)) || (decide (0x410000 ≤ x) && decide (x < 0x480000))
      || (decide (0x490000 ≤ x) && decide (x < 0x4000000)) || decide (0xC400000 ≤ x)
  | .bar0 _ _ => false

/-- A non-empty rectangle of quads on the grid (R19, R392). -/
def Region.wf (g : Region) : Bool :=
  decide (0 < g.qw) && decide (0 < g.qh) && decide (g.qx + g.qw ≤ 32) && decide (g.qy + g.qh ≤ 16)

/-- Well-formed commands. -/
def Instr.wf : Instr → Bool
  | .registerWrite _ a _ => a.aligned
  | .registerAccessMisaligned _ a size _ => !(size == 8 && a.offset % 8 == 0) || a.unassigned
  | .perfCounterWrap off => decide (off < 2 ^ 28) && (off % 8 == 0)
  | .shadowDoorbell _ words => words.length == 16
  | .nativeReconfiguration _ g _ _ => g.wf
  | .forcedDrain _ g => g.wf
  | .cxlMemRead _ off => off % 64 == 0
  | .cxlMemWrite _ off data mask _ => (off % 64 == 0) && (data.length == 64) && (mask.length == 64)
  | .biResponse _ line wb => decide (line < 720 * 2 ^ 24) && (match wb with | none => true | some l => l.length == 64)
  | .bisnpTimeout _ line => decide (line < 720 * 2 ^ 24)
  | .linkUp _ rate width _ => decide (0 < rate.val) && decide (0 < width.val)
  | .flrVf f => decide (0 < f.fn.val)
  | .junctionSample tj => tj.length == 8
  | .powerSample mv da a b c => decide (mv < 2 ^ 16) && decide (da < 2 ^ 16) && decide (a < 2 ^ 16) && decide (b < 2 ^ 16) && decide (c < 2 ^ 16)
  | _ => true

end Sys2Proof
end

