-- ==== Sys2Proof/Machine/Regs.lean ====
section
/-!
DEFINITION. Register writes: the rights of R540 and R541, the fields of every block that a write sets, the descriptor access
registers (R113), held accesses (R27, R326, R544), and the commands of the register map (spec/20) and of BAR0 (R385 to R387, R410).
-/

namespace Sys2Proof.Machine

/-! ### Writes in a cluster window (R540) -/

/-- The two halves of a word. -/
def lo32 (v : Word) : Nat := fld v.toNat 31 0
def hi32 (v : Word) : Nat := fld v.toNat 63 32

/-- Write the `ovf` bit of a performance counter (W1C). -/
def Perf.clearOvf (p : Perf) (v : Word) : Perf := if v.getLsbD 48 then { p with ovf := false } else p

/-- Replace the descriptor entry that a requester selected by its staged words and word 7 (R84, R113). -/
def Mu.replaceDesc (m : Mu) (r : Requester) (v : Word) : Mu :=
  let e := selOf m.dtSel r
  let x := BitVec.ofNat 512 (((upto 0 7).foldl (fun a k => a + (e.stage.getD k 0).toNat * 2 ^ (64 * k)) 0) + v.toNat * 2 ^ 448)
  { m with desc := if x = 0 then tabDel m.desc e.sel else tabSet m.desc e.sel x
           descBad := m.descBad.filter (· != e.sel), descFog := m.descFog.filter (· != e.sel), descNew := setAdd m.descNew e.sel }

/-- Select a descriptor entry: the requester's staged words become words 0 to 6 of the entry (R113). -/
def Mu.selectDesc (m : Mu) (r : Requester) (v : Word) : Mu :=
  let i := fld v.toNat 9 0
  let x := (tabGet 0 m.desc i).toNat
  { m with dtSel := selPut m.dtSel { who := r, sel := i, stage := (upto 0 7).map (fun k => BitVec.ofNat 64 (fld x (64 * k + 63) (64 * k))) } }

/-- Stage one word of a requester's entry (R113). -/
def Mu.stageDesc (m : Mu) (r : Requester) (k : Nat) (v : Word) : Mu :=
  let e := selOf m.dtSel r
  let l := (upto 0 7).map (fun i => if i = k then v else e.stage.getD i 0)
  { m with dtSel := selPut m.dtSel { e with stage := l } }

/-- A write of an MU register by a class that may make it. -/
def Mu.regWrite (m : Mu) (k : ReqClass) (r : Requester) (o : Nat) (v : Word) : Mu :=
  let own := k == .keeper || k == .owner
  if o = 0x008 then (if own then { m with downReq := v.setWidth 8 } else m)
  else if o = 0x010 then { m with cancelled := m.cancelled &&& ~~~ BitVec.ofNat 8 (fld v.toNat 23 16) }
  else if o = 0x018 then { m with ceCount := lo32 v, ueCount := hi32 v }
  else if o = 0x028 then (if k == .owner then m else { m with scrubInt := fld v.toNat 15 0 })
  else if o = 0x038 then m.selectDesc r v
  else if 0x040 ≤ o ∧ o < 0x078 then (if own then m.stageDesc r (o / 8 % 8) v else m)
  else if o = 0x078 then (if own then m.replaceDesc r v else m)
  else if o = 0x080 then { m with slotSel := selPut m.slotSel { who := r, sel := fld v.toNat 7 0 } }
  else if o = 0x210 then { m with xf := { m.xf with faults := lo32 v, refetch := hi32 v } }
  else m

/-- A write of an MCU register. -/
def Mcu.regWrite (m : Mcu) (o : Nat) (v : Word) : Mcu :=
  if o = 0x010 then clearNf m v
  else if o = 0x020 then { m with ceCount := lo32 v, ueCount := hi32 v }
  else if o = 0x028 then { m with resCount := lo32 v, tblPar := hi32 v }
  else if o = 0x030 then { m with busy := m.busy.clearOvf v }
  else if o = 0x038 then { m with waitP := m.waitP.clearOvf v }
  else if o = 0x040 then { m with epiP := m.epiP.clearOvf v }
  else m

/-- Clear flags of a VCU; `first_tag` is 0 when none stays set (R174). -/
def Vcu.clearFlags (m : Vcu) (v : Word) : Vcu :=
  let m := { m with nan := m.nan && !v.getLsbD 0, sat := m.sat && !v.getLsbD 1, div0 := m.div0 && !v.getLsbD 2, oob := m.oob && !v.getLsbD 3 }
  if m.nan || m.sat || m.div0 || m.oob then m else { m with firstTag := 0 }

/-- A write of a VCU register. -/
def Vcu.regWrite (m : Vcu) (o : Nat) (v : Word) : Vcu :=
  if o = 0x010 then m.clearFlags v
  else if o = 0x018 then { m with tblPar := lo32 v }
  else if o = 0x020 then { m with busy := m.busy.clearOvf v }
  else if o = 0x028 then { m with waitP := m.waitP.clearOvf v }
  else if o = 0x030 then { m with flits := m.flits.clearOvf v }
  else m

/-- A write of `rp` through `SCU_Q_PTR` acts as a `qrp` of the selected ring (R211); one that breaks R197 fails the context. -/
def State.writeRp (s : State) (g : Nat) (r : Requester) (v : Word) : State :=
  let u := s.scu g
  let k := (selOf u.qSel r).sel
  let q := u.queue k
  let p := fld v.toNat 39 20
  if !q.isRing || !q.rpOk p then s.failUnit g stContextFault 0x07 0x34 true
  else s.setScu g (u.setQueue k { q with rp := p })

/-- A write of an SCU register. -/
def State.writeScu (s : State) (g : Nat) (k : ReqClass) (r : Requester) (o : Nat) (v : Word) : State :=
  let u := s.scu g
  if o = 0x018 then s.setScu g { u with undeliv := hi32 v }
  else if o = 0x020 then s.setScu g { u with ceCount := lo32 v, ueCount := hi32 v }
  else if o = 0x028 then s.setScu g { u with qSel := selPut u.qSel { who := r, sel := fld v.toNat 5 0 } }
  else if o = 0x040 then (if k == .keeper || k == .owner then s.writeRp g r v else s)
  else if o = 0x060 then s.setScu g { u with busy := u.busy.clearOvf v }
  else if o = 0x068 then s.setScu g { u with waitP := u.waitP.clearOvf v }
  else if o = 0x070 then s.setScu g { u with instr := u.instr.clearOvf v }
  else s

/-- A write of a switch register. -/
def Sw.regWrite (w : Sw) (r : Requester) (o : Nat) (v : Word) : Sw :=
  if o = 0x030 then { w with tblSel := selPut w.tblSel { who := r, sel := fld v.toNat 3 0 } }
  else if o = 0x040 then { w with ce := lo32 v, ue := hi32 v }
  else if o = 0x048 then { w with perfStall := w.perfStall.clearOvf v }
  else if 0x050 ≤ o ∧ o ≤ 0x068 then { w with perf := tabSet w.perf ((o - 0x050) / 8) ((tabGet {} w.perf ((o - 0x050) / 8)).clearOvf v) }
  else w

/-- A write of a router register. -/
def Rt.regWrite (t : Rt) (o : Nat) (v : Word) : Rt :=
  if o = 0x008 then (if fld v.toNat 6 0 = 0x7F then { t with high := 0 } else t)
  else if o = 0x010 then { t with discard := lo32 v, p0Demote := hi32 v }
  else if o = 0x018 then { t with ce := lo32 v, ue := hi32 v }
  else if o = 0x020 then { t with flushes := lo32 v, slotWaits := hi32 v }
  else if 0x028 ≤ o ∧ o ≤ 0x050 then { t with perf := tabSet t.perf ((o - 0x028) / 8) ((tabGet {} t.perf ((o - 0x028) / 8)).clearOvf v) }
  else t

/-- A write of a cluster control register; the operations of `CL_SCAN_CTL` are commands of their own (R327). -/
def Cl.regWrite (c : Cl) (k : ReqClass) (o : Nat) (v : Word) : Cl :=
  if o = 0x008 then { c with flits := lo32 v, items := hi32 v }
  else if o = 0x010 then (if k == .keeper then { c with prog := v.getLsbD 3, buf := fld v.toNat 47 12 } else c)
  else if o = 0x018 then { c with done := c.done && !v.getLsbD 2, bad := c.bad && !v.getLsbD 3 }
  else if o = 0x020 then { c with stale := lo32 v }
  else c

/-- Whether an access to offset `x` of a cluster's window is held: the Keeper is swapping the cluster (R27), or it is frozen for a scan or
loading, when its control registers are not held (R310, R326). -/
def State.holdsAccess (s : State) (c x : Nat) : Bool :=
  s.swapping c || (x / 0x400 != 26 && ((s.cl c).scan != .running || (s.cl c).loading))

/-- Perform a write at offset `x` of a logical cluster's window, by the rights of R540; one addressed to a local index from 28 on is
discarded, and counted (R31). -/
def State.writeCluster (s : State) (c x : Nat) (r : Requester) (v : Word) : State :=
  let k := s.classOf r (some c)
  let u := x / 0x400
  let o := x % 0x400
  let g := gidOf c u
  if (s.cl c).retired || x % 8 ≠ 0 then s
  else if 28 ≤ u then s.discard c
  else if k == .other then s
  else if u < 12 then s.setMu g ((s.mu g).regWrite k r o v)
  else if u < 16 then s.setMcu g ((s.mcu g).regWrite o v)
  else if u < 20 then s.setVcu g ((s.vcu g).regWrite o v)
  else if u < 24 then s.writeScu g k r o v
  else if u = 24 then s.setSw c ((s.sw c).regWrite r o v)
  else if u = 25 then s.setRt c ((s.rt c).regWrite o v)
  else if u = 26 then s.setCl c ((s.cl c).regWrite k o v)
  else s

/-- Hold an access to offset `x` of a cluster's window. -/
def State.holdAccess (s : State) (c x : Nat) (r : Requester) (v : Word) (write : Bool) : State :=
  { s with held := s.held ++ [{ who := r, addr := .mgmt (0x4000000 + c * 0x8000 + x), v := v, write := write, since := s.time }] }

/-- A write to a cluster window: performed, or held. -/
def State.clusterWrite (s : State) (c x : Nat) (r : Requester) (v : Word) : State :=
  if s.holdsAccess c x then s.holdAccess c x r v true else s.writeCluster c x r v

/-- A read of the log window reads a line of device memory (R338), and may find an entry that an uncorrectable error has lost: the loss is
counted (R460). -/
def State.loseEntry (s : State) (x : Nat) : State :=
  let p := s.err.rd + x % 0x4000 / 64
  let (s, _, fog) := s.hbmRead {} (logAddr p) 64
  if p < s.err.wr ∧ fog.any id = true ∧ (tabFind s.err.log (p % 65536)).isSome = true then
    s.modErr (fun e => { e with log := tabDel e.log (p % 65536), dropped := sat32 e.dropped 1 })
  else s

/-- A request of a function that TSP has assigned, on a link whose IDE stream is not Secure (R407). -/
def State.refused (s : State) (r : Requester) : Option Nat :=
  match r with
  | .fn f => if (s.fn (fnKey f)).tsp && !(s.port f.port.val).ideSecure then some f.port.val else none
  | _ => none

/-- Whether a requester is there: the functions of a port are enumerated once its link is up in CXL mode (R381). -/
def State.enumerated (s : State) (r : Requester) : Bool :=
  match r with
  | .fn f => (s.port f.port.val).cxl
  | _ => true

/-- Answer a read: one of a cluster's local index from 28 on is discarded by the destination router, counted, and answered with zero
(R6, R31). A function that is not enumerated reads nothing, and one that is refused is answered as an unsupported request (R381, R407). -/
def State.answerRead (s : State) (r : Requester) (a : RegAddr) : State :=
  if !s.enumerated r then s
  else if (s.refused r).isSome then s.emit (.unsupported ((s.refused r).getD 0))
  else
  let v := s.regRead r a
  let s := match a with
    | .mgmt x =>
      if 0x4000000 ≤ x ∧ x < 0x8000000 ∧ 28 ≤ x % 0x8000 / 0x400 then s.discard ((x - 0x4000000) / 0x8000)
      else if 0x18000 ≤ x ∧ x < 0x1C000 then s.loseEntry x
      else s
    | .bar0 _ _ => s
  s.emit (.readReply r v)

/-- What a read by a requester does: it is held like a write (R27, R310, R326), or answered. No command of the table is a plain read
(log 152). -/
def State.readAccess (s : State) (r : Requester) (a : RegAddr) : State :=
  match a with
  | .mgmt x =>
    let c := (x - 0x4000000) / 0x8000
    if 0x4000000 ≤ x && decide (x < 0x8000000) && s.holdsAccess c (x % 0x8000) then s.holdAccess c (x % 0x8000) r 0 false else s.answerRead r a
  | .bar0 _ _ => s.answerRead r a

/-- The cluster of a register address. -/
def addrCluster (a : RegAddr) : Option Nat :=
  match a with
  | .mgmt x => if 0x4000000 ≤ x ∧ x < 0x8000000 then some ((x - 0x4000000) / 0x8000) else none
  | .bar0 _ _ => none

/-- Perform the accesses held for a cluster, in order (R27, R310, R326). -/
def State.performHeld (s : State) (c : Nat) : State :=
  let mine := s.held.filter (fun h => addrCluster h.addr == some c)
  let s : State := { s with held := s.held.filter (fun h => addrCluster h.addr != some c) }
  mine.foldl (fun (s : State) h =>
    if h.write then s.writeCluster c (h.addr.offset % 0x8000) h.who h.v else s.answerRead h.who h.addr) s

/-! ### Writes of the global blocks (R541) -/

/-- A write of `ERR_LOG_RD` within the last 65,536 records (R461). -/
def State.writeLogRd (s : State) (v : Word) : State :=
  let n := v.toNat
  if n ≤ s.err.wr ∧ s.err.wr ≤ n + 65536 then s.modErr (fun e => { e with rd := n }) else s

/-- Inject at once the error of a kind at a unit; one at the next product or the next packet comes when that does (R461). -/
def State.inject (s : State) (unit kind off : Nat) : State :=
  if kind = 1 ∧ localOf unit < 12 then
    s.setMu unit { s.mu unit with ueWords := setAdd (s.mu unit).ueWords (off / 8), injWords := setAdd (s.mu unit).injWords (off / 8) }
  else if kind = 2 ∧ 12 ≤ localOf unit ∧ localOf unit < 16 then
    s.setMcu unit { s.mcu unit with accBad := setAdd (s.mcu unit).accBad off, injAcc := setAdd (s.mcu unit).injAcc off }
  else s

/-- A write of `ERR_INJECT`: only while the device is debug-unlocked. An armed injection of kind 1 or 2 happens at once and clears `arm`; one
of kind 3 or 4 stays armed until a product or a packet meets it (R461, R462). -/
def State.writeInject (s : State) (v : Word) : State :=
  let x := v.toNat
  let unit := fld x 15 0
  let kind := fld x 19 16
  let arm := bitOf x 63 && (kind == 3 || kind == 4)
  if !s.sec.unlocked then s
  else
    let s := s.modErr (fun e => { e with injUnit := unit, injKind := kind, injOffset := fld x 41 20, arm := arm })
    if bitOf x 63 then s.inject unit kind (fld x 41 20) else s

/-- A write of an `ERR` register. -/
def State.writeErr (s : State) (o : Nat) (v : Word) : State :=
  if o = 0x000 then s.modErr (fun e => { e with alert := e.alert && !v.getLsbD 0, tablesLost := e.tablesLost && !v.getLsbD 2 })
  else if o = 0x018 then s.writeLogRd v
  else if o = 0x028 then s.modErr (fun e => { e with dropped := lo32 v })
  else if o = 0x038 then s.modErr (fun e => if v.getLsbD 0 then { e with firstValid := false } else e)
  else if o = 0x080 then s.writeInject v
  else s

/-- A write of a power register (R515). The hottest temperature since `tj_high` is cleared starts from the present one (R6; DESIGN CHOICE, log
166). -/
def Pwr.regWrite (p : Pwr) (o : Nat) (v : Word) : Pwr :=
  let x := v.toNat
  if o = 0x008 then
    let p := if 100 ≤ fld x 9 0 ∧ fld x 9 0 ≤ 680 then { p with capW := fld x 9 0 } else p
    if fld x 12 10 ≤ 4 then { p with maxStep := fld x 12 10 } else p
  else if o = 0x010 then (if fld x 63 48 = 0xFFFF then { p with peak := 0 } else p)
  else if o = 0x018 then { p with warn := fld x 15 0, doubt := fld x 31 16, therm := fld x 47 32, cool := fld x 63 48 }
  else if 0x100 ≤ o ∧ o < 0x140 then
    let k := (o - 0x100) / 8
    let d := tabGet {} p.dies k
    let d := if fld x 23 12 = 0xFFF then { d with tjHigh := d.tj } else d
    let d := if fld x 31 24 = 0xFF then { d with railLow := 0 } else d
    { p with dies := tabSet p.dies k d }
  else p

/-- Reseed every sample generator, each mixed with its global unit ID (R479). -/
def State.reseed (s : State) (v : Word) : State :=
  let seed := v.setWidth 32
  let units := (upto 0 2048).flatMap (fun c => (upto 12 8).map (gidOf c))
  units.foldl (fun (s : State) g =>
    if localOf g < 16 then s.setMcu g { s.mcu g with gen := Config.seedMix seed g } else s.setVcu g { s.vcu g with gen := Config.seedMix seed g }) s

/-- A write of an audit register (R479). -/
def State.writeAud (s : State) (o : Nat) (v : Word) : State :=
  let x := v.toNat
  let a := s.aud
  if o = 0x000 then
    let a := { a with floor := max 1 (fld x 15 0) }
    { s with aud := if 4 ≤ fld x 20 16 ∧ fld x 20 16 ≤ 24 then { a with watchN := fld x 20 16 } else a }
  else if o = 0x008 then s.reseed v
  else if o = 0x010 then { s with aud := { a with taken := lo32 v, skipped := hi32 v } }
  else if o = 0x018 then { s with aud := { a with clean := lo32 v, mismatch := hi32 v } }
  else if o = 0x020 then { s with aud := { a with unitBad := fld x 15 0, partnerBad := fld x 31 16, both := fld x 47 32, noThird := fld x 63 48 } }
  else if o = 0x028 then { s with aud := { a with crcMm := lo32 v, watch := hi32 v } }
  else if 0x100 ≤ o ∧ o < 0x300 then
    (if 10 ≤ fld x 4 0 ∧ fld x 4 0 ≤ 24 then { s with aud := { a with sect := tabSet a.sect ((o - 0x100) / 8) (fld x 4 0) } } else s)
  else s

/-- Whether the host of a port holds no line of a granule any more (R405); if it does, the snoops that invalidate its lines leave now, each
once. -/
def State.invalidated (s : State) (p g : Nat) : State × Bool :=
  let lines := (s.port p).filter.filter (fun l => l * 64 / 2 ^ 30 == g)
  let sent := fun (l : Nat) => s.snoops.any (fun x => x.port == p && x.line == l && x.inv && !x.answered)
  (s.sendSnoops none ((lines.filter (fun l => !sent l)).map (fun l => (p, l))) true, lines.isEmpty)

/-- Whether an entry of a port's map may name a granule: one of a sector that lets hosts reach its memory and uses the port, outside its
system region (R403, R414). -/
def State.mayMap (s : State) (p g : Nat) : Bool :=
  match ((s.granule g).sector).bind s.sector with
  | some x => x.hostmem && bitOf x.ports p && !x.system.contains g
  | none => false

/-- Write an entry of a port's map. -/
def Port.setMap (c : Port) (i : Nat) (v : Word) : Port :=
  let g := fld v.toNat 9 0
  let c := { c with hdmPend := tabDel c.hdmPend i }
  if v.getLsbD 10 then { c with hdmMap := tabSet c.hdmMap i g, hdmIdle := tabDel c.hdmIdle i }
  else { c with hdmMap := tabDel c.hdmMap i, hdmIdle := tabSet c.hdmIdle i g }

/-- Perform the write of an entry once its granule's lines are invalidated; until then it waits (R405). -/
def State.writeMap (s : State) (p i : Nat) (v : Word) : State :=
  match tabFind (s.port p).hdmMap i with
  | some g =>
    match s.invalidated p g with
    | (s, true) => s.setPort p ((s.port p).setMap i v)
    | (s, false) => s.setPort p { s.port p with hdmPend := tabSet (s.port p).hdmPend i v }
  | none => s.setPort p ((s.port p).setMap i v)

/-- Perform the writes of entries that wait for no line any more. -/
def State.settleMap (s : State) (p : Nat) : State := (s.port p).hdmPend.foldl (fun (s : State) e => s.writeMap p e.1 e.2) s

/-- A write of a port register (R411). One that would map a granule which R403 or R414 lets no entry name has no effect (log 156). -/
def State.writeCx (s : State) (p o : Nat) (v : Word) : State :=
  let x := v.toNat
  let c := s.port p
  if o = 0x008 then s.setPort p { c with perst := fld x 15 0, flr := fld x 31 16, hot := fld x 47 32 }
  else if o = 0x010 then s.setPort p { c with bisnp := lo32 v, biTimeout := hi32 v }
  else if o = 0x018 then s.setPort p { c with unmapped := lo32 v, resetDrop := hi32 v }
  else if 0x1000 ≤ o ∧ o < 0x1000 + 8 * 718 then
    let i := (o - 0x1000) / 8
    if bitOf x 10 && !s.mayMap p (fld x 9 0) then s else s.writeMap p i v
  else s

/-- A write of a repeat cache quota: applied, or without effect when reserved or when the sum would exceed 128 (R358). A
smaller quota evicts the least recently used lines beyond it. -/
def Ctrl.setQuota (c : Ctrl) (sec q : Nat) : Ctrl :=
  let sum := c.quota.foldl (fun a e => if e.1 = sec then a else a + e.2) 0
  if 128 < q ∨ 128 < sum + q then c
  else
    let mine := (c.cache.filter (fun e => e.1 == sec)).length
    let drop := mine - q * 1024
    let gone := (c.cache.filter (fun e => e.1 == sec)).take drop
    { c with quota := if q = 0 then tabDel c.quota sec else tabSet c.quota sec q, cache := c.cache.filter (fun e => !gone.contains e) }

/-- A write of a controller register (R358). -/
def Ctrl.regWrite (c : Ctrl) (o : Nat) (v : Word) : Ctrl :=
  if o = 0x008 then { c with ce := lo32 v, ue := hi32 v }
  else if o = 0x010 then { c with inner := lo32 v }
  else if o = 0x020 then { c with scrubInt := fld v.toNat 15 0 }
  else if o = 0x028 then { c with rcHit := c.rcHit.clearOvf v }
  else if o = 0x030 then { c with rcMiss := c.rcMiss.clearOvf v }
  else if o = 0x038 then { c with perfRd := c.perfRd.clearOvf v }
  else if o = 0x040 then { c with perfWr := c.perfWr.clearOvf v }
  else if 0x100 ≤ o ∧ o < 0x300 then c.setQuota ((o - 0x100) / 8) (fld v.toNat 7 0)
  else c

/-- A value held to 1 to 64 (R243, R267). -/
def to64 (n : Nat) : Nat := if n = 0 then 1 else min n 64

/-- A write of a foghorn register (R243, R246). -/
def Sf.regWrite (f : Sf) (o : Nat) (v : Word) : Sf :=
  let x := v.toNat
  if o = 0x00 then { f with thr := to64 (fld x 6 0) }
  else if o = 0x08 then { f with base := fld x 39 21 * 2 ^ 21, size := fld x 42 40 }
  else if o = 0x10 then (if fld x 46 24 = 0x7FFFFF then { f with high := 0 } else f)
  else if o = 0x18 then { f with stalls := lo32 v, starved := hi32 v }
  else f

/-- A write of a group register or of `PM_CTL` (R267). -/
def State.writePm (s : State) (o : Nat) (v : Word) : State :=
  let k := o / 64
  let g := s.grp k
  if o = 0x4000 then { s with pmFlush := to64 (fld v.toNat 6 0) }
  else if 0x4000 ≤ o then s
  else if o % 64 = 0x00 then s.setGrp k { g with ctl := v }
  else if o % 64 = 0x08 then s.setGrp k { g with dest := BitVec.ofNat 64 (fld v.toNat 51 0) }
  else if o % 64 = 0x10 then s.setGrp k { g with notify := BitVec.ofNat 64 (fld v.toNat 24 0) }
  else s

/-- A Keeper write at a management offset outside the cluster windows; registers with an operation of their own are commands. -/
def State.keeperWrite (s : State) (x : Nat) (v : Word) : State :=
  let o := x % 0x10000
  if x < 0x10000 then
    (if o = 0x020 then { s with kpr := { s.kpr with retrainH := fld v.toNat 7 0 } }
     else if o = 0x028 then { s with kpr := { s.kpr with wrapSel := selPut s.kpr.wrapSel { who := .keeper, sel := fld v.toNat 27 3 * 8 } } }
     else if o = 0x050 then { s with kpr := { s.kpr with mgmt := v.setWidth 8 } }
     else if o = 0x058 then { s with kpr := { s.kpr with timeouts := lo32 v, bad := hi32 v } }
     else s)
  else if x < 0x20000 then s.writeErr o v
  else if x < 0x30000 then { s with pwr := s.pwr.regWrite o v }
  else if x < 0x40000 then s
  else if x < 0x50000 then (if o = 0x018 then { s with txn := { s.txn with addr := fld v.toNat 27 3 * 8 } } else s)
  else if x < 0x60000 then s.writeAud o v
  else if 0x100000 ≤ x ∧ x < 0x180000 then s.writeCx ((x - 0x100000) / 0x10000) o v
  else if 0x200000 ≤ x ∧ x < 0x340000 then
    let n := (x - 0x200000) / 0x10000
    s.setCtrl n ((s.ctrl n).regWrite o v)
  else if 0x400000 ≤ x ∧ x < 0x401000 then s.setSf (o / 64) ((s.sf (o / 64)).regWrite (o % 64) v)
  else if 0x480000 ≤ x ∧ x < 0x490000 then s.writePm o v
  else s

/-- A write outside the cluster windows by the classes of R541. -/
def State.blockWrite (s : State) (r : Requester) (x : Nat) (v : Word) : State :=
  match s.classOf r none with
  | .keeper => s.keeperWrite x v
  | .management =>
    if x = 0x020 ∧ r ≠ .board then { s with kpr := { s.kpr with retrainH := fld v.toNat 7 0 } }
    else if x = 0x028 ∧ r ≠ .board then { s with kpr := { s.kpr with wrapSel := selPut s.kpr.wrapSel { who := r, sel := fld v.toNat 27 3 * 8 } } }
    else if x = 0x050 ∧ r = .board then { s with kpr := { s.kpr with mgmt := v.setWidth 8 } }
    else if x = 0x40018 ∧ r ≠ .board then { s with txn := { s.txn with addr := fld v.toNat 27 3 * 8 } }
    else s
  | _ => s

/-! ### Accesses that are refused (R5, R536) -/

/-- Log a refused access once per function per second; one of the Keeper or the board controller is logged each time. -/
def State.logAccess (s : State) (r : Requester) (off : Nat) : State :=
  let rec_ : ErrRec := { cls := 9, sev := 0, cause := 0x0C, akind := 7, addr := off }
  match r with
  | .fn f =>
    let x := s.fn (fnKey f)
    match x.accLogged with
    | some t => if s.time < t + 1000000000 then s else (s.setFn (fnKey f) { x with accLogged := some s.time }).record rec_
    | none => (s.setFn (fnKey f) { x with accLogged := some s.time }).record rec_
  | _ => s.record rec_

/-- Count and log a refused access (R536, R546). -/
def State.badAccess (s : State) (r : Requester) (off : Nat) : State :=
  ({ s with kpr := { s.kpr with bad := sat32 s.kpr.bad 1 } } : State).logAccess r off

/-! ### Interrupts (R383, R401; log 8) -/

/-- Signal a vector of a function: a masked one is pending. -/
def State.signal (s : State) (f v : Nat) : State :=
  let x := s.fn f
  if bitOf (x.msixWord (2 * v + 1)) 32 then s.setFn f { x with msixPending := if x.msixPending.testBit v then x.msixPending else x.msixPending + 2 ^ v }
  else s.emit (.msix (f / 128) (f % 128) v)

/-- What an MSI-X table word holds of a written word: of the vector control only the mask bit, the rest of it is reserved (R6, R383;
log 8). -/
def msixKept (k : Nat) (v : Word) : Word := if k % 2 = 1 then BitVec.ofNat 64 (fld v.toNat 32 0) else v

/-- A write of an MSI-X table word; a vector that is pending and no longer masked is signalled. -/
def State.writeMsix (s : State) (f k : Nat) (v : Word) : State :=
  let x := s.fn f
  let s := s.setFn f { x with msix := tabSet x.msix k (msixKept k v) }
  let n := k / 2
  if x.msixPending.testBit n && !bitOf ((s.fn f).msixWord (2 * n + 1)) 32 then
    (s.setFn f { s.fn f with msixPending := x.msixPending - 2 ^ n }).signal f n
  else s

/-! ### BAR0 (R383 to R389, R410) -/

/-- A write to a tail doorbell (R385, R386). -/
def Ring.tail (r : Ring) (v : Nat) : Ring :=
  if !r.enable ∨ v ≤ r.t then r
  else if r.d + ringEntries r.size < v then { r with overrun := true }
  else { r with t := v }

/-- A write to a completion head doorbell (R386). -/
def Ring.cplHead (r : Ring) (v : Nat) : Ring := if r.enable && decide (r.h < v) && decide (v ≤ r.d) then { r with h := v } else r

/-- A write of `CX_RING_SEQ` while the ring is disabled (R385). -/
def Ring.setSeq (r : Ring) (v : Nat) : Ring := if r.enable then r else { r with f := v, d := v, t := v, h := v, odd := [], cmds := [] }

/-- A write of `CX_RING_CTL`: while the ring is enabled only a clear of `enable` acts (R389); a reserved size leaves it disabled. -/
def Ring.setCtl (r : Ring) (v : Nat) : Ring :=
  if r.enable then (if bitOf v 0 then r else { r with enable := false, stopped := false })
  else
    let r := { r with size := fld v 4 1, vec := fld v 8 5, shadow := bitOf v 9, coalN := fld v 17 10, coalUs := fld v 33 18, intEn := bitOf v 34 }
    { r with enable := bitOf v 0 && ringEntries r.size != 0 }

/-- A write of a ring register. -/
def Ring.regWrite (r : Ring) (o v : Nat) : Ring :=
  if o = 0x00 then (if r.enable then r else { r with cmdBase := fld v 63 6 * 64 })
  else if o = 0x08 then (if r.enable then r else { r with cplBase := fld v 63 6 * 64 })
  else if o = 0x10 then r.setCtl v
  else if o = 0x18 then { r with stalled := r.stalled && !bitOf v 1, overrun := r.overrun && !bitOf v 2 }
  else if o = 0x20 then r.setSeq v
  else r

/-- A write of a function's register by its driver. -/
def State.writeBar0 (s : State) (f o : Nat) (v : Word) : State :=
  let x := s.fn f
  let n := v.toNat
  if o = 0x0000 then s.setFn f { x with resetSeen := x.resetSeen && !v.getLsbD 1 }
  else if o = 0x0018 then s.setFn f { x with shadowBase := fld n 63 7 * 128 }
  else if 0x1000 ≤ o ∧ o < 0x1400 then s.setRing f ((o - 0x1000) / 0x40) ((s.ring f ((o - 0x1000) / 0x40)).regWrite (o % 0x40) n)
  else if 0x2000 ≤ o ∧ o < 0x2080 then s.setRing f ((o - 0x2000) / 8) ((s.ring f ((o - 0x2000) / 8)).tail n)
  else if 0x2080 ≤ o ∧ o < 0x2100 then s.setRing f ((o - 0x2080) / 8) ((s.ring f ((o - 0x2080) / 8)).cplHead n)
  else if o = 0x3000 then s.setFn f { x with mbx := { x.mbx with base := fld n 63 6 * 64 } }
  else if o = 0x3008 then
    s.setFn f { x with mbx := { x.mbx with stopped := false, enable := bitOf n 0 && decide (1 ≤ fld n 4 1) && decide (fld n 4 1 ≤ 12), size := fld n 4 1, vec := fld n 8 5 } }
  else if o = 0x3018 then s.setFn f { x with mbx := { x.mbx with rd := n } }
  else if o = 0x4000 then s.setFn f { x with qCluster := fld n 10 0, qScu := fld n 12 11, qQueue := fld n 18 13 }
  else if 0x8000 ≤ o ∧ o < 0x8100 then s.writeMsix f ((o - 0x8000) / 8) v
  else s

/-! ### One register write -/

/-- A naturally aligned write of any register by a requester. While a device reset runs, writes through BAR2 and MCTP are
discarded (R545). -/
def State.regWrite (s : State) (r : Requester) (a : RegAddr) (v : Word) : State :=
  if !s.enumerated r then s
  else match s.refused r, a with
  | some p, _ => s.emit (.unsupported p)
  | none, .bar0 f o => if r == .fn f && !(s.phase == .off) then s.writeBar0 (fnKey f) o v else s
  | none, .mgmt x =>
    if (r != .keeper && s.inReset) || s.phase == .off then s
    else if !reaches r x then s
    else if !assigned x then s.badAccess r x
    else if 0x4000000 ≤ x ∧ x < 0x8000000 then s.clusterWrite ((x - 0x4000000) / 0x8000) (x % 0x8000) r v
    else if 0x8000000 ≤ x then
      (if r == .keeper then
        (let q := posOfPhys ((x - 0x8000000) / 0x8000)
         match s.logicalAt q.1 q.2 with | some c => s.clusterWrite c (x % 0x8000) .keeper v | none => s)
       else s)
    else s.blockWrite r x v

/-- The management offset of a register of a unit. -/
def unitReg (g o : Nat) : RegAddr := .mgmt (0x4000000 + clusterOf g * 0x8000 + localOf g * 0x400 + o)

/-- REGISTER_WRITE (R8). -/
def execRegisterWrite (r : Requester) (a : RegAddr) (v : Word) (s : State) : Res := .next (s.regWrite r a v)

/-- REGISTER_ACCESS_MISALIGNED (R5): a write is ignored, a read returns zero; the access is counted and logged. -/
def execRegisterAccessMisaligned (r : Requester) (a : RegAddr) (_size : Nat) (write : Bool) (s : State) : Res :=
  if !s.enumerated r then .next s
  else if (s.refused r).isSome then .next (s.emit (.unsupported ((s.refused r).getD 0)))
  else
  let s := s.badAccess r a.offset
  .next (if write then s else s.emit (.readReply r 0))

/-- HELD_ACCESS_TIMEOUT (R544): held access `n`, at 5 ms, is abandoned. -/
def execHeldAccessTimeout (n : Nat) (s : State) : Res :=
  match s.held[n]? with
  | none => .next s
  | some h =>
    let s := s.advanceTo (h.since + 5000000)
    let s : State := { s with held := listDel s.held n, kpr := { s.kpr with timeouts := sat32 s.kpr.timeouts 1 } }
    .next (if h.write then s else s.emit (.readReply h.who (BitVec.allOnes 64)))

/-- MU_DT_SEL_WRITE (R113). -/
def execMuDtSelWrite (r : Requester) (m : MuId) (v : Word) (s : State) : Res := .next (s.regWrite r (unitReg (muGid m) 0x038) v)

/-- MU_DT_WORD_STAGE (R113). -/
def execMuDtWordStage (r : Requester) (m : MuId) (k : Fin 7) (v : Word) (s : State) : Res :=
  .next (s.regWrite r (unitReg (muGid m) (0x040 + 8 * k.val)) v)

/-- MU_DT_WORD7_WRITE (R113). -/
def execMuDtWord7Write (r : Requester) (m : MuId) (v : Word) (s : State) : Res := .next (s.regWrite r (unitReg (muGid m) 0x078) v)

/-- MU_BG_CTL_WRITE (R108). -/
def execMuBgCtlWrite (r : Requester) (m : MuId) (v : Word) (s : State) : Res := .next (s.regWrite r (unitReg (muGid m) 0x008) v)

/-- SCU_Q_PTR_WRITE (R211). -/
def execScuQPtrWrite (r : Requester) (u : ScuId) (v : Word) (s : State) : Res := .next (s.regWrite r (unitReg (scuGid u) 0x040) v)

/-- NF_FLAG_CLEAR (R145). -/
def execNfFlagClear (r : Requester) (u : McuId) (v : Word) (s : State) : Res := .next (s.regWrite r (unitReg (mcuGid u) 0x010) v)

/-- VCU_FLAG_CLEAR (R174). -/
def execVcuFlagClear (r : Requester) (u : VcuId) (v : Word) (s : State) : Res := .next (s.regWrite r (unitReg (vcuGid u) 0x010) v)

/-- CX_DB_TAIL_WRITE (R386). -/
def execCxDbTailWrite (f : FnId) (r : Fin 16) (v : Word) (s : State) : Res := .next (s.regWrite (.fn f) (.bar0 f (0x2000 + 8 * r.val)) v)

/-- CX_DB_CPLHEAD_WRITE (R386). -/
def execCxDbCplheadWrite (f : FnId) (r : Fin 16) (v : Word) (s : State) : Res :=
  .next (s.regWrite (.fn f) (.bar0 f (0x2080 + 8 * r.val)) v)

/-- CX_RING_SEQ_WRITE (R385). -/
def execCxRingSeqWrite (f : FnId) (r : Fin 16) (v : Word) (s : State) : Res :=
  .next (s.regWrite (.fn f) (.bar0 f (0x1020 + 0x40 * r.val)) v)

/-- RING_ENABLE (R385): a write of `CX_RING_CTL` with `enable` set. -/
def execRingEnable (f : FnId) (r : Fin 16) (v : Word) (s : State) : Res :=
  .next (s.regWrite (.fn f) (.bar0 f (0x1010 + 0x40 * r.val)) (v ||| 1#64))

/-- RING_DISABLE (R389): a write of `CX_RING_CTL` with `enable` clear. -/
def execRingDisable (f : FnId) (r : Fin 16) (v : Word) (s : State) : Res :=
  .next (s.regWrite (.fn f) (.bar0 f (0x1010 + 0x40 * r.val)) (v &&& ~~~ 1#64))

/-- STALLED_CLEAR (R388). -/
def execStalledClear (f : FnId) (r : Fin 16) (s : State) : Res := .next (s.regWrite (.fn f) (.bar0 f (0x1018 + 0x40 * r.val)) 2#64)

/-- OVERRUN_CLEAR (R386). -/
def execOverrunClear (f : FnId) (r : Fin 16) (s : State) : Res := .next (s.regWrite (.fn f) (.bar0 f (0x1018 + 0x40 * r.val)) 4#64)

/-- The lines of the shadow doorbell area that the port holds in its CXL.cache in Shared state: those with the word of a ring that has
`shadow` set, while CXL.cache is enabled (R387). -/
def State.shadowLines (s : State) (f : Nat) : List Nat :=
  if !(s.port (f / 128)).cacheEn then []
  else ((upto 0 16).filter (fun r => (s.ring f r).shadow)).foldl (fun l r => setAdd l (((s.fn f).shadowBase + 8 * r) / 64)) []

/-- SHADOW_DOORBELL (R387): a host store has invalidated the area; the port reads each line that it held again, and treats each word of a
ring with `shadow` set as a tail write. -/
def execShadowDoorbell (f : FnId) (words : List Word) (s : State) : Res :=
  let k := fnKey f
  let l := s.shadowLines k
  let s := l.foldl (fun (s : State) a => s.emit (.hostRead f.port.val (a * 64) 64)) s
  .next ((words.zip (upto 0 16)).foldl (fun (s : State) (v, r) =>
    let x := s.ring k r
    if x.shadow && l.contains (((s.fn k).shadowBase + 8 * r) / 64) then s.setRing k r (x.tail v.toNat) else s) s)

/-- ERR_LOG_RD_WRITE (R461). -/
def execErrLogRdWrite (r : Requester) (v : Word) (s : State) : Res := .next (s.regWrite r (.mgmt 0x10018) v)

/-- HBM_RC_QUOTA_WRITE (R358). -/
def execHbmRcQuotaWrite (r : Requester) (n : Fin 20) (sec : Fin 64) (v : Word) (s : State) : Res :=
  .next (s.regWrite r (.mgmt (0x200100 + n.val * 0x10000 + 8 * sec.val)) v)

/-- AUD_SEED_WRITE (R479). -/
def execAudSeedWrite (r : Requester) (v : Word) (s : State) : Res := .next (s.regWrite r (.mgmt 0x50008) v)

/-- ERR_INJECT_ARM (R462). -/
def execErrInjectArm (r : Requester) (v : Word) (s : State) : Res := .next (s.regWrite r (.mgmt 0x10080) (v ||| (1#64 <<< 63)))

/-! ### Wraps of performance counters (R146, R532) -/

/-- The signal of a unit's performance counter at offset `o` of its block is taken; none when it has sent none. -/
def State.takeSignal (s : State) (c u o : Nat) : Option State :=
  let g := gidOf c u
  if 16 ≤ u ∧ u < 20 then (s.vcu g).flits.taken.map (fun p => s.setVcu g { s.vcu g with flits := p })
  else if 20 ≤ u ∧ u < 24 then (s.scu g).instr.taken.map (fun p => s.setScu g { s.scu g with instr := p })
  else if u = 24 then
    let k := (o - 0x050) / 8
    (tabGet ({} : Perf) (s.sw c).perf k).taken.map (fun p => s.setSw c { s.sw c with perf := tabSet (s.sw c).perf k p })
  else if u = 25 then
    let k := (o - 0x028) / 8
    (tabGet ({} : Perf) (s.rt c).perf k).taken.map (fun p => s.setRt c { s.rt c with perf := tabSet (s.rt c).perf k p })
  else none

/-- The same of a controller's counter. -/
def Ctrl.takeSignal (c : Ctrl) (o : Nat) : Option Ctrl :=
  if o = 0x028 then c.rcHit.taken.map (fun p => { c with rcHit := p })
  else if o = 0x030 then c.rcMiss.taken.map (fun p => { c with rcMiss := p })
  else if o = 0x038 then c.perfRd.taken.map (fun p => { c with perfRd := p })
  else if o = 0x040 then c.perfWr.taken.map (fun p => { c with perfWr := p })
  else none

/-- A counter of array cycles, which the model does not count (log 54), wraps: it sets `ovf`. -/
def State.wrapCycles (s : State) (c u o : Nat) : State :=
  let g := gidOf c u
  if 12 ≤ u ∧ u < 16 then
    let m := s.mcu g
    s.setMcu g (if o = 0x030 then { m with busy := { m.busy with ovf := true } } else if o = 0x038 then { m with waitP := { m.waitP with ovf := true } }
                else { m with epiP := { m.epiP with ovf := true } })
  else if 16 ≤ u ∧ u < 20 then
    let m := s.vcu g
    s.setVcu g (if o = 0x020 then { m with busy := { m.busy with ovf := true } } else { m with waitP := { m.waitP with ovf := true } })
  else if 20 ≤ u ∧ u < 24 then
    let m := s.scu g
    s.setScu g (if o = 0x060 then { m with busy := { m.busy with ovf := true } } else { m with waitP := { m.waitP with ovf := true } })
  else s.setSw c { s.sw c with perfStall := { (s.sw c).perfStall with ovf := true } }

/-- Whether an offset of a cluster window is that of a counter of array cycles. -/
def isCycles (x : Nat) : Bool :=
  let o := x % 0x400
  let u := x % 0x8000 / 0x400
  (decide (12 ≤ u) && decide (u < 16)) || (decide (16 ≤ u) && decide (u < 20) && (o == 0x020 || o == 0x028))
    || (decide (20 ≤ u) && decide (u < 24) && (o == 0x060 || o == 0x068)) || (u == 24 && o == 0x048)

/-- Whether an offset is that of a 48-bit counter. -/
def isPerf (x : Nat) : Bool :=
  let o := x % 0x400
  if 0x4000000 ≤ x ∧ x < 0x8000000 then
    let u := x % 0x8000 / 0x400
    (decide (12 ≤ u) && decide (u < 16) && [0x030, 0x038, 0x040].contains o) || (decide (16 ≤ u) && decide (u < 20) && [0x020, 0x028, 0x030].contains o)
      || (decide (20 ≤ u) && decide (u < 24) && [0x060, 0x068, 0x070].contains o) || (u == 24 && [0x048, 0x050, 0x058, 0x060, 0x068].contains o)
      || (u == 25 && [0x028, 0x030, 0x038, 0x040, 0x048, 0x050].contains o)
  else decide (0x200000 ≤ x) && decide (x < 0x340000) && [0x028, 0x030, 0x038, 0x040].contains (x % 0x10000)

/-- The counter at a management offset has wrapped, and its signal to the Keeper is taken; none when it has not. -/
def State.wrapped (s : State) (off : Nat) : Option State :=
  let c := (off - 0x4000000) / 0x8000
  let u := off % 0x8000 / 0x400
  if off < 0x4000000 then
    let n := (off - 0x200000) / 0x10000
    ((s.ctrl n).takeSignal (off % 0x10000)).map (s.setCtrl n)
  else if isCycles off then some (s.wrapCycles c u (off % 0x400))
  else s.takeSignal c u (off % 0x400)

/-- PERF_COUNTER_WRAP (R146, R532): the Keeper adds 1 to the wrap count of the counter at a management offset, which has wrapped; one
that has not sends no signal, and nothing happens. -/
def execPerfCounterWrap (off : Nat) (s : State) : Res :=
  if !isPerf off then .next s
  else match s.wrapped off with
    | none => .next s
    | some s => .next { s with kpr := { s.kpr with wraps := tabSet s.kpr.wraps off (tabGet 0 s.kpr.wraps off + 1) } }

end Sys2Proof.Machine
end

