-- ==== Sys2Proof/Machine/Scan.lean ====
section
/-!
DEFINITION. State scan (R319 to R327): what a scan image takes out of a cluster and puts back, and the operations of `CL_SCAN_CTL`.
-/

namespace Sys2Proof.Machine

/-! ### Taking a cluster's state out (R319) -/

/-- The entries of a table of units that lie in a cluster. -/
def ofCluster {α : Type} (t : Tab α) (c : Nat) : Tab α := t.filter (fun e => clusterOf e.1 == c)

/-- A tensor unit as scan-out reads it: an uncorrectable word of a queue or of its instruction memory is fog (R320). -/
def Tu.scanned (t : Tu) : Tu :=
  { t with
    timBad := [], timFog := t.timBad.foldl setAdd t.timFog
    inq0 := t.inq0.map Flit.settle, inq1 := t.inq1.map Flit.settle, outq0 := t.outq0.map Flit.settle, outq1 := t.outq1.map Flit.settle
    hand := t.hand.map Flit.settle }

/-- An uncorrectable descriptor entry that a scan reads is fog (R320). -/
def Mu.fogDesc (m : Mu) : Mu := { m with descBad := [], descFog := m.descBad.foldl setAdd m.descFog }

/-- A memory unit as scan-out reads it: its contents stay where they are (R320). -/
def Mu.scanned (m : Mu) : Mu := { m.fogDesc with mem := [], fog := [], fogBad := [], ceWords := [], ueWords := [], injWords := [], checks := [] }

/-- A matrix unit as scan-out reads it: a tile with an uncorrectable entry is fogged (R320). -/
def Mcu.scanned (m : Mcu) : Mcu :=
  { m with tileFog := m.accBad.foldl (fun f e => f ||| (1#32 <<< (e / 1024))) m.tileFog, accCe := [], accBad := [], injAcc := [] }

/-- A scalar unit as scan-out reads it: an uncorrectable instruction word is fog (R320). -/
def Scu.scanned (u : Scu) : Scu := { u with imemUe := [], imemFog := u.imemUe.foldl setAdd u.imemFog }

/-- A switch as scan-out reads it. -/
def Sw.scanned (w : Sw) : Sw :=
  { w with
    bufs := tabMap w.bufs (fun _ l => l.map Flit.settle), waiting := tabMap w.waiting (fun _ l => l.map Flit.settle)
    cross := tabMap w.cross (fun _ l => l.map (fun e => (e.1, e.2.settle))) }

/-- The scan image of a cluster as it stands. -/
def State.takeScan (s : State) (c : Nat) (prog : Bool) (buf : Option Nat) : ScanImg :=
  { cluster := c, context := (s.ownerOf c).getD 0, prog := prog, epoch := (s.cl c).epoch, boot := s.flash.boot, imageCrc := (s.cl c).imageCrc
    tus := tabMap (ofCluster s.tus c) (fun _ t => t.scanned), mus := tabMap (ofCluster s.mus c) (fun _ m => m.scanned)
    mcus := tabMap (ofCluster s.mcus c) (fun _ m => m.scanned), vcus := ofCluster s.vcus c, scus := tabMap (ofCluster s.scus c) (fun _ u => u.scanned), sw := (s.sw c).scanned
    rounds := (s.rt c).rounds, notes := (s.rt c).notes, quiet := (s.cl c).quietEpoch, buf := buf
    roots := tabMap ((s.rt c).slots.filter (fun e => e.2.root)) (fun _ k => { k with fog := k.fog || k.ue, ce := false, ue := false }) }

/-- Requests of a cluster's units that no controller has served leave its queue: after the scan they are made again (R320). -/
def State.dropRequests (s : State) (c : Nat) : State :=
  s.setHbm { s.hbm with ctrls := tabMap s.hbm.ctrls (fun _ k => { k with queue := k.queue.filter (fun h => clusterOf h.unit != c) }) }

/-- The flits that stand in a cluster's stream queues. -/
def ScanImg.flits (i : ScanImg) : Nat :=
  (i.tus.map (fun e => e.2.inq0.length + e.2.inq1.length + e.2.outq0.length + e.2.outq1.length + e.2.hand.length)).sum
    + ((i.sw.bufs ++ i.sw.waiting).map (fun e => e.2.length)).sum + (i.sw.cross.map (fun e => e.2.length)).sum

/-- The messages in the send buffer of a unit. -/
def ScanImg.sends (i : ScanImg) (u : Nat) : Nat :=
  if u < 20 then (tabGet ({} : Tu) i.tus (gidOf i.cluster u)).send.length else (tabGet ({} : Scu) i.scus (gidOf i.cluster u)).send.length

/-- Tiles of a matrix unit that an image holds whole: those with a value other than +0 or with their fog bit set (R319). -/
def Mcu.scanTiles (m : Mcu) : Nat := ((upto 0 32).filter (fun t => m.tileFog.getLsbD t || (m.tile t).any (· != 0))).length

/-- The parts of an image, by the rows of R319. Where the manual states no length, a free value within the row's bound (log 82): tiles of
4 KiB beside their bits, flits of 128 B, messages of at most 4 KiB. -/
def ScanImg.parts (i : ScanImg) (seed : BitVec 512) : List ScanPart :=
  let free := fun (row u lo hi : Nat) => lo + Config.scanLen seed (32 * row + u) % (hi + 1 - lo)
  let each := fun (row lo n : Nat) (f : Nat → Nat) => (upto lo n).map (fun u => (⟨row, u, f u⟩ : ScanPart))
  let prog := fun (l : List ScanPart) => if i.prog then l else []
  let l := prog (each 0 0 20 (fun _ => 16384)) ++ prog (each 1 20 4 (fun _ => 65536))
    ++ each 2 0 12 (fun u => 64 * (if i.prog then 1024 else min 1024 (tabGet ({} : Mu) i.mus (gidOf i.cluster u)).descNew.length))
    ++ prog (each 3 24 1 (fun u => free 3 u 1 1024))
    ++ each 4 0 12 (fun u => free 4 u 1 2133)
    ++ each 5 12 4 (fun u => 4096 * (tabGet ({} : Mcu) i.mcus (gidOf i.cluster u)).scanTiles + free 5 u 8 256)
    ++ each 6 12 4 (fun u => free 6 u 1 40960) ++ each 7 16 4 (fun u => free 7 u 1 1024) ++ each 8 20 4 (fun u => free 8 u 1 1024)
    ++ each 9 20 4 (fun u => free 9 u 1 28672)
    ++ each 10 0 24 (fun u => let n := min 8 (i.sends u); free 10 u n (4096 * n))
    ++ each 11 24 1 (fun u => let n := min 1408 i.flits; free 11 u (128 * n) (128 * n + 1024))
    ++ each 12 0 12 (fun u => free 12 u 1 341)
    ++ each 13 25 1 (fun u => free 13 u (min 1 (i.roots.length + i.rounds.length)) (if i.roots.isEmpty && i.rounds.isEmpty then 0 else 32768))
  l ++ [⟨14, 0, (l.map (fun p => ceilDiv (ceilDiv p.len 64) 8)).sum⟩]

/-- Length of an image in units of 64 B: header, directory and parts, each from a line of its own; at most 3,200 KiB (R319). -/
def ScanImg.length (i : ScanImg) : Nat := min 51200 (1 + ceilDiv (16 * i.dir.length) 64 + (i.dir.map (fun p => ceilDiv p.len 64)).sum)

/-- The bytes of part `k`. -/
def ScanImg.partBytes (i : ScanImg) (k : Nat) (p : ScanPart) : List Byte := (upto (k * 2 ^ 22) p.len).map (Config.scanByte i.seed)

/-- The directory of an image whose parts begin at byte `off`, from part `k` on (R321). -/
def ScanImg.entries (i : ScanImg) : Nat → Nat → List ScanPart → List Byte
  | _, _, [] => []
  | off, k, p :: l =>
    toBytes 16 (word [(0, (Config.partCode p.row).toNat), (8, p.unit % 32), (32, off % 2 ^ 32), (64, p.len % 2 ^ 32), (96, (crc32c (i.partBytes k p)).toNat)])
      ++ i.entries (off + ceilDiv p.len 64 * 64) (k + 1) l

/-- The header of a scan image with the value `crc` in its CRC field (R321). -/
def ScanImg.headerWith (i : ScanImg) (crc : BitVec 32) : List Byte :=
  toBytes 64 (word [(0, 0x4B525343), (32, i.cluster % 2 ^ 11), (43, i.context % 2 ^ 12), (55, b2n i.prog), (56, i.epoch % 2 ^ 12), (68, i.boot % 2 ^ 16),
    (84, i.length % 2 ^ 16), (112, i.dir.length % 2 ^ 16), (128, crc.toNat), (160, i.imageCrc.toNat)])

/-- The directory of an image. -/
def ScanImg.directory (i : ScanImg) : List Byte := i.entries (64 + ceilDiv (16 * i.dir.length) 64 * 64) 0 i.dir

/-- The header, its CRC taken over header and directory with the field zero (R321). -/
def ScanImg.header (i : ScanImg) : List Byte := i.headerWith (crc32c (i.headerWith 0 ++ i.directory))

/-- Bytes filled up to a line with zeros. -/
def toLine (l : List Byte) : List Byte := l ++ List.replicate (ceilDiv l.length 64 * 64 - l.length) 0

/-- The bytes of a scan image: its header, its directory and its parts. -/
def ScanImg.bytes (i : ScanImg) : List Byte :=
  i.header ++ (toLine i.directory ++ ((i.dir.zip (upto 0 i.dir.length)).flatMap (fun e => toLine (i.partBytes e.2 e.1)))).take (i.length * 64 - 64)

/-- Size of a scan image in KiB. -/
def ScanImg.kib (i : ScanImg) : Nat := ceilDiv i.length 16

/-- Write a scan image at its page of device memory, in lines without fog or errors. The bytes of its parts are not stated: free values
(log 82). -/
def State.putImage (s : State) (i : ScanImg) : State × ScanImg :=
  let (w, s) := s.draw
  let i := { i with dir := i.parts w, seed := w }
  match i.buf with
  | none => (s, i)
  | some b =>
    let a := b * 4096
    let n := i.bytes.length
    let s := s.setHbm { s.hbm with
      fogLines := s.hbm.fogLines.filter (fun l => !(decide (a ≤ l * 64) && decide (l * 64 < a + n)))
      errs := s.hbm.errs.filter (fun e => !(decide (a ≤ e.1 * 32) && decide (e.1 * 32 < a + n))) }
    let s := s.hbmWrite { unit := gidOf i.cluster 26 } a i.bytes []
    ({ s with scanImgs := tabSet s.scanImgs b i }, i)

/-- Scan-out reads every accumulator tile that holds an error (R143, R320). -/
def State.readTiles (s : State) (c : Nat) : State :=
  (upto 12 4).foldl (fun (s : State) u => (upto 0 32).foldl (fun (s : State) t => s.readTile (gidOf c u) t) s) s

/-! ### Putting it back (R320, R323, R355) -/

/-- What a run asks of memory again after a scan: a transfer restarts at its watermark; a generator refetches from the first element of
its walk that has not been delivered, what has landed of it being lost; a write that has not been acknowledged is made again. -/
def Run.refetch (r : Run) : Run :=
  if r.iss.i.op = 0x04 then { r with reqs := [] }
  else if (r.iss.i.op = 0x01 || r.iss.i.op = 0x09) && decide (r.phase ≤ 2) then { r with phase := 0, els := [], came := [], reqs := [] }
  else { r with reqs := r.reqs.map (fun q =>
    if (q.write && !q.done) || (!q.write && decide (r.phase ≤ 1)) then { q with sent := false, answered := false, done := false } else q) }

/-- Rows of a transfer that waits for a page: they will be fetched again after the fault (R352, R359). -/
def Run.rowsOut (r : Run) : Nat := if r.iss.i.op = 0x04 then (r.reqs.foldl (fun l q => setAdd l q.row) []).length else 0

/-- A scalar unit that goes on after a scan: a blocked instruction has not taken effect, and executes again (R187). -/
def Scu.again (u : Scu) : Scu := if u.state = .blocked then { u with state := .running, cause := 0, blocked := none, blockedAt := 0 } else u

/-- A tensor unit after scan-in: program parts from the image in force unless the scan has them. -/
def Tu.putScan (cur old : Tu) (prog : Bool) : Tu :=
  { old with
    tim := if prog then old.tim else cur.tim, marks := if prog then old.marks else cur.marks, timBad := if prog then old.timBad else cur.timBad, timFog := if prog then old.timFog else cur.timFog
    lastScu := cur.lastScu
    nextId := max cur.nextId old.nextId, running := old.running.map Run.refetch, stopped := cur.stopped }

/-- A memory unit after scan-in: its contents stay as they are; without program parts only the entries written since the load come
from the scan (R84, R319). `rows` rows of its engine are fetched again (R359). -/
def Mu.putScan (cur old : Mu) (prog : Bool) (rows : Nat) : Mu :=
  { cur with
    desc := if prog then old.desc else old.descNew.foldl (fun t i => match tabFind old.desc i with | some d => tabSet t i d | none => tabDel t i) cur.desc
    descBad := if prog then old.descBad else cur.descBad.filter (fun i => !old.descNew.contains i) ++ old.descBad.filter old.descNew.contains
    descFog := if prog then old.descFog else cur.descFog.filter (fun i => !old.descNew.contains i) ++ old.descFog.filter old.descNew.contains
    descNew := old.descNew, slots := old.slots, slotQ := old.slotQ, wins := old.wins
    cfgStore := if prog then old.cfgStore else cur.cfgStore
    xf := { old.xf with faults := cur.xf.faults, refetch := sat32 cur.xf.refetch rows } }

/-- A matrix unit after scan-in (R139): accumulators, tile fog, bound slots with their progress, flags. -/
def Mcu.putScan (cur old : Mcu) : Mcu :=
  { cur with
    acc := old.acc, tileFog := old.tileFog, accCe := old.accCe, accBad := old.accBad, injAcc := old.injAcc, shared := old.shared, current := old.current, f0 := old.f0, f1 := old.f1, b0 := old.b0, b1 := old.b1
    bindCount := old.bindCount, epiQ := old.epiQ, nfFlag := old.nfFlag, satFlag := old.satFlag, nfRow := old.nfRow, nfCol := old.nfCol
    nfTag := old.nfTag, nfTile := old.nfTile }

/-- A vector unit after scan-in (R172). -/
def Vcu.putScan (cur old : Vcu) : Vcu :=
  { cur with redBusy := old.redBusy, fogSeen := old.fogSeen, nan := old.nan, sat := old.sat, div0 := old.div0, oob := old.oob, firstTag := old.firstTag }

/-- A scalar unit after scan-in (R187). -/
def Scu.putScan (cur old : Scu) (prog : Bool) : Scu :=
  { old.again with
    imem := if prog then old.imem else cur.imem, imemCe := if prog then old.imemCe else cur.imemCe, imemUe := if prog then old.imemUe else cur.imemUe
    imemFog := if prog then old.imemFog else cur.imemFog
    imemNew := if prog then old.imemNew else cur.imemNew
    ceCount := cur.ceCount, ueCount := cur.ueCount, qSel := cur.qSel, busy := cur.busy, waitP := cur.waitP, instr := cur.instr, frozen := cur.frozen }

/-- A switch after scan-in: circuit buffers with their epochs, control buffers, replay buffers and lanes; without program parts its
configuration is the image's. -/
def Sw.putScan (cur old : Sw) (prog : Bool) : Sw :=
  { old with
    slotTab := if prog then old.slotTab else cur.slotTab, nextTab := if prog then old.nextTab else cur.nextTab
    circ := if prog then old.circ else cur.circ
    elems := if prog then old.elems else old.elems.map (fun e => (e.1, { e.2 with cfg := (tabGet {} cur.elems e.1).cfg }))
    tblBad := cur.tblBad, tblSel := cur.tblSel, fogSeen := cur.fogSeen, bypass := cur.bypass, ce := cur.ce, ue := cur.ue, perfStall := cur.perfStall, perf := cur.perf }

/-- A router after scan-in: root slots, rounds and notify messages (R264, R369), of the groups that `mine` says are still bound for the
image's context. -/
def Rt.putScan (cur : Rt) (img : ScanImg) (mine : Nat → Bool) : Rt :=
  let roots := (img.roots.map (·.2)).filter (fun k => mine k.g)
  let used := cur.slots.filter (fun e => !e.2.root)
  let free := (upto 0 64).filter (fun k => !used.any (fun e => e.1 == k))
  let slots := (free.zip roots).foldl (fun t e => tabSet t e.1 e.2) used
  { cur with
    rounds := cur.rounds.filter (fun e => !mine e.1) ++ img.rounds.filter (fun e => mine e.1), slots := slots, high := max cur.high slots.length
    notes := cur.notes ++ img.notes }

/-- Page requests of an image's cluster follow its engines to another one (R355). -/
def State.movePages (s : State) (img : ScanImg) (c : Nat) : State :=
  { s with pageReqs := s.pageReqs.map (fun p =>
    if p.ctx = img.context ∧ p.unit < 0x10000 ∧ clusterOf p.unit = img.cluster then { p with unit := gidOf c (localOf p.unit) } else p) }

/-- Write a scan image into a cluster (R323). -/
def State.putScan (s : State) (c : Nat) (img : ScanImg) : State :=
  let key := fun (u : Nat) => gidOf img.cluster u
  let tu := fun (u : Nat) => tabGet ({} : Tu) img.tus (key u)
  let s := (upto 0 20).foldl (fun (s : State) u => s.setTu (gidOf c u) ((s.tu (gidOf c u)).putScan (tu u) img.prog)) s
  let s := (upto 0 12).foldl (fun (s : State) u =>
    s.setMu (gidOf c u) ((s.mu (gidOf c u)).putScan (tabGet {} img.mus (key u)) img.prog (if (tabGet ({} : Mu) img.mus (key u)).xf.faultWait then ((tu u).running.map Run.rowsOut).sum else 0))) s
  let s := (upto 12 4).foldl (fun (s : State) u => s.setMcu (gidOf c u) ((s.mcu (gidOf c u)).putScan (tabGet {} img.mcus (key u)))) s
  let s := (upto 16 4).foldl (fun (s : State) u => s.setVcu (gidOf c u) ((s.vcu (gidOf c u)).putScan (tabGet {} img.vcus (key u)))) s
  let s := (upto 20 4).foldl (fun (s : State) u => s.setScu (gidOf c u) ((s.scu (gidOf c u)).putScan (tabGet {} img.scus (key u)) img.prog)) s
  let s := s.setSw c ((s.sw c).putScan img.sw img.prog)
  let s := s.setRt c ((s.rt c).putScan img (fun g => (s.grp g).valid && (s.grp g).owner == img.context))
  (s.movePages img c).setCl c { s.cl c with epoch := img.epoch, quietEpoch := img.quiet, imageCrc := img.imageCrc, owner := some img.context }

/-- The image of a context's save area for a cluster, in a place. -/
def Ctx.image (x : Ctx) (place c : Nat) : Option Staged := tabFind x.images (place * 2048 + c)

/-- The image whose `crc` is given: that of the cluster in either place, or else, for a state scanned out of another cluster, any that the
context has. -/
def Ctx.imageWith (x : Ctx) (c : Nat) (crc : BitVec 32) : Option (Nat × Staged) :=
  ([x.place, 1 - x.place].findSome? (fun p => (x.image p c).bind (fun i => if i.crc = crc then some (p, i) else none))).orElse
    (fun _ => (x.images.find? (fun e => e.2.crc == crc)).map (fun e => (e.1 / 2048, e.2)))

/-- Scan-in of an image (R323): one whose parts fail their CRC fails the context as fog that steers control; one without program
parts first loads the image it names; then its state is written. -/
def State.scanInto (s : State) (c x : Nat) (img : ScanImg) : State :=
  match s.ctx x with
  | none => s
  | some k =>
    let rec_ : ErrRec := { unit := gidOf c 26, cls := 5, sev := 3, cause := 0x04 }
    if img.crcBad then s.failCtx x stFoggedControl rec_
    else if img.prog then s.putScan c img
    else match k.imageWith c img.imageCrc with
      | some (p, i) => (s.loadCluster c i p img.epoch).putScan c img
      | none => s.putScan c img

/-! ### The operations of `CL_SCAN_CTL` (R322, R327) -/

/-- Stop every unit of a cluster for good or let it go. -/
def State.setStopped (s : State) (c : Nat) (b : Bool) : State :=
  (upto 0 20).foldl (fun (s : State) u => s.setTu (gidOf c u) { s.tu (gidOf c u) with stopped := b }) s

/-- A write of `CL_SCAN_CTL`: `prog` and `buf` are fields of their own. -/
def State.scanCtl (s : State) (c : Nat) (v : Word) : State := s.setCl c { s.cl c with prog := v.getLsbD 3, buf := fld v.toNat 47 12 }

/-- SCAN_FREEZE (R322): units begin to stop, those of a cluster that is frozen already having stopped. A scan waits for a load to end
(R326). -/
def execScanFreeze (r : Requester) (c : Fin 2048) (v : Word) (s : State) : Res :=
  if r ≠ .keeper then .next s
  else
    let s := s.scanCtl c.val v
    let k := s.cl c.val
    if k.scan = .frozen then .next (s.setCl c.val { k with scanned := true, done := true })
    else if k.scan ≠ .running || k.loading then .next s
    else .next (s.setCl c.val { k with scan := .freezing, scanned := true, pendingOp := 1 })

/-- SAFE_POINT_STOP (R139, R172): between two steps of a unit it stands at a safe point, and stops there. -/
def execSafePointStop (u : TuId) (s : State) : Res :=
  if (s.cl u.cluster.val).scan ≠ .freezing then .next s
  else .next (s.setTu (tuGid u) { s.tu (tuGid u) with stopped := true })

/-- SCAN_OUT (R322): the frozen cluster's state is written to the scan buffer. -/
def execScanOut (r : Requester) (c : Fin 2048) (v : Word) (s : State) : Res :=
  if r ≠ .keeper then .next s
  else
    let s := s.scanCtl c.val v
    if (s.cl c.val).scan ≠ .frozen then .next s
    else
      let k := s.cl c.val
      let s := s.readTiles c.val
      let (s, img) := s.putImage (s.takeScan c.val k.prog (some k.buf))
      .next (s.setCl c.val { k with scan := .moving, pendingOp := 2, kib := img.kib })

/-- Read the scan image at a page of device memory, decoding every line of it as any read does (R338): `crcBad` when its bytes have changed
or come with fog. A page that holds none fails its CRC like one (DEDUCED from R323, log 82). -/
def State.scanAt (s : State) (c buf : Nat) : State × Option ScanImg :=
  match tabFind s.scanImgs buf with
  | none => (s, none)
  | some i =>
    let (s, bytes, fog) := s.hbmRead { unit := gidOf c 26 } (buf * 4096) i.bytes.length
    (s, some { i with crcBad := !(bytes == i.bytes && !fog.any id) })

/-- SCAN_IN (R323): header and parts are checked first, a mismatch being fog that steers control; then it is refused with `bad`, and
the context fails, unless the image's cluster lies in the destination's sector and its context is the one named. -/
def execScanIn (r : Requester) (c : Fin 2048) (v : Word) (ctx : Fin 4096) (s : State) : Res :=
  if r ≠ .keeper then .next s
  else
    let s := s.scanCtl c.val v
    let k := s.cl c.val
    if k.scan ≠ .frozen then .next s
    else
      let s := s.setCl c.val { k with scan := .moving, pendingOp := 3 }
      let fits := fun (i : ScanImg) => (s.sectorOf i.cluster).isSome && s.sectorOf i.cluster == s.sectorOf c.val && i.context == ctx.val
      match s.scanAt c.val k.buf with
      | (s, none) => .next (s.failCtx ctx.val stFoggedControl { unit := gidOf c.val 26, cls := 5, sev := 3, cause := 0x04 })
      | (s, some i) =>
        if i.crcBad || fits i then .next (((s.dropRequests c.val).scanInto c.val ctx.val i).admitOther c.val)
        else .next ((s.setCl c.val { s.cl c.val with bad := true }).failCtx ctx.val stContextFault { unit := gidOf c.val 26, cls := 7, sev := 3, cause := 0x0C })

/-- Whether the context whose state lies on a cluster has been taken off it by the dispatcher, its units held until it runs again (R426,
R430). -/
def State.parked (s : State) (c : Nat) : Bool :=
  match (s.ownerOf c).bind s.ctx with
  | some x => x.state == .waiting || x.state == .notResident
  | none => false

/-- Units of a frozen cluster resume at their safe points, and the accesses held for it are performed (R326). -/
def State.release (s : State) (c : Nat) : State :=
  ((s.setStopped c false).setCl c { s.cl c with scan := .running, scanned := false, pendingOp := 0 }).performHeld c

/-- SCAN_RELEASE (R322). The release is done as it happens, so `done` is set with it. Units whose context waits for its turn stay held. -/
def execScanRelease (r : Requester) (c : Fin 2048) (v : Word) (s : State) : Res :=
  if r ≠ .keeper then .next s
  else
    let s := s.scanCtl c.val v
    if (s.cl c.val).scan ≠ .frozen then .next s
    else
      let s := if s.parked c.val then s else s.release c.val
      .next (s.setCl c.val { s.cl c.val with done := true, scanned := false })

/-- Send on every transit slot that a router holds (R264). -/
def State.sendTransit (s : State) (c : Nat) : State :=
  ((s.rt c).slots.filter (fun e => !e.2.root)).foldl (fun (s : State) e => s.sendPartial c e.1) s

/-- SCAN_OP_DONE (R327): a freeze ends when every unit has stopped, after flits between switches have landed and the router has sent its
transit slots on (R322); a scan-out or scan-in leaves the cluster frozen, once no
stack of its buffer is under retraining (R343). -/
def execScanOpDone (c : Fin 2048) (s : State) : Res :=
  let k := s.cl c.val
  match k.scan with
  | .freezing =>
    if (upto 0 20).all (fun u => (s.tu (gidOf c.val u)).stopped) then
      let s := (s.landAll c.val).sendTransit c.val
      .next (s.setCl c.val { s.cl c.val with scan := .frozen, done := true, pendingOp := 0 })
    else .next s
  | .moving => if s.retrains then .next s else .next (s.setCl c.val { k with scan := .frozen, done := true, pendingOp := 0 })
  | _ => .next s

end Sys2Proof.Machine
end

