-- ==== Sys2Proof/Machine/Rings.lean ====
section
/-!
DEFINITION. Command rings (R385 to R393, R399 to R401): fetching a command, what a command may not set, finishing and completing it,
interrupts.
-/

namespace Sys2Proof.Machine

/-! ### Entries (R391, R392) -/

/-- The fields of an entry. -/
def Cmd.e (c : Cmd) : Nat := c.entry.toNat
def Cmd.type_ (c : Cmd) : Nat := fld c.e 7 0
def Cmd.ctxN (c : Cmd) : Nat := fld c.e 27 16
def Cmd.what (c : Cmd) : Nat := fld c.e 135 128
def Cmd.src (c : Cmd) : Nat := fld c.e 191 128
def Cmd.dst (c : Cmd) : Nat := fld c.e 255 192
def Cmd.len (c : Cmd) : Nat := fld c.e 295 256
def Cmd.qaddr (c : Cmd) : Nat := fld c.e 152 128
def Cmd.region (c : Cmd) : Region := ⟨fld c.e 196 192, fld c.e 200 197, fld c.e 206 201, fld c.e 211 207⟩
def Cmd.place (c : Cmd) : Nat := fld c.e 212 212

/-- Whether a number has a bit set outside the ranges given. -/
def bitsOutside (e : Nat) (l : List (Nat × Nat)) : Bool := (l.foldl (fun (x : Nat) r => x - fld x r.1 r.2 * 2 ^ r.2) e) != 0

/-- The bits that an entry of a type may set. -/
def cmdBits (t : Nat) : List (Nat × Nat) :=
  let base := [(8, 0), (27, 16), (127, 32)]
  if t = 1 then base ++ [(152, 128), (165, 160), (175, 168), (447, 192)]
  else if t = 2 then base ++ [(10, 9), (212, 128)]
  else if t = 3 then base ++ [(236, 128)]
  else if t = 4 ∨ t = 5 ∨ t = 6 then base ++ [(295, 128)]
  else if t = 7 then base
  else base ++ [(135, 128)]

/-- An entry whose type or a field is reserved (R391 to R393). -/
def Cmd.malformed (c : Cmd) : Bool :=
  let t := c.type_
  t == 0 || decide (8 < t) || bitsOutside c.e (cmdBits t)
    || (t == 1 && decide (32 < fld c.e 165 160))
    || (t == 2 && (c.region.qw == 0 || decide (32 < c.region.qw) || c.region.qh == 0 || decide (16 < c.region.qh)))
    || (t == 3 && (fld c.e 207 192 == 0 || decide (128 < fld c.e 215 208)))
    || ((t == 7 || (t == 8 && (c.what == 0 || c.what == 1 || c.what == 4))) && c.ctxN != 0)
    || (t == 8 && decide (4 < c.what))

/-! ### Fetching (R385, R386, R388) -/

/-- Whether a port fetches the next command of a ring. -/
def State.mayFetch (s : State) (f r : Nat) : Bool :=
  let x := s.ring f r
  s.phase == .ready && (s.port (f / 128)).cxl && x.enable && !x.stopped && !x.stalled && !x.overrun && decide (x.f < x.t) && decide (x.f < x.h + ringEntries x.size)

/-- How far each ring of a function has fetched: what a FENCE fetched now waits for (R398). -/
def State.fetched (s : State) (k : Nat) : List (Nat × Nat) := (s.fn k).rings.map (fun e => (e.1, e.2.f))

/-- COMMAND_FETCH (R388): the port reads entry F mod size of the command ring by a CXL.io read, and what comes is checked against F. One
whose type or fields are reserved has no effect but its completion with VERIFY_REJECT. -/
def execCommandFetch (f : FnId) (r : Fin 16) (entry : BitVec 512) (s : State) : Res :=
  let x := s.ring (fnKey f) r
  let c : Cmd := { entry := entry, seq := x.f }
  let c := if c.type_ = 7 then { c with wait := s.fetched (fnKey f) } else c
  if !s.mayFetch (fnKey f) r then .next s
  else
  let s := s.emit (.hostRead f.port.val (x.cmdBase + x.f % ringEntries x.size * 64) 64)
  if fld entry.toNat 95 32 ≠ x.f % 2 ^ 64 then .next ((s.setRing (fnKey f) r { x with stalled := true }).signal (fnKey f) x.vec)
  else
    let c := if c.malformed then { c with done := true, status := stVerifyReject } else c
    .next (s.setRing (fnKey f) r { x with f := x.f + 1, cmds := x.cmds ++ [c] })

/-! ### The command at the front (R390) -/

/-- The place of the first command that has not completed. -/
def Ring.frontAt (x : Ring) : Option Nat := x.cmds.findIdx? (fun c => !c.done)

/-- The first command of a ring that has not completed, if it is of a type. -/
def State.front (s : State) (f r : Nat) (t : Nat) : Option Cmd :=
  let x := s.ring f r
  (x.frontAt.bind (fun i => x.cmds[i]?)).bind (fun c => if c.type_ = t then some c else none)

/-- Change the command at the front. -/
def State.setFront (s : State) (f r : Nat) (g : Cmd → Cmd) : State :=
  let x := s.ring f r
  match x.frontAt with
  | none => s
  | some i => s.setRing f r { x with cmds := (x.cmds.zip (upto 0 x.cmds.length)).map (fun (c, k) => if k = i then g c else c) }

/-- The command at the front has completed. -/
def State.finish (s : State) (f r status value : Nat) : State :=
  s.setFront f r (fun c => { c with started := true, done := true, status := status, value := value })

/-- The context that a command names, if it is bound to the function (R384, R393). -/
def State.boundCtx (s : State) (f : Nat) (c : Cmd) : Option Ctx :=
  (s.ctx c.ctxN).bind (fun x => if x.port * 128 + x.fn = f then some x else none)

/-- A translation of a first byte that lies outside (R393): a context fault, or the wrong kind of memory. -/
def State.firstOutside (s : State) (x : Ctx) (va : Nat) (write : Bool) (host : Bool) : Bool :=
  match s.translate x va write (if host then (if write then .hostDst else .hostSrc) else .plain) with
  | .hbm _ _ => host
  | .host _ => !host
  | .window _ _ _ _ => true
  | .fail st _ => st == stContextFault

/-- The services that wait for the Keeper run: the device is in service and no hot restart is under way (R517, R520). -/
def State.keeperUp (s : State) : Bool := s.phase == .ready && !s.kpr.restarting

/-! ### Completions (R399, R400, R401) -/

/-- The bytes of a completion entry. -/
def completionBytes (c : Cmd) (phase : Bool) (boot : Nat) : List Byte :=
  toBytes 32 (word [(0, c.seq % 2 ^ 64), (64, fld c.e 127 96), (96, c.status), (112, c.ctxN), (127, b2n phase), (128, c.value % 2 ^ 64), (192, boot % 65536)])

/-- Signal or hold back the interrupt of a completion. -/
def State.coalesce (s : State) (f r : Nat) (irq : Bool) : State :=
  let x := s.ring f r
  if !x.intEn then s
  else
    let n := x.unsig + 1
    if irq || decide (x.coalN ≤ n) then (s.setRing f r { x with unsig := 0, coalSince := none }).signal f x.vec
    else s.setRing f r { x with unsig := n, coalSince := if x.coalUs = 0 then none else some (x.coalSince.getD s.time) }

/-- Write the oldest completion of a ring, through CXL.cache when that is enabled (R400). -/
def State.writeCompletion (s : State) (f r : Nat) : State :=
  let x := s.ring f r
  match x.cmds with
  | c :: t =>
    let k := x.d % max 1 (ringEntries x.size)
    let phase := !x.odd.contains k
    let bytes := completionBytes c phase s.flash.boot
    let a := x.cplBase + k * 32
    let s := s.setRing f r { x with d := x.d + 1, cmds := t, odd := if phase then setAdd x.odd k else setDel x.odd k }
    let s := s.emit (.zeroRead (f / 128) x.cplBase)
    let s := s.emit (if (s.port (f / 128)).cacheEn then .cacheWrite (f / 128) a bytes else .hostWrite (f / 128) a bytes [])
    s.coalesce f r (bitOf c.e 8)
  | [] => s

/-- COMPLETION_WRITE (R399): the oldest command has completed, its writes are visible, no hold of R475 stands, and the records of its
context's failure have been written (R447). -/
def execCompletionWrite (f : FnId) (r : Fin 16) (s : State) : Res :=
  match (s.ring (fnKey f) r).cmds with
  | c :: _ =>
    let noted := (s.err.collector ++ s.err.held).any (fun e => e.cv && e.context == c.ctxN && 3 ≤ e.sev)
    if s.phase ≠ .ready ∨ (s.ring (fnKey f) r).stopped ∨ !c.done ∨ c.heldSince.isSome ∨ (c.status ≠ stOK ∧ noted) then .next s
    else .next (s.writeCompletion (fnKey f) r)
  | [] => .next s

/-- COALESCING_TIMER (R401): only while `int_en` is set. -/
def execCoalescingTimer (f : FnId) (r : Fin 16) (s : State) : Res :=
  let x := s.ring (fnKey f) r
  match x.coalSince with
  | none => .next s
  | some t =>
    if !x.intEn then .next s
    else
    let s := s.advanceTo (t + x.coalUs * 1000)
    .next ((s.setRing (fnKey f) r { x with unsig := 0, coalSince := none }).signal (fnKey f) x.vec)

/-- COMPLETION_HOLD_TIMEOUT (R475): a completion held for 2 ms is written unchanged. -/
def execCompletionHoldTimeout (f : FnId) (r : Fin 16) (s : State) : Res :=
  match (s.ring (fnKey f) r).cmds with
  | c :: t =>
    match c.heldSince with
    | none => .next s
    | some h =>
      let s := s.advanceTo (h + 2000000)
      .next ((s.setRing (fnKey f) r { s.ring (fnKey f) r with cmds := { c with heldSince := none } :: t }).writeCompletion (fnKey f) r)
  | [] => .next s

/-! ### FENCE and QUERY (R398) -/

/-- FENCE (R398): at the front of its ring it completes once every command fetched before it on any ring of the function has. -/
def execFenceCommand (f : FnId) (r : Fin 16) (s : State) : Res :=
  let k := fnKey f
  match s.front k r 7 with
  | none => .next s
  | some c =>
    if s.phase = .ready ∧ c.wait.all (fun e => (s.ring k e.1).cmds.all (fun d => d.done || decide (e.2 ≤ d.seq))) then
      .next (s.finish k r stOK 0)
    else .next s

/-- A QUERY of one kind completes at once with its value. -/
def State.query (s : State) (f r what : Nat) (v : Cmd → Option Nat) : State :=
  match s.front f r 8 with
  | none => s
  | some c =>
    if s.phase ≠ .ready ∨ c.what ≠ what then s
    else match v c with
      | some n => s.finish f r stOK n
      | none => s.finish f r stVerifyReject 0

/-- The code of a context state in QUERY 3 (R398, R418). -/
def ctxCode : CtxState → Nat
  | .idle => 0 | .waiting => 1 | .running => 1 | .notResident => 2 | .failed => 3

/-- QUERY 0: device time. -/
def execQueryDeviceTime (f : FnId) (r : Fin 16) (s : State) : Res := .next (s.query (fnKey f) r 0 (fun _ => some (s.time % 2 ^ 64)))

/-- QUERY 1: beacon and boot count. -/
def execQueryBeacon (f : FnId) (r : Fin 16) (s : State) : Res :=
  .next (s.query (fnKey f) r 1 (fun _ => some (s.kpr.beacon % 2 ^ 32 + s.flash.boot % 65536 * 2 ^ 32)))

/-- QUERY 2: engine time of the context. -/
def execQueryEngineTime (f : FnId) (r : Fin 16) (s : State) : Res :=
  .next (s.query (fnKey f) r 2 (fun c => (s.boundCtx (fnKey f) c).map (fun x => x.engine % 2 ^ 64)))

/-- QUERY 3: context state and the status of its first failure. -/
def execQueryContextState (f : FnId) (r : Fin 16) (s : State) : Res :=
  .next (s.query (fnKey f) r 3 (fun c => (s.boundCtx (fnKey f) c).map (fun x => ctxCode x.state + x.status % 65536 * 4)))

/-- QUERY 4: records written to the function's mailbox. -/
def execQueryMailboxRecords (f : FnId) (r : Fin 16) (s : State) : Res :=
  .next (s.query (fnKey f) r 4 (fun _ => some ((s.fn (fnKey f)).mbx.wr % 2 ^ 64)))

end Sys2Proof.Machine
end

