-- ==== Sys2Proof/Machine/Sectors.lean ====
section
/-!
DEFINITION. Contexts and steps (R412 to R435): engine time and virtual time, the dispatcher, switching a footprint, the start and
the end of a step, abandonment (R446), teardown.
-/

namespace Sys2Proof.Machine

/-! ### Time (R422, R424) -/

/-- The region that a context's pending step needs: that of a LOAD_PROGRAM, else the footprint. -/
def Ctx.want (x : Ctx) : Option Region :=
  match x.steps.head?.bind (·.load) with
  | some l => some l.region
  | none => x.foot

/-- Clusters of a footprint. -/
def Ctx.clusters (x : Ctx) : List Nat := match x.foot with | some g => regionClusters g | none => []
def Ctx.wantClusters (x : Ctx) : List Nat := match x.want with | some g => regionClusters g | none => []

/-- The contexts of a sector. -/
def State.ctxsOf (s : State) (sec : Nat) : List (Nat × Ctx) := s.ctxs.filter (fun e => e.2.sector == sec)

/-- Virtual time compared as a signed difference (R424). -/
def vLess (a b : BitVec 64) : Bool := decide ((a - b).toInt < 0)

/-- The least virtual time among the running and waiting contexts of a sector. -/
def State.vMin (s : State) (sec : Nat) : Option (BitVec 64) :=
  ((s.ctxsOf sec).filter (fun e => e.2.state == .running || e.2.state == .waiting)).foldl
    (fun m e => match m with | none => some e.2.v | some w => if vLess e.2.v w then some e.2.v else some w) none

/-- Engine time of the current interval so far. -/
def Ctx.engineNow (x : Ctx) (now : Nat) : Nat := x.clusters.length * ceilDiv (now - x.intervalFrom) 16

/-- Charge a context with engine time: its counters, and its virtual time scaled by its share. -/
def Ctx.charge (x : Ctx) (e : Nat) : Ctx :=
  { x with engine := (x.engine + e) % 2 ^ 64, stepEngine := x.stepEngine + e, v := x.v + BitVec.ofNat 64 (ceilDiv (e * 65535) x.share) }

/-- The virtual time of a running or waiting context lies at most 2^62 above the least of its sector (R424). -/
def State.boundV (s : State) (n : Nat) : State :=
  match s.ctx n with
  | none => s
  | some x =>
    if !(x.state == .running || x.state == .waiting) then s
    else match s.vMin x.sector with
      | some m => if vLess (m + BitVec.ofNat 64 (2 ^ 62)) x.v then s.setCtx n { x with v := m + BitVec.ofNat 64 (2 ^ 62) } else s
      | none => s

/-- Charge a running context up to now. -/
def State.chargeCtx (s : State) (n : Nat) : State :=
  match s.ctx n with
  | none => s
  | some x =>
    if x.state ≠ .running then s
    else
      let e := x.engineNow s.time
      (s.setCtx n { x.charge (e - x.accrued) with accrued := e }).boundV n

/-- A context becomes waiting: one that was idle or not resident has its virtual time raised to the least of its sector's. -/
def State.becomeWaiting (s : State) (n : Nat) : State :=
  match s.ctx n with
  | none => s
  | some x =>
    match x.state with
    | .idle | .notResident =>
      let v := match s.vMin x.sector with | some m => if vLess x.v m then m else x.v | none => x.v
      (s.setCtx n { x with v := v, state := .waiting }).boundV n
    | _ => s

/-! ### Taking a context off clusters and putting it on (R428) -/

/-- An image with no section. -/
def noImage : Staged := { crc := 0, store := 0, secs := [] }

/-- Zeroize the memory units of a cluster and clear its accumulators (R111, R123). -/
def State.zeroizeCluster (s : State) (c : Nat) : State :=
  let s := (upto 0 12).foldl (fun (s : State) u => s.setMu (gidOf c u) (s.mu (gidOf c u)).zeroize) s
  (upto 12 4).foldl (fun (s : State) u => s.setMcu (gidOf c u) (clearMcu (s.mcu (gidOf c u)))) s

/-- Close the windows of a memory unit as `WIN.CLOSE` does: the writes that they accepted are performed first, their bank groups having
woken (R107). -/
def State.closeMu (s : State) (g : Nat) : State :=
  let l := (s.mu g).accepted
  let s := l.foldl (fun (s : State) a =>
    let m := s.mu g
    (s.setMu g (m.wakeNow (m.asleep a.addr a.bytes.length))).performAccepted g a) s
  let m := s.mu g
  s.setMu g { m with wins := tabMap m.wins (fun _ w => { w with opened := false }) }

/-- Close the windows of a cluster (R107). -/
def State.closeWindows (s : State) (c : Nat) : State := (upto 0 12).foldl (fun (s : State) u => s.closeMu (gidOf c u)) s

/-- Leave a cluster with no context's state: emptied, zeroized, with no program (log 29). -/
def State.wipeCluster (s : State) (c : Nat) : State :=
  let s := (((s.dropRequests c).dropRootsAt c).clearLocal c).zeroizeCluster c
  let s := s.loadCluster c noImage 0 (s.cl c).epoch
  let s := (upto 20 4).foldl (fun (s : State) u => s.setScu (gidOf c u) { s.scu (gidOf c u) with state := .noProgram }) s
  let s := s.setCl c { s.cl c with owner := none, quietEpoch := (s.cl c).quietEpoch }
  s.setStopped c false

/-- Whether the byte at an offset of a scratchpad is copied at a switch: powered, and outside the configuration store (R428). -/
def Mu.copied (m : Mu) (off : Nat) : Bool := decide (off < cfgBase m.cfgStore) && m.powered.getLsbD (groupOf off)

/-- Read the scratchpad of memory unit `g` that a switch copies, as any read does (R94): words in error are corrected, or come with fog. -/
def State.readScratch (s : State) (g : Nat) : State :=
  let m := s.mu g
  s.readWords g (fun w => m.copied (w * 8))

/-- What a switch copies of a memory unit: bytes and fog. -/
def Mu.scratch (m : Mu) : SavedMu :=
  { groups := m.powered, mem := m.mem.filter (fun b => m.copied b.1), fog := m.fog.filter (fun k => m.copied (k * 64)) }

/-- The powered scratchpad of a cluster outside the configuration store. -/
def State.scratchOf (s : State) (c : Nat) : Tab SavedMu := (upto 0 12).map (fun u => (gidOf c u, (s.mu (gidOf c u)).scratch))

/-- R428 steps 1 to 3 on one cluster whose units have stopped: flits between switches land, its transit slots leave, its windows close,
open as they were in the scan image, and its state goes to its context's save area, unless an eviction has put it there (R430). -/
def State.saveScan (s : State) (c : Nat) : State :=
  let s := (s.landAll c).sendTransit c
  let s := s.readTiles c
  let img := s.takeScan c false none
  let s := s.closeWindows c
  match (s.ownerOf c).bind (fun y => (s.ctx y).map (fun k => (y, k))) with
  | none => s
  | some (y, k) => if (tabFind k.scans c).isSome then s else s.setCtx y { k with scans := tabSet k.scans c img }

/-- R428 steps 1 to 4 on one cluster: with its context's step pending, its scratchpad is copied to the save area too. -/
def State.switchOut (s : State) (c : Nat) : State :=
  let s := s.saveScan c
  match (s.ownerOf c).bind (fun y => (s.ctx y).map (fun k => (y, k))) with
  | none => s
  | some (y, k) =>
    if !k.begun then s.dropRequests c
    else
      let s := (upto 0 12).foldl (fun (s : State) u => s.readScratch (gidOf c u)) s
      match s.ctx y with
      | some k => (s.setCtx y { k with savedMem := (s.scratchOf c).foldl (fun t e => tabSet t e.1 e.2) k.savedMem }).dropRequests c
      | none => s

/-- The spill records of a context on some clusters go from its sector's ring to its save area, in ring order (R242); one that the engine
has read is in its queue already. -/
def State.saveSpill (s : State) (n : Nat) (cs : List Nat) : State :=
  match s.ctx n with
  | none => s
  | some k =>
    let f := s.sf k.sector
    let mine := fun (r : SpillRec) => cs.contains r.cluster && s.ownerOf r.cluster == some n
    let s := s.setCtx n { k with savedSpill := k.savedSpill.filter (fun r => !cs.contains r.cluster) ++ f.ring.filter (fun r => mine r && !r.read) }
    s.setSf k.sector { f with ring := freeRing (f.ring.filter (fun r => !mine r)) }

/-- Write saved scratchpad bytes back with their fog: bank groups that are off wake first (R95, R109). -/
def Mu.putScratch (m : Mu) (l : SavedMu) : Mu :=
  let m := m.wakeNow (l.groups &&& ~~~ m.powered)
  { m with mem := l.mem.foldl (fun (a : Mem) b => memSet a b.1 b.2) m.mem, fog := l.fog.foldl setAdd m.fog }

/-- The saved scratchpads of a cluster are restored. -/
def State.restoreScratch (s : State) (c : Nat) (t : Tab SavedMu) : State :=
  (upto 0 12).foldl (fun (s : State) u =>
    match tabFind t (gidOf c u) with
    | some l => s.setMu (gidOf c u) ((s.mu (gidOf c u)).putScratch l)
    | none => s) s

/-- R428 steps 6 to 8 on one cluster, which has been wiped, for context `n`, whose images are staged in its place: the cluster stays frozen
until the step starts. A step that is a LOAD_PROGRAM (R419) makes the native reconfiguration of row 7 itself. -/
def State.switchIn (s : State) (c n epoch : Nat) : State :=
  match s.ctx n with
  | none => s
  | some x =>
    let s := match x.image x.place c with | some i => s.stage c x.place i | none => s
    let s := match tabFind x.scans c, x.image x.place c with
      | some img, _ => s.scanInto c n img
      | none, some i => if (x.steps.head?.bind (·.load)).isSome then s else s.loadCluster c i x.place epoch
      | none, none => s
    let s := if x.begun then s.restoreScratch c x.savedMem else s
    let s := s.setCl c { s.cl c with owner := some n, scan := .frozen }
    (s.setStopped c true).admitOther c

/-- The contexts whose state lies on some clusters, `n` apart. -/
def State.ownersOn (s : State) (cs : List Nat) (n : Nat) : List Nat :=
  (cs.filterMap s.ownerOf).foldl (fun l y => if y = n then l else setAdd l y) []

/-- A context is charged for a switch that takes `t` nanoseconds (R422, R424): every 0.5 ms of it and its rest, one charge each. What a
context with no step pending takes counts for no step. -/
def Ctx.chargeSwitch (x : Ctx) (t : Nat) : Ctx :=
  let one := fun (ns : Nat) => x.clusters.length * ceilDiv ns 16
  let v := fun (e : Nat) => ceilDiv (e * 65535) x.share
  let k := t / 500000
  let e := k * one 500000 + one (t % 500000)
  { x with
    engine := (x.engine + e) % 2 ^ 64, stepEngine := if x.steps.isEmpty then x.stepEngine else x.stepEngine + e
    v := x.v + BitVec.ofNat 64 (k * v (one 500000) + v (one (t % 500000))) }

/-- Charge a context for a switch, within the bound on virtual times. -/
def State.chargeSwitch (s : State) (t n : Nat) : State :=
  match s.ctx n with
  | some x => (s.setCtx n (x.chargeSwitch t)).boundV n
  | none => s

/-- Rows 1 to 4 of R428 for the clusters of a switch: every outgoing context is charged with their time `t` (R422). -/
def State.switchOutAll (s : State) (cs : List Nat) (n t : Nat) : State :=
  let ys := s.ownersOn cs n
  let s := ys.foldl (fun (s : State) y => s.saveSpill y cs) (cs.foldl State.switchOut s)
  if ys.isEmpty then s else ys.foldl (fun (s : State) y => s.chargeSwitch t y) (s.advance t)

/-- Rows 5 to 8 of R428: context `n` comes onto the clusters, every one of them wiped before the first is filled, its spill records go back
into the ring in their order (R242), and it is charged with the time `t`. -/
def State.switchInAll (s : State) (cs : List Nat) (n t : Nat) : State :=
  match s.ctx n with
  | none => s
  | some k =>
    let epoch := (s.newestEpoch k.wantClusters + 1) % 4096
    let s := (cs.foldl State.wipeCluster s)
    let s := cs.foldl (fun (s : State) c => s.switchIn c n epoch) s
    match s.ctx n with
    | none => s
    | some k =>
      let back := k.savedSpill.filter (fun r => cs.contains r.cluster)
      let s := s.setCtx n { k with savedSpill := k.savedSpill.filter (fun r => !cs.contains r.cluster), scans := k.scans.filter (fun e => !cs.contains e.1), savedMem := [] }
      let s := back.foldl (fun (s : State) r => s.putRecord k.sector r) s
      if cs.isEmpty then s else (s.advance t).chargeSwitch t n

/-- Whether a context still holds its clusters: its step runs, the dispatcher has given it its footprint, or it has failed and its teardown
has not ended (R425, R433). -/
def Ctx.holdsFoot (x : Ctx) : Bool := x.state == .running || x.granted || (x.state == .failed && x.tearing)

/-- Whether a cluster cannot be switched to context `n` now: a scan of the Keeper is under way there, the context whose state lies on it
holds it, or the sector is dedicated and never switches a context out (R326, R416). -/
def State.switchHeld (s : State) (n c : Nat) : Bool :=
  (s.cl c).scanned || (match (s.ownerOf c).bind s.ctx with
    | some y => s.ownerOf c != some n && (y.holdsFoot || (match s.sector y.sector with | some r => r.res | none => false))
    | none => false)

/-- FOOTPRINT_SWITCH (R428): the footprint that the dispatcher has given a context is switched to it. It waits for a scan of the Keeper
(R326), for the teardown of a context that has failed there, and for stacks in retraining (R343). How long the two halves take is
measured, not stated: free values (log 102). -/
def execFootprintSwitch (x : Fin 4096) (s : State) : Res :=
  let n := x.val
  match s.ctx n with
  | none => .next s
  | some k =>
    let cs := k.wantClusters.filter (fun c => s.ownerOf c != some n)
    if !k.granted || !s.keeperUp || s.retrains || cs.any (s.switchHeld n) then .next s
    else
      let w := s.draw.1.toNat
      .next ((s.draw.2.switchOutAll cs n (w % 2 ^ 32)).switchInAll cs n (w / 2 ^ 32 % 2 ^ 32))

/-! ### The end of a step (R421, R422, R475, R476) -/

/-- The command of a context's pending step has completed. -/
def State.finishFor (s : State) (f r n status value : Nat) (held : Bool) : State :=
  let x := s.ring f r
  match x.frontAt.bind (fun i => x.cmds[i]?) with
  | some c =>
    if c.started && c.ctxN == n then
      s.setFront f r (fun c => { c with done := true, status := status, value := value, heldSince := if held then some s.time else none })
    else s
  | none => s

/-- Every cached translation of a context goes, in whatever memory unit (R334). -/
def State.dropTlb (s : State) (n : Nat) : State :=
  { s with mus := tabMap s.mus (fun _ m => { m with tlb := m.tlb.filter (fun t => t.ctx != n) }) }

/-- A context with what a BIND sets. -/
def Ctx.bindTo (x : Ctx) (b : Binding) : Ctx :=
  { x with ptroot := b.root, share := b.share, turn := b.turn, pasid := b.pasid, pasidV := b.pasidV, rebind := none }

/-- A BIND that came during a step takes effect before the next one (R396). -/
def State.takeBind (s : State) (n : Nat) : State :=
  match (s.ctx n).bind (fun x => x.rebind.map (fun b => (x, b))) with
  | some (x, b) => (s.setCtx n (x.bindTo b)).dropTlb n
  | none => s

/-- The first step of a context is over: its command completes with `status`, and the next pending step, if any, waits. -/
def State.endStep (s : State) (n status : Nat) : State :=
  let s := (s.chargeCtx n).takeBind n
  match s.ctx n with
  | none => s
  | some x =>
    match x.steps with
    | [] => s
    | p :: t =>
      let load := p.load.isSome
      let status := if status = stOK ∧ x.suspect ∧ !load then stSdcSuspect else status
      let held := !load && x.clusters.any s.aud.pending.contains
      let s := s.finishFor p.fn p.ring n status (if load then 0 else x.stepEngine) held
      s.setCtx n { x with
        steps := t, state := if x.state = .failed then .failed else if t.isEmpty then .idle else .waiting, granted := false, begun := false
        onTime := 0, stepEngine := 0, accrued := 0, lastEnd := s.time, turnExpired := false, suspect := false, doubt := false }

/-- Abandon the running step of a context with VOLTAGE_DOUBT (R446): its state but scratchpad contents is discarded, with the messages under
way, and its images are loaded again as by a native reconfiguration with the discard flag; on clusters that another context uses, what is
saved of it goes, and the next switch loads them. -/
def State.abandonStep (s : State) (n : Nat) : State :=
  match s.ctx n with
  | none => s
  | some x =>
    let all := x.clusters.filterMap (fun c => (x.image x.place c).map (fun i => (c, i)))
    let mine := all.filter (fun e => s.ownerOf e.1 == some n)
    let s := x.clusters.foldl (fun (s : State) c => if s.ownerOf c == some n then s.dropRequests c else s) s
    let s : State := { s with pageReqs := s.pageReqs.filter (fun p => p.ctx != n) }
    let s := (s.reconfigure x.sector mine x.place true (some n)).1.voidMessages x.clusters
    let s := if mine.length = all.length then s else s.bindGroups x.sector n all []
    match s.ctx n with
    | some y => (s.setCtx n { y with scans := [], savedSpill := [], savedMem := [] }).endStep n stVoltageDoubt
    | none => s

/-- A running step is in doubt (R446): it is abandoned at once, or, while a scan of the Keeper holds one of its clusters, when that has
ended (R310, R326); its units stand still until then. -/
def State.doubtStep (s : State) (n : Nat) : State :=
  match s.ctx n with
  | none => s
  | some x => if x.clusters.any (fun c => (s.cl c).scanned) then s.setCtx n { x with doubt := true } else s.abandonStep n

/-- Whether every SCU of a cluster has halted and no unit of it holds an instruction (R421). -/
def State.clusterDone (s : State) (c : Nat) : Bool :=
  (upto 20 4).all (fun u => let x := s.scu (gidOf c u); x.state == .halted || x.state == .noProgram)
    && (upto 0 20).all (fun u => let t := s.tu (gidOf c u); t.iq.isEmpty && t.running.isEmpty)
    && (upto 12 4).all (fun u => let m := s.mcu (gidOf c u); m.f0.isNone && m.f1.isNone && m.b0.isNone && m.b1.isNone && m.epiQ.isEmpty)
    && (s.sw c).iq.isEmpty && (s.sw c).running.isEmpty && (s.sw c).elems.all (fun e => e.2.next.isNone)

/-- STEP_END (R421): every unit is done; or a step in doubt is abandoned once no scan of its clusters is under way (R310, R446). -/
def execStepEnd (x : Fin 4096) (s : State) : Res :=
  match s.ctx x.val with
  | none => .next s
  | some k =>
    if s.phase ≠ .ready then .next s
    else if k.doubt then .next (if k.clusters.any (fun c => (s.cl c).scanned) then s else s.abandonStep x.val)
    else if k.state ≠ .running then .next s
    else if !k.clusters.all s.clusterDone then .next s
    else .next (s.endStep x.val stOK)

/-- STEP_LIMIT_TIMEOUT (R423). -/
def execStepLimitTimeout (x : Fin 4096) (s : State) : Res :=
  match (s.ctx x.val).bind (fun k => (s.sector k.sector).map (fun r => (k, r))) with
  | none => .next s
  | some (k, r) =>
    if s.phase ≠ .ready ∨ k.state ≠ .running ∨ r.limit = 0 then .next s
    else
      let s := s.advanceTo (k.intervalFrom + (r.limit * 1000000 - k.onTime) + 1)
      .next ((s.chargeCtx x.val).failCtx x.val stTimeout { unit := 0xFFFF, cls := 5, sev := 3, cause := 0x0B })

/-! ### The dispatcher (R425 to R427) -/

/-- Whether step starts of a sector are held by supply, power, temperature or cooling (R501, R505, R512, R514). -/
def State.startsHeld (s : State) (x : Sector) : Bool :=
  let p := s.pwr
  p.pausedPower || p.pausedThermal || p.pausedCool || p.inWarn || x.dies.any (fun d => (s.die d).railWarn)

/-- A region waits for a forced drain before the next step starts there (R313). -/
def State.drainDue (s : State) (cs : List Nat) : Bool := decide (512 ≤ s.drainAge cs)

/-- A context's footprint includes a quad marked unavailable (R25, R415). -/
def State.badQuad (s : State) (cs : List Nat) : Bool := cs.any (fun c => s.quadBad.contains (quadOf c))

/-- Insert a context in the order of virtual time, a tie going to the lower number (R425). -/
def insertCtx (e : Nat × Ctx) : List (Nat × Ctx) → List (Nat × Ctx)
  | [] => [e]
  | f :: t => if vLess e.2.v f.2.v || (e.2.v == f.2.v && decide (e.1 < f.1)) then e :: f :: t else f :: insertCtx e t

/-- Freeze a cluster at the safe points of its units, flits between switches having landed (R322). -/
def State.freeze (s : State) (c : Nat) : State :=
  let s := ((s.landAll c).sendTransit c).setStopped c true
  s.setCl c { s.cl c with scan := .frozen }

/-- Pre-empt a running step: its interval ends, its clusters freeze, and it waits with its step pending (R426). -/
def State.preempt (s : State) (n : Nat) : State :=
  let s := s.chargeCtx n
  match s.ctx n with
  | none => s
  | some x =>
    let s := s.setCtx n { x with state := .waiting, onTime := x.onTime + (s.time - x.intervalFrom), accrued := 0, turnExpired := false }
    x.clusters.foldl (fun (s : State) c => if s.ownerOf c = some n then s.freeze c else s) s

/-- Whether a running step is to be pre-empted now (R426, R427). -/
def State.mustYield (s : State) (n : Nat) (x : Ctx) : Bool :=
  let v := (x.charge (x.engineNow s.time - x.accrued)).v
  let late := x.turnExpired || decide (x.intervalFrom + x.turn * 500000 < s.time)
  match x.foot with
  | none => false
  | some g => late && (s.ctxsOf x.sector).any (fun e =>
      e.1 != n && e.2.state == .waiting && !e.2.granted && vLess e.2.v v && (match e.2.want with | some h => regionsMeet g h | none => false))

/-- Pre-empt every running step of a sector that must yield. -/
def State.preemptAll (s : State) (sec : Nat) : State :=
  (s.ctxsOf sec).foldl (fun (s : State) e =>
    match s.ctx e.1 with
    | some x => if x.state = .running ∧ s.mustYield e.1 x then s.preempt e.1 else s
    | none => s) s

/-- Look at one waiting context of a pass: give it its footprint, or reserve that for the rest of the pass (R425). -/
def State.consider (s : State) (n : Nat) (res : List Region) : State × List Region :=
  match (s.ctx n).bind (fun x => x.want.map (fun g => (x, g))) with
  | none => (s, res)
  | some (x, g) =>
    let cs := regionClusters g
    let busy := s.ctxs.any (fun e => e.1 != n && e.2.holdsFoot && (e.2.foot.toList ++ (if e.2.granted then e.2.want.toList else [])).any (regionsMeet g))
    let away := cs.any (fun c => s.ownerOf c != some n)
    if s.badQuad cs then (s.failCtx n stContextFault { unit := 0xFFFF, cls := 5, sev := 3, cause := 0x0C }, res)
    else if busy || (away && s.kpr.restarting) then (s, g :: res)
    else if res.any (regionsMeet g) then (s, res)
    else (s.setCtx n { x with granted := true }, res)

/-- One pass over the waiting contexts of a sector. -/
def State.pass (s : State) (sec : Nat) : State :=
  let l := ((s.ctxsOf sec).filter (fun e => e.2.state == .waiting && !e.2.granted && !e.2.doubt)).foldl (fun l e => insertCtx e l) []
  (l.foldl (fun (a : State × List Region) e => a.1.consider e.1 a.2) (s, [])).1

/-- DISPATCH_PASS (R425). -/
def execDispatchPass (sec : Fin 64) (s : State) : Res :=
  match s.sector sec.val with
  | none => .next s
  | some x =>
    if s.phase ≠ .ready then .next s
    else
      let s := s.preemptAll sec.val
      .next (if s.startsHeld x then s else s.pass sec.val)

/-- DISPATCH_TICK (R424, R426): every running context is charged, and the conditions of pre-emption are checked. -/
def execDispatchTick (sec : Fin 64) (s : State) : Res :=
  match s.sector sec.val with
  | none => .next s
  | some _ =>
    if s.phase ≠ .ready then .next s
    else .next (((s.ctxsOf sec.val).foldl (fun (s : State) e => s.chargeCtx e.1) s).preemptAll sec.val)

/-! ### The start of a step (R419, R420) -/

/-- A run of a context on a cluster begins or goes on (R476); a unit with 1,536 runs since its clean mark is sampled at its next
update (R477). -/
def State.noteStep (s : State) (c n seq : Nat) : State :=
  let l := tabGet [] s.aud.runs c
  let l := match l with
    | (x, a, b, u) :: t => if x = n then (x, a, seq, u) :: t else (n, seq, seq, []) :: (x, a, b, u) :: t
    | [] => [(n, seq, seq, [])]
  let s : State := { s with aud := { s.aud with runs := tabSet s.aud.runs c (l.take 2048) } }
  (upto 12 8).foldl (fun (s : State) u =>
    if (l.filter (fun e => e.2.2.2.contains u)).length < 1536 then s
    else if u < 16 then s.setMcu (gidOf c u) { s.mcu (gidOf c u) with forced := true }
    else s.setVcu (gidOf c u) { s.vcu (gidOf c u) with forced := true }) s

/-- What delivering a payload comes to. -/
inductive Delivered where
  | yes (s : State)
  | refused (status : Nat)
  | waits (s : State)
  | failed (s : State)

/-- Deliver the payload of a STEP (R394): `sender` 0xFFFF, the context as its own. -/
def State.deliverPayload (s : State) (n : Nat) (c : Cmd) : Delivered :=
  let q := c.qaddr
  let unit := fld q 15 0
  let bytes := (toBytes 32 (fld c.e 447 192)).take (fld c.e 165 160)
  let m : Msg := { unit := unit, queue := fld q 21 16, prio := fld q 23 22, fou := bitOf q 24, tag := fld c.e 175 168, payload := bytes, sender := 0xFFFF, ctx := n }
  if q = 0 then .yes s
  else if 26 ≤ localOf unit then .refused stQueueClosed
  else if !s.addrOk unit m.queue m.tag then .failed (s.failCtx n stContextFault { unit := 0xFFFF, cls := 5, sev := 3, cause := 0x07 })
  else
    let l := s.acceptRanges unit m
    let mu := homeMu unit
    if (s.mu mu).asleepAll l ≠ 0 then .waits (s.setMu mu ((s.mu mu).wakeAll l))
    else match s.offer m with
      | (s, .accepted) => .yes s
      | (_, .refused st) => .refused st
      | (s, .held) => .waits s
      | (s, .senderFails _ _) => .failed s

/-- Release the SCUs of a cluster at word 0 when a step begins: an SCU takes the words and the epoch that a Marnan daymark has brought it
(R179, R318, R420). -/
def State.releaseScus (s : State) (c : Nat) : State :=
  (upto 20 4).foldl (fun (s : State) u =>
    let x := s.scu (gidOf c u)
    if x.state = .halted then s.setScu (gidOf c u) { x.takeNew (s.cl c).epoch with state := .running, pc := 0 } else s) s

/-- An evicted context whose state no other has displaced takes up again what its eviction took from its clusters: its windows are open as
they were, its spill records are in the ring, and its scan images are gone (R242, R428, R430). -/
def State.takeUp (s : State) (n : Nat) : State :=
  match s.ctx n with
  | none => s
  | some x =>
    let cs := x.clusters.filter (fun c => (tabFind x.scans c).isSome)
    let s := cs.foldl (fun (s : State) c =>
      match tabFind x.scans c with
      | some i => (upto 0 12).foldl (fun (s : State) u => s.setMu (gidOf c u) { s.mu (gidOf c u) with wins := (tabGet ({} : Mu) i.mus (gidOf c u)).wins }) s
      | none => s) s
    let back := x.savedSpill.filter (fun r => cs.contains r.cluster)
    let s := s.setCtx n { x with savedSpill := x.savedSpill.filter (fun r => !cs.contains r.cluster), scans := x.scans.filter (fun e => !cs.contains e.1) }
    back.foldl (fun (s : State) r => s.putRecord x.sector r) s

/-- The step of a context runs from now on. -/
def State.run (s : State) (n : Nat) (fresh : Bool) (seq : Nat) : State :=
  let s := s.takeUp n
  match s.ctx n with
  | none => s
  | some x =>
    let s := s.setCtx n { x with
      state := .running, granted := false, begun := true, intervalFrom := s.time, accrued := 0, turnExpired := false
      stepSeq := if fresh then seq else x.stepSeq, onTime := if fresh then 0 else x.onTime }
    let s := x.clusters.foldl (fun (s : State) c => s.noteStep c n (if fresh then seq else x.stepSeq)) s
    let s := x.clusters.foldl State.release s
    if fresh then x.clusters.foldl State.releaseScus s else s

/-- Stage images in a place of the clusters whose store in force has it (R304). -/
def State.stageAll (s : State) (place : Nat) (imgs : List (Nat × Staged)) : State :=
  imgs.foldl (fun (s : State) (c, i) => if s.hasPlace c place then s.stage c place i else s) s

/-- Bytes of the save areas of a sector (R419): 40 MiB for each footprint cluster in shared residency, 4 MiB in dedicated. -/
def saveMiB (r : Sector) (clusters : Nat) : Nat := clusters * (if r.res then 4 else 40)

/-- Carry out a LOAD_PROGRAM as a step that runs no instruction (R305 to R307, R419): the footprint becomes its region. -/
def State.loadStep (s : State) (n : Nat) (l : LoadReq) : State :=
  match s.ctx n with
  | none => s
  | some x =>
    let cs := regionClusters l.region
    let imgs := cs.filterMap (fun c => (x.image l.place c).map (fun i => (c, i)))
    let s := s.stageAll l.place imgs
    let s := cs.foldl (fun (s : State) c => if (s.cl c).scan = .frozen then s.release c else s) s
    let (s, st) := s.reconfigure x.sector imgs l.place l.disc (some n)
    match s.ctx n with
    | none => s
    | some y =>
      if y.state = .failed then s
      else if st ≠ stOK then s.endStep n st
      else
        let old := y.clusters.filter (fun c => !cs.contains c && s.ownerOf c == some n)
        let s := old.foldl (fun (s : State) c => (s.closeWindows c).wipeCluster c) s
        let save := match s.sector x.sector with | some r => saveMiB r cs.length | none => y.save
        let s := s.setCtx n { y with foot := some l.region, save := if y.foot = some l.region then y.save else save, place := l.place, program := true, scans := [], savedSpill := [], savedMem := [] }
        (s.stageAll l.place imgs).endStep n stOK

/-- STEP_START (R420): the footprint is the context's; the payload is delivered and the SCUs are released, a pre-empted step goes on,
or a LOAD_PROGRAM is carried out. It waits for a scan of the Keeper (R310, R326), and a step that has not begun for a forced drain (R313).
-/
def execStepStart (x : Fin 4096) (s : State) : Res :=
  let n := x.val
  match (s.ctx n).bind (fun k => k.steps.head?.map (fun p => (k, p))) with
  | none => .next s
  | some (k, p) =>
    if s.phase ≠ .ready || !k.granted || k.doubt || k.state != .waiting || k.wantClusters.any (fun c => (s.cl c).scanned) then .next s
    else match p.load with
      | some l =>
        if !s.keeperUp || s.drainDue k.wantClusters || k.wantClusters.any (fun c => s.ownerOf c != some n && (s.ownerOf c).isSome) then .next s else .next (s.loadStep n l)
      | none =>
        if k.wantClusters.any (fun c => s.ownerOf c != some n) then .next s
        else if k.begun then .next (s.run n false 0)
        else if s.drainDue k.wantClusters then .next s
        else match s.front p.fn p.ring 1 with
          | none => .next s
          | some c =>
            match s.deliverPayload n c with
            | .yes s => .next (s.run n true c.seq)
            | .refused st => .next (s.endStep n st)
            | .waits s => .next s
            | .failed s => .next s

/-! ### Teardown (R433) -/

/-- Withdraw the grants that name a context, and close what they admitted (R431). -/
def State.dropGrants (s : State) (n : Nat) : State :=
  let gone := s.sec.grants.filter (fun g => g.recv == n || g.admitted == n)
  let s : State := { s with sec := { s.sec with grants := s.sec.grants.filter (fun g => !(g.recv == n || g.admitted == n)) } }
  if gone.isEmpty then s
  else { s with scus := tabMap s.scus (fun _ u => { u with queues := tabMap u.queues (fun _ q => if q.otherOk && q.otherCtx == n then { q with otherOk := false } else q) }) }

/-- Complete what a failed context's function has started for it: the failed step or transfer with its status, later steps with
NOT_RUN. -/
def State.failCommands (s : State) (n : Nat) (x : Ctx) : State :=
  let f := x.port * 128 + x.fn
  let first := x.steps.head?.map (·.ring)
  (upto 0 16).foldl (fun (s : State) r =>
    let q := s.ring f r
    match q.frontAt.bind (fun i => q.cmds[i]?) with
    | some c =>
      if !(c.started && c.ctxN == n && !(c.type_ == 7) && !(c.type_ == 8)) then s
      else if c.type_ = 1 ∨ c.type_ = 2 then
        s.finish f r (if first = some r ∨ first = none then x.status else stNotRun) (if first = some r ∧ c.type_ = 1 then x.stepEngine else 0)
      else s.finish f r x.status c.pos
    | none => s) s

/-- Everything that teardown does to a context but its commands: clusters emptied and zeroized, groups freed, page requests, spill
records and save area gone. -/
def State.dropContext (s : State) (n : Nat) : State :=
  match s.ctx n with
  | none => s
  | some x =>
    let mine := (s.cls.filter (fun e => e.2.owner == some n)).map (·.1)
    let s := (mine.foldl (fun (s : State) c => ((s.closeWindows c).wipeCluster c)) s).voidMessages mine
    let s := mine.foldl (fun (s : State) c => if (s.cl c).scan = .frozen then s.release c else s) s
    let s := (s.groups.filter (fun g => g.2.valid && g.2.owner == n)).foldl (fun (s : State) g => s.freeGroup g.1) s
    let s : State := { s with pageReqs := s.pageReqs.filter (fun p => p.ctx != n) }
    let f := s.sf x.sector
    let s := s.setSf x.sector { f with ring := f.ring.filter (fun r => r.ctx != n) }
    let s := s.dropGrants n
    match s.ctx n with
    | none => s
    | some x => s.setCtx n { x with scans := [], savedSpill := [], savedMem := [], images := [], binds := [], foot := none, program := false, granted := false, begun := false }

/-- Teardown of a failed context. -/
def State.teardown (s : State) (n : Nat) : State :=
  match s.ctx n with
  | none => s
  | some x =>
    -- the interval of a step that was running ends here (R422)
    let ran := x.begun && x.clusters.all (fun c => s.ownerOf c == some n && (s.cl c).scan == .running)
    let x := if ran then x.charge (x.engineNow s.time - x.accrued) else x
    let s := (s.setCtx n x).failCommands n x
    let s := (s.dropContext n).takeBind n
    match s.ctx n with
    | none => s
    | some y => s.setCtx n { y with tearing := false, steps := [], suspect := false }

/-- CONTEXT_TEARDOWN (R433): it runs without the Keeper. A swap of a footprint cluster completes first (R434). -/
def execContextTeardown (x : Fin 4096) (s : State) : Res :=
  match s.ctx x.val with
  | none => .next s
  | some k =>
    if s.phase ≠ .ready || !(k.state == .failed) || !k.tearing || k.clusters.any s.swapping then .next s else .next (s.teardown x.val)

end Sys2Proof.Machine
end

