-- ==== Sys2Proof/Machine/Audit.lean ====
section
/-!
DEFINITION. The device log and its mailbox copies (R402, R437 to R440, R458 to R460), the watch (R468), and the verdicts of the
cross-bearing audit with holds and exposure windows (R473 to R478).
-/

namespace Sys2Proof.Machine

/-! ### The device log (R440, R458 to R460) -/

/-- A record as its mailbox copy shows it (R440). -/
def State.mailboxForm (s : State) (r : ErrRec) : ErrRec :=
  let r := { r with pcl := 0 }
  if r.akind = 2 then
    match (s.sector r.sector).bind (fun x => x.granules.findIdx? (fun g => g == granuleOf r.addr)) with
    | some k => { r with akind := 3, addr := k * 2 ^ 30 + r.addr % 2 ^ 30 }
    | none => { r with akind := 0, addr := 0 }
  else r

/-- Records of a mailbox. -/
def Mbx.entries (m : Mbx) : Nat := if 1 ≤ m.size ∧ m.size ≤ 12 then 2 ^ (m.size + 5) else 0

/-- Copy a record to a function's mailbox, or count it as lost (R402). -/
def State.toMailbox (s : State) (f : Nat) (r : ErrRec) : State :=
  let x := s.fn f
  let m := x.mbx
  if !m.enable || m.stopped || m.entries == 0 then s
  else if (m.wr + 2 ^ 64 - m.rd % 2 ^ 64) % 2 ^ 64 = m.entries then s.setFn f { x with mbx := { m with lost := sat32 m.lost 1 } }
  else
    let s := s.emit (.hostWrite (f / 128) (m.base + m.wr % m.entries * 64) ((s.mailboxForm r).toBytes true) [])
    (s.setFn f { x with mbx := { m with wr := m.wr + 1 } }).signal f m.vec

/-- The functions whose mailboxes get a record: that of its context, or every port's PF for a device reset record (R402, R449). -/
def mailboxesOf (r : ErrRec) : List Nat :=
  if r.cls = 9 ∧ r.sev = 4 then (upto 0 8).map (fun p => p * 128)
  else r.fn.toList

/-- Write a record into the device log, its bytes at its entry in device memory, latch the first of severity 2 or above, and copy it (R458,
R460). -/
def State.writeLog (s : State) (r : ErrRec) : State :=
  let e := s.err
  let r := { r with lseq := e.wr % 2 ^ 32 }
  let full := e.wr == e.rd + 65536
  let e := { e with
    log := tabSet e.log (e.wr % 65536) r, wr := e.wr + 1
    rd := if full then e.rd + 1 else e.rd, ovf := if full then e.ovf + 1 else e.ovf
    alert := e.alert || full || decide (4 ≤ r.sev)
    first := if !e.firstValid && decide (2 ≤ r.sev) then some r else e.first
    firstValid := e.firstValid || decide (2 ≤ r.sev) }
  let s := ({ s with err := e } : State).hbmWrite {} (logAddr r.lseq) (r.toBytes false) []
  (mailboxesOf r).foldl (fun (s : State) f => s.toMailbox f r) s

/-- Write every record that the collector holds (R449: the reset record is in the log before `ready`). -/
def State.flushLog (s : State) : State :=
  let l := s.err.collector ++ s.err.held
  l.foldl (fun (s : State) r => s.writeLog r) (s.modErr (fun e => { e with collector := [], held := [] }))

/-- LOG_RECORD_WRITE (R458): the oldest record of the collector; a record held at its source takes the place that becomes free
(R459). -/
def execLogRecordWrite (s : State) : Res :=
  match s.err.collector with
  | [] => .next s
  | r :: t =>
    if s.phase ≠ .ready ∧ s.phase ≠ .resetting then .next s
    else
      let s := s.modErr (fun e => { e with collector := t ++ e.held.take 1, held := e.held.drop 1 })
      .next (s.writeLog r)

/-- CORRECTED_ERROR_SUMMARY (R439): the second that followed the first corrected error of a unit's class ends; one record stands for
the further ones. -/
def execCorrectedErrorSummary (unit cls cause : Nat) (s : State) : Res :=
  match s.err.coalesce.find? (·.about unit cls cause) with
  | none => .next s
  | some c =>
    .next ((s.advanceTo (c.start + 1000000000)).endCorrRun c)

/-! ### Watch (R468) -/

/-- UNIT_WATCH (R468): the report puts the unit under watch; a second within 24 hours retires its cluster. -/
def execUnitWatch (unit : Nat) (s : State) : Res :=
  if !s.aud.reports.contains unit || !s.keeperUp then .next s
  else
    let a := { s.aud with reports := s.aud.reports.erase unit }
    let p := s.physUnit unit
    let s : State := { s with aud := { a with watches := tabSet a.watches p (2 ^ 24), events := tabSet a.events p s.time, watch := sat32 a.watch 1 } }
    match tabFind a.events p with
    | some t => .next (if s.time ≤ t + dayNs then s.queueSwap (clusterOf unit) else s)
    | none => .next s

/-! ### Samples (R473, R474) -/

/-- The clean mark of a unit moves to a sample's step: runs before it leave the unit's window, and the run of that step begins at it
(R474, R476). -/
def cleanRuns (u n q : Nat) : List (Nat × Nat × Nat × List Nat) → List (Nat × Nat × Nat × List Nat)
  | [] => []
  | (x, a, b, l) :: t =>
    if x = n ∧ a ≤ q ∧ q ≤ b then
      let old := t.map (fun e => (e.1, e.2.1, e.2.2.1, e.2.2.2.filter (· != u)))
      if a = q then (x, a, b, l) :: old else (x, q, b, l) :: (x, a, q - 1, l.filter (· != u)) :: old
    else (x, a, b, l) :: cleanRuns u n q t

/-- A clean audit of a sample. -/
def State.cleanAudit (s : State) (x : Sample) : State :=
  let a := { s.aud with clean := sat32 s.aud.clean 1, cleanMarks := tabSet s.aud.cleanMarks (s.physUnit x.unit) x.time }
  match x.run with
  | some (n, q) => { s with aud := { a with runs := tabSet a.runs (clusterOf x.unit) ((cleanRuns (localOf x.unit) n q (tabGet [] a.runs (clusterOf x.unit))).take 2048) } }
  | none => { s with aud := a }

/-- Hold the completions not yet written of steps that ran on a cluster (R475). -/
def State.holdSteps (s : State) (c : Nat) : State :=
  { s with fns := tabMap s.fns (fun f x => { x with rings := tabMap x.rings (fun _ r => { r with cmds := r.cmds.map (fun d =>
      let here := match s.ctx d.ctxN with | some y => y.port * 128 + y.fn == f && y.clusters.contains c | none => false
      if d.type_ == 1 && d.done && here && d.heldSince.isNone then { d with heldSince := some s.time } else d) }) }) }

/-- Release the completions held for a cluster; when its unit was found faulty one whose status is OK becomes SDC_SUSPECT. -/
def State.releaseSteps (s : State) (c : Nat) (bad : Bool) : State :=
  { s with fns := tabMap s.fns (fun f x => { x with rings := tabMap x.rings (fun _ r => { r with cmds := r.cmds.map (fun d =>
      let here := match s.ctx d.ctxN with | some y => y.port * 128 + y.fn == f && y.clusters.contains c | none => false
      if d.heldSince.isSome && here then { d with heldSince := none, status := if bad && d.status == stOK then stSdcSuspect else d.status } else d) }) }) }

/-- A verdict against a unit of a cluster: completions held for it whose status is OK will be written with SDC_SUSPECT (R475). -/
def State.suspectSteps (s : State) (c : Nat) : State :=
  { s with fns := tabMap s.fns (fun f x => { x with rings := tabMap x.rings (fun _ r => { r with cmds := r.cmds.map (fun d =>
      let here := match s.ctx d.ctxN with | some y => y.port * 128 + y.fn == f && y.clusters.contains c | none => false
      if d.heldSince.isSome && here && d.status == stOK then { d with status := stSdcSuspect } else d) }) }) }

/-- AUDIT_SAMPLE_RUN (R473, R474): the partner recomputes sample `n`, the first of its queue. -/
def execAuditSampleRun (n : Nat) (agree : Bool) (s : State) : Res :=
  match s.aud.samples[n]? with
  | none => .next s
  | some x =>
    let before := (s.aud.samples.take n).any (fun y => y.partner == x.partner && !y.mismatch)
    if x.mismatch || before || s.phase != .ready then .next s
    else if agree then .next (({ s with aud := { s.aud with samples := listDel s.aud.samples n } } : State).cleanAudit x)
    else
      let c := clusterOf x.unit
      let (s, q) := s.nextPartner x.sector x.unit [x.partner / 32]
      let y := { x with mismatch := true, reported := s.time, second := q.getD 0xFFFFFF }
      let a := s.aud
      let s : State := { s with aud := { a with samples := a.samples.set n y, mismatch := sat32 a.mismatch 1, pending := setAdd a.pending c } }
      .next (s.holdSteps c)

/-! ### Exposure windows (R476, R478) -/

/-- The contexts in a unit's window on a cluster, with the first and the last step of each. -/
def State.exposed (s : State) (c u : Nat) : List (Nat × Nat × Nat) :=
  let l := ((tabGet [] s.aud.runs c).filter (fun e => e.2.2.2.contains u))
  let ns := l.foldl (fun a e => setAdd a e.1) []
  ns.map (fun n =>
    let mine := l.filter (fun e => e.1 == n)
    (n, (mine.getLast?.map (fun e => e.2.1)).getD 0, (mine.head?.map (fun e => e.2.2.1)).getD 0))

/-- The exposure report of a faulty unit, written once the cluster's swap has completed: one record for each context, and a running
step of it is suspect; then the held completions go (R475, R478). -/
def State.exposureReport (s : State) (g : Nat) : State :=
  let c := clusterOf g
  let l := s.exposed c (localOf g)
  let s := l.foldl (fun (s : State) (n, a, b) =>
    let s := s.record { unit := g, cls := 4, sev := 2, cause := 0x04, status := stSdcSuspect, cv := true, context := n, step := b % 2 ^ 32, aux := a
                        sector := (s.sectorOf c).getD 0, sv := (s.sectorOf c).isSome }
    match s.ctx n with
    | some x => if x.begun then s.setCtx n { x with suspect := true } else s
    | none => s) s
  let s : State := { s with aud := { s.aud with
    runs := tabSet s.aud.runs c ((tabGet [] s.aud.runs c).map (fun e => (e.1, e.2.1, e.2.2.1, e.2.2.2.filter (· != localOf g)))) } }
  s.releaseSteps c true

/-- The record of a verdict (R474): of the audited unit, or of a partner, a lightship's with `pcl` only. -/
def State.verdictRec (s : State) (x : Sample) : State :=
  s.recordUnit x.unit { cls := 4, sev := 2, cause := 0x04 }
def State.logicalOf (s : State) (p : Nat) : Option Nat := let q := posOfPhys p; s.logicalAt q.1 q.2

/-- The audited unit is faulty: held completions are suspect, its cluster is retired by live swap, and its exposure is reported when
that has completed. -/
def State.unitFaulty (s : State) (x : Sample) : State :=
  let c := clusterOf x.unit
  let s := ((s.verdictRec x).queueSwap c).suspectSteps c
  let s : State := { s with kpr := { s.kpr with badSwap := tabSet s.kpr.badSwap c x.unit } }
  (s.exposed c (localOf x.unit)).foldl (fun (s : State) e => match s.ctx e.1 with | some y => if y.begun then s.setCtx e.1 { y with suspect := true } else s | none => s) s

/-- The partner is faulty: a lightship is marked failed, a sector's cluster is retired by live swap (R474). -/
def State.partnerFaulty (s : State) (x : Sample) : State :=
  let p := x.partner / 32
  match s.logicalOf p with
  | some c => (s.recordUnit (gidOf c (x.partner % 32)) { cls := 4, sev := 2, cause := 0x04 }).queueSwap c
  | none => ({ s with flash := { s.flash with failed := setAdd s.flash.failed p, counter := s.flash.counter + 1 } } : State).record { cls := 4, sev := 2, cause := 0x04, pcl := p }

/-- A verdict on sample `n`: the sample goes, the cluster is no longer pending. -/
def State.endSample (s : State) (n c : Nat) : State :=
  { s with aud := { s.aud with samples := listDel s.aud.samples n, pending := setDel s.aud.pending c } }

/-- AUDIT_VERDICT (R474). -/
def execAuditVerdict (n : Nat) (v : ThirdResult) (s : State) : Res :=
  match s.aud.samples[n]? with
  | none => .next s
  | some x =>
    let c := clusterOf x.unit
    if !x.mismatch || x.second == 0xFFFFFF || s.phase != .ready then .next s
    else
      let s := s.endSample n c
      match v with
      | .firstPartner => .next (({ s with aud := { s.aud with unitBad := sat16 s.aud.unitBad 1 } } : State).unitFaulty x)
      | .auditedUnit => .next ((({ s with aud := { s.aud with partnerBad := sat16 s.aud.partnerBad 1 } } : State).partnerFaulty x).releaseSteps c false)
      | .neither => .next ((({ s with aud := { s.aud with both := sat16 s.aud.both 1 } } : State).partnerFaulty x).unitFaulty x)

/-- AUDIT_SECOND_PARTNER_TIMEOUT (R474): 1 ms after the report with no answer. -/
def execAuditSecondPartnerTimeout (n : Nat) (s : State) : Res :=
  match s.aud.samples[n]? with
  | none => .next s
  | some x =>
    if !x.mismatch || s.phase != .ready then .next s
    else
      let s := (s.advanceTo (x.reported + 1000000)).endSample n (clusterOf x.unit)
      .next (({ s with aud := { s.aud with noThird := sat16 s.aud.noThird 1 } } : State).unitFaulty x)

end Sys2Proof.Machine
end

