-- ==== Sys2Proof/Machine/HbmCmd.lean ====
section
/-!
DEFINITION. The controllers (R337 to R340, R343 to R347): serving the request at the head of a queue, with the snoops that
a host's copies call for (R405), the repeat cache, and scrubbing.
-/

namespace Sys2Proof.Machine

/-! ### Queues -/

/-- As whom a controller sends the snoops of the request that it serves. -/
def ctrlWho (n : Nat) : Nat := 0x30000 + n

/-- Take the head out of a controller's queue. -/
def State.popHead (s : State) (n : Nat) : State :=
  let c := s.ctrl n
  s.setCtrl n { c with queue := c.queue.drop 1 }

/-! ### The repeat cache (R344 to R347) -/

/-- Whether a line of 128 B is fogged or uncorrectable. -/
def State.rcBad (s : State) (line : Nat) : Bool := s.hbmBad (line * 128) 128

/-- Put a line in a sector's partition as its most recently used, evicting its least recently used when it is full; a
sector with quota 0 holds none. -/
def Ctrl.allocate (c : Ctrl) (sec line : Nat) : Ctrl :=
  let q := tabGet 0 c.quota sec * 1024
  let others := c.cache.filter (fun e => e != (sec, line))
  let mine := (others.filter (fun e => e.1 == sec)).length
  if q = 0 then c
  else
    let others := if q ≤ mine then (match others.findIdx? (fun e => e.1 == sec) with | some i => listDel others i | none => others) else others
    { c with cache := others ++ [(sec, line)] }

/-- On whose behalf a request of a unit is. -/
def HbmReq.who (h : HbmReq) : Who := { unit := h.unit, ctx := some h.ctx }

/-- One cached read of a line of 128 B: a hit is served from the cache; a miss reads HBM and allocates a clean line. -/
def State.rcRead (s : State) (w : Who) (n sec line : Nat) : State :=
  let c := s.ctrl n
  if c.cache.contains (sec, line) then
    s.setCtrl n ({ c with rcHit := perfAdd c.rcHit 1 }.allocate sec line)
  else
    let bad := s.rcBad line
    let (s, _, _) := s.hbmRead w (line * 128) 128
    let c := s.ctrl n
    let c := { c with rcMiss := perfAdd c.rcMiss 1 }
    s.setCtrl n (if bad then c else c.allocate sec line)

/-- The lines of 128 B of a range. -/
def rcLines (addr n : Nat) : List Nat := if n = 0 then [] else upto (addr / 128) ((addr + n - 1) / 128 - addr / 128 + 1)

/-- Serve a read: through the repeat cache or from HBM; what comes is the memory's bytes and fog either way (R346). -/
def State.serveRead (s : State) (n : Nat) (h : HbmReq) : State × List Byte × List Bool :=
  let sec := (s.addrSector h.addr).getD 0
  if h.rc ∧ tabGet 0 (s.ctrl n).quota sec ≠ 0 then
    let s := (rcLines h.addr h.len).foldl (fun s l => if h.pf && s.rcBad l then s else s.rcRead h.who n sec l) s
    (s, memRead s.hbm.mem h.addr h.len, (upto h.addr h.len).map (fun a => s.hbm.fogLines.contains (a / 64)))
  else if h.pf then (s, [], [])
  else s.hbmRead h.who h.addr h.len

/-! ### Requests of hosts (R343, R404, R405) -/

/-- Lines that a snoop filter tracks at most (R405). -/
def filterLines : Nat := 262144

/-- The host may hold a line from now on; a full filter gives up its oldest line (R405). -/
def State.track (s : State) (p l : Nat) : State :=
  let s : State := { s with snoops := s.snoops.filter (fun x => !(x.answered && x.line == l)) }
  let v := s.port p
  if v.filter.contains l then s
  else if v.filter.length < filterLines then s.setPort p { v with filter := v.filter ++ [l] }
  else
    let old := v.filter.headD 0
    (s.setPort p { v with filter := v.filter.drop 1 ++ [l] }).sendSnoops none [(p, old)] true

/-- The unit number that a port's requests have at a controller, and the port of a request. -/
def hostUnit (p : Nat) : Nat := 0x20000 + p
def HbmReq.hostPort (h : HbmReq) : Option Nat := if 0x20000 ≤ h.unit then some (h.unit - 0x20000) else none

/-- A host's read of a line, for an HDM offset. -/
def State.hostRead (s : State) (p off a : Nat) : State :=
  let bad := s.hbmBad a 64
  let (s, bytes, _) := s.hbmRead {} a 64
  (s.track p (a / 64)).emit (.memReply p off bytes bad)

/-- A host's write of a line: of one in part, `keep` names the bits that stay, the line is read and merged, and one that stays fogged stays
so (R337). -/
def State.hostWrite (s : State) (a : Nat) (data keep : List Byte) (poison : Bool) : State :=
  s.hbmWriteKeep {} a ((upto 0 64).map (fun i => data.getD i 0)) keep (List.replicate 64 poison)

/-- Whether a host's request of a line must wait at its controller: the stack is held, or an earlier request for the line has not been
performed (R343). -/
def State.hostWaits (s : State) (a : Nat) : Bool := !s.lineFree (a / 64)

/-- Leave a host's request at its controller. -/
def State.holdHost (s : State) (h : HbmReq) : State :=
  let n := s.stackOf h.addr
  let c := s.ctrl n
  s.setCtrl n { c with queue := c.queue ++ [h] }

/-- Perform a host's request that has waited. -/
def State.performHost (s : State) (p : Nat) (h : HbmReq) : State :=
  if h.write then s.hostWrite h.addr h.bytes h.keep (h.fog.any id) else s.hostRead p h.req h.addr

/-- Whether a controller serves requests: the device stands, and the stack is not under retraining (R343). -/
def State.serves (s : State) (n : Nat) : Bool := (s.phase == .ready || s.phase == .resetting) && !(s.ctrl n).retraining

/-- HBM_READ (R338): the read at the head of the queue. -/
def execHbmRead (n : Fin 20) (s : State) : Res :=
  if !s.serves n.val then .next s
  else match (s.ctrl n.val).queue with
    | [] => .next s
    | h :: _ =>
      if h.write then .next s
      else if h.hostPort.isSome then .next ((s.popHead n.val).performHost (h.hostPort.getD 0) h)
      else match s.mayAccess (ctrlWho n.val) (linesOf h.addr h.len) [] with
        | (s, false) => .next s
        | (s, true) =>
          let (s, bytes, fog) := (s.popHead n.val).serveRead n.val h
          .next (s.answerReq h.unit h.req bytes fog)

/-- HBM_WRITE (R337, R343): the write at the head of the queue is performed, and acknowledged when the cached lines it
touches are gone. -/
def execHbmWrite (n : Fin 20) (s : State) : Res :=
  if !s.serves n.val then .next s
  else match (s.ctrl n.val).queue with
    | [] => .next s
    | h :: _ =>
      if !h.write then .next s
      else if h.hostPort.isSome then .next ((s.popHead n.val).performHost (h.hostPort.getD 0) h)
      else match s.mayAccess (ctrlWho n.val) [] (linesOf h.addr h.len) with
        | (s, false) => .next s
        | (s, true) =>
          let s := (s.popHead n.val).hbmWriteKeep h.who h.addr h.bytes h.keep h.fog
          .next (s.answerReq h.unit h.req [] [])

/-! ### Scrubbing (R340) -/

/-- The next line at or after `l` that lies in stack `n`, in ascending order. -/
def State.nextLine (s : State) (n l : Nat) : Option Nat :=
  if s.stackOf (l * 64) = n then some l
  else
    let c := l / 64 + 1
    (upto (c / 0x40000) (720 - c / 0x40000)).findSome? (fun g =>
      let lo := max c (g * 0x40000)
      ((upto lo 20).find? (fun k => decide (k / 0x40000 = g) && decide (s.stackOf (k * 4096) = n))).map (· * 64))

/-- HBM_SCRUB_READ (R340): the next line of the stack is read and its errors treated as on a read. -/
def execHbmScrubRead (n : Fin 20) (s : State) : Res :=
  let c := s.ctrl n.val
  if s.phase ≠ .ready || c.scrubInt == 0 || c.retraining then .next s
  else
    let l := s.nextLine n.val c.scrubPos
    match (match l with | some l => some l | none => s.nextLine n.val 0) with
    | none => .next s
    | some k =>
      let s := s.readLine {} k
      let c' := s.ctrl n.val
      .next (s.setCtrl n.val { c' with scrubPos := k + 1, passes := if l.isNone then sat32 c'.passes 1 else c'.passes })

end Sys2Proof.Machine
end

