-- ==== Sys2Proof/Machine/Commands.lean ====
section
/-!
DEFINITION. The commands of the rings (R393 to R397): STEP, LOAD_PROGRAM, BIND, COPY, EXPORT and IMPORT, with residency (R430), the
program loader (R303, R395, R432, R489) and the copy engine (R397).
-/

namespace Sys2Proof.Machine

/-! ### Residency (R430) -/

/-- The context that an arriving STEP evicts: idle, its last step ended earliest. -/
def State.victim (s : State) (sec : Nat) : Option Nat :=
  ((s.ctxsOf sec).filter (fun e => e.2.state == .idle)).foldl
    (fun (v : Option (Nat × Ctx)) e => match v with | some w => if e.2.lastEnd < w.2.lastEnd then some e else v | none => some e) none |>.map (·.1)

/-- Entries of a sector's dispatcher that are taken. -/
def State.residents (s : State) (sec : Nat) : Nat :=
  ((s.ctxsOf sec).filter (fun e => e.2.state != .notResident && e.2.state != .failed)).length

/-- Rows 1 to 3 of R428 for the state of a context that lies on clusters: it is scanned into its save area, with its spill records, its
windows close, and what is left of it lies there frozen (R430). -/
def State.evict (s : State) (v : Nat) : State :=
  match s.ctx v with
  | none => s
  | some x =>
    let s := s.setCtx v { x with state := .notResident }
    let cs := (s.cls.filter (fun e => e.2.owner == some v)).map (·.1)
    (cs.foldl (fun (s : State) c => (s.freeze c).saveScan c) s).saveSpill v cs

/-- Make room for a context that is not resident; none when no resident context is idle. -/
def State.takeIn (s : State) (n : Nat) (x : Ctx) : Option State :=
  if x.state ≠ .notResident ∨ s.residents x.sector < 64 then some s
  else if !s.keeperUp then none
  else (s.victim x.sector).map (fun v => if v = n then s else s.evict v)

/-! ### STEP (R394, R420) -/

/-- A payload address that R394 rejects: not an SCU or a place of R31, or outside the sector. -/
def State.payloadBad (s : State) (x : Ctx) (q : Nat) : Bool :=
  let l := localOf (fld q 15 0)
  q != 0 && (l < 20 || l == 24 || l == 25
    || !(match s.sector x.sector with | some r => inRegion r.region (clusterOf (fld q 15 0)) | none => false))

/-- A step becomes pending at a context. -/
def State.addStep (s : State) (n : Nat) (p : Pend) : State :=
  match s.ctx n with
  | some x => (s.setCtx n { x with steps := x.steps ++ [p] }).becomeWaiting n
  | none => s

/-- STEP (R394, R420, R430). -/
def execStepCmd (f : FnId) (r : Fin 16) (s : State) : Res :=
  let k := fnKey f
  match s.front k r 1 with
  | none => .next s
  | some c =>
    if s.phase ≠ .ready ∨ c.started then .next s
    else match s.boundCtx k c with
      | none => .next (s.finish k r stVerifyReject 0)
      | some x =>
        if s.payloadBad x c.qaddr then .next (s.finish k r stVerifyReject 0)
        else if x.state = .failed then .next (s.finish k r stNotRun 0)
        else if !x.program then .next (s.finish k r stVerifyReject 0)
        else match s.takeIn c.ctxN x with
          | none => .next s
          | some s => .next ((s.setFront k r (fun c => { c with started := true })).addStep c.ctxN { fn := k, ring := r.val })

/-- The unit number that the engine of a ring has in page requests and accesses to device memory. -/
def copyUnit (f r : Nat) : Nat := 0x10000 + f * 16 + r

/-! ### The program loader (R303, R395, R432, R489) -/

/-- What reading a range of context virtual addresses comes to. -/
inductive VaRead where
  | ok (bytes : List Byte) (fog : Bool)
  | fails (status cause va : Nat)

/-- Read `n` pieces of 64 bytes of the sector's HBM for a context: the tables and the lines are decoded and counted as any read is (R338,
R358). A translation that fails, or one to another kind of memory, fails the context with the address that failed (R333, R395). -/
def State.vaRead (s : State) (w : Who) (x : Ctx) : Nat → Nat → State × VaRead
  | _, 0 => (s, .ok [] false)
  | va, n + 1 =>
    let s := s.readTables w x va
    match s.translate x va false .plain with
    | .hbm a _ =>
      let (s, b, fog) := s.hbmRead w a (64 - a % 64)
      match s.vaRead w x (va + 64) n with
      | (s, .ok l f) => (s, .ok (b ++ l) (fog.any id || f))
      | o => o
    | .fail st ca => (s, .fails st ca va)
    | _ => (s, .fails stContextFault 0x07 va)

/-- Read `n` bytes of the sector's HBM from any byte: whole 64-byte lines, cut to the range. -/
def State.vaBytes (s : State) (w : Who) (x : Ctx) (va n : Nat) : State × VaRead :=
  match s.vaRead w x (va / 64 * 64) (ceilDiv (va % 64 + n) 64) with
  | (s, .ok l fog) => (s, .ok ((l.drop (va % 64)).take n) fog)
  | o => o

/-- What the loader makes of an image set. -/
inductive LoadSet where
  | ok (imgs : List (Nat × Staged))
  | reject
  | fails (status cause va : Nat)

/-- Read and verify the image at an address for a cluster. -/
def State.readImage (s : State) (w : Who) (x : Ctx) (c va place : Nat) : State × LoadSet :=
  match s.vaBytes w x va 64 with
  | (s, .fails st ca v) => (s, .fails st ca v)
  | (s, .ok h fog) =>
    let n := fld (ofBytes h) 50 32
    if fog ∨ fld (ofBytes h) 31 0 ≠ 0x4B524F56 ∨ 262144 < n then (s, .reject)
    else match s.vaBytes w x va n with
      | (s, .fails st ca v) => (s, .fails st ca v)
      | (s, .ok l fog) =>
        (s, if fog then .reject
          else match parseImage l with
            | none => .reject
            | some i => if imageRejected c i ∨ (place = 1 ∧ i.store ≠ 2) then .reject else .ok [(c, i)])

/-- Read the images that a set names, cluster by cluster (R395). -/
def State.readSet (s : State) (w : Who) (x : Ctx) (place : Nat) : List (Nat × Nat) → State × LoadSet
  | [] => (s, .ok [])
  | (c, va) :: t =>
    match s.readImage w x c va place with
    | (s, .ok l) => (match s.readSet w x place t with | (s, .ok m) => (s, .ok (l ++ m)) | o => o)
    | o => o

/-- The whole of what the loader checks in a set (R217, R303, R432). -/
def State.loadSet (s : State) (x : Ctx) (n : Nat) (r : Sector) (g : Region) (set place : Nat) : State × LoadSet :=
  let cs := regionClusters g
  let w : Who := { ctx := some n }
  match s.vaBytes w x set (8 * cs.length) with
  | (s, .fails st ca v) => (s, .fails st ca v)
  | (s, .ok l fog) =>
    let vas := (upto 0 cs.length).map (fun i => ofBytes ((l.drop (8 * i)).take 8))
    if fog then (s, .reject)
    else match s.readSet w x place (cs.zip vas) with
      | (s, .ok imgs) =>
        (s, if pathsBad (inRegion r.region) imgs || s.groupsBad r n imgs
          || (decide (64 < (regionClusters r.region).length) && imgs.any (fun e => rangesRejected e.1 e.2)) then .reject
        else .ok imgs)
      | o => o

/-! The lines that the loader will read: all of them must be readable at once (R343, R405). -/

/-- The lines that reading `n` pieces of 64 bytes reads, tables included. -/
def State.vaLines (s : State) (x : Ctx) : Nat → Nat → List Nat
  | _, 0 => []
  | va, n + 1 => s.tableLines x va ++ (match s.translate x va false .plain with | .hbm a _ => a / 64 :: s.vaLines x (va + 64) n | _ => [])

/-- The bytes that lie in a range, as far as it translates. -/
def State.vaPeek (s : State) (x : Ctx) : Nat → Nat → List Byte
  | _, 0 => []
  | va, n + 1 => match s.translate x va false .plain with | .hbm a _ => memRead s.hbm.mem a (64 - a % 64) ++ s.vaPeek x (va + 64) n | _ => []

/-- The lines of an image, as its header tells its length. -/
def State.imageLines (s : State) (x : Ctx) (va : Nat) : List Nat :=
  let lo := va / 64 * 64
  let h := ofBytes (((s.vaPeek x lo 2).drop (va % 64)).take 64)
  let n := if fld h 31 0 = 0x4B524F56 ∧ fld h 50 32 ≤ 262144 then fld h 50 32 else 64
  s.vaLines x lo (ceilDiv (va % 64 + max n 64) 64)

/-- The lines of a whole set. -/
def State.setLines (s : State) (x : Ctx) (g : Region) (set : Nat) : List Nat :=
  let n := (regionClusters g).length
  let lo := set / 64 * 64
  let k := ceilDiv (set % 64 + 8 * n) 64
  let l := (s.vaPeek x lo k).drop (set % 64)
  s.vaLines x lo k ++ (upto 0 n).flatMap (fun i => s.imageLines x (ofBytes ((l.drop (8 * i)).take 8)))

/-- The save area that a context has, or is to have when a LOAD_PROGRAM of it that waits is carried out, whichever is larger. -/
def Ctx.saveDue (x : Ctx) (r : Sector) : Nat :=
  x.steps.foldl (fun a p => match p.load with | some l => max a (saveMiB r (regionClusters l.region).length) | none => a) x.save

/-- Whether the system region has room for a footprint of a context, beside the spill ring and the other save areas. -/
def State.saveRoom (s : State) (r : Sector) (sec n : Nat) (g : Region) : Bool :=
  let others := (s.ctxsOf sec).foldl (fun a e => if e.1 = n then a else a + e.2.saveDue r) 0
  decide (16 * 2 ^ r.spill + others + saveMiB r (regionClusters g).length ≤ r.sysg * 1024)

/-- The load chain of a sector after a set that passes verification (R489). -/
def State.chainLoad (s : State) (sec : Nat) (g : Region) (imgs : List (Nat × Staged)) : State :=
  match s.sector sec with
  | none => s
  | some r =>
    let fields := [BitVec.ofNat 8 g.qx, BitVec.ofNat 8 g.qy, BitVec.ofNat 8 g.qw, BitVec.ofNat 8 g.qh]
    let digest := Config.sha512 (fields ++ imgs.flatMap (fun e => e.2.bytes))
    s.setSector sec { r with chain := Config.sha512 (toBytes 64 r.chain.toNat ++ toBytes 64 digest.toNat) }

/-- Keep verified images in the save area, and stage them on the clusters that hold the context's state or nobody's and whose store in
force has the place (R110, R304, R419). -/
def State.keepImages (s : State) (n place : Nat) (imgs : List (Nat × Staged)) : State :=
  match s.ctx n with
  | none => s
  | some x =>
    let s := s.setCtx n { x with images := imgs.foldl (fun t e => tabSet t (place * 2048 + e.1) e.2) x.images }
    s.stageAll place (imgs.filter (fun e => (s.ownerOf e.1).isNone || s.ownerOf e.1 == some n))

/-- Whether a region meets the footprint of a context, or the region of a LOAD_PROGRAM of it that waits to be carried out (R416). -/
def Ctx.meets (x : Ctx) (g : Region) : Bool :=
  (match x.foot with | some h => regionsMeet g h | none => false)
    || x.steps.any (fun p => match p.load with | some l => regionsMeet g l.region | none => false)

/-- LOAD_PROGRAM, up to the step that carries it out (R305, R395, R419): `stage` ends it with the staging. A load with another
region waits until the context is idle. -/
def State.startLoad (s : State) (k r : Nat) (c : Cmd) : State :=
  match s.boundCtx k c with
  | none => s.finish k r stVerifyReject 0
  | some x =>
    let n := c.ctxN
    match s.sector x.sector with
    | none => s.finish k r stVerifyReject 0
    | some sec =>
      let g := c.region
      let disjoint := !sec.res || !(s.ctxsOf x.sector).any (fun e => e.1 != n && e.2.meets g)
      if !sec.holds g || s.firstOutside x c.src false false || (!bitOf c.e 10 && !disjoint) then s.finish k r stVerifyReject 0
      else if x.state = .failed then s.finish k r stNotRun 0
      else if !s.keeperUp || (!bitOf c.e 10 && x.foot != some g && !(x.state == .idle || x.state == .notResident)) then s
      else match s.directAccess (copyUnit k r) (s.setLines x g c.src) [] with
      | (s, false) => s
      | (s, true) => match s.loadSet x n sec g c.src c.place with
        | (s, .reject) => s.finish k r stVerifyReject 0
        | (s, .fails st ca va) => (s.setFront k r (fun c => { c with started := true })).failCtx n st (xlatRec 0xFFFF ca va)
        | (s, .ok imgs) =>
          if bitOf c.e 10 then ((s.chainLoad x.sector g imgs).keepImages n c.place imgs).finish k r stOK 0
          else if x.foot != some g && !s.saveRoom sec x.sector n g then s.finish k r stVerifyReject 0
          else match s.takeIn n x with
            | none => s
            | some s =>
              let s := (s.chainLoad x.sector g imgs).keepImages n c.place imgs
              (s.setFront k r (fun c => { c with started := true })).addStep n { fn := k, ring := r, load := some ⟨g, c.place, bitOf c.e 9⟩ }

/-- LOAD_PROGRAM (R395). -/
def execLoadProgram (f : FnId) (r : Fin 16) (s : State) : Res :=
  match s.front (fnKey f) r 2 with
  | none => .next s
  | some c => if s.phase ≠ .ready ∨ c.started ∨ bitOf c.e 10 then .next s else .next (s.startLoad (fnKey f) r c)

/-- LOAD_PROGRAM with `stage` set (R395). -/
def execLoadProgramStageOnly (f : FnId) (r : Fin 16) (s : State) : Res :=
  match s.front (fnKey f) r 2 with
  | none => .next s
  | some c => if s.phase ≠ .ready ∨ c.started ∨ !bitOf c.e 10 then .next s else .next (s.startLoad (fnKey f) r c)

/-! ### BIND (R396, R414, R435) -/

/-- Whether a device address lies in a granule of the sector outside its system region (R414). -/
def State.rootOk (s : State) (sec : Nat) (a n : Nat) : Bool := s.inSector sec a n

/-- BIND: it takes effect before the context's next step, at once when no step has begun (R396); a failed context is idle again, with
no program and no save area (R435). -/
def execBind (f : FnId) (r : Fin 16) (s : State) : Res :=
  let k := fnKey f
  match s.front k r 3 with
  | none => .next s
  | some c =>
    if s.phase ≠ .ready then .next s
    else match (s.boundCtx k c).bind (fun x => (s.sector x.sector).map (fun q => (x, q))) with
      | none => .next (s.finish k r stVerifyReject 0)
      | some (x, _) =>
        let root := fld c.e 191 128
        let turn := fld c.e 215 208
        if root % 4096 ≠ 0 ∨ !s.rootOk x.sector root 4096 then .next (s.finish k r stVerifyReject 0)
        else if x.tearing then .next s
        else
          let b : Binding := { root := root, share := fld c.e 207 192, turn := if turn = 0 then 8 else turn, pasid := fld c.e 235 216, pasidV := bitOf c.e 236 }
          if x.state == .running || x.begun then .next ((s.setCtx c.ctxN { x with rebind := some b }).finish k r stOK 0)
          else
          let x := x.bindTo b
          let back := if s.residents x.sector < 64 then CtxState.idle else CtxState.notResident
          let x := if x.state = .failed then { x with state := back, status := 0, foot := none, program := false, images := [], scans := [], savedMem := [], savedSpill := [], save := 0 } else x
          .next (((s.setCtx c.ctxN x).dropTlb c.ctxN).finish k r stOK 0)

/-! ### The copy engine (R397) -/

/-- One side of a row of a copy: device addresses, host addresses, a page to ask for, or what it fails with. -/
inductive Side2 where
  | hbm (l : List (Nat × Nat))
  | host (l : List (Nat × Nat))
  | page (iova : Nat)
  | fails (status cause va : Nat)

/-- The pieces of `n` bytes at a context virtual address, none across 4 KiB. -/
def copyPieces (va : Nat) : Nat → Nat → List (Nat × Nat)
  | 0, _ => []
  | _, 0 => []
  | fuel + 1, n => let m := min n (4096 - va % 4096); (va, m) :: copyPieces (va + m) fuel (n - m)

/-- Translate one side of a row: the tables are read, and a host page that is not cached is asked for by ATS (R333, R338, R351). -/
def State.copySide (s : State) (n : Nat) (x : Ctx) (write host : Bool) : List (Nat × Nat) → State × Side2
  | [] => (s, if host then .host [] else .hbm [])
  | (va, m) :: t =>
    let s := s.readTables { ctx := some n } x va
    match s.translate x va write (if host then (if write then .hostDst else .hostSrc) else .plain) with
    | .fail st ca => (s, .fails st ca va)
    | .hbm a _ =>
      if host then (s, .fails stContextFault 0x07 va)
      else match s.copySide n x write host t with | (s, .hbm l) => (s, .hbm ((a, m) :: l)) | o => o
    | .host iova =>
      if !host || !s.hostOn x then (s, .fails stContextFault 0x07 va)
      else match s.ats x (iova / 4096 * 4096) write with
        | (s, none) => (s, .page (iova / 4096 * 4096))
        | (s, some e) => match s.copySide n x write host t with | (s, .host l) => (s, .host ((e.addr + iova % 4096, m) :: l)) | o => o
    | .window _ _ _ _ => (s, .fails stContextFault 0x07 va)

/-- A row of a copy needs a page of the host: request it, or take the answer (R352 to R354). -/
def State.copyPage (s : State) (f r n : Nat) (x : Ctx) (iova : Nat) (write : Bool) : State :=
  let u := copyUnit f r
  match s.pageReqs.find? (fun p => p.unit == u && p.ctx == n) with
  | some p =>
    match p.answer with
    | some (.success a true) =>
      let e : Atc := { port := x.port, pasid := x.pasid, iova := p.va, addr := a / 4096 * 4096, w := p.write }
      ({ s with pageReqs := s.pageReqs.filter (fun q => !(q.unit == u && q.ctx == n)) } : State).atcAdd e
    | _ => s
  | none =>
    if (s.fn f).priFailed then s.failCtx n stPageFault { unit := 0xFFFF, cls := 6, sev := 3, cause := 0x0C, akind := 5, addr := iova }
    else if 32 ≤ s.pagesOf n then s
    else
      let p : PageReq := { fn := f, ctx := n, unit := u, req := 0, va := iova, write := write, sentAt := s.time }
      ({ s with pageReqs := s.pageReqs ++ [p] } : State).emit (.pageRequest x.port (f % 128) x.pasid iova write)

/-- The blocks of 4 KiB that lie whole in `n` bytes from `va` and meet the part from `lo` of `m` bytes. -/
def wholeBlocks (va n lo m : Nat) : List Nat :=
  (upto (lo / 4096) (m / 4096 + 2)).map (· * 4096) |>.filter (fun b => decide (va ≤ b) && decide (b + 4096 ≤ va + n) && decide (b < lo + m) && decide (lo < b + 4096))

/-- The lines of a side in HBM. -/
def Side2.lines : Side2 → List Nat
  | .hbm l => l.flatMap (fun e => linesOf e.1 e.2)
  | _ => []

/-- Read the bytes of a side in HBM. -/
def State.readSide (s : State) (w : Who) : List (Nat × Nat) → State × List Byte × List Bool
  | [] => (s, [], [])
  | (a, n) :: t =>
    let (s, b, g) := s.hbmRead w a n
    let (s, bs, gs) := s.readSide w t
    (s, b ++ bs, g ++ gs)

/-- Write bytes to a side in HBM. -/
def State.writeSide (s : State) (w : Who) (bytes : List Byte) (fog : List Bool) : List (Nat × Nat) → State
  | [] => s
  | (a, n) :: t => (s.hbmWrite w a (bytes.take n) (fog.take n)).writeSide w (bytes.drop n) (fog.drop n) t

/-- Send bytes to host memory. -/
def State.hostSide (s : State) (port : Nat) (bytes : List Byte) : List (Nat × Nat) → State
  | [] => s
  | (a, n) :: t => (s.emit (.hostWrite port a (bytes.take n) [])).hostSide port (bytes.drop n) t

/-- The checks of the destination blocks that a row completes (R397). -/
def State.copyChecks (s : State) (n : Nat) (x : Ctx) (dst pos m : Nat) : State :=
  ((wholeBlocks dst (pos + m) (dst + pos) m).filter (fun b => decide (b + 4096 ≤ dst + pos + m))).foldl (fun (s : State) b =>
    match s.translate x b true .plain with
    | .hbm a _ => s.hbmStoreCheck { ctx := some n } a 4096 none
    | _ => s) s

/-- Verify the source blocks that a copy reads whole, a remainder block of fewer bytes too, and that the part from `lo` of `m` bytes meets
(R397, R463). -/
def State.copyVerify (s : State) (ctx : Nat) (x : Ctx) (src n lo m : Nat) : State :=
  (((upto (lo / 4096) (m / 4096 + 2)).map (· * 4096)).filter (fun b => decide (src ≤ b) && decide (b < lo + m))).foldl (fun (s : State) b =>
    match s.translate x b false .plain with
    | .hbm a _ =>
      match tabFind s.hbm.checks (a / 4096) with
      | some e => if lo < b + e.n ∧ b + e.n ≤ src + n then s.hbmVerify { ctx := some ctx } a e.n else s
      | none => s
    | _ => s) s

/-- A copy that cannot go on fails its context. -/
def State.copyFail (s : State) (n st ca va : Nat) : State := s.failCtx n st (xlatRec 0xFFFF ca va)

/-- What a row moves, once its two sides are translated and its lines may be accessed. -/
def State.copySides (s : State) (f r n : Nat) (x : Ctx) (c : Cmd) (m : Nat) (data : List Byte) (poison : List Nat) : Side2 → Side2 → State
  | .fails st ca va, _ => s.copyFail n st ca va
  | _, .fails st ca va => s.copyFail n st ca va
  | .page v, _ => s.copyPage f r n x v false
  | _, .page v => s.copyPage f r n x v true
  | .hbm a, .hbm b =>
    let s := s.copyVerify n x c.src c.len (c.src + c.pos) m
    let (s, bytes, fog) := s.readSide { ctx := some n } a
    ((s.writeSide { ctx := some n } bytes fog b).copyChecks n x c.dst c.pos m).setFront f r (fun c => { c with pos := c.pos + m })
  | .hbm a, .host b =>
    let s := s.copyVerify n x c.src c.len (c.src + c.pos) m
    let (s, bytes, fog) := s.readSide { ctx := some n } a
    if fog.any id then s.failCtx n stFoggedOutput { unit := 0xFFFF, cls := 5, sev := 3, cause := 0x05, akind := 4, addr := c.src + c.pos }
    else (s.hostSide x.port bytes b).setFront f r (fun c => { c with pos := c.pos + m })
  | .host a, .hbm b =>
    let s := a.foldl (fun (s : State) e => s.emit (.hostRead x.port e.1 e.2)) s
    let bytes := (upto 0 m).map (fun i => data.getD i 0)
    let fog := (upto 0 m).map (fun i => poison.contains i)
    ((s.writeSide { ctx := some n } bytes fog b).copyChecks n x c.dst c.pos m).setFront f r (fun c => { c with pos := c.pos + m })
  | .host _, .host _ => s.copyFail n stContextFault 0x07 (c.src + c.pos)

/-- The two sides of a row, translated, source first. -/
def State.rowSides (s : State) (n : Nat) (x : Ctx) (toHost fromHost : Bool) (src dst : List (Nat × Nat)) : State × Side2 × Side2 :=
  let (s, a) := s.copySide n x false fromHost src
  let (s, b) := s.copySide n x true toHost dst
  (s, a, b)

/-- One row of 4 KiB of COPY, EXPORT or IMPORT, once its lines and those of its tables may be accessed (R343, R405); `data` and `poison`
are what the host returned for it. -/
def State.copyRow (s : State) (f r n : Nat) (x : Ctx) (c : Cmd) (toHost fromHost : Bool) (data : List Byte) (poison : List Nat) : State :=
  let m := min 4096 (c.len - c.pos)
  let src := copyPieces (c.src + c.pos) 3 m
  let dst := copyPieces (c.dst + c.pos) 3 m
  let sides := s.rowSides n x toHost fromHost src dst
  let tables := (src ++ dst).flatMap (fun e => s.tableLines x e.1)
  match s.directAccess (copyUnit f r) (tables ++ sides.2.1.lines) sides.2.2.lines with
  | (s, false) => s
  | (s, true) =>
    let (s, a, b) := s.rowSides n x toHost fromHost src dst
    s.copySides f r n x c m data poison a b

/-- A command of the copy engine of one type: its checks before it starts (R393), then row after row, and its end. -/
def State.copyCmd (s : State) (f r t : Nat) (toHost fromHost : Bool) (data : List Byte) (poison : List Nat) : State :=
  match s.front f r t with
  | none => s
  | some c =>
    if s.phase ≠ .ready then s
    else match s.boundCtx f c with
      | none => s.finish f r stVerifyReject 0
      | some x =>
        if !c.started then
          if c.len ≠ 0 ∧ (s.firstOutside x c.src false fromHost ∨ s.firstOutside x c.dst true toHost) then s.finish f r stVerifyReject 0
          else if x.state = .failed then s.finish f r stNotRun 0
          else s.setFront f r (fun c => { c with started := true })
        else if x.state = .failed then s
        else if c.len ≤ c.pos then s.finish f r stOK c.pos
        else s.copyRow f r c.ctxN x c toHost fromHost data poison

/-- COPY (R397). -/
def execCopy (f : FnId) (r : Fin 16) (s : State) : Res := .next (s.copyCmd (fnKey f) r 4 false false [] [])

/-- EXPORT (R397). -/
def execExportCmd (f : FnId) (r : Fin 16) (s : State) : Res := .next (s.copyCmd (fnKey f) r 5 true false [] [])

/-- IMPORT (R397): the operands are the row that the host returns, and the bytes of it that are poisoned (R445). -/
def execImportCommand (f : FnId) (r : Fin 16) (data : List Byte) (poison : List Nat) (s : State) : Res :=
  .next (s.copyCmd (fnKey f) r 6 false true data poison)

end Sys2Proof.Machine
end

