-- ==== Sys2Proof/Machine/Keeper.lean ====
section
/-!
DEFINITION. What the Keeper does to sectors, contexts, clusters and stacks (R412 to R417, R435, R522 to R527): the effects of the
operations of R529, for transactions, for resets and for the Keeper's own service.
-/

namespace Sys2Proof.Machine

/-! ### Granules and the room in the stacks (R329, R330, R413, R527) -/

/-- The free granules, lowest first (log 33). -/
def State.pool (s : State) : List Nat := (upto 0 718).filter (fun g => let x := s.granule g; x.sector.isNone && !x.withdrawn)

/-- The granules that may be allocated: none while a part is failing (R527). -/
def State.freeGranules (s : State) : List Nat := if s.kpr.failing then [] else s.pool

/-- Change a granule. -/
def State.setGranule (s : State) (g : Nat) (x : Granule) : State := s.setHbm { s.hbm with granules := tabSet s.hbm.granules g x }

/-- A GiB in parts that every interleave of up to 20 stacks divides. -/
def gibParts : Nat := 232792560

/-- What of a stack the granules take: a global granule has a twentieth of its bytes there, a local one its share of its sector's
stacks (R330). -/
def State.stackLoad (s : State) (n : Nat) : Nat :=
  let away := (s.hbm.granules.filter (fun e => e.2.withdrawn)).length
  s.sectors.foldl (fun a e =>
    let l := stacksOn e.2.dies
    a + e.2.granules.length * (if !e.2.imode then gibParts / 20 else if l.contains n then gibParts / l.length else 0)) ((away + 2) * (gibParts / 20))

/-- Whether every stack holds what is placed in it. -/
def State.stacksHold (s : State) : Bool := (upto 0 20).all (fun n => decide (s.stackLoad n ≤ 36 * gibParts))

/-! ### Creating a sector (R412, R413) -/

/-- The sector that the two words of a create operation describe (R529). While the device is unlocked it is debug (R496). -/
def sectorOfWords (w0 w1 : Nat) (granules groups : List Nat) (boot : Nat) (serial : BitVec 64) (debug : Bool) : Sector :=
  { qx := fld w0 22 18, qy := fld w0 26 23, qw := fld w0 32 27, qh := fld w0 37 33, ports := fld w0 45 38, granules := granules
    sysg := fld w1 9 0, imode := bitOf w1 10, res := bitOf w1 11, groups := groups, spill := fld w1 23 21, quota := fld w1 31 24
    thr := fld w1 38 32, limit := fld w1 54 39, hostmem := bitOf w1 55, debug := bitOf w1 56 || debug, auditN := fld w1 61 57
    bootAt := boot, serial := serial }

/-- The ranges of the fields of R412. -/
def Sector.inRange (x : Sector) : Bool :=
  decide (1 ≤ x.qw) && decide (1 ≤ x.qh) && decide (x.qx + x.qw ≤ 32) && decide (x.qy + x.qh ≤ 16) && x.ports != 0
    && decide (1 ≤ x.sysg) && decide (x.sysg + 1 ≤ x.granules.length) && decide (x.spill ≤ 6) && decide (x.quota ≤ 128)
    && decide (1 ≤ x.thr) && decide (x.thr ≤ 64) && decide (10 ≤ x.auditN) && decide (x.auditN ≤ 24)

/-- The quota sum of a controller, without one sector. -/
def Ctrl.quotaSum (c : Ctrl) (sec : Nat) : Nat := c.quota.foldl (fun a e => if e.1 = sec then a else a + e.2) 0

/-- What R413 refuses in a creation. -/
def State.creationBad (s : State) (r : Nat) (x : Sector) : Bool :=
  (s.sector r).isSome || s.sectors.any (fun e => regionsMeet e.2.region x.region)
    || s.badQuad (regionClusters x.region)
    || (upto 0 20).any (fun n => decide (128 < (s.ctrl n).quotaSum r + x.quota))

/-- Draw a key into a sector's slot (R341). -/
def State.drawKey (s : State) (r : Nat) : State :=
  let (k, s) := s.draw
  s.setHbm { s.hbm with keys := tabSet s.hbm.keys r k }

/-- Give every granule of a sector its initial contents under the key in the slot; nothing cached is kept (R342, R345). -/
def State.initSector (s : State) (r : Nat) (x : Sector) : State := (x.granules.foldl State.initGranule s).rcDropSector r

/-- Set a sector's quota in every controller. -/
def State.setQuotas (s : State) (r q : Nat) : State := (upto 0 20).foldl (fun (s : State) n => s.setCtrl n ((s.ctrl n).setQuota r q)) s

/-- The ports of a mask. -/
def portsOf (m : Nat) : List Nat := (upto 0 8).filter (fun p => bitOf m p)

/-- Map the granules of a sector outside its system region for its host, each at the offset of its own number (log 33). -/
def State.mapHost (s : State) (x : Sector) : State :=
  if !x.hostmem then s
  else (portsOf x.ports).foldl (fun (s : State) p =>
    let v := s.port p
    s.setPort p { v with hdmMap := (x.granules.drop x.sysg).foldl (fun t g => tabSet t g g) v.hdmMap }) s

/-- The foghorn and spill ring of a new sector; the ring begins at its first granule (log 33). -/
def State.openSf (s : State) (r : Nat) (x : Sector) : State :=
  let f := s.sf r
  s.setSf r { thr := x.thr, base := x.granules.headD 0 * 2 ^ 30, size := x.spill, high := f.high, stalls := f.stalls, starved := f.starved }

/-- Create sector `r` from the words of its operation; none when R413 refuses it. -/
def State.createSector (s : State) (w0 w1 : Nat) : Option State :=
  let r := fld w0 17 12
  let n := fld w0 55 46
  let gs := s.freeGranules.take n
  let groups := ((upto 0 256).filter (fun k => !s.sectors.any (fun e => e.2.groups.contains k))).take (fld w1 20 12)
  let (serial, s') := s.draw
  let x := sectorOfWords w0 w1 gs groups s.flash.boot (serial.setWidth 64) s.sec.unlocked
  if gs.length ≠ n || groups.length != fld w1 20 12 || !x.inRange || s.creationBad r x then none
  else
    let s := s'.setSector r x
    if !s.stacksHold then none
    else
      let s := gs.foldl (fun (s : State) g => s.setGranule g { s.granule g with sector := some r }) s
      let s := (s.drawKey r).initSector r x
      let s := (s.openSf r x).setQuotas r x.quota
      some (({ s with aud := { s.aud with sect := tabSet s.aud.sect r x.auditN } } : State).mapHost x)

/-! ### Contexts (R416, R417, R435) -/

/-- Create a context (R417); its virtual time is a free value (log 6). -/
def State.createContext (s : State) (r p f n : Nat) : Option State :=
  match s.sector r with
  | none => none
  | some x =>
    if !bitOf x.ports p || (s.ctx n).isSome || (x.res && decide (64 ≤ (s.ctxsOf r).length)) then none
    else
      let st := if s.residents r < 64 then CtxState.idle else CtxState.notResident
      let (v, s) := s.draw
      some (s.setCtx n { sector := r, port := p, fn := f, v := v.setWidth 64, state := st })

/-- Take a context down with CONTEXT_FAULT: one with a step pending fails with a record, then all that it holds goes (R433). -/
def State.takeDown (s : State) (n : Nat) (r : ErrRec) : State :=
  match s.ctx n with
  | none => s
  | some x =>
    let s := if x.state = .failed then s
      else if x.steps.isEmpty then s.setCtx n { x with state := .failed, status := stContextFault }
      else s.failCtx n stContextFault r
    s.teardown n

/-- Destroy a context (R435). -/
def State.destroyContext (s : State) (n : Nat) : State :=
  let s := s.takeDown n { cls := 9, sev := 3, cause := 0x0D }
  { s with ctxs := tabDel s.ctxs n }

/-! ### Releasing a sector (R415) -/

/-- Whether no host holds a line of a sector's granules any more: the snoops that invalidate them leave now (R405). -/
def State.hostsLetGo (s : State) (x : Sector) : State × Bool :=
  (upto 0 8).foldl (fun (a : State × Bool) p =>
    x.granules.foldl (fun (a : State × Bool) g =>
      if (a.1.port p).hdmMap.any (fun e => e.2 == g) then
        let b := a.1.invalidated p g
        (b.1, a.2 && b.2)
      else a) a) (s, true)

/-- Clear the map entries that name a granule, in every port. A line that a host still holds has its snoop sent (R405). -/
def State.unmapHost (s : State) (g : Nat) : State :=
  (upto 0 8).foldl (fun (s : State) p =>
    if (s.port p).hdmMap.any (fun e => e.2 == g) then
      let s := (s.invalidated p g).1
      let v := s.port p
      s.setPort p { v with hdmMap := v.hdmMap.filter (fun e => e.2 != g), hdmPend := v.hdmPend.filter (fun e => tabFind v.hdmMap e.1 != some g) }
    else s) s

/-- Zeroize every cluster of a rectangle; a scan of one is over. -/
def State.wipeRegion (s : State) (g : Region) : State :=
  (regionClusters g).foldl (fun (s : State) c =>
    let s := s.wipeCluster c
    s.setCl c { s.cl c with scan := .running, scanned := false, pendingOp := 0 }) s

/-- Release a sector: its contexts are taken down and are no more, its clusters zeroized, groups freed, quotas 0, key destroyed,
granules returned. -/
def State.releaseSector (s : State) (r : Nat) : State :=
  match s.sector r with
  | none => s
  | some x =>
    let s := (s.ctxsOf r).foldl (fun (s : State) e => s.destroyContext e.1) s
    let s := s.wipeRegion x.region
    let s := x.groups.foldl State.freeGroup s
    let s := s.setQuotas r 0
    let s := x.granules.foldl (fun (s : State) g => (s.unmapHost g).setGranule g { s.granule g with sector := none, spent := tabGet 0 s.hbm.keys r }) s
    let s := (s.rcDropSector r).setHbm { (s.rcDropSector r).hbm with keys := tabDel s.hbm.keys r }
    let f := s.sf r
    { s.setSf r { f with ring := [] } with sectors := tabDel s.sectors r }

/-- Release every sector. -/
def State.releaseAll (s : State) : State := s.sectors.foldl (fun (s : State) e => s.releaseSector e.1) s

/-! ### Lightship swap (R522 to R525, R25) -/

/-- Slots of a link direction and lane that circuits own (R215). -/
def Sw.slotsUsed (w : Sw) (link lane : Nat) : Nat := ((tabGet [] w.slotTab (2 * link + lane)).filter (fun b => decide (128 ≤ b))).length

/-- The slots that the circuits of a way of a cluster own in a lane (R217). -/
def State.waySlots (s : State) (c way lane : Nat) : Nat :=
  let l := way / 2
  if way % 2 = 0 then (s.sw c).slotsUsed l lane
  else match linkTo c l with
    | some d => (s.sw d).slotsUsed ((l + 2) % 4) lane
    | none => 0

/-- Slots in use on a link direction of a physical cluster: by the circuits of the cluster that lies there, unless a swap has moved that
link, and by the circuits of moved links that pass it. -/
def State.slotsTaken (s : State) (h : Nat × Nat) (lane : Nat) : Nat :=
  let q := posOfPhys h.1
  let here := match s.logicalAt q.1 q.2 with
    | none => 0
    | some k =>
      let gone := s.placed.any (fun x => x.cluster == k || (x.way % 2 == 1 && linkTo x.cluster (x.way / 2) == some k && (x.way / 2 + 2) % 4 == h.2))
      if gone then 0 else (s.sw k).slotsUsed h.2 lane
  (s.placed.filter (fun x => x.hops.contains h)).foldl (fun a x => a + s.waySlots x.cluster x.way lane) here

/-- Place the circuits of one way of a cluster on free slots of its path to a lightship; none when a hop has too few (R217). -/
def State.placeWay (s : State) (c p way : Nat) : Option State :=
  let hops := Config.linkPath c p way
  let fits := fun (lane : Nat) => hops.all (fun h => decide (s.slotsTaken h lane + s.waySlots c way lane ≤ 16))
  if (s.waySlots c way 0 == 0 || fits 0) && (s.waySlots c way 1 == 0 || fits 1) then some { s with placed := s.placed ++ [⟨c, way, hops⟩] } else none

/-- Re-place the circuits of a cluster over the physical paths to a lightship on free slots, each with its slot count; none when they do not
fit (R217). -/
def State.placeOn (s : State) (c p : Nat) : Option State :=
  (upto 0 8).foldl (fun (o : Option State) way => o.bind (fun s => s.placeWay c p way)) (some { s with placed := s.placed.filter (fun x => x.cluster != c) })

/-- The lightship for a cluster: on its die, with enough free slots on the paths to it, the fewest mesh hops away, the lowest physical ID
on a tie (R217, R522). -/
def State.bestLightship (s : State) (c : Nat) : Option Nat :=
  let hops := fun (p : Nat) => let a := posOfPhys p; let b := s.posOf c; (max a.1 b.1 - min a.1 b.1) + (max a.2 b.2 - min a.2 b.2)
  ((s.lightships (dieOf c)).filter (fun p => (s.placeOn c p).isSome)).foldl
    (fun (v : Option Nat) p => match v with | some q => if hops p < hops q then some p else v | none => some p) none

/-- No lightship is left for a cluster: its quad is unavailable from now on, over every reset, its physical cluster is retired, and a
sector that includes it is reported degraded (R25). The failed physical cluster stays assigned to it: its router still merges and ejects for
the logical cluster, and it is not bypassed (R26 says neither; DESIGN CHOICE, log 167). -/
def State.retireLogical (s : State) (c : Nat) : State :=
  let s : State := { s with quadBad := setAdd s.quadBad (quadOf c), flash := { s.flash with retired := setAdd s.flash.retired c, failed := setAdd s.flash.failed (s.physOf c) } }
  let s := s.setCl c { s.cl c with retired := true }
  match s.sectorOf c with
  | some r => match s.sector r with | some x => (s.setSector r { x with degraded := true }).emit (.degraded r) | none => s
  | none => s

/-- The service record is written: its counter moves on (R485, R486). -/
def Flash.commit (f : Flash) : Flash := { f with counter := f.counter + 1 }

/-- The exposure of a faulty unit is reported when the swap of its cluster has completed (R478). -/
def State.reportSwap (s : State) (c : Nat) : State :=
  match tabFind s.kpr.badSwap c with
  | some g => ({ s with kpr := { s.kpr with badSwap := tabDel s.kpr.badSwap c } } : State).exposureReport g
  | none => s

/-- The units of a cluster after a scan out of it and back: requests that no memory has answered are made again, a blocked scalar
instruction executes again, what was uncorrectable is fog (R187, R320, R359). -/
def State.rescan (s : State) (c : Nat) : State :=
  let s := (s.landAll c).sendTransit c |>.dropRequests c
  let s := (upto 0 12).foldl (fun (s : State) u =>
    let m := s.mu (gidOf c u)
    if m.xf.faultWait then s.setMu (gidOf c u) { m with xf := { m.xf with refetch := sat32 m.xf.refetch (((s.tu (gidOf c u)).running.map Run.rowsOut).sum) } } else s) s
  let s := (upto 0 20).foldl (fun (s : State) u =>
    let t := (s.tu (gidOf c u)).scanned
    s.setTu (gidOf c u) { t with running := t.running.map Run.refetch }) s
  let s := (upto 0 12).foldl (fun (s : State) u => s.setMu (gidOf c u) (s.mu (gidOf c u)).fogDesc) s
  let s := (upto 12 4).foldl (fun (s : State) u => s.setMcu (gidOf c u) (s.mcu (gidOf c u)).scanned) (s.readTiles c)
  let s := (upto 20 4).foldl (fun (s : State) u => s.setScu (gidOf c u) (s.scu (gidOf c u)).scanned.again) s
  s.setSw c (s.sw c).scanned

/-- Move a logical cluster to a lightship (R523): the state goes with it, its circuits are placed on the paths to the lightship, the old
physical cluster is retired, and what was held for it is performed. -/
def State.swapNow (s : State) (c : Nat) : State :=
  match s.bestLightship c with
  | none => ((s.retireLogical c).reportSwap c).performHeld c
  | some p =>
    let old := s.physOf c
    let s := ((s.rescan c).placeOn c p).getD (s.rescan c)
    let f := s.flash
    let s : State := { s with
      remap := tabSet s.remap c p
      flash := { f with failed := setAdd f.failed old, consumed := setAdd f.consumed p, swaps := sat16 f.swaps 1 }.commit }
    (s.reportSwap c).performHeld c

/-! ### Retiring HBM (R526, R527) -/

/-- Withdraw the lowest `k` free granules as refuge; none when they are not there. -/
def State.withdraw (s : State) (k : Nat) : Option (State × List Nat) :=
  let gs := s.pool.take k
  if gs.length ≠ k then none
  else
    let s := gs.foldl (fun (s : State) g => s.setGranule g { s.granule g with withdrawn := true }) s
    if s.stacksHold then some (s, gs) else none

/-- Move lines that hold errors as they are read: an uncorrectable one arrives fogged. -/
def State.moveLines (s : State) (n : Nat) (f : Nat → Bool) : State :=
  let ls := (s.hbm.errs.map (·.1)).foldl (fun l h => if s.stackOf (h / 2 * 64) = n ∧ f (h / 2) then setAdd l (h / 2) else l) []
  ls.foldl (fun (s : State) l => s.decodeLine {} l) s

/-- Retire a pseudo-channel, or a whole stack; none when the pool cannot supply the granules. Which lines of a stack lie in a
pseudo-channel is not stated: a free value (log 6). -/
def State.retirePart (s : State) (n : Nat) (pc : Option Nat) : Option State :=
  match pc with
  | some p => (s.withdraw 23).map (fun (s, gs) =>
      let s := s.moveLines n (fun l => Config.freeBit ((n * 32 + p) * 2 ^ 34 + l))
      let c := s.ctrl n
      let s := s.setCtrl n { c with pcRetired := if bitOf c.pcRetired p then c.pcRetired else c.pcRetired + 2 ^ p, refuge := c.refuge ++ gs }
      { s with flash := { s.flash with pcRetired := s.flash.pcRetired ++ [(n, p)] }.commit })
  | none => (s.withdraw 36).map (fun (s, gs) =>
      let s := s.moveLines n (fun _ => true)
      let c := s.ctrl n
      let s := s.setCtrl n { c with retired := true, trained := false, refuge := c.refuge ++ gs }
      { s with flash := { s.flash with stacksRetired := setAdd s.flash.stacksRetired n }.commit })

/-- A retirement that the Keeper starts: without granules the part stays in service as failing. -/
def State.retireOrFail (s : State) (n : Nat) (pc : Option Nat) : State :=
  match s.retirePart n pc with
  | some s => s
  | none =>
    ({ s with hbm := { s.hbm with failing := s.hbm.failing ++ [(n, pc)] }, kpr := { s.kpr with failing := true } } : State).modErr (fun e => { e with alert := true })

/-! ### The operations of R529 -/

/-- The bits of an operation's words that carry fields. -/
def opBits (k : Nat) : List (Nat × Nat) :=
  match k with
  | 1 => [(55, 0)]
  | 2 => [(17, 12), (11, 0)]
  | 3 => [(39, 12), (11, 0)]
  | 4 => [(23, 12), (11, 0)]
  | 5 => [(22, 12), (11, 0)]
  | 6 | 8 => [(16, 12), (11, 0)]
  | 7 => [(21, 12), (11, 0)]
  | _ => [(11, 0)]

/-- Fields of an operation's first word. -/
def opKind (w : Nat) : Nat := fld w 7 0
def opStack (w : Nat) : Nat := fld w 16 12

/-- Whether the words of an operation have a known kind, the count of their kind, and no reserved bit set. -/
def opFormOk (ws : List Nat) : Bool :=
  match ws with
  | [a] => decide (2 ≤ opKind a) && decide (opKind a ≤ 9) && fld a 11 8 == 1 && !bitsOutside a (opBits (opKind a))
  | [a, b] => opKind a == 1 && fld a 11 8 == 2 && !bitsOutside a (opBits 1) && !bitsOutside b [(61, 0)]
  | _ => false

/-- The effect of a whole operation at once, or none when its check of R530 fails. -/
def State.opApply (s : State) (ws : List Nat) : Option State :=
  let a := ws.headD 0
  let n := opStack a
  let c := s.ctrl n
  if !opFormOk ws then none
  else match opKind a with
    | 1 => s.createSector a (ws.getD 1 0)
    | 2 => if (s.sector (fld a 17 12)).isSome then some (s.releaseSector (fld a 17 12)) else none
    | 3 => s.createContext (fld a 17 12) (fld a 20 18) (fld a 27 21) (fld a 39 28)
    | 4 => if (s.ctx (fld a 23 12)).isSome then some (s.destroyContext (fld a 23 12)) else none
    | 5 => if (s.cl (fld a 22 12)).retired then none else some (s.swapNow (fld a 22 12))
    | 6 => if 20 ≤ n || c.retired then none else some s
    | 7 => if 20 ≤ n || c.retired || bitOf c.pcRetired (fld a 21 17) then none else s.retirePart n (some (fld a 21 17))
    | 8 => if 20 ≤ n || c.retired then none else s.retirePart n none
    | _ => some s

end Sys2Proof.Machine
end

