-- ==== Sys2Proof/Machine/Links.lean ====
section
/-!
DEFINITION. The ports towards the host (spec/13): links, host access to sector memory and its snoops (R403 to R406), link security
(R407), and the resets of functions and ports (R408, R409).
-/

namespace Sys2Proof.Machine

/-! ### Host access to sector memory (R403 to R406) -/

/-- The device address of an HDM offset of a port, when its map entry is valid (R403). -/
def Port.hdm (v : Port) (off : Nat) : Option Nat := (tabFind v.hdmMap (off / 2 ^ 30)).map (fun g => g * 2 ^ 30 + off % 2 ^ 30)

/-- Whether a port refuses CXL.mem traffic: its PF is assigned by TSP and the IDE stream is not Secure (R407). -/
def State.memRefused (s : State) (p : Nat) : Bool := (s.fn (p * 128)).tsp && !(s.port p).ideSecure

/-- CXL_MEM_READ (R404, R406): one line at an HDM offset. A request to a stack under retraining is held, and so is one for a line that an
earlier request waits for (R343). -/
def execCxlMemRead (p : Fin 8) (off : Nat) (s : State) : Res :=
  let v := s.port p.val
  let off := off / 64 * 64
  if !v.cxl || !v.memEn then .next s
  else if s.memRefused p.val then .next (s.emit (.unsupported p.val))
  else if s.inReset then .next ((s.setPort p.val { v with resetDrop := sat32 v.resetDrop 1 }).emit (.memReply p.val off (List.replicate 64 0) true))
  else match v.hdm off with
    | none => .next ((s.setPort p.val { v with unmapped := sat32 v.unmapped 1 }).emit (.memReply p.val off (List.replicate 64 0) true))
    | some a =>
      .next (if s.hostWaits a then s.holdHost { unit := hostUnit p.val, req := off, addr := a, len := 64, write := false } else s.hostRead p.val off a)

/-- The bits that a masked write of a line leaves as they are; none when it writes the whole line. -/
def maskKeep (mask : List Bool) : List Byte :=
  if (upto 0 64).all (fun i => mask.getD i false) then [] else (upto 0 64).map (fun i => if mask.getD i false then 0 else 0xFF)

/-- CXL_MEM_WRITE (R404, R406): a write of one line, whole or in part by its byte mask; held like a read. -/
def execCxlMemWrite (p : Fin 8) (off : Nat) (data : List Byte) (mask : List Bool) (poison : Bool) (s : State) : Res :=
  let v := s.port p.val
  let off := off / 64 * 64
  if !v.cxl || !v.memEn then .next s
  else if s.memRefused p.val then .next (s.emit (.unsupported p.val))
  else if s.inReset then .next (s.setPort p.val { v with resetDrop := sat32 v.resetDrop 1 })
  else match v.hdm off with
    | none => .next (s.setPort p.val { v with unmapped := sat32 v.unmapped 1 })
    | some a =>
      let keep := maskKeep mask
      .next (if s.hostWaits a then
          s.holdHost { unit := hostUnit p.val, req := off, addr := a, len := 64, write := true, bytes := (upto 0 64).map (fun i => data.getD i 0), keep := keep, fog := [poison] }
        else s.hostWrite a data keep poison)

/-- The snoops of a line at a port, answered: those sent for an access stand answered until it is performed. -/
def State.answerSnoop (s : State) (p l : Nat) : State :=
  let mine := fun (x : Snoop) => x.port == p && x.line == l && !x.answered
  let inv := s.snoops.any (fun x => mine x && x.inv)
  let v := s.port p
  { s.setPort p { v with filter := if inv then v.filter.filter (· != l) else v.filter } with
    snoops := (s.snoops.filter (fun x => !(mine x && x.who.isNone))).map (fun x => if mine x then { x with answered := true } else x) }

/-- BI_RESPONSE (R405): the write-back, if any, is performed, and the access held for the snoop proceeds. -/
def execBiResponse (p : Fin 8) (line : Nat) (wb : Option (List Byte)) (s : State) : Res :=
  if !s.snoops.any (fun x => x.port == p.val && x.line == line && !x.answered) then .next s
  else
    let s := s.answerSnoop p.val line
    let s := match wb with
      | some l => if (s.addrSector (line * 64)).isSome then s.hbmWrite {} (line * 64) ((upto 0 64).map (fun i => l.getD i 0)) [] else s
      | none => s
    .next (s.settleMap p.val)

/-- BISNP_TIMEOUT (R405): 10 ms unanswered, the line is fogged, a record is written and CXL.mem is disabled until PERST_N. -/
def execBisnpTimeout (p : Fin 8) (line : Nat) (s : State) : Res :=
  match s.snoops.find? (fun x => x.port == p.val && x.line == line && !x.answered) with
  | none => .next s
  | some x =>
    let s := (s.advanceTo (x.sentAt + 10000000)).answerSnoop p.val line
    let v := s.port p.val
    let s := s.setPort p.val { v with filter := v.filter.filter (· != line), biTimeout := sat32 v.biTimeout 1, memEn := false, memOff := true }
    let s := (s.poisonLine line).settleMap p.val
    .next (s.record { cls := 6, sev := 2, cause := 0x0B, akind := 2, addr := line * 64, sector := (s.addrSector (line * 64)).getD 0
                      sv := (s.addrSector (line * 64)).isSome })

/-! ### Links (R381) -/

/-- LINK_UP (R381): a link that trains in 256-byte flit mode enters service, else it stays out. CXL.mem stays off after R405 until
PERST_N. Ports train once the boot has brought them up (R480). -/
def execLinkUp (p : Fin 8) (rate : Fin 4) (width : Fin 4) (flit256 : Bool) (s : State) : Res :=
  let v := s.port p.val
  if !(s.phase == .ready || s.inReset) then .next s
  else if rate.val = 0 || width.val = 0 || !flit256 then
    .next (s.setPort p.val { v with rate := rate.val, width := width.val, cxl := false, cacheEn := false, memEn := false })
  else .next (s.setPort p.val { v with
    rate := rate.val, width := width.val, cxl := true, cacheEn := true, memEn := !v.memOff
    retrains := if v.cxl then sat16 v.retrains 1 else v.retrains })

/-! ### Failing what a reset takes down -/

/-- The record of a context that a port's reset takes down: the cause code is not stated, a free value (log 6). -/
def State.resetRec (s : State) : ErrRec × State :=
  let (w, s) := s.draw
  ({ cls := 6, sev := 3, cause := w.toNat % 13 + 1 }, s)

/-- Contexts are torn down with CONTEXT_FAULT. -/
def State.takeDownAll (s : State) (l : List Nat) : State :=
  l.foldl (fun (s : State) n => let (r, s) := s.resetRec; s.takeDown n r) s

/-- The contexts of functions that satisfy a condition. -/
def State.ctxsWhere (s : State) (f : Ctx → Bool) : List (Nat × Ctx) := s.ctxs.filter (fun e => f e.2)

/-- The rings of a function stop and write no further completion (R408); one that is off fetches again once it is enabled. -/
def State.stopRings (s : State) (f : Nat) : State :=
  let x := s.fn f
  s.setFn f { x with priFailed := false, rings := tabMap x.rings (fun _ r => { r with stopped := r.enable, cmds := [], unsig := 0, coalSince := none }) }

/-- FLR of one function: its rings stop, its contexts are torn down (R408, R409). -/
def State.flr (s : State) (p f : Nat) : State :=
  let s := s.stopRings (p * 128 + f)
  s.takeDownAll ((s.ctxsWhere (fun x => x.port == p && x.fn == f)).map (·.1))

/-- Count FLRs seen at a port (R411). -/
def State.countFlr (s : State) (p n : Nat) : State := s.setPort p { s.port p with flr := sat16 (s.port p).flr n }

/-- Whether the device has ports that answer. -/
def State.portsUp (s : State) : Bool := s.phase == .ready || s.inReset

/-- FLR_VF (R408). -/
def execFlrVf (f : FnId) (s : State) : Res :=
  if f.fn.val = 0 || !s.portsUp then .next s else .next ((s.flr f.port.val f.fn.val).countFlr f.port.val 1)

/-- FLR_PF (R408): every function of the port, with its mailboxes. -/
def execFlrPf (p : Fin 8) (s : State) : Res :=
  if !s.portsUp then .next s
  else
    let s := (upto 0 128).foldl (fun (s : State) f =>
      let x := s.fn (p.val * 128 + f)
      (s.setFn (p.val * 128 + f) { x with mbx := { x.mbx with stopped := true } }).stopRings (p.val * 128 + f)) s
    .next ((s.takeDownAll ((s.ctxsWhere (fun x => x.port == p.val)).map (·.1))).countFlr p.val 1)

/-- VF_ENABLE_CLEAR (R408): as FLR of every VF of the port. -/
def execVfEnableClear (p : Fin 8) (s : State) : Res :=
  if !s.portsUp then .next s
  else .next (((upto 1 127).foldl (fun (s : State) f => s.flr p.val f) s).countFlr p.val 127)

/-! ### Port resets (R408) -/

/-- The sector's key slot is redrawn: its clusters are zeroized and its granules initialised under the new key; a tenant's key is
gone with the slot's contents. -/
def State.rekeySector (s : State) (r : Nat) : State :=
  match s.sector r with
  | none => s
  | some x =>
    let s := s.wipeRegion x.region
    ((s.setSector r { x with keyed := false, claim := 0, keySes := none }).drawKey r).initSector r x

/-- The reset of a port: the contexts of its functions are torn down, the sectors that held one are zeroized and rekeyed, the other
contexts of those sectors fail, and rings, mailboxes and HDM decoder return to their reset values. -/
def State.portReset (s : State) (p : Nat) : State :=
  let secs := (s.ctxsWhere (fun x => x.port == p)).foldl (fun l e => setAdd l e.2.sector) []
  let s := (upto 0 128).foldl (fun (s : State) f =>
    let x := s.fn (p * 128 + f)
    s.setFn (p * 128 + f) { resetSeen := x.resetSeen, tsp := x.tsp, noAts := x.noAts, noPasid := x.noPasid }) s
  let s := s.takeDownAll ((s.ctxsWhere (fun x => x.port == p)).map (·.1))
  let s := s.takeDownAll ((s.ctxsWhere (fun x => secs.contains x.sector && x.port != p)).map (·.1))
  let s := secs.foldl State.rekeySector s
  let v := s.port p
  { s.setPort p { v with rate := 0, width := 0, cxl := false, cacheEn := false, memEn := false, ideSecure := false, ideKeys := false
                         hdmMap := [], hdmIdle := [], hdmPend := [], filter := [], latchedReset := false } with
    snoops := s.snoops.filter (fun x => x.port != p), atc := s.atc.filter (fun a => a.port != p) }

/-- A port reset now, or, during a device reset, once the tables are restored (R452). -/
def State.resetPort (s : State) (p : Nat) : State :=
  if s.phase = .resetting then s.setPort p { s.port p with latchedReset := true } else s.portReset p

/-- PERST_N (R408, R556): held low for at least 10 microseconds; a shorter pulse is ignored below 1 microsecond, and may take effect above. -/
def execPerstN (p : Fin 8) (us : Nat) (s : State) : Res :=
  if !s.portsUp || !(decide (10 ≤ us) || (decide (1 ≤ us) && Config.pulseTakes (us * 1000))) then .next s
  else
    let s := s.resetPort p.val
    .next (s.setPort p.val { s.port p.val with perst := sat16 (s.port p.val).perst 1, memOff := false })

/-- Count a Hot Reset, and reset the port. -/
def State.hotReset (s : State) (p : Nat) : State :=
  let s := s.resetPort p
  s.setPort p { s.port p with hot := sat16 (s.port p).hot 1 }

/-- HOT_RESET (R408). -/
def execHotReset (p : Fin 8) (s : State) : Res := .next (if s.portsUp then s.hotReset p.val else s)

/-- DL_DOWN (R408): for more than 10 ms. -/
def execDlDown (p : Fin 8) (ms : Nat) (s : State) : Res := .next (if s.portsUp && decide (10 < ms) then s.resetPort p.val else s)

/-- VIRAL_INDICATION (R381): treated as a Hot Reset. -/
def execViralIndication (p : Fin 8) (s : State) : Res := .next (if s.portsUp then s.hotReset p.val else s)

/-- IDE_INTEGRITY_FAILURE (R407): the stream is Insecure, the flit is discarded, and the port is reset as for a Hot Reset. -/
def execIdeIntegrityFailure (p : Fin 8) (s : State) : Res :=
  if !s.portsUp || !(s.port p.val).ideSecure then .next s
  else .next ((s.setPort p.val { s.port p.val with ideSecure := false }).hotReset p.val)

/-! ### Link security (R407) -/

/-- CXL_KEY_EXCHANGE (R407): keys of the IDE stream, in a session over the PF's DOE mailbox. -/
def execCxlKeyExchange (p : Fin 8) (ses : Nat) (s : State) : Res :=
  let ok := s.phase == .ready && s.sec.sessions.any (fun x => x.id == ses && x.path == .doe p)
  let s := s.emit (.spdm "CXL_KEY_EXCHANGE" ok)
  .next (if ok then s.setPort p.val { s.port p.val with ideKeys := true, ideSecure := true } else s)

/-- TSP_ASSIGNMENT (R407). -/
def execTspAssignment (f : FnId) (s : State) : Res := .next (s.setFn (fnKey f) { s.fn (fnKey f) with tsp := true })

end Sys2Proof.Machine
end

