-- ==== Sys2Proof/Machine/Txn.lean ====
section
/-!
DEFINITION. Configuration transactions (R528 to R531, R534, R543), their operations as they run, the swaps, retrainings and retirements
of the Keeper, its beacon, and live firmware update (R518 to R521).
-/

namespace Sys2Proof.Machine

/-! ### Who may, and what may be staged -/

/-- The classes that write `TXN` and `go`: the Keeper, and management other than the board controller (R538, R541). -/
def State.mayManage (s : State) (r : Requester) : Bool :=
  s.phase == .ready && r != .board && (s.refused r).isNone && (match s.classOf r none with | .keeper | .management => true | _ => false)

/-- Whether a register write may be staged, and its value lies in the register's range (R530, R543). -/
def State.stageable (s : State) (x v : Nat) : Bool :=
  let o := x % 0x10000
  if x % 8 ≠ 0 then false
  else if x < 0x10000 then o == 0x020 || o == 0x050
  else if x < 0x20000 then [0x000, 0x018, 0x028, 0x038, 0x080].contains o
  else if x < 0x30000 then
    if o = 0x008 then decide (100 ≤ fld v 9 0) && decide (fld v 9 0 ≤ 680) && decide (fld v 12 10 ≤ 4)
    else o == 0x010 || o == 0x018 || (decide (0x100 ≤ o) && decide (o < 0x140))
  else if 0x50000 ≤ x ∧ x < 0x60000 then
    if o = 0x000 then decide (4 ≤ fld v 20 16) && decide (fld v 20 16 ≤ 24)
    else if 0x100 ≤ o ∧ o < 0x300 then (s.sector ((o - 0x100) / 8)).isSome && decide (10 ≤ fld v 4 0) && decide (fld v 4 0 ≤ 24)
    else [0x008, 0x010, 0x018, 0x020, 0x028].contains o
  else if 0x100000 ≤ x ∧ x < 0x180000 then [0x008, 0x010, 0x018].contains o
  else if 0x200000 ≤ x ∧ x < 0x340000 then [0x008, 0x010, 0x020].contains o
  else if 0x400000 ≤ x ∧ x < 0x401000 then [0x00, 0x10, 0x18].contains (o % 64)
  else x == 0x484000

/-! ### The staged entries as writes and operations (R529) -/

/-- What a transaction does, with the index of its first word. -/
inductive TxnItem where
  | write (i off : Nat) (v : Word)
  | op (i : Nat) (ws : List Nat)
  deriving DecidableEq, Repr

/-- Take one staged entry after those before it: `hold` is the first word of an operation of two. -/
def itemStep (a : List TxnItem × Option (Nat × Nat) × Nat) (e : TxnEntry) : List TxnItem × Option (Nat × Nat) × Nat :=
  let (l, hold, i) := a
  match hold, e with
  | some (j, w), .op x => (l ++ [.op j [w, x.toNat]], none, i + 1)
  | some (j, w), .write o v => (l ++ [.op j [w], .write i o v], none, i + 1)
  | none, .write o v => (l ++ [.write i o v], none, i + 1)
  | none, .op x => if fld x.toNat 11 8 = 2 then (l, some (i, x.toNat), i + 1) else (l ++ [.op i [x.toNat]], none, i + 1)

/-- The staged entries of a transaction. -/
def itemsOf (l : List TxnEntry) : List TxnItem :=
  match l.foldl itemStep ([], none, 0) with
  | (l, some (j, w), _) => l ++ [.op j [w]]
  | (l, none, _) => l

/-- Check entries in order, each with the effects of those before it: the first that fails, if one does (R530). -/
def State.checkItems (s : State) : List TxnItem → Option Nat
  | [] => none
  | .write i o v :: t => if s.stageable o v.toNat then (s.keeperWrite o v).checkItems t else some i
  | .op i ws :: t => match s.opApply ws with | some s => s.checkItems t | none => some i

/-! ### Opening, staging, discarding -/

/-- TXN_BEGIN (R528): refused while one is open or a hot restart runs. -/
def execTxnBegin (r : Requester) (s : State) : Res :=
  if !s.mayManage r || s.txn.state != .idle || s.kpr.restarting then .next s
  else .next { s with txn := { s.txn with state := .opened, staged := [], id := s.txn.id + 1, openedAt := s.time, ops := [] } }

/-- Stage one entry (R528, R534). -/
def State.stageEntry (s : State) (e : TxnEntry) : State :=
  let t := s.txn
  if t.state ≠ .opened then { s with txn := { t with status := stVerifyReject } }
  else if 1024 ≤ t.staged.length then { s with txn := { t with status := stOversize } }
  else { s with txn := { t with staged := t.staged ++ [e] } }

/-- TXN_STAGE_WRITE (R528). -/
def execTxnStageWrite (r : Requester) (v : Word) (s : State) : Res :=
  .next (if s.mayManage r then s.stageEntry (.write s.txn.addr v) else s)

/-- TXN_STAGE_OP (R529). -/
def execTxnStageOp (r : Requester) (v : Word) (s : State) : Res := .next (if s.mayManage r then s.stageEntry (.op v) else s)

/-- The transaction is no more; nothing it staged has taken effect. -/
def State.dropTxn (s : State) : State := { s with txn := { s.txn with state := .idle, staged := [], ops := [] } }

/-- TXN_ROLLBACK (R531). -/
def execTxnRollback (r : Requester) (s : State) : Res := .next (if s.mayManage r && s.txn.state == .opened then s.dropTxn else s)

/-- TXN_TIMEOUT (R528): 10 s after it was opened. -/
def execTxnTimeout (s : State) : Res :=
  if s.txn.state ≠ .opened ∨ s.phase ≠ .ready then .next s else .next (s.advanceTo (s.txn.openedAt + 10000000000)).dropTxn

/-! ### Committing (R530) -/

/-- Whether a staged entry writes `PWR_CAP`. -/
def TxnEntry.isCap : TxnEntry → Bool
  | .write o _ => o == 0x20008
  | .op _ => false

/-- What a commit waits for: a swap, a retraining, a doubt (R531); for a clock plan, a warning (R508). -/
def State.commitWaits (s : State) : Bool :=
  let p := s.pwr
  !s.kpr.swapQ.isEmpty || s.kpr.retrainStack.isSome || p.inDoubt || p.dies.any (fun d => d.2.railDoubt)
    || ((p.inWarn || p.dies.any (fun d => d.2.railWarn)) && s.txn.staged.any TxnEntry.isCap)

/-- The last operation has ended: `status` is OK. -/
def State.txnDone (s : State) : State := { s with txn := { s.txn with state := .idle, status := stOK, staged := [], ops := [] } }

/-- The cross-die safe point: every register write is applied, and the operations are to run. -/
def State.safePoint (s : State) : State :=
  let l := itemsOf s.txn.staged
  let s := l.foldl (fun (s : State) e => match e with | .write _ o v => s.keeperWrite o v | .op _ _ => s) s
  let ops := l.filterMap (fun e => match e with | .op _ ws => some (ws.map (BitVec.ofNat 64)) | .write _ _ _ => none)
  let s : State := { s with txn := { s.txn with staged := [], ops := ops } }
  if ops.isEmpty then s.txnDone else s

/-- A commit that waits comes to its safe point when nothing it waits for is left. -/
def State.commitPoint (s : State) : State :=
  if s.txn.state == .committing && !s.txn.staged.isEmpty && s.keeperUp && !s.commitWaits then s.safePoint else s

/-- TXN_COMMIT (R530): a failing entry rolls all back with VERIFY_REJECT and its index. -/
def execTxnCommit (r : Requester) (s : State) : Res :=
  if !s.mayManage r || s.kpr.restarting || s.txn.state != .opened then .next s
  else match s.checkItems (itemsOf s.txn.staged) with
    | some i => .next { s with txn := { s.txn with state := .idle, staged := [], status := stVerifyReject, failIdx := i % 1024 } }
    | none =>
      let s : State := { s with txn := { s.txn with state := .committing } }
      .next (if s.txn.staged.isEmpty then s.txnDone else s.commitPoint)

/-! ### The operations of a commit, in staging order -/

/-- The operation to run next, when it is of kind `k`. -/
def State.headOp (s : State) (k : Nat) : Option (List Nat) :=
  match s.txn.state, s.txn.staged, s.txn.ops with
  | .committing, [], ws :: _ => let l := ws.map (fun w => w.toNat); if opKind (l.headD 0) = k ∧ s.keeperUp then some l else none
  | _, _, _ => none

/-- The operation at the front has ended. -/
def State.popOp (s : State) : State :=
  let t := s.txn.ops.drop 1
  if t.isEmpty then s.txnDone else { s with txn := { s.txn with ops := t } }

/-- Run the operation at the front as a whole. -/
def State.runOp (s : State) (k : Nat) : State :=
  match s.headOp k with
  | none => s
  | some ws => match s.opApply ws with | some s => s.popOp | none => s.popOp

/-- CREATE_SECTOR (R413). -/
def execCreateSector (s : State) : Res := .next (s.runOp 1)

/-- RELEASE_SECTOR (R415): once no host holds a line of the sector's granules (R405). -/
def execReleaseSector (s : State) : Res :=
  match (s.headOp 2).bind (fun ws => s.sector (fld (ws.headD 0) 17 12)) with
  | none => .next (s.runOp 2)
  | some x =>
    match s.hostsLetGo x with
    | (s, true) => .next (s.runOp 2)
    | (s, false) => .next s

/-- CREATE_CONTEXT (R417). -/
def execCreateContext (s : State) : Res := .next (s.runOp 3)

/-- DESTROY_CONTEXT (R435). -/
def execDestroyContext (s : State) : Res := .next (s.runOp 4)

/-- SWAP_CLUSTER (R522): the swap is queued; LIGHTSHIP_SWAP carries it out and ends the operation. -/
def execSwapCluster (s : State) : Res :=
  match s.headOp 5 with
  | none => .next s
  | some ws => .next (s.queueSwap (fld (ws.headD 0) 22 12))

/-- RETRAIN_STACK (R526): the stack's requests are held until HBM_RETRAIN ends it. One stack retrains at a time. -/
def execRetrainStack (s : State) : Res :=
  match s.headOp 6 with
  | none => .next s
  | some ws =>
    let n := opStack (ws.headD 0)
    if s.kpr.retrainStack.isSome then .next s
    else .next { s.setCtrl n { s.ctrl n with retraining := true } with kpr := { s.kpr with retrainStack := some n } }

/-- RETIRE_PSEUDO_CHANNEL (R527). -/
def execRetirePseudoChannel (s : State) : Res := .next (s.runOp 7)

/-- RETIRE_STACK (R527). -/
def execRetireStack (s : State) : Res := .next (s.runOp 8)

/-- OPERATOR_DEVICE_RESET (R448): cause 9; what is left of the transaction runs during the restore (R531). -/
def execOperatorDeviceReset (s : State) : Res :=
  match s.headOp 9 with
  | none => .next s
  | some _ =>
    let s : State := { s with txn := { s.txn with ops := s.txn.ops.drop 1 } }
    .next (s.latchReset 9)

/-! ### Swaps, retraining, retirement as they happen -/

/-- LIGHTSHIP_SWAP (R523, R525): a queued swap, once no packet for the cluster or of it is under way in the mesh (R249, R253); a second one
on a die runs after the first, and it waits for a turn, a switch, a scan or a reconfiguration of the cluster to end. -/
def execLightshipSwap (c : Fin 2048) (s : State) : Res :=
  let q := s.kpr.swapQ
  let k := s.cl c.val
  if !s.swapping c.val || !s.keeperUp || k.scan != .running || k.scanned || k.loading || s.underWay c.val then .next s
  else
    let s := s.swapNow c.val
    let s : State := { s with kpr := { s.kpr with swapQ := q.erase c.val } }
    let s := match s.headOp 5 with | some ws => if fld (ws.headD 0) 22 12 = c.val then s.popOp else s | none => s
    .next s.commitPoint

/-- HBM_RETRAIN (R526): a retraining of the stack runs to its result; one that fails twice retires the stack. -/
def execHbmRetrain (n : Fin 20) (result : RetrainResult) (s : State) : Res :=
  let c := s.ctrl n.val
  let other := match s.kpr.retrainStack with | some m => m != n.val | none => false
  if !s.keeperUp || c.retired || other then .next s
  else
    let s : State := { s.setCtrl n.val { c with retraining := false, trained := result == .good } with kpr := { s.kpr with retrainStack := none } }
    let s := if result = .failedTwice then s.retireOrFail n.val none else s
    let s := match s.headOp 6 with | some ws => if opStack (ws.headD 0) = n.val then s.popOp else s | none => s
    .next s.commitPoint

/-- RETIREMENT_PROCEED (R527): a failing part is retired once the granules are free. -/
def execRetirementProceed (s : State) : Res :=
  match s.hbm.failing with
  | [] => .next s
  | (n, pc) :: t =>
    if !s.keeperUp then .next s
    else match s.retirePart n pc with
      | none => .next s
      | some s => .next { s with hbm := { s.hbm with failing := t }, kpr := { s.kpr with failing := !t.isEmpty } }

/-! ### Beacon and watchdog (R518, R519) -/

/-- The new firmware takes over after a hot restart: it is on trial (R520). -/
def State.takeover (s : State) : State :=
  let k := 1 - s.flash.inForce
  let f := if k = 0 then s.flash.slotA else s.flash.slotB
  { s with
    kpr := { s.kpr with restarting := false, trial := true, trialAt := s.time }
    sec := { s.sec with runSlot := k, version := f.version, svn := f.svn, digest := f.digest }
    flash := ({ s.flash with trialSlot := some k } : Flash).commit }

/-- The image in a flash slot. -/
def Flash.slot (f : Flash) (k : Nat) : FwSlot := if k = 0 then f.slotA else f.slotB
def Flash.setSlot (f : Flash) (k : Nat) (x : FwSlot) : Flash := if k = 0 then { f with slotA := x } else { f with slotB := x }

/-- Whether an image passes the check of R480 step 2 and R481. -/
def Flash.slotOk (f : Flash) (k : Nat) : Bool := (f.slot k).good && decide (f.floor ≤ (f.slot k).svn)

/-- BEACON_TICK (R518): 1 ms after the last one. In a hot restart the hardware advances the beacon, for at most 400 ms; new firmware whose
slot verifies takes it back at 200 ms (R520, R521; log 34). -/
def execBeaconTick (s : State) : Res :=
  let k := s.kpr
  if s.phase ≠ .ready ∨ k.beaconDead then .next s
  else
    let s := s.advanceTo (k.beaconAt + 1000000)
    let s : State := { s with kpr := { k with beacon := (k.beacon + 1) % 2 ^ 64, beaconAt := s.time } }
    .next (if k.restarting && decide (k.restartAt + 200000000 ≤ s.time) && s.flash.slotOk (1 - s.flash.inForce) then s.takeover else s)

/-- WATCHDOG_EXPIRY (R518): the beacon has stood still for 100 ms. In a hot restart the hardware advances it. -/
def execWatchdogExpiry (s : State) : Res :=
  let k := s.kpr
  if s.phase ≠ .ready || (k.restarting && !k.beaconDead) then .next s
  else .next ((s.advanceTo (k.beaconAt + 100000000)).latchReset 6)

/-- DIE_AGENT_TIMEOUT (R519): the agent of one of dies 1 to 7. -/
def execDieAgentTimeout (die : Fin 8) (s : State) : Res :=
  if s.phase ≠ .ready ∨ die.val = 0 then .next s else .next (s.latchAs 3 0x0B)

/-! ### Live firmware update (R520, R521) -/

/-- FIRMWARE_IMAGE_WRITE (R520): into the slot not in force; verified, it is staged. -/
def execFirmwareImageWrite (slot : Fin 2) (img : FwImage) (s : State) : Res :=
  if !s.keeperUp || slot.val == s.flash.inForce then .next s
  else
    let good := Config.rsaGood img.bytes img.sig
    let low := decide (img.svn.toNat < s.flash.floor)
    let x : FwSlot := { version := img.version.toNat, svn := img.svn.toNat, digest := Config.sha512 img.bytes, good := good && !low }
    .next { s with
      flash := (s.flash.setSlot slot.val x).commit
      kpr := { s.kpr with fwResult := if !good then 2 else if low then 3 else 1 } }

/-- FIRMWARE_UPDATE_GO (R520): `go` in bit 0; refused while a transaction, a swap, a retraining, a retirement or a trial stands. -/
def execFirmwareUpdateGo (r : Requester) (v : Word) (s : State) : Res :=
  let k := s.kpr
  if !s.mayManage r || !v.getLsbD 0 || k.restarting then .next s
  else if s.txn.state != .idle || !k.swapQ.isEmpty || k.retrainStack.isSome || k.failing || k.trial then
    .next { s with kpr := { k with fwResult := 4 } }
  else .next { s with kpr := { k with restarting := true, restartAt := s.time } }

/-- HOT_RESTART_TIMEOUT (R521): 400 ms after `go` the hardware stops advancing the beacon. -/
def execHotRestartTimeout (s : State) : Res :=
  if !s.kpr.restarting ∨ s.phase ≠ .ready then .next s
  else
    let s := s.advanceTo (s.kpr.restartAt + 400000000)
    .next { s with kpr := { s.kpr with beaconDead := true } }

/-- TRIAL_END (R520): 60 s after takeover the new slot is in force and the floor rises to its `svn`. -/
def execTrialEnd (s : State) : Res :=
  if !s.kpr.trial ∨ !s.keeperUp then .next s
  else
    let s := s.advanceTo (s.kpr.trialAt + 60000000000)
    let f := s.flash
    .next { s with
      kpr := { s.kpr with trial := false }
      flash := ({ f with inForce := s.sec.runSlot, trialSlot := none, floor := max f.floor s.sec.svn, fwUpdates := sat16 f.fwUpdates 1 } : Flash).commit }

end Sys2Proof.Machine
end

