-- ==== Sys2Proof/Machine/Power.lean ====
section
/-!
DEFINITION. The power manager, the supply levels, the junction sensors and cooling (R499 to R515).
-/

namespace Sys2Proof.Machine

/-! ### The array clock step (R501, R502) -/

/-- The step that the limits set together: the lowest clock of any (R501, R508). -/
def State.stepWanted (s : State) : Nat :=
  let p := s.pwr
  let cool := if s.pins.coolFault || s.pins.leak || p.pausedCool then 4 else 0
  max (max p.powerStep p.thermStep) (max p.supplyStep (max cool p.maxStep))

/-- Decide a change of the step when the limits ask for one. -/
def State.decideStep (s : State) : State :=
  let w := s.stepWanted
  match s.pwr.change with
  | some (k, _) => if k = w then s else { s with pwr := { s.pwr with change := if w = s.pwr.step then none else some (w, s.time) } }
  | none => if w = s.pwr.step then s else { s with pwr := { s.pwr with change := some (w, s.time) } }

/-- Nanoseconds to the next frame boundary of a die. -/
def Die.toFrame (d : Die) : Nat := ceilDiv (160 - d.cyc10) (clock10 d.step)

/-- Pass `dt` nanoseconds on a die whose step becomes `k` at its first frame boundary within them (R502). -/
def Die.change (d : Die) (k dt : Nat) : Die :=
  let n := min dt d.toFrame
  ({ d.pass n with step := k } : Die).pass (dt - n)

/-- CLOCK_STEP_CHANGE (R502): 100 ns after the decision, at each die's next frame boundary; at 1.2 GHz a frame lasts 13.3 ns. -/
def execClockStepChange (s : State) : Res :=
  match s.pwr.change with
  | none => .next s
  | some (k, at_) =>
    if s.phase ≠ .ready then .next s
    else
      let s := s.advanceTo (at_ + 100)
      .next { s.advance 14 with pwr := { s.pwr with step := k, change := none, dies := (upto 0 8).map (fun d => (d, (s.die d).change k 14)) } }

/-! ### The power manager's samples (R501, R507) -/

/-- Whether at least `d` nanoseconds have passed since a time. -/
def State.since (s : State) (t : Option Nat) (d : Nat) : Bool := match t with | some t => decide (t + d ≤ s.time) | none => true

/-- Whether any warning stands. -/
def State.warned (s : State) : Bool := s.pwr.inWarn || s.pwr.dies.any (fun d => d.2.railWarn)

/-- The power rules of R501 on the averages, in watts. -/
def State.powerRule (s : State) (ms1 s1 : Nat) : State :=
  let p := s.pwr
  let cap := p.capW * 10
  let held := p.pausedPower && decide (cap * 98 < s1 * 100)
  let p := { p with pausedPower := held || (p.step == 4 && decide (cap < s1)) }
  let p :=
    if 7500 < ms1 then { p with powerStep := 4, lastDown := some s.time }
    else if (7000 < ms1 ∨ cap < s1) ∧ s.since p.lastDown 1000000 = true then { p with powerStep := min 4 (s.stepWanted + 1), lastDown := some s.time }
    else if s1 + 300 ≤ cap ∧ ms1 ≤ 6500 ∧ p.powerStep ≠ 0 ∧ s.since p.lastUp 100000000 = true then
      { p with powerStep := p.powerStep - 1, lastUp := some s.time }
    else p
  { s with pwr := p }

/-- After the warnings clear, one step back for each 100 microseconds (R507). -/
def State.supplyBack (s : State) : State :=
  let p := s.pwr
  if s.warned || p.supplyStep == 0 || decide (s.time < p.supplyUp + 100000) then s
  else { s with pwr := { p with supplyStep := p.supplyStep - 1, supplyUp := s.time } }

/-- POWER_SAMPLE (R501): input voltage in mV, current in 0.1 A, averages in W. -/
def execPowerSample (mv da avg1ms avg1s peak10ms : Nat) (s : State) : Res :=
  if s.phase ≠ .ready then .next s
  else
    let p := s.pwr
    let s : State := { s with pwr := { p with mv := min 65535 mv, da := min 65535 da, watt := min 65535 avg1s, peak := max p.peak (min 65535 peak10ms) } }
    .next ((s.powerRule avg1ms avg1s).supplyBack.decideStep)

/-! ### Supply levels (R505 to R508) -/

/-- Whether a crossing affects a sector: the input's every one, a rail's the sectors with a cluster on its die (R506). -/
def affects (rail : Rail) (x : Sector) : Bool :=
  match rail with
  | .input => true
  | .die d => x.dies.contains d.val

/-- The record of a level (R506). -/
def levelRec (sev : Nat) : ErrRec := { cls := 8, sev := sev, cause := 0x0A }

/-- Whether the block's logic runs. -/
def State.alive (s : State) : Bool := s.phase == .ready || s.phase == .resetting

/-- WARNING_CROSSED (R505): a second crossing before clearing is counted only (R508). -/
def execWarningCrossed (rail : Rail) (s : State) : Res :=
  if !s.alive then .next s
  else
    let p := { s.pwr with warn := sat16 s.pwr.warn 1 }
    let s : State := { s with pwr := p }
    match rail with
    | .input =>
      if p.inWarn then .next s
      else .next ((({ s with pwr := { p with inWarn := true, supplyStep := 4 } } : State).decideStep).record (levelRec 0))
    | .die d =>
      if (s.die d.val).railWarn then .next s
      else .next ((({ s with pwr := { p with supplyStep := 4 } } : State).setDie d.val { s.die d.val with railWarn := true }).decideStep.record (levelRec 0))

/-- Whether a doubt abandons a context's step: it runs, or stands pre-empted on its clusters (R506, R508). -/
def State.inDoubtCtx (s : State) (rail : Rail) (n : Nat) (x : Ctx) : Bool :=
  (match s.sector x.sector with | some r => affects rail r | none => false)
    && !x.doubt && (x.state == .running || (x.state == .waiting && x.begun && x.clusters.any (fun c => s.ownerOf c == some n)))

/-- A doubt crossing: the affected steps are abandoned, with one record for each context (R446, R506, R507). -/
def State.doubt (s : State) (rail : Rail) : State :=
  let l := (s.ctxs.filter (fun e => s.inDoubtCtx rail e.1 e.2))
  if l.isEmpty then s.record (levelRec 2)
  else l.foldl (fun (s : State) e =>
    (s.record { levelRec 2 with status := stVoltageDoubt, cv := true, context := e.1, sector := e.2.sector, sv := true, step := e.2.stepSeq % 2 ^ 32 }).doubtStep e.1) s

/-- DOUBT_CROSSED (R507). In a device reset, which replaces the abandonment (R508), the crossing is recorded. -/
def execDoubtCrossed (rail : Rail) (s : State) : Res :=
  if !s.alive then .next s
  else
    let p := { s.pwr with doubt := sat16 s.pwr.doubt 1 }
    let s : State := { s with pwr := p }
    let act := fun (s : State) => if s.phase = .ready then s.doubt rail else s.record (levelRec 2)
    match rail with
    | .input => .next (if p.inDoubt then s else act { s with pwr := { p with inDoubt := true } })
    | .die d => .next (if (s.die d.val).railDoubt then s else act (s.setDie d.val { s.die d.val with railDoubt := true }))

/-- RESET_LEVEL_CROSSED (R505): cause 7 for the input, 8 for a rail. -/
def execResetLevelCrossed (rail : Rail) (s : State) : Res :=
  .next (match rail with | .input => s.latchReset 7 | .die _ => s.latchReset 8)

/-- A warning clears: when it was the last, the clock goes back step by step (R507). -/
def State.warnCleared (s : State) : State :=
  let s := s.record (levelRec 0)
  if s.warned then s
  else ({ s with pwr := { s.pwr with supplyStep := s.pwr.supplyStep - 1, supplyUp := s.time } } : State).decideStep

/-- LEVEL_CLEARED (R505): the value has stood at the clearing value for 1 ms; what waited for it goes on. -/
def execLevelCleared (rail : Rail) (lvl : Level) (s : State) : Res :=
  if !s.alive then .next s
  else match rail, lvl with
    | .input, .warning => .next (if s.pwr.inWarn then ({ s with pwr := { s.pwr with inWarn := false } } : State).warnCleared.commitPoint else s)
    | .input, .doubt => .next (if s.pwr.inDoubt then (({ s with pwr := { s.pwr with inDoubt := false } } : State).record (levelRec 2)).commitPoint else s)
    | .die d, .warning =>
      .next (if (s.die d.val).railWarn then (s.setDie d.val { s.die d.val with railWarn := false }).warnCleared.commitPoint else s)
    | .die d, .doubt =>
      .next (if (s.die d.val).railDoubt then ((s.setDie d.val { s.die d.val with railDoubt := false }).record (levelRec 2)).commitPoint else s)

/-! ### Junction temperature (R512) -/

/-- Degrees Celsius in the units of the sensors. -/
def degC (n : Int) : Int := n * 4

/-- Store the dies' hottest readings. -/
def State.readJunctions (s : State) (tj : List Int) : State :=
  (upto 0 8).foldl (fun (s : State) d =>
    match tj[d]? with
    | some t => let x := s.die d; s.setDie d { x with tj := t, tjHigh := max x.tjHigh t }
    | none => s) s

/-- The actions of R512 on the hottest reading. -/
def State.thermRule (s : State) (hot : Int) : State :=
  let p := s.pwr
  if degC 105 ≤ hot then
    if p.pausedThermal then { s with pwr := { p with thermStep := 4, calmFrom := none } }
    else ({ s with pwr := { p with thermStep := 4, pausedThermal := true, hotAt := some s.time, calmFrom := none, therm := sat16 p.therm 1 } } : State).record
      { cls := 8, sev := 0, cause := 0x0A }
  else
    let p := if hot ≤ degC 100 then { p with pausedThermal := false } else p
    if degC 95 ≤ hot then
      { s with pwr := { (if s.since p.hotAt 10000000 then { p with thermStep := min 4 (s.stepWanted + 1), hotAt := some s.time } else p) with
        calmFrom := none, therm := if p.hotAt.isNone then sat16 p.therm 1 else p.therm } }
    else if hot ≤ degC 90 then
      match p.calmFrom with
      | none => { s with pwr := { p with hotAt := none, calmFrom := some s.time } }
      | some t =>
        if t + 100000000 ≤ s.time ∧ p.thermStep ≠ 0 then { s with pwr := { p with hotAt := none, thermStep := p.thermStep - 1, calmFrom := some s.time } }
        else { s with pwr := { p with hotAt := none } }
    else { s with pwr := { p with hotAt := none, calmFrom := none } }

/-- JUNCTION_SAMPLE (R512): the hottest reading of each die, in quarters of a degree. -/
def execJunctionSample (tj : List Int) (s : State) : Res :=
  if s.phase ≠ .ready then .next s
  else match tj.take 8 with
    | [] => .next s
    | t :: l => .next (((s.readJunctions tj).thermRule (l.foldl max t)).decideStep)

/-! ### Cooling (R514) -/

/-- A cooling signal is asserted: no step starts, the clock goes to 1.2 GHz, and a record is written. -/
def State.coolAlarm (s : State) : State :=
  (({ s with pwr := { s.pwr with pausedCool := true, cool := sat16 s.pwr.cool 1 } } : State).decideStep).record { cls := 8, sev := 2, cause := 0x0A }

/-- COOL_FAULT (R514). -/
def execCoolFault (s : State) : Res :=
  if !s.alive || s.pins.coolFault then .next s else .next ({ s with pins := { s.pins with coolFault := true } } : State).coolAlarm

/-- LEAK_SENSE (R514). -/
def execLeakSense (s : State) : Res :=
  if !s.alive || s.pins.leak then .next s else .next ({ s with pins := { s.pins with leak := true } } : State).coolAlarm

/-- COOLING_RESUME (R514): the signals have been deasserted for 1 s. -/
def execCoolingResume (s : State) : Res :=
  .next ({ s with pins := { s.pins with coolFault := false, leak := false }, pwr := { s.pwr with pausedCool := false } } : State).decideStep

end Sys2Proof.Machine
end

