-- ==== Sys2Proof/Machine/Security.lean ====
section
/-!
DEFINITION. Identity, attestation, sector keys, queue grants and debug unlock (R487 to R498).
-/

namespace Sys2Proof.Machine

/-! ### SPDM sessions (R487) -/

/-- Sessions that a path allows at once. -/
def sessionLimit : SpdmPath → Nat
  | .doe _ => 4
  | .i3c => 2

/-- The port of a session's path, for DOE. -/
def State.pathUp (s : State) (p : SpdmPath) : Bool :=
  s.phase == .ready && (match p with | .doe k => (s.port k.val).cxl | .i3c => s.sec.i3cAddr.isSome)

/-- SPDM_KEY_EXCHANGE (R487). SPDM is answered from step 9 of the boot (R480). -/
def execSpdmKeyExchange (p : SpdmPath) (s : State) : Res :=
  let n := (s.sec.sessions.filter (fun x => x.path == p)).length
  if !s.pathUp p then .next s
  else if sessionLimit p ≤ n then .next (s.emit (.spdm "KEY_EXCHANGE" false))
  else
    let s : State := { s with sec := { s.sec with sessions := s.sec.sessions ++ [{ id := s.sec.nextSes, path := p }], nextSes := s.sec.nextSes + 1 } }
    .next (s.emit (.spdm "KEY_EXCHANGE" true))

/-- SPDM_END_SESSION (R491). -/
def execSpdmEndSession (ses : Nat) (s : State) : Res :=
  .next { s with sec := { s.sec with sessions := s.sec.sessions.filter (fun x => x.id != ses) } }

/-- Whether a session stands. -/
def State.hasSession (s : State) (ses : Nat) : Bool := s.phase == .ready && s.sec.sessions.any (fun x => x.id == ses)

/-! ### Measurements (R488) -/

/-- The words of a sector's measurement block: its record but for the granule list, its creation, `keyed`. -/
def Sector.words (x : Sector) : List Nat :=
  [x.qx, x.qy, x.qw, x.qh, x.ports, x.granules.length, x.sysg, b2n x.imode, b2n x.res, x.groups.length, x.spill, x.quota, x.thr, x.limit,
   b2n x.hostmem, b2n x.debug, x.auditN, x.bootAt, x.serial.toNat, b2n x.keyed, x.claim.toNat]

/-- The bytes of the shipment record and the service record, as far as the model holds them (R485). -/
def Flash.recordBytes (f : Flash) : List Byte :=
  toBytes 8 f.grade ++ f.shipFailed.flatMap (toBytes 2) ++ f.failed.flatMap (toBytes 2) ++ f.consumed.flatMap (toBytes 2)
    ++ f.pcRetired.flatMap (fun e => toBytes 2 (e.1 * 32 + e.2)) ++ f.stacksRetired.flatMap (toBytes 1) ++ toBytes 2 f.floor ++ toBytes 1 f.inForce
    ++ toBytes 2 f.boot ++ toBytes 8 f.counter

/-- The content of a measurement block: a digest and words. -/
def State.measure (s : State) (i : Nat) : BitVec 512 × List Nat :=
  let x := s.sec
  if i = 1 then (Config.rootHash, [])
  else if i = 2 then (x.digest, [])
  else if i = 3 then (0, [x.version, x.svn, s.flash.floor])
  else if i = 4 then (Config.sha512 s.flash.recordBytes, [])
  else if i = 5 then (if x.unlocked then x.tokenDigest else 0, [b2n x.unlocked])
  else if i = 6 then (0, [s.flash.boot])
  else match s.sector (i - 64) with
    | some r => (r.chain, r.words)
    | none => (0, [])

/-- GET_MEASUREMENTS (R488). -/
def execGetMeasurements (p : SpdmPath) (index : Nat) (s : State) : Res :=
  let known := (decide (1 ≤ index) && decide (index ≤ 6)) || (decide (64 ≤ index) && decide (index < 128))
  if !s.pathUp p then .next s
  else if !known then .next (s.emit (.spdm "GET_MEASUREMENTS" false))
  else .next (s.emit (.measurement index (s.measure index).1 (s.measure index).2))

/-! ### Sector keys (R490, R491) -/

/-- What a context had under the old key is lost: it has no program, and one that is resident is idle (R490). -/
def Ctx.unload (x : Ctx) : Ctx :=
  let y := { x with foot := none, program := false, images := [], scans := [], savedSpill := [], savedMem := [], binds := [] }
  match x.state with
  | .failed | .notResident => y
  | _ => { y with state := .idle }

/-- The key of a sector is replaced: its granules are initialised under the new one, its scan images and spill records are lost. -/
def State.setKey (s : State) (r : Nat) (x : Sector) (key : BitVec 512) : State :=
  let s := s.setHbm { s.hbm with keys := tabSet s.hbm.keys r key }
  let s := (s.setSector r x).initSector r x
  let f := s.sf r
  let s := s.setSf r { f with ring := [] }
  let mine := (s.cls.filter (fun e => inRegion x.region e.1 && e.2.owner.isSome)).map (·.1)
  let s := mine.foldl (fun (s : State) c => (s.closeWindows c).wipeCluster c) s
  let s := mine.foldl (fun (s : State) c => if (s.cl c).scan = .running then s else s.release c) s
  { s with ctxs := tabMap s.ctxs (fun _ c => if c.sector = r then c.unload else c) }

/-- SET_SECTOR_KEY (R490). -/
def execSetSectorKey (ses : Nat) (sec : Fin 64) (key : BitVec 512) (claim : BitVec 256) (s : State) : Res :=
  let no := s.emit (.spdm "SET_SECTOR_KEY" false)
  if !s.hasSession ses then .next s
  else match s.sector sec.val with
    | none => .next no
    | some x =>
      if x.keyed && x.keySes != some ses then .next no
      else if (s.ctxsOf sec.val).any (fun e => e.2.state == .running || e.2.state == .waiting) then .next no
      else .next ((s.setKey sec.val { x with keyed := true, claim := claim, keySes := some ses } key).emit (.spdm "SET_SECTOR_KEY" true))

/-! ### Queue grants (R431, R492) -/

/-- Whether a session keyed the sector of a context. -/
def State.keyedBy (s : State) (ses n : Nat) : Bool :=
  s.hasSession ses && (match (s.ctx n).bind (fun x => s.sector x.sector) with | some r => r.keyed && r.keySes == some ses | none => false)

/-- GRANT_QUEUE (R492). -/
def execGrantQueue (ses : Nat) (recv admitted : Fin 4096) (s : State) : Res :=
  if !s.hasSession ses then .next s
  else if !s.keyedBy ses recv.val || (s.ctx admitted.val).isNone then .next (s.emit (.spdm "GRANT_QUEUE" false))
  else
    let s : State := { s with sec := { s.sec with grants := s.sec.grants ++ [{ recv := recv.val, admitted := admitted.val, ses := ses }] } }
    .next (s.emit (.spdm "GRANT_QUEUE" true))

/-- REVOKE_QUEUE (R492): in the same session; the queues refuse the other context from then on (R431). -/
def execRevokeQueue (ses : Nat) (recv admitted : Fin 4096) (s : State) : Res :=
  let g : Grant := { recv := recv.val, admitted := admitted.val, ses := ses }
  if !s.hasSession ses then .next s
  else if !s.sec.grants.contains g then .next (s.emit (.spdm "REVOKE_QUEUE" false))
  else
    let s : State := { s with sec := { s.sec with grants := s.sec.grants.filter (· != g) } }
    let s := (s.cls.filter (fun e => e.2.owner == some recv.val)).foldl (fun (s : State) e => s.admitOther e.1) s
    .next (s.emit (.spdm "REVOKE_QUEUE" true))

/-! ### Debug unlock (R495 to R497) -/

/-- DEBUG_NONCE_READ (R495): the requester reads the new nonce. -/
def execDebugNonceRead (r : Requester) (s : State) : Res :=
  let k := s.classOf r none
  if s.phase ≠ .ready ∨ !reaches r 0x30020 then .next s
  else if k ≠ .keeper ∧ k ≠ .management then .next (s.emit (.readReply r 0))
  else
    let (w, s) := s.draw
    let n : BitVec 64 := w.setWidth 64
    .next (({ s with sec := { s.sec with nonce := some n, nonceAt := s.time } } : State).emit (.readReply r n))

/-- The signed bytes of a token. -/
def tokenBytes (t : Token) : List Byte :=
  toBytes 4 t.magic.toNat ++ toBytes 64 t.dev.toNat ++ toBytes 8 t.nonce.toNat ++ toBytes 4 t.ttl.toNat ++ toBytes 4 t.perms.toNat

/-- Whether a token is accepted: magic, device, nonce in force, `ttl`, permissions and signature. -/
def State.tokenOk (s : State) (t : Token) : Bool :=
  t.magic == 0x4B444247#32 && t.dev == s.flash.devDigest && s.sec.nonce == some t.nonce && decide (s.time ≤ s.sec.nonceAt + 600000000000)
    && decide (t.perms.toNat < 8) && decide (1 ≤ t.ttl.toNat) && decide (t.ttl.toNat ≤ 86400) && Config.rsaGood (tokenBytes t) t.sig

/-- Redraw every key slot (R496, R497). -/
def State.redrawKeys (s : State) : State := (upto 0 64).foldl State.drawKey s

/-- DEBUG_TOKEN (R495 to R497): presented in a session; refused, it spends the nonce. -/
def execDebugToken (p : SpdmPath) (t : Token) (s : State) : Res :=
  if !s.pathUp p || !s.sec.sessions.any (fun x => x.path == p) then .next s
  else if s.sec.unlocked then .next (s.emit (.spdm "DEBUG_TOKEN" false))
  else if !s.tokenOk t then .next (({ s with sec := { s.sec with nonce := none } } : State).emit (.spdm "DEBUG_TOKEN" false))
  else
    let s := s.releaseAll.redrawKeys
    .next (({ s with sec := { s.sec with
      sessions := [], nonce := none, unlocked := true, perms := t.perms.toNat, ttlEnd := s.time + t.ttl.toNat * 1000000000
      tokenDigest := Config.sha512 ((tokenBytes t) ++ toBytes 512 t.sig.toNat) } } : State).emit (.spdm "DEBUG_TOKEN" true))

/-- The end of debug unlock (R497). -/
def State.relock (s : State) : State :=
  let s := s.releaseAll.redrawKeys
  { s with sec := { s.sec with unlocked := false, perms := 0, ttlEnd := 0, tokenDigest := 0 } }

/-- RELOCK (R497): a write of 1 by management, the board controller included, or the Keeper. -/
def execRelock (r : Requester) (v : Word) (s : State) : Res :=
  let k := s.classOf r none
  if s.phase ≠ .ready ∨ !reaches r 0x30028 ∨ (k ≠ .keeper ∧ k ≠ .management) ∨ !v.getLsbD 0 ∨ !s.sec.unlocked then .next s
  else .next s.relock

/-- UNLOCK_EXPIRY (R497). -/
def execUnlockExpiry (s : State) : Res :=
  if !s.sec.unlocked ∨ s.phase ≠ .ready then .next s else .next (s.advanceTo s.sec.ttlEnd).relock

/-! ### Recovery (R482) and the I3C endpoint (R555) -/

/-- RECOVERY_READ_BOOT_STATUS (R482). -/
def execRecoveryReadBootStatus (s : State) : Res := .next (if s.phase = .recovery then s.emit (.bootStatus s.sec.failStep) else s)

/-- RECOVERY_WRITE_FIRMWARE (R482): an image that passes step 2 goes into the slot, and the boot starts again at step 1. -/
def execRecoveryWriteFirmware (slot : Fin 2) (img : FwImage) (s : State) : Res :=
  if s.phase ≠ .recovery || !Config.rsaGood img.bytes img.sig || decide (img.svn.toNat < s.flash.floor) then .next s
  else
    let old := if slot.val = 0 then s.flash.slotA else s.flash.slotB
    let x : FwSlot := { version := img.version.toNat, svn := img.svn.toNat, digest := Config.sha512 img.bytes, good := true, failed := old.failed }
    .next { s with phase := .booting, flash := if slot.val = 0 then { s.flash with slotA := x } else { s.flash with slotB := x } }

/-- DYNAMIC_ADDRESS_ASSIGNMENT (R555): ENTDAA, or SETDASA from static address 0x3A. -/
def execDynamicAddressAssignment (how : I3cAssign) (addr : BitVec 7) (s : State) : Res :=
  let ok := match how with | .entdaa => true | .setdasa st => st == 0x3A#7
  if s.phase = .off || s.phase = .booting || !ok then .next s
  else .next { s with sec := { s.sec with i3cAddr := some addr.toNat } }

end Sys2Proof.Machine
end

