-- ==== Sys2Proof/Machine/Reset.lean ====
section
/-!
DEFINITION. Device reset (R448 to R453), boot and recovery (R480 to R482), and power and reset pins (R499, R500, R513, R556).
-/

namespace Sys2Proof.Machine

/-! ### The remap and the self-test (R22, R25, R449, R480) -/

/-- The physical clusters of a die that are good. -/
def State.goodOn (s : State) (d : Nat) : List Nat := (upto (d * 272) 272).filter (fun p => !s.flash.failed.contains p && !s.flash.shipFailed.contains p)

/-- Give a logical cluster whose physical cluster is not good a lightship of its die, the lowest (R22); with none left its quad is
unavailable (R25). -/
def State.remapCluster (s : State) (c : Nat) : State :=
  let bad := fun (p : Nat) => s.flash.failed.contains p || s.flash.shipFailed.contains p
  if !bad (s.physOf c) || (s.cl c).retired then s
  else match s.lightships (dieOf c) with
    | [] => s.retireLogical c
    | p :: _ => { s with remap := tabSet s.remap c p, flash := { s.flash with consumed := setAdd s.flash.consumed p } }

/-- Physical clusters that fail a self-test are marked, and the remap is built again. -/
def State.selfTest (s : State) (bad : List Nat) : State :=
  let s : State := if bad.isEmpty then s else { s with flash := ({ s.flash with failed := bad.foldl setAdd s.flash.failed } : Flash).commit }
  let hit := (upto 0 2048).filter (fun c => s.flash.failed.contains (s.physOf c) || s.flash.shipFailed.contains (s.physOf c))
  hit.foldl State.remapCluster s

/-! ### Device reset -/

/-- Registers of a controller after a device reset: its quotas and what has been retired are kept, its caches and queue are empty, its
stack is trained again (R358, R450). -/
def Ctrl.afterReset (c : Ctrl) : Ctrl :=
  { pcRetired := c.pcRetired, trained := !c.retired, retired := c.retired, quota := c.quota, refuge := c.refuge }

/-- A group after a device reset: its definition is kept, its rounds and slots are not (R450). -/
def Grp.afterReset (g : Grp) : Grp := { ctl := g.ctl, dest := g.dest, notify := g.notify, members := g.members }

/-- A port after a device reset: link, IDE streams, HDM map and filter are kept; `reset_drop`, 0 when the reset began, has counted through
it (R7, R406, R450). -/
def Port.afterReset (v : Port) : Port := { v with retrains := 0, perst := 0, flr := 0, hot := 0, bisnp := 0, biTimeout := 0, unmapped := 0 }

/-- A context after a device reset: failed with DEVICE_RESET unless it had failed before; its image headers are gone (R408, R450). -/
def Ctx.afterReset (x : Ctx) : Ctx :=
  let x := match x.rebind with | some b => x.bindTo b | none => x
  { x with
    state := .failed, status := if x.state = .failed then x.status else stDeviceReset, foot := none, program := false, images := [], scans := []
    savedMem := [], savedSpill := [], steps := [], granted := false, begun := false, tearing := false, turnExpired := false, suspect := false, accrued := 0 }

/-- Write DEVICE_RESET completions, with the new boot count, for every fetched command of every ring (R408); a value is 0 (R455). -/
def State.resetCompletions (s : State) : State :=
  s.fns.foldl (fun (s : State) (f, x) => x.rings.foldl (fun (s : State) (r, q) =>
    if q.stopped then s
    else
      let s := s.setRing f r { q with cmds := q.cmds.map (fun c => { c with done := true, status := stDeviceReset, value := 0, heldSince := none }) }
      q.cmds.foldl (fun (s : State) _ => s.writeCompletion f r) s) s) s

/-- A ring after a device reset: its setup and numbers are kept, its status bits take their reset value (R7, R385, R410). -/
def Ring.afterReset (x : Ring) : Ring := { x with stalled := false, overrun := false }

/-- A function after a device reset: rings and mailbox are kept, `reset_seen` is set, refusals end (R353, R410, R450). -/
def Fn.afterReset (x : Fn) : Fn :=
  { x with resetSeen := true, priFailed := false, qCluster := 0, qScu := 0, qQueue := 0, rings := tabMap x.rings (fun _ r => r.afterReset) }

/-- Every function after a device reset. -/
def State.markFns (s : State) : State := { s with fns := (upto 0 1024).map (fun f => (f, (s.fn f).afterReset)) }

/-- Clusters, switches and routers are reset, scratchpads zeroized, accumulators cleared, caches invalidated, rings emptied; RW
registers take their reset values, RWS ones keep theirs; sectors, granules, keys, maps, quotas and the log are kept; a scan under way is
abandoned with its image (R326, R449, R450, R7). -/
def State.resetUnits (s : State) : State :=
  let a : Aud := {}
  { s with
    tus := [], mus := [], mcus := [], vcus := [], scus := [], sws := [], rts := [], mesh := []
    cls := (s.cls.filter (fun e => e.2.retired)).map (fun e => (e.1, { retired := true }))
    groups := tabMap s.groups (fun _ g => g.afterReset), pmFlush := 4
    sfs := s.sectors.map (fun e => (e.1, { thr := e.2.thr, base := e.2.granules.headD 0 * 2 ^ 30, size := e.2.spill }))
    hbm := { s.hbm with ctrls := (upto 0 20).map (fun n => (n, (s.ctrl n).afterReset)) }
    placed := [], pageReqs := [], atc := []
    scanImgs := s.scanImgs.filter (fun e => !((s.cl e.2.cluster).scan == .moving && (s.cl e.2.cluster).buf == e.1))
    ports := tabMap s.ports (fun _ v => v.afterReset)
    ctxs := tabMap s.ctxs (fun _ x => x.afterReset)
    err := { s.err with dropped := 0, injUnit := 0, injKind := 0, injOffset := 0, arm := false, coalesce := [], again := 0 }
    aud := { a with sect := s.sectors.map (fun e => (e.1, e.2.auditN)), runs := [], cleanMarks := [], watches := s.aud.watches, events := s.aud.events }
    pwr := { dies := (upto 0 8).map (fun d => (d, { tj := (s.die d).tj, frame := 0, railWarn := (s.die d).railWarn, railDoubt := (s.die d).railDoubt }))
             inWarn := s.pwr.inWarn, inDoubt := s.pwr.inDoubt, pausedCool := s.pwr.pausedCool
             supplyStep := if s.warned then 4 else 0 }
    kpr := { mgmt := s.kpr.mgmt, failing := s.kpr.failing, ueTimes := s.kpr.ueTimes, serial := s.kpr.serial }
    held := [] }

/-- The reset record (R448, R449): class 9, severity 4, the cause code in `aux`, and the `cause` of its trigger, `why` when that said it. -/
def resetRecord (cause why : Nat) : ErrRec := { cls := 9, sev := 4, aux := cause, cause := if why = 0 then resetCause cause else why }

/-- Firmware on trial, or being started, when a reset comes: the slot in force runs again, and the trial slot is marked failed (R521). -/
def State.backToForce (s : State) : State :=
  let f := s.flash
  let k := f.inForce
  let s : State := { s with sec := { s.sec with runSlot := k, version := (f.slot k).version, svn := (f.slot k).svn, digest := (f.slot k).digest } }
  match f.trialSlot with
  | none => s
  | some t =>
    { s with
      flash := ({ f.setSlot t { f.slot t with failed := true } with trialSlot := none } : Flash).commit
      kpr := { s.kpr with fwResult := 5 } }

/-- The `TXN` block at its reset values (R7, R534). -/
def State.txnReset (s : State) : State := { s with txn := {} }

/-- What is left of a committing transaction runs during the restore; one that was only staged is discarded (R531). The block's
registers then have their reset values (R7). -/
def State.finishTxn (s : State) : State :=
  if s.txn.state ≠ .committing then s.txnReset
  else
    let l := itemsOf s.txn.staged
    let s := l.foldl (fun (s : State) e => match e with | .write _ o v => s.keeperWrite o v | .op _ _ => s) s
    let ops := s.txn.ops.map (fun ws => ws.map (fun w => w.toNat)) ++ l.filterMap (fun e => match e with | .op _ ws => some ws | .write _ _ _ => none)
    (ops.foldl (fun (s : State) ws => match s.opApply ws with | some s => s | none => s) s).txnReset

/-- The end of debug unlock at a reset: sectors are released, key slots redrawn (R497). -/
def State.relockAtReset (s : State) : State := if s.sec.unlocked then s.relock else s

/-- Apply the port resets latched during the reset (R452). -/
def State.latchedPorts (s : State) : State :=
  (upto 0 8).foldl (fun (s : State) p => if (s.port p).latchedReset then s.portReset p else s) s

/-- The whole device reset, with `k` further restarts of its sequence. The fourth that starts within 600 s leaves the device halted
(R451). -/
def State.deviceReset (s : State) (cause k : Nat) (bad : List Nat) (tablesOk : Bool) : State :=
  let recent := (s.err.resetTimes.filter (fun t => decide (s.triggerAt ≤ t + 600000000000))) ++ [s.triggerAt]
  let at_ := (s.triggerAt, s.flash.boot)
  let why := s.err.trigCause
  let s := s.modErr (fun e => { e with resets := sat16 e.resets 1, cause := cause, trigCause := 0, resetTimes := recent, alert := true })
  let s := s.resetUnits.backToForce
  let s : State := { s with flash := ({ s.flash with boot := (s.flash.boot + 1 + k) % 2 ^ 16 } : Flash).commit, trigger := none }
  if 4 ≤ recent.length then { (s.resetCompletions.modErr (fun e => { e with halted := true })) with phase := .halted }
  else
    let s := (if tablesOk then s else s.releaseAll).modErr (fun e => { e with tablesLost := !tablesOk })
    let s := (s.relockAtReset.selfTest bad).finishTxn.latchedPorts
    let s := s.resetCompletions.markFns
    let s := (s.recordAt at_.1 at_.2 (resetRecord cause why)).flushLog
    let (w, s) := s.draw
    { s with
      phase := .ready
      sec := { s.sec with sessions := [], nonce := none, bootMs := w.toNat % 3001 }
      kpr := { s.kpr with beaconAt := s.time } }

/-- DEVICE_RESET (R449): the latched trigger, or a trigger that comes now; with one latched, another cause restarts the sequence
(R452). -/
def execDeviceReset (cause : Fin 10) (bad : List (Fin 2176)) (tablesOk : Bool) (s : State) : Res :=
  if s.phase ≠ .ready ∧ s.phase ≠ .resetting then .next s
  else match s.trigger with
    | some c =>
      let more := s.err.again + (if cause.val = 0 ∨ cause.val = c then 0 else 1)
      .next (s.deviceReset c more (bad.map (·.val)) tablesOk)
    | none => if cause.val = 0 then .next s else .next ((s.latchReset cause.val).deviceReset cause.val 0 (bad.map (·.val)) tablesOk)

/-! ### Power and reset pins (R499, R500, R513, R556) -/

/-- Nothing is kept but the module flash with its repair record, which names the clusters that no lightship was left for (R25); the keys of
R483 are destroyed with Keeper SRAM. The queue of commands and what has left are outside the device. -/
def State.bare (s : State) (ph : Phase) : State :=
  { pending := s.pending, time := s.time, phase := ph, pins := s.pins, flash := s.flash, remap := s.remap, out := s.out, fresh := s.fresh
    cls := s.flash.retired.map (fun c => (c, { retired := true })), quadBad := s.flash.retired.foldl (fun l c => setAdd l (quadOf c)) [] }

/-- The regulators are off. -/
def State.railsOff (s : State) : State :=
  let s := s.bare .off
  { s with pins := { s.pins with rails := false, coolFault := false, leak := false } }

/-- The rails come into regulation when input power and `MOD_PWREN` are there and no thermal trip stands; the device waits in reset. -/
def State.railsOn (s : State) : State :=
  if s.pins.inputOn && s.pins.pwren && !s.pins.thermtrip && s.phase == .off then
    let s := s.bare .booting
    { s with pins := { s.pins with rails := true } }
  else s

/-- THERMAL_TRIP (R513): the trip output stays asserted until input power is removed. -/
def execThermalTrip (s : State) : Res :=
  if !s.pins.inputOn then .next s else .next ({ s with pins := { s.pins with thermtrip := true } } : State).railsOff

/-- INPUT_OVERVOLTAGE (R499): as at loss of input power. -/
def execInputOvervoltage (s : State) : Res := .next s.railsOff

/-- MOD_PWREN_ASSERT (R500). -/
def execModPwrenAssert (s : State) : Res := .next ({ s with pins := { s.pins with pwren := true } } : State).railsOn

/-- MOD_PWREN_DEASSERT (R500). -/
def execModPwrenDeassert (s : State) : Res := .next ({ s with pins := { s.pins with pwren := false } } : State).railsOff

/-- INPUT_POWER_LOSS (R500). -/
def execInputPowerLoss (s : State) : Res :=
  let s := s.railsOff
  .next { s with pins := { s.pins with inputOn := false, thermtrip := false } }

/-- INPUT_POWER_APPLIED (R500, R510): device time starts from zero. -/
def execInputPowerApplied (s : State) : Res :=
  if s.pins.inputOn then .next s
  else .next ({ s with time := 0, pins := { s.pins with inputOn := true } } : State).railsOn

/-- MOD_RESET_N_ASSERT (R556): held for at least 10 microseconds; every context and sector is lost, links go down, and the boot starts
again when it is released. -/
def execModResetNAssert (us : Nat) (s : State) : Res :=
  if s.phase = .off || !(decide (10 ≤ us) || (decide (1 ≤ us) && Config.pulseTakes (us * 1000))) then .next s
  else .next (s.bare .booting)

/-! ### Boot (R480, R481) -/

/-- The slot that mask ROM selects: the one in force, else the other unless it is marked failed. -/
def Flash.selected (f : Flash) : Option Nat :=
  let k := f.inForce
  if f.slotOk k then some k
  else if f.slotOk (1 - k) && !(f.slot (1 - k)).failed then some (1 - k)
  else none

/-- A step of the boot fails: the device is in recovery. -/
def State.toRecovery (s : State) (step : Nat) : State := { s with phase := .recovery, sec := { s.sec with failStep := step } }

/-- Steps 5 to 9 of the boot: training, self-test, remap and tables, boot count, `ready`. -/
def State.bootRest (s : State) (r : BootResult) : State :=
  let s : State := { s with hbm := { s.hbm with ctrls := (upto 0 20).map (fun n =>
    (n, { s.ctrl n with trained := !s.flash.stacksRetired.contains n, retired := s.flash.stacksRetired.contains n
                        pcRetired := s.flash.pcRetired.foldl (fun a e => if e.1 = n ∧ !bitOf a e.2 then a + 2 ^ e.2 else a) 0 })) } }
  let s := (s.withdraw (36 * s.flash.stacksRetired.length + 23 * s.flash.pcRetired.length)).elim s (·.1)
  let s := (r.badStacks.filter (fun n => !(s.ctrl n.val).retired)).foldl (fun (s : State) n => s.retireOrFail n.val none) s
  let s := s.selfTest (r.badClusters.map (·.val))
  let s := if r.tablesOk then s else s.releaseAll.modErr (fun e => { e with tablesLost := true })
  if !r.measureOk then s.toRecovery 8
  else
    let (w, s) := s.draw
    { s with
      phase := .ready
      flash := ({ s.flash with boot := (s.flash.boot + 1) % 2 ^ 16 } : Flash).commit
      ports := (upto 0 8).map (fun p => (p, { s.port p with clkreq := true }))
      sec := { s.sec with bootMs := w.toNat % 20001, failStep := 0 }
      kpr := { s.kpr with serial := s.flash.serial, beaconAt := s.time } }

/-- BOOT (R480): `MOD_RESET_N` is released. Once the PUF has answered, Keeper SRAM holds the two keys of R483, which a device reset keeps and
no register shows. A trial cut short leaves the trial slot marked failed (R481, R521). -/
def execBoot (r : BootResult) (s : State) : Res :=
  if s.phase ≠ .booting ∨ !s.pins.rails then .next s
  else if !r.rootKeyOk then .next (s.toRecovery 1)
  else match s.flash.selected with
    | none => .next (s.toRecovery 2)
    | some k =>
      let f := s.flash
      let s : State := { s with sec := { s.sec with runSlot := k, version := (f.slot k).version, svn := (f.slot k).svn, digest := (f.slot k).digest } }
      if !r.pufOk then .next (s.toRecovery 3)
      else
        let s : State := { s with sec := { s.sec with idOk := true, wrapKey := some (Config.wrapKey s.flash.helper), recordKey := some (Config.recordKey s.flash.helper) } }
        if !r.recordsOk || k != f.inForce then .next (s.toRecovery 4)
        else .next (s.backToForce.bootRest r)

end Sys2Proof.Machine
end

