-- ==== Sys2Proof/Machine/Scalar.lean ====
section
/-!
DEFINITION. Scalar units (spec/06, spec/09 R296 to R299): fetch, the effect of every scalar instruction, blocking and
resuming, and one meaning for each scalar command. A command names the instruction it stands for; it runs when the word
at the unit's program counter holds that instruction (log 19).
-/

namespace Sys2Proof.Machine

/-- What one scalar instruction comes to: it retires with the next program counter, halts, waits with a blocking cause
(R210), or breaks a rule with a status and cause (R442, R438); `faultAt` is that in a state in which words that it read have been recorded
(R436). -/
inductive SOut where
  | retire (s : State) (pc : Nat)
  | halted (s : State)
  | block (s : State) (cause : Nat)
  | fault (status cause : Nat)
  | faultAt (s : State) (status cause : Nat)

/-- The context of a scalar unit, or 0 with none. -/
def State.ctxOf (s : State) (gid : Nat) : Nat := (s.ownerOf (clusterOf gid)).getD 0

/-- A narrow load or store (R178, R180, R181). -/
def narrowAccess (s : State) (g pc : Nat) (store : Bool) (sz : Fin 4) (r ra : Nat) (imm : BitVec 16) : SOut :=
  let u := s.scu g
  let mu := homeMu g
  let m := s.mu mu
  let n := narrowBytes sz
  let base := u.reg ra
  let off := narrowOff base.v imm
  if base.fog then .fault stFoggedControl 0x06
  else if off % n ≠ 0 then .fault stContextFault 0x07
  else if !m.rangeOk off n then .fault stOverflow 0x08
  else if m.zeroizing then .block s 7
  else if m.asleep off n ≠ 0 then .block (s.setMu mu (m.wake off n)) 7
  else if store then
    let v := u.reg r
    .retire (s.muWritePlain mu off (toBytes n v.v.toNat) (List.replicate n v.fog)) (pc + 1)
  else
    let s := s.touchRead mu off n
    let m := s.mu mu
    let v : Reg := { v := BitVec.ofNat 64 (ofBytes (memRead m.mem off n)), fog := m.fogAt off n }
    .retire (s.setScu g ((s.scu g).setReg r v)) (pc + 1)

/-- Pop a register-mode queue or find the head message of a ring (R191, R197, R202). -/
def queueReceive (s : State) (g pc rd q : Nat) : SOut :=
  let u := s.scu g
  let qu := u.queue q
  match qu.mode with
  | .off => .fault stContextFault 0x07
  | .register =>
    match qu.entries with
    | [] => if qu.opened then .block s 1
            else .retire (s.setScu g { u.setReg rd {} with lastTag := 0xFF }) (pc + 1)
    | e :: t =>
      .retire (s.setScu g { (u.setQueue q { qu with entries := t }).setReg rd { v := e.data, fog := e.fog } with lastTag := e.tag }) (pc + 1)
  | _ =>
    if qu.wp = qu.rp then
      if qu.opened then .block s 1 else .retire (s.setScu g (u.setReg rd { v := BitVec.allOnes 64 })) (pc + 1)
    else
      let pad := (memGet (s.mu (homeMu g)).mem (qu.base + qu.rp + 9)).getLsbD 0
      let rp := if pad then 0 else qu.rp
      .retire (s.setScu g ((u.setQueue q { qu with rp := rp }).setReg rd { v := BitVec.ofNat 64 (qu.base + rp) })) (pc + 1)

/-- The queue that a `qsel` chooses (R203). -/
def Scu.choose (u : Scu) (mask : Word) (rot : Bool) : Option Nat :=
  let order := if rot then (upto 1 64).map (fun i => (u.rot + i) % 64) else upto 0 64
  order.find? (fun q => mask.getLsbD q && (u.queue q).ready)

/-- The result of a `qsel`: a chosen queue, or a timeout (R203, R204). -/
def Scu.qselResult (u : Scu) (rd pd : Nat) (rot : Bool) (c : Option Nat) : Scu :=
  match c with
  | some q =>
    let u := if rot then { u with rot := q } else u
    (u.setReg rd { v := BitVec.ofNat 64 q }).setPred pd { v := true }
  | none => (u.setReg rd { v := 64 }).setPred pd { v := false }

/-- A `qsel` (R181, R202 to R204). -/
def queueSelect (s : State) (g pc rd ra rb pd : Nat) (rot : Bool) : SOut :=
  let u := s.scu g
  let mask := u.reg ra
  let tmo := u.reg rb
  if mask.fog || tmo.fog then .fault stFoggedControl 0x06
  else if (upto 0 64).any (fun q => mask.v.getLsbD q && (u.queue q).mode == .off) then .fault stContextFault 0x07
  else match u.choose mask.v rot with
    | some q => .retire (s.setScu g (u.qselResult rd pd rot (some q))) (pc + 1)
    | none =>
      if mask.v = 0 ∨ tmo.v = 0 then .retire (s.setScu g (u.qselResult rd pd rot none)) (pc + 1) else .block s 2

/-- A `qsend` (R181, R198, R298). A header-only message carries no fog of the register that it sends no byte of (DESIGN CHOICE, log 162). -/
def queueSend (s : State) (g pc ra rb rc : Nat) (tag : BitVec 8) (m : Bool) : SOut :=
  let u := s.scu g
  let mu := homeMu g
  let a := u.reg ra
  let b := u.reg rb
  let c := u.reg rc
  let unit := fld a.v.toNat 15 0
  let queue := fld a.v.toNat 21 16
  let n := c.v.toNat
  let off := b.v.toNat
  let own := s.ownerOf (clusterOf g)
  let foreign := s.ownerOf (clusterOf unit) != own
  let put := fun (s : State) (payload : List Byte) (fog : Bool) =>
    let u := s.scu g
    let msg : Msg := { unit := unit, queue := queue, prio := fld a.v.toNat 23 22, fou := bitOf a.v.toNat 24, tag := tag.toNat,
                       payload := payload, fog := fog, sender := g, ctx := own.getD 0 }
    if fog && foreign then SOut.faultAt s stFoggedOutput 0x05
    else if 8 ≤ u.send.length then .block s 4
    else .retire (s.setScu g { u with send := u.send ++ [{ msg := msg, scu := localOf g }] }) (pc + 1)
  if a.fog || c.fog || (m && b.fog) then .fault stFoggedControl 0x06
  else if !s.addrOk unit queue tag.toNat then .fault stContextFault 0x07
  else if !m then
    if 8 < n then .fault stContextFault 0x07 else put s (toBytes n b.v.toNat) (b.fog && n != 0)
  else if 4080 < n then .fault stContextFault 0x07
  else if !(s.mu mu).rangeOk off n then .fault stOverflow 0x08
  else if (s.mu mu).zeroizing then .block s 4
  else if (s.mu mu).asleep off n ≠ 0 then .block (s.setMu mu ((s.mu mu).wake off n)) 4
  else
    let s := s.touchRead mu off n
    put s (memRead (s.mu mu).mem off n) ((s.mu mu).fogAt off n)

/-- The unit whose memory holds an instruction for local index `i` issued by an SCU (R271). -/
def holderOf (g i : Nat) : Nat := if i = 24 then homeMu g else gidOf (clusterOf g) i

/-- Whether the target of a `tiss` and the class of the word agree (R271). -/
def classAgrees (i : Nat) (t : TInstr) : Bool :=
  if i = 24 then t.cls == 3 else t.cls == 4 || t.cls == 5 || t.cls == unitClass i

/-- Whether a scalar unit may act. -/
def State.scuLive (s : State) (g : Nat) : Bool := s.acts g && !(s.scu g).frozen

/-- Whether another scalar unit of the cluster that waits to issue to local index `i` comes before this one in the rotation, which begins
after the unit that was last served, SCU0 before any was (R183; DESIGN CHOICE, log 163). A waiting unit whose tag table has no room for the
tag of its `tiss` is not served, and passed over. -/
def State.issuesAhead (s : State) (g i : Nat) : Bool :=
  let c := clusterOf g
  let last := (s.tu (gidOf c i)).lastScu
  let place := fun (k : Nat) => (k + 3 - last) % 4
  (upto 0 4).any (fun k =>
    let u := s.scu (gidOf c (20 + k))
    decide (place k < place (localOf g - 20)) && s.scuLive (gidOf c (20 + k)) && u.state == .blocked
      && (match u.blocked with
        | some (.tiss j w _ _) => j.val == i && (decide (u.tags.length < 64) || (decodeTensor ((s.tu (holderOf (gidOf c (20 + k)) i)).word w.val)).tag == 0)
        | _ => false))

/-- A `tiss` (R181 to R184, R271, R299). A replacing register gives the low 16 bits of its value (log 20). -/
def tensorIssue (s : State) (g pc i w rc rs : Nat) : SOut :=
  let u := s.scu g
  let c := clusterOf g
  let cv := u.reg rc
  let sv := u.reg rs
  let hold := s.tu (holderOf g i)
  let t := decodeTensor (hold.word w)
  let t := if rc = 0 then t else { t with count := cv.v.toNat % 65536 }
  let t := if rs = 0 then t else { t with sq := sv.v.toNat % 65536 }
  if cv.fog || sv.fog then .fault stFoggedControl 0x06
  else if !(decide (i < 20) || i == 24) then .fault stContextFault 0x07
  else if hold.wordBad w then .fault stFoggedControl (if hold.timBad.contains w then 0x02 else 0x06)
  else if !classAgrees i t then .fault stContextFault 0x07
  else if t.tag ≠ 0 ∧ u.tags.any (fun e => e.tag == t.tag) then .fault stContextFault 0x07
  else if t.tag ≠ 0 ∧ 64 ≤ u.tags.length then .block s 5
  else if decide (8 ≤ (s.issueQ c i).length) || s.issuesAhead g i then .block s 5
  else
    let s := s.setTu (gidOf c i) { s.tu (gidOf c i) with lastScu := localOf g - 20 }
    let s := s.setIssueQ c i (s.issueQ c i ++ [{ i := t, scu := localOf g, ctx := s.ctxOf g }])
    let u := s.scu g
    let u := if t.tag = 0 then u else { u with tags := u.tags ++ [{ tag := t.tag }] }
    .retire (s.setScu g u) (pc + 1)

/-- A `wait` (R185). -/
def tagWait (s : State) (g pc rd tag : Nat) : SOut :=
  let u := s.scu g
  match u.tags.find? (fun e => e.tag == tag) with
  | none => .retire (s.setScu g (u.setReg rd { v := 0 })) (pc + 1)
  | some e =>
    match e.posted with
    | none => .block s 3
    | some st =>
      .retire (s.setScu g ({ u with tags := u.tags.filter (fun e => e.tag != tag) }.setReg rd { v := BitVec.ofNat 64 st })) (pc + 1)

/-- The value of a special register (R297). -/
def State.special (s : State) (g sr : Nat) : Nat :=
  match sr with
  | 0 => s.time
  | 1 => clusterOf g
  | 2 => g
  | 3 => s.ctxOf g
  | 4 => (s.scu g).sendStatus
  | 5 => (s.die (dieOf (clusterOf g))).frame
  | _ => s.flash.boot

/-- The effect of a scalar instruction at program counter `pc` (R297). -/
def scalarEffect (s : State) (g pc : Nat) (i : SInstr) : SOut :=
  let u := s.scu g
  let write := fun (r : Fin 32) (v : Reg) => SOut.retire (s.setScu g (u.setReg r.val v)) (pc + 1)
  match i with
  | .alu op rd ra rb =>
    let a := u.reg ra.val
    let b := u.reg rb.val
    write rd { v := aluOp op.val a.v b.v, fog := a.fog || b.fog }
  | .sel rd ra rb p =>
    let a := u.reg ra.val
    let b := u.reg rb.val
    let q := u.pred p.val
    write rd { v := if q.v then a.v else b.v, fog := a.fog || b.fog || q.fog }
  | .imm op rd ra imm =>
    let a := u.reg ra.val
    let v : Word := match op.val with
      | 0 => a.v + imm.signExtend 64
      | 1 => a.v &&& imm.setWidth 64
      | 2 => a.v ||| imm.setWidth 64
      | _ => a.v ^^^ imm.setWidth 64
    write rd { v := v, fog := a.fog }
  | .shi op rd ra sh =>
    let a := u.reg ra.val
    write rd { v := aluOp (5 + op.val) a.v (BitVec.ofNat 64 sh.val), fog := a.fog }
  | .lui rd imm => write rd { v := imm.signExtend 64 <<< 16 }
  | .cmp pd c ra rb =>
    let a := u.reg ra.val
    let b := u.reg rb.val
    .retire (s.setScu g (u.setPred pd.val { v := condHolds c a.v b.v, fog := a.fog || b.fog })) (pc + 1)
  | .cmpi pd c ra imm =>
    let a := u.reg ra.val
    .retire (s.setScu g (u.setPred pd.val { v := condHolds c a.v (imm.signExtend 64), fog := a.fog })) (pc + 1)
  | .pop pd pa pb f => .retire (s.setScu g (u.setPred pd.val (popVal f (u.pred pa.val) (u.pred pb.val)))) (pc + 1)
  | .ld sz rd ra imm => narrowAccess s g pc false sz rd.val ra.val imm
  | .st sz rs ra imm => narrowAccess s g pc true sz rs.val ra.val imm
  | .br al neg p target =>
    let q := u.pred p.val
    if al then .retire s target.toNat
    else if q.fog then .fault stFoggedControl 0x06
    else if q.v ^^ neg then .retire s target.toNat else .retire s (pc + 1)
  | .jal rd target => .retire (s.setScu g (u.setReg rd.val { v := BitVec.ofNat 64 (pc + 1) })) target.toNat
  | .jr ra =>
    let a := u.reg ra.val
    if a.fog then .fault stFoggedControl 0x06
    else if 16383 < a.v.toNat then .fault stContextFault 0x07
    else .retire s a.v.toNat
  | .halt => .halted s
  | .qrecv rd (.imm q) => queueReceive s g pc rd.val q.val
  | .qrecv rd (.reg ra) =>
    let a := u.reg ra.val
    if a.fog then .fault stFoggedControl 0x06 else queueReceive s g pc rd.val (a.v.toNat % 64)
  | .qsel rd ra rb pd rot => queueSelect s g pc rd.val ra.val rb.val pd.val rot
  | .qsend ra rb rc tag m => queueSend s g pc ra.val rb.val rc.val tag m
  | .qtag rd => write rd { v := BitVec.ofNat 64 u.lastTag }
  | .qrp ra q =>
    let a := u.reg ra.val
    let qu := u.queue q.val
    if a.fog then .fault stFoggedControl 0x06
    else if !qu.isRing || !qu.rpOk a.v.toNat then .fault stContextFault 0x07
    else .retire (s.setScu g (u.setQueue q.val { qu with rp := a.v.toNat })) (pc + 1)
  | .qclose q => .retire (s.setScu g (u.setQueue q.val (u.queue q.val).close)) (pc + 1)
  | .tiss i w rc rs => tensorIssue s g pc i.val w.val rc.val rs.val
  | .wait rd tag => tagWait s g pc rd.val tag.toNat
  | .pout port p =>
    let q := u.pred p.val
    let l := if port.val = 0 then u.pport0 else u.pport1
    if q.fog then .fault stFoggedControl 0x06
    else if 16 ≤ l.length then .block s 6
    else .retire (s.setScu g (if port.val = 0 then { u with pport0 := l ++ [q.v] } else { u with pport1 := l ++ [q.v] })) (pc + 1)
  | .rdsr rd sr => write rd { v := BitVec.ofNat 64 (s.special g sr.val) }

/-- A scalar unit breaks a rule: its context fails before the instruction has any effect. -/
def State.scuFail (s : State) (g status cause op : Nat) : State :=
  match s.ownerOf (clusterOf g) with
  | some x => s.failCtx x status { unit := g, cls := 5, sev := 3, cause := cause, op := op, opk := true }
  | none => s

/-- A scalar instruction has retired: the unit goes on at `pc` in run state `st` (R177, R210), and counts it. -/
def State.retireScalar (s : State) (g pc : Nat) (st : ScuState) : State :=
  let u := s.scu g
  (s.setScu g { u with pc := pc, state := st, cause := 0, blocked := none, instr := perfAdd u.instr 1 }).progress (clusterOf g)

/-- A scalar instruction waits, with a blocking cause (R187, R210); the time at which it first blocked stands. -/
def State.blockScalar (s' : State) (g : Nat) (i : SInstr) (cause : Nat) (u : Scu) (now : Nat) : State :=
  s'.setScu g { s'.scu g with state := .blocked, cause := cause, blocked := some i,
                              blockedAt := if u.state = .blocked then u.blockedAt else now }

/-- Carry out an instruction and record what came of it: retired and counted, halted, blocked (R187), or failed. A halted
unit resumes at word 0 (R179). -/
def State.runScalarAt (s : State) (g : Nat) (i : SInstr) : State :=
  let u := s.scu g
  match scalarEffect s g u.pc i with
  | .retire s pc => s.retireScalar g pc .running
  | .halted s => s.retireScalar g 0 .halted
  | .block s' cause => s'.blockScalar g i cause u s.time
  | .fault status cause => s.scuFail g status cause (scalarOpcode i)
  | .faultAt s' status cause => s'.scuFail g status cause (scalarOpcode i)

/-- Fetch the word at the program counter (R177): a corrected word is counted; a word beyond 16,383 or with an
uncorrectable error fails the context, and so does one that a scan has brought back as fog (R320). -/
def State.fetchScalar (s : State) (g : Nat) : State × Option Nat :=
  let u := s.scu g
  if 16383 < u.pc then (s.scuFail g stContextFault 0x08 0, none)
  else if u.imemUe.contains u.pc then
    let s := s.setScu g { u with ueCount := sat32 u.ueCount 1 }
    match s.ownerOf (clusterOf g) with
    | some x => (s.failCtx x stContextFault { unit := g, cls := 0, sev := 3, cause := 0x02, akind := 6, addr := u.pc, opk := true }, none)
    | none => (s, none)
  else if u.imemFog.contains u.pc then (s.scuFail g stFoggedControl 0x06 0, none)
  else if u.imemCe.contains u.pc then
    ((s.setScu g { u with ceCount := sat32 u.ceCount 1 }).corrected (s.aboutUnit g { cls := 0, sev := 1, cause := 0x01, akind := 6, addr := u.pc }), some (u.word u.pc))
  else (s, some (u.word u.pc))

/-- The next instruction of a running unit is `i` (log 19). -/
def State.scalarNext (s : State) (g : Nat) (i : SInstr) : Bool :=
  s.scuLive g && (s.scu g).state == .running && decide ((s.scu g).pc ≤ 16383)
    && decodeScalar ((s.scu g).word (s.scu g).pc) == some i

/-- The next instruction of a running unit is `i`, and its word holds no error (R177). -/
def State.canRun (s : State) (g : Nat) (i : SInstr) : Bool :=
  s.scalarNext g i && !(s.scu g).imemUe.contains (s.scu g).pc && !(s.scu g).imemFog.contains (s.scu g).pc && !(s.scu g).imemCe.contains (s.scu g).pc

/-- A scalar command: fetch, and run the instruction when it is the one the command names. -/
def runScalar (u : ScuId) (i : SInstr) (s : State) : Res :=
  let g := scuGid u
  if s.scuLive g && (s.scu g).state == .running then
    match s.fetchScalar g with
    | (s', none) => .next s'
    | (s', some w) => if decodeScalar w = some i then .next (s'.runScalarAt g i) else .next s
  else .next s

/-! ### One meaning for each scalar command -/

def execAdd (u : ScuId) (rd ra rb : Fin 32) (s : State) : Res := runScalar u (.alu 0 rd ra rb) s
def execSub (u : ScuId) (rd ra rb : Fin 32) (s : State) : Res := runScalar u (.alu 1 rd ra rb) s
def execAnd (u : ScuId) (rd ra rb : Fin 32) (s : State) : Res := runScalar u (.alu 2 rd ra rb) s
def execOr (u : ScuId) (rd ra rb : Fin 32) (s : State) : Res := runScalar u (.alu 3 rd ra rb) s
def execXor (u : ScuId) (rd ra rb : Fin 32) (s : State) : Res := runScalar u (.alu 4 rd ra rb) s
def execShl (u : ScuId) (rd ra rb : Fin 32) (s : State) : Res := runScalar u (.alu 5 rd ra rb) s
def execShr (u : ScuId) (rd ra rb : Fin 32) (s : State) : Res := runScalar u (.alu 6 rd ra rb) s
def execSar (u : ScuId) (rd ra rb : Fin 32) (s : State) : Res := runScalar u (.alu 7 rd ra rb) s
def execMul (u : ScuId) (rd ra rb : Fin 32) (s : State) : Res := runScalar u (.alu 8 rd ra rb) s
def execMulhi (u : ScuId) (rd ra rb : Fin 32) (s : State) : Res := runScalar u (.alu 9 rd ra rb) s
def execDiv (u : ScuId) (rd ra rb : Fin 32) (s : State) : Res := runScalar u (.alu 10 rd ra rb) s
def execRem (u : ScuId) (rd ra rb : Fin 32) (s : State) : Res := runScalar u (.alu 11 rd ra rb) s
def execMin (u : ScuId) (rd ra rb : Fin 32) (s : State) : Res := runScalar u (.alu 12 rd ra rb) s
def execMax (u : ScuId) (rd ra rb : Fin 32) (s : State) : Res := runScalar u (.alu 13 rd ra rb) s
def execSel (u : ScuId) (rd ra rb : Fin 32) (p : Fin 8) (s : State) : Res := runScalar u (.sel rd ra rb p) s
def execAddi (u : ScuId) (rd ra : Fin 32) (imm : BitVec 16) (s : State) : Res := runScalar u (.imm 0 rd ra imm) s
def execAndi (u : ScuId) (rd ra : Fin 32) (imm : BitVec 16) (s : State) : Res := runScalar u (.imm 1 rd ra imm) s
def execOri (u : ScuId) (rd ra : Fin 32) (imm : BitVec 16) (s : State) : Res := runScalar u (.imm 2 rd ra imm) s
def execXori (u : ScuId) (rd ra : Fin 32) (imm : BitVec 16) (s : State) : Res := runScalar u (.imm 3 rd ra imm) s
def execShli (u : ScuId) (rd ra : Fin 32) (sh : Fin 64) (s : State) : Res := runScalar u (.shi 0 rd ra sh) s
def execShri (u : ScuId) (rd ra : Fin 32) (sh : Fin 64) (s : State) : Res := runScalar u (.shi 1 rd ra sh) s
def execSari (u : ScuId) (rd ra : Fin 32) (sh : Fin 64) (s : State) : Res := runScalar u (.shi 2 rd ra sh) s
def execLui (u : ScuId) (rd : Fin 32) (imm : BitVec 21) (s : State) : Res := runScalar u (.lui rd imm) s
def execCmp (u : ScuId) (pd : Fin 8) (c : Cond) (ra rb : Fin 32) (s : State) : Res := runScalar u (.cmp pd c ra rb) s
def execCmpi (u : ScuId) (pd : Fin 8) (c : Cond) (ra : Fin 32) (imm : BitVec 15) (s : State) : Res := runScalar u (.cmpi pd c ra imm) s
def execPop (u : ScuId) (pd pa pb : Fin 8) (f : PopFn) (s : State) : Res := runScalar u (.pop pd pa pb f) s
def execLdNB (u : ScuId) (rd ra : Fin 32) (imm : BitVec 16) (s : State) : Res := runScalar u (.ld 0 rd ra imm) s
def execLdNH (u : ScuId) (rd ra : Fin 32) (imm : BitVec 16) (s : State) : Res := runScalar u (.ld 1 rd ra imm) s
def execLdNW (u : ScuId) (rd ra : Fin 32) (imm : BitVec 16) (s : State) : Res := runScalar u (.ld 2 rd ra imm) s
def execLdND (u : ScuId) (rd ra : Fin 32) (imm : BitVec 16) (s : State) : Res := runScalar u (.ld 3 rd ra imm) s
def execStNB (u : ScuId) (rs ra : Fin 32) (imm : BitVec 16) (s : State) : Res := runScalar u (.st 0 rs ra imm) s
def execStNH (u : ScuId) (rs ra : Fin 32) (imm : BitVec 16) (s : State) : Res := runScalar u (.st 1 rs ra imm) s
def execStNW (u : ScuId) (rs ra : Fin 32) (imm : BitVec 16) (s : State) : Res := runScalar u (.st 2 rs ra imm) s
def execStND (u : ScuId) (rs ra : Fin 32) (imm : BitVec 16) (s : State) : Res := runScalar u (.st 3 rs ra imm) s
def execBr (u : ScuId) (al neg : Bool) (p : Fin 8) (target : BitVec 14) (s : State) : Res := runScalar u (.br al neg p target) s
def execJal (u : ScuId) (rd : Fin 32) (target : BitVec 14) (s : State) : Res := runScalar u (.jal rd target) s
def execJr (u : ScuId) (ra : Fin 32) (s : State) : Res := runScalar u (.jr ra) s
def execHalt (u : ScuId) (s : State) : Res := runScalar u .halt s
def execQrecv (u : ScuId) (rd : Fin 32) (q : QSrc) (s : State) : Res := runScalar u (.qrecv rd q) s
def execQsel (u : ScuId) (rd ra rb : Fin 32) (pd : Fin 8) (rot : Bool) (s : State) : Res := runScalar u (.qsel rd ra rb pd rot) s
def execQsend (u : ScuId) (ra rb rc : Fin 32) (tag : BitVec 8) (m : Bool) (s : State) : Res := runScalar u (.qsend ra rb rc tag m) s
def execQtag (u : ScuId) (rd : Fin 32) (s : State) : Res := runScalar u (.qtag rd) s
def execQrp (u : ScuId) (ra : Fin 32) (q : Fin 64) (s : State) : Res := runScalar u (.qrp ra q) s
def execQclose (u : ScuId) (q : Fin 64) (s : State) : Res := runScalar u (.qclose q) s
def execTiss (u : ScuId) (unit : Fin 32) (w : Fin 1024) (rc rs : Fin 32) (s : State) : Res := runScalar u (.tiss unit w rc rs) s
def execWait (u : ScuId) (rd : Fin 32) (tag : BitVec 16) (s : State) : Res := runScalar u (.wait rd tag) s
def execPout (u : ScuId) (port : Fin 2) (p : Fin 8) (s : State) : Res := runScalar u (.pout port p) s
def execRdsr (u : ScuId) (rd : Fin 32) (sr : Fin 7) (s : State) : Res := runScalar u (.rdsr rd sr) s

/-- SCALAR_RESERVED_OPCODE (R297): the fetched word decodes to no instruction, and the context fails. -/
def execScalarReservedOpcode (u : ScuId) (s : State) : Res :=
  let g := scuGid u
  if s.scuLive g && (s.scu g).state == .running then
    match s.fetchScalar g with
    | (s', none) => .next s'
    | (s', some w) =>
      if decodeScalar w = none then .next (s'.scuFail g stContextFault 0x07 (fld w 31 26)) else .next s
  else .next s

/-- SCU_UNBLOCK (R187): the blocked instruction runs again; it resumes if what it waits for has come. -/
def execScuUnblock (u : ScuId) (s : State) : Res :=
  let g := scuGid u
  let v := s.scu g
  match v.blocked with
  | some i => if s.scuLive g && v.state == .blocked then .next (s.runScalarAt g i) else .next s
  | none => .next s

/-- The deadline of a blocked `qsel`, in nanoseconds of device time at the clock step in force; none without limit. -/
def State.qselDeadline (s : State) (g : Nat) (rb : Nat) : Option Nat :=
  let v := s.scu g
  let t := (v.reg rb).v
  if t = BitVec.allOnes 64 then none
  else some (v.blockedAt + ceilDiv (t.toNat * 10) (clock10 (s.die (dieOf (clusterOf g))).step))

/-- QSEL_TIMEOUT (R204): the timeout elapses; a queue that is ready then is chosen, else the instruction writes 64 and
clears its predicate. -/
def execQselTimeout (u : ScuId) (s : State) : Res :=
  let g := scuGid u
  let v := s.scu g
  match v.blocked with
  | some (.qsel rd ra rb pd rot) =>
    if s.scuLive g && v.state == .blocked then
      match s.qselDeadline g rb.val with
      | none => .next s
      | some t =>
        let s := s.advanceTo t
        let v := s.scu g
        .next ((s.setScu g (v.qselResult rd.val pd.val rot (v.choose (v.reg ra.val).v rot))).retireScalar g (v.pc + 1) .running)
    else .next s
  | _ => .next s

end Sys2Proof.Machine
end

