-- ==== Sys2Proof/Machine/Dispatch.lean ====
section
/-!
DEFINITION. One arm per command of the table.
-/

namespace Sys2Proof.Machine

/-- The effect of a command on everything but the queue. -/
def exec (i : Instr) (s : State) : Host.Outcome State Fault Refusal :=
  match i with
  | .registerWrite r a v => Sys2Proof.Machine.execRegisterWrite r a v s
  | .registerAccessMisaligned r a size write => Sys2Proof.Machine.execRegisterAccessMisaligned r a size write s
  | .heldAccessTimeout n => Sys2Proof.Machine.execHeldAccessTimeout n s
  | .muDtSelWrite r m v => Sys2Proof.Machine.execMuDtSelWrite r m v s
  | .muDtWordStage r m k v => Sys2Proof.Machine.execMuDtWordStage r m k v s
  | .muDtWord7Write r m v => Sys2Proof.Machine.execMuDtWord7Write r m v s
  | .muBgCtlWrite r m v => Sys2Proof.Machine.execMuBgCtlWrite r m v s
  | .scuQPtrWrite r u v => Sys2Proof.Machine.execScuQPtrWrite r u v s
  | .nfFlagClear r u v => Sys2Proof.Machine.execNfFlagClear r u v s
  | .vcuFlagClear r u v => Sys2Proof.Machine.execVcuFlagClear r u v s
  | .cxDbTailWrite f r v => Sys2Proof.Machine.execCxDbTailWrite f r v s
  | .cxDbCplheadWrite f r v => Sys2Proof.Machine.execCxDbCplheadWrite f r v s
  | .cxRingSeqWrite f r v => Sys2Proof.Machine.execCxRingSeqWrite f r v s
  | .ringEnable f r v => Sys2Proof.Machine.execRingEnable f r v s
  | .ringDisable f r v => Sys2Proof.Machine.execRingDisable f r v s
  | .stalledClear f r => Sys2Proof.Machine.execStalledClear f r s
  | .overrunClear f r => Sys2Proof.Machine.execOverrunClear f r s
  | .shadowDoorbell f words => Sys2Proof.Machine.execShadowDoorbell f words s
  | .errLogRdWrite r v => Sys2Proof.Machine.execErrLogRdWrite r v s
  | .hbmRcQuotaWrite r n sec v => Sys2Proof.Machine.execHbmRcQuotaWrite r n sec v s
  | .audSeedWrite r v => Sys2Proof.Machine.execAudSeedWrite r v s
  | .errInjectArm r v => Sys2Proof.Machine.execErrInjectArm r v s
  | .debugNonceRead r => Sys2Proof.Machine.execDebugNonceRead r s
  | .relock r v => Sys2Proof.Machine.execRelock r v s
  | .perfCounterWrap off => Sys2Proof.Machine.execPerfCounterWrap off s
  | .add u rd ra rb => Sys2Proof.Machine.execAdd u rd ra rb s
  | .sub u rd ra rb => Sys2Proof.Machine.execSub u rd ra rb s
  | .and u rd ra rb => Sys2Proof.Machine.execAnd u rd ra rb s
  | .or u rd ra rb => Sys2Proof.Machine.execOr u rd ra rb s
  | .xor u rd ra rb => Sys2Proof.Machine.execXor u rd ra rb s
  | .shl u rd ra rb => Sys2Proof.Machine.execShl u rd ra rb s
  | .shr u rd ra rb => Sys2Proof.Machine.execShr u rd ra rb s
  | .sar u rd ra rb => Sys2Proof.Machine.execSar u rd ra rb s
  | .mul u rd ra rb => Sys2Proof.Machine.execMul u rd ra rb s
  | .mulhi u rd ra rb => Sys2Proof.Machine.execMulhi u rd ra rb s
  | .div u rd ra rb => Sys2Proof.Machine.execDiv u rd ra rb s
  | .rem u rd ra rb => Sys2Proof.Machine.execRem u rd ra rb s
  | .min u rd ra rb => Sys2Proof.Machine.execMin u rd ra rb s
  | .max u rd ra rb => Sys2Proof.Machine.execMax u rd ra rb s
  | .sel u rd ra rb p => Sys2Proof.Machine.execSel u rd ra rb p s
  | .addi u rd ra imm => Sys2Proof.Machine.execAddi u rd ra imm s
  | .andi u rd ra imm => Sys2Proof.Machine.execAndi u rd ra imm s
  | .ori u rd ra imm => Sys2Proof.Machine.execOri u rd ra imm s
  | .xori u rd ra imm => Sys2Proof.Machine.execXori u rd ra imm s
  | .shli u rd ra sh => Sys2Proof.Machine.execShli u rd ra sh s
  | .shri u rd ra sh => Sys2Proof.Machine.execShri u rd ra sh s
  | .sari u rd ra sh => Sys2Proof.Machine.execSari u rd ra sh s
  | .lui u rd imm => Sys2Proof.Machine.execLui u rd imm s
  | .cmp u pd c ra rb => Sys2Proof.Machine.execCmp u pd c ra rb s
  | .cmpi u pd c ra imm => Sys2Proof.Machine.execCmpi u pd c ra imm s
  | .pop u pd pa pb f => Sys2Proof.Machine.execPop u pd pa pb f s
  | .ldNB u rd ra imm => Sys2Proof.Machine.execLdNB u rd ra imm s
  | .ldNH u rd ra imm => Sys2Proof.Machine.execLdNH u rd ra imm s
  | .ldNW u rd ra imm => Sys2Proof.Machine.execLdNW u rd ra imm s
  | .ldND u rd ra imm => Sys2Proof.Machine.execLdND u rd ra imm s
  | .stNB u rs ra imm => Sys2Proof.Machine.execStNB u rs ra imm s
  | .stNH u rs ra imm => Sys2Proof.Machine.execStNH u rs ra imm s
  | .stNW u rs ra imm => Sys2Proof.Machine.execStNW u rs ra imm s
  | .stND u rs ra imm => Sys2Proof.Machine.execStND u rs ra imm s
  | .br u al neg p target => Sys2Proof.Machine.execBr u al neg p target s
  | .jal u rd target => Sys2Proof.Machine.execJal u rd target s
  | .jr u ra => Sys2Proof.Machine.execJr u ra s
  | .halt u => Sys2Proof.Machine.execHalt u s
  | .qrecv u rd q => Sys2Proof.Machine.execQrecv u rd q s
  | .qsel u rd ra rb pd rot => Sys2Proof.Machine.execQsel u rd ra rb pd rot s
  | .qsend u ra rb rc tag m => Sys2Proof.Machine.execQsend u ra rb rc tag m s
  | .qtag u rd => Sys2Proof.Machine.execQtag u rd s
  | .qrp u ra q => Sys2Proof.Machine.execQrp u ra q s
  | .qclose u q => Sys2Proof.Machine.execQclose u q s
  | .tiss u unit w rc rs => Sys2Proof.Machine.execTiss u unit w rc rs s
  | .wait u rd tag => Sys2Proof.Machine.execWait u rd tag s
  | .pout u port p => Sys2Proof.Machine.execPout u port p s
  | .rdsr u rd sr => Sys2Proof.Machine.execRdsr u rd sr s
  | .scalarReservedOpcode u => Sys2Proof.Machine.execScalarReservedOpcode u s
  | .scuUnblock u => Sys2Proof.Machine.execScuUnblock u s
  | .qselTimeout u => Sys2Proof.Machine.execQselTimeout u s
  | .ldW m => Sys2Proof.Machine.execLdW m s
  | .stW m => Sys2Proof.Machine.execStW m s
  | .pf m => Sys2Proof.Machine.execPf m s
  | .xfer m => Sys2Proof.Machine.execXfer m s
  | .slotDef m => Sys2Proof.Machine.execSlotDef m s
  | .slotClr m => Sys2Proof.Machine.execSlotClr m s
  | .winOpen m => Sys2Proof.Machine.execWinOpen m s
  | .winClose m => Sys2Proof.Machine.execWinClose m s
  | .importMu m => Sys2Proof.Machine.execImportMu m s
  | .contrib m => Sys2Proof.Machine.execContrib m s
  | .mmFwd u => Sys2Proof.Machine.execMmFwd u s
  | .mmDual u => Sys2Proof.Machine.execMmDual u s
  | .mmPass u => Sys2Proof.Machine.execMmPass u s
  | .mmAdpt u => Sys2Proof.Machine.execMmAdpt u s
  | .epi u => Sys2Proof.Machine.execEpi u s
  | .vop u => Sys2Proof.Machine.execVop u s
  | .vred u => Sys2Proof.Machine.execVred u s
  | .exportSign u => Sys2Proof.Machine.execExportSign u s
  | .qsendTensor u => Sys2Proof.Machine.execQsendTensor u s
  | .chain u => Sys2Proof.Machine.execChain u s
  | .fence u => Sys2Proof.Machine.execFence u s
  | .daymark u => Sys2Proof.Machine.execDaymark u s
  | .steerOff c => Sys2Proof.Machine.execSteerOff c s
  | .steerSw c => Sys2Proof.Machine.execSteerSw c s
  | .steerMg c => Sys2Proof.Machine.execSteerMg c s
  | .steerGate c => Sys2Proof.Machine.execSteerGate c s
  | .steerCarry c => Sys2Proof.Machine.execSteerCarry c s
  | .steerRep c => Sys2Proof.Machine.execSteerRep c s
  | .steerDec c => Sys2Proof.Machine.execSteerDec c s
  | .steerConfigApply c e => Sys2Proof.Machine.execSteerConfigApply c e s
  | .instructionComplete u => Sys2Proof.Machine.execInstructionComplete u s
  | .generatorAcquire m => Sys2Proof.Machine.execGeneratorAcquire m s
  | .slotGrant m slot => Sys2Proof.Machine.execSlotGrant m slot s
  | .windowWrite m => Sys2Proof.Machine.execWindowWrite m s
  | .muScrubRead m => Sys2Proof.Machine.execMuScrubRead m s
  | .bankGroupPowerDown m g => Sys2Proof.Machine.execBankGroupPowerDown m g s
  | .bankGroupWake m g => Sys2Proof.Machine.execBankGroupWake m g s
  | .externalReadData m n host poison => Sys2Proof.Machine.execExternalReadData m n host poison s
  | .writeAcknowledgement m => Sys2Proof.Machine.execWriteAcknowledgement m s
  | .mcuBind u => Sys2Proof.Machine.execMcuBind u s
  | .mcuQuantum u => Sys2Proof.Machine.execMcuQuantum u s
  | .epilogueTile u => Sys2Proof.Machine.execEpilogueTile u s
  | .messageArrival u => Sys2Proof.Machine.execMessageArrival u s
  | .messageOutcome u => Sys2Proof.Machine.execMessageOutcome u s
  | .messageReoffer u n => Sys2Proof.Machine.execMessageReoffer u n s
  | .combiningResultPlace u q => Sys2Proof.Machine.execCombiningResultPlace u q s
  | .streamFlitTransfer c mv => Sys2Proof.Machine.execStreamFlitTransfer c mv s
  | .controlBitTransfer c mv => Sys2Proof.Machine.execControlBitTransfer c mv s
  | .steerToken c e => Sys2Proof.Machine.execSteerToken c e s
  | .foghornStall sec => Sys2Proof.Machine.execFoghornStall sec s
  | .spillRecordWrite c q => Sys2Proof.Machine.execSpillRecordWrite c q s
  | .spillRecordRead c q => Sys2Proof.Machine.execSpillRecordRead c q s
  | .packetForward h => Sys2Proof.Machine.execPacketForward h s
  | .contributionMerge c => Sys2Proof.Machine.execContributionMerge c s
  | .transitSlotFlush c slot => Sys2Proof.Machine.execTransitSlotFlush c slot s
  | .rootMerge c => Sys2Proof.Machine.execRootMerge c s
  | .roundAdvance c => Sys2Proof.Machine.execRoundAdvance c s
  | .nativeReconfiguration sec g place disc => Sys2Proof.Machine.execNativeReconfiguration sec g place disc s
  | .forcedDrain sec g => Sys2Proof.Machine.execForcedDrain sec g s
  | .daymarkTokenArrival c at_ => Sys2Proof.Machine.execDaymarkTokenArrival c at_ s
  | .unitSwitchover u ch => Sys2Proof.Machine.execUnitSwitchover u ch s
  | .slotTableSwitch c link lane => Sys2Proof.Machine.execSlotTableSwitch c link lane s
  | .scanFreeze r c v => Sys2Proof.Machine.execScanFreeze r c v s
  | .safePointStop u => Sys2Proof.Machine.execSafePointStop u s
  | .scanOut r c v => Sys2Proof.Machine.execScanOut r c v s
  | .scanIn r c v ctx => Sys2Proof.Machine.execScanIn r c v ctx s
  | .scanRelease r c v => Sys2Proof.Machine.execScanRelease r c v s
  | .scanOpDone c => Sys2Proof.Machine.execScanOpDone c s
  | .hbmRead n => Sys2Proof.Machine.execHbmRead n s
  | .hbmWrite n => Sys2Proof.Machine.execHbmWrite n s
  | .hbmScrubRead n => Sys2Proof.Machine.execHbmScrubRead n s
  | .pageResponse f n code => Sys2Proof.Machine.execPageResponse f n code s
  | .pageRequestTimeout f n => Sys2Proof.Machine.execPageRequestTimeout f n s
  | .atsInvalidation p iova len => Sys2Proof.Machine.execAtsInvalidation p iova len s
  | .hbmRetrain n result => Sys2Proof.Machine.execHbmRetrain n result s
  | .retirementProceed => Sys2Proof.Machine.execRetirementProceed s
  | .commandFetch f r entry => Sys2Proof.Machine.execCommandFetch f r entry s
  | .stepCmd f r => Sys2Proof.Machine.execStepCmd f r s
  | .loadProgram f r => Sys2Proof.Machine.execLoadProgram f r s
  | .loadProgramStageOnly f r => Sys2Proof.Machine.execLoadProgramStageOnly f r s
  | .bind f r => Sys2Proof.Machine.execBind f r s
  | .copy f r => Sys2Proof.Machine.execCopy f r s
  | .exportCmd f r => Sys2Proof.Machine.execExportCmd f r s
  | .importCommand f r data poison => Sys2Proof.Machine.execImportCommand f r data poison s
  | .fenceCommand f r => Sys2Proof.Machine.execFenceCommand f r s
  | .queryDeviceTime f r => Sys2Proof.Machine.execQueryDeviceTime f r s
  | .queryBeacon f r => Sys2Proof.Machine.execQueryBeacon f r s
  | .queryEngineTime f r => Sys2Proof.Machine.execQueryEngineTime f r s
  | .queryContextState f r => Sys2Proof.Machine.execQueryContextState f r s
  | .queryMailboxRecords f r => Sys2Proof.Machine.execQueryMailboxRecords f r s
  | .completionWrite f r => Sys2Proof.Machine.execCompletionWrite f r s
  | .coalescingTimer f r => Sys2Proof.Machine.execCoalescingTimer f r s
  | .cxlMemRead p off => Sys2Proof.Machine.execCxlMemRead p off s
  | .cxlMemWrite p off data mask poison => Sys2Proof.Machine.execCxlMemWrite p off data mask poison s
  | .biResponse p line wb => Sys2Proof.Machine.execBiResponse p line wb s
  | .bisnpTimeout p line => Sys2Proof.Machine.execBisnpTimeout p line s
  | .linkUp p rate width flit256 => Sys2Proof.Machine.execLinkUp p rate width flit256 s
  | .perstN p us => Sys2Proof.Machine.execPerstN p us s
  | .hotReset p => Sys2Proof.Machine.execHotReset p s
  | .dlDown p ms => Sys2Proof.Machine.execDlDown p ms s
  | .viralIndication p => Sys2Proof.Machine.execViralIndication p s
  | .ideIntegrityFailure p => Sys2Proof.Machine.execIdeIntegrityFailure p s
  | .flrVf f => Sys2Proof.Machine.execFlrVf f s
  | .flrPf p => Sys2Proof.Machine.execFlrPf p s
  | .vfEnableClear p => Sys2Proof.Machine.execVfEnableClear p s
  | .cxlKeyExchange p ses => Sys2Proof.Machine.execCxlKeyExchange p ses s
  | .getMeasurements p index => Sys2Proof.Machine.execGetMeasurements p index s
  | .setSectorKey ses sec key claim => Sys2Proof.Machine.execSetSectorKey ses sec key claim s
  | .grantQueue ses recv admitted => Sys2Proof.Machine.execGrantQueue ses recv admitted s
  | .revokeQueue ses recv admitted => Sys2Proof.Machine.execRevokeQueue ses recv admitted s
  | .debugToken p t => Sys2Proof.Machine.execDebugToken p t s
  | .unlockExpiry => Sys2Proof.Machine.execUnlockExpiry s
  | .recoveryReadBootStatus => Sys2Proof.Machine.execRecoveryReadBootStatus s
  | .recoveryWriteFirmware slot img => Sys2Proof.Machine.execRecoveryWriteFirmware slot img s
  | .dispatchPass sec => Sys2Proof.Machine.execDispatchPass sec s
  | .stepStart x => Sys2Proof.Machine.execStepStart x s
  | .stepEnd x => Sys2Proof.Machine.execStepEnd x s
  | .dispatchTick sec => Sys2Proof.Machine.execDispatchTick sec s
  | .stepLimitTimeout x => Sys2Proof.Machine.execStepLimitTimeout x s
  | .footprintSwitch x => Sys2Proof.Machine.execFootprintSwitch x s
  | .contextTeardown x => Sys2Proof.Machine.execContextTeardown x s
  | .logRecordWrite => Sys2Proof.Machine.execLogRecordWrite s
  | .correctedErrorSummary unit cls cause => Sys2Proof.Machine.execCorrectedErrorSummary unit cls cause s
  | .deviceReset cause bad tablesOk => Sys2Proof.Machine.execDeviceReset cause bad tablesOk s
  | .unitWatch unit => Sys2Proof.Machine.execUnitWatch unit s
  | .auditSampleRun n agree => Sys2Proof.Machine.execAuditSampleRun n agree s
  | .auditVerdict n v => Sys2Proof.Machine.execAuditVerdict n v s
  | .auditSecondPartnerTimeout n => Sys2Proof.Machine.execAuditSecondPartnerTimeout n s
  | .completionHoldTimeout f r => Sys2Proof.Machine.execCompletionHoldTimeout f r s
  | .lightshipSwap c => Sys2Proof.Machine.execLightshipSwap c s
  | .beaconTick => Sys2Proof.Machine.execBeaconTick s
  | .watchdogExpiry => Sys2Proof.Machine.execWatchdogExpiry s
  | .dieAgentTimeout die => Sys2Proof.Machine.execDieAgentTimeout die s
  | .firmwareUpdateGo r v => Sys2Proof.Machine.execFirmwareUpdateGo r v s
  | .hotRestartTimeout => Sys2Proof.Machine.execHotRestartTimeout s
  | .trialEnd => Sys2Proof.Machine.execTrialEnd s
  | .txnBegin r => Sys2Proof.Machine.execTxnBegin r s
  | .txnStageWrite r v => Sys2Proof.Machine.execTxnStageWrite r v s
  | .txnStageOp r v => Sys2Proof.Machine.execTxnStageOp r v s
  | .txnCommit r => Sys2Proof.Machine.execTxnCommit r s
  | .txnRollback r => Sys2Proof.Machine.execTxnRollback r s
  | .txnTimeout => Sys2Proof.Machine.execTxnTimeout s
  | .createSector => Sys2Proof.Machine.execCreateSector s
  | .releaseSector => Sys2Proof.Machine.execReleaseSector s
  | .createContext => Sys2Proof.Machine.execCreateContext s
  | .destroyContext => Sys2Proof.Machine.execDestroyContext s
  | .swapCluster => Sys2Proof.Machine.execSwapCluster s
  | .retrainStack => Sys2Proof.Machine.execRetrainStack s
  | .retirePseudoChannel => Sys2Proof.Machine.execRetirePseudoChannel s
  | .retireStack => Sys2Proof.Machine.execRetireStack s
  | .operatorDeviceReset => Sys2Proof.Machine.execOperatorDeviceReset s
  | .powerSample mv da avg1ms avg1s peak10ms => Sys2Proof.Machine.execPowerSample mv da avg1ms avg1s peak10ms s
  | .clockStepChange => Sys2Proof.Machine.execClockStepChange s
  | .warningCrossed rail => Sys2Proof.Machine.execWarningCrossed rail s
  | .doubtCrossed rail => Sys2Proof.Machine.execDoubtCrossed rail s
  | .resetLevelCrossed rail => Sys2Proof.Machine.execResetLevelCrossed rail s
  | .levelCleared rail lvl => Sys2Proof.Machine.execLevelCleared rail lvl s
  | .junctionSample tj => Sys2Proof.Machine.execJunctionSample tj s
  | .thermalTrip => Sys2Proof.Machine.execThermalTrip s
  | .coolFault => Sys2Proof.Machine.execCoolFault s
  | .leakSense => Sys2Proof.Machine.execLeakSense s
  | .coolingResume => Sys2Proof.Machine.execCoolingResume s
  | .inputOvervoltage => Sys2Proof.Machine.execInputOvervoltage s
  | .modPwrenAssert => Sys2Proof.Machine.execModPwrenAssert s
  | .modPwrenDeassert => Sys2Proof.Machine.execModPwrenDeassert s
  | .inputPowerLoss => Sys2Proof.Machine.execInputPowerLoss s
  | .modResetNAssert us => Sys2Proof.Machine.execModResetNAssert us s
  | .boot r => Sys2Proof.Machine.execBoot r s
  | .firmwareImageWrite slot img => Sys2Proof.Machine.execFirmwareImageWrite slot img s
  | .inputPowerApplied => Sys2Proof.Machine.execInputPowerApplied s
  | .spdmKeyExchange p => Sys2Proof.Machine.execSpdmKeyExchange p s
  | .spdmEndSession ses => Sys2Proof.Machine.execSpdmEndSession ses s
  | .tspAssignment f => Sys2Proof.Machine.execTspAssignment f s
  | .dynamicAddressAssignment how addr => Sys2Proof.Machine.execDynamicAddressAssignment how addr s

end Sys2Proof.Machine
end

