-- ==== Sys2Proof/Safety.lean ====
section
/-!
DEFINITION. A safe run, in the terms statements use: every step answers a next state, and the memories stay in their
canonical form.
-/

namespace Sys2Proof

/-- Every memory of the state is in canonical form: external memory, the scratchpads, and the scratchpads that contexts hold in their
save areas (R419). -/
def Machine.State.memOk (s : Machine.State) : Prop :=
  Machine.Memory.wf s.hbm.mem = true ∧ (∀ e ∈ s.mus, Machine.Memory.wf e.2.mem = true)
    ∧ ∀ x ∈ s.ctxs, (∀ e ∈ x.2.savedMem, Machine.Memory.wf e.2.mem = true)
        ∧ ∀ i ∈ x.2.scans, ∀ e ∈ i.2.mus, Machine.Memory.wf e.2.mem = true

/-- A tensor unit may act, no unfinished instruction of opcode `op` is in progress at it, and an instruction of that opcode stands at the
head of its issue queue and passes the checks that every instruction shares (R270). -/
def Machine.State.headReady (s : Machine.State) (g op : Nat) (h : Machine.Issued) : Prop :=
  s.acts g = true ∧ (s.tu g).stopped = false
    ∧ (∀ r ∈ (s.tu g).running, r.iss.i.op ≠ op ∨ r.finished = true)
    ∧ (s.tu g).iq.head? = some h ∧ (s.tu g).issueHeld = false ∧ h.i.op = op ∧ s.issueCheck g h = none

/-- A tensor unit may act, and `r` is the one unfinished instruction of opcode `op` in progress at it; at the start of a run no side bit of
the flit at the head of a stream that it reads is uncorrectable (R245). -/
def Machine.State.inTurn (s : Machine.State) (g op : Nat) (r : Machine.Run) : Prop :=
  s.acts g = true ∧ (s.tu g).stopped = false
    ∧ (s.tu g).running.filter (fun x => x.iss.i.op == op && !x.finished) = [r]
    ∧ (r.phase = 0 → s.sourceBad g r = false)

/-- The run of `k` steps from `s` stops at no fault and no refusal. -/
def Safe (k : Nat) (s : Machine.State) : Prop := ∃ t, core.run k s = .next t

end Sys2Proof
end

