-- ==== Sys2Proof/Certificates/Slice0/Obligations.lean ====
section
/-!
DEFINITION. The statements about the model. Each is a proposition, proved elsewhere; the docstring says which rules of spec/ it
formalises, and where a clause rests on a choice of the model it names the log entry.
-/

open Sys2Proof Sys2Proof.Machine

/-! ### The queue, time and reset -/

/-- A step takes the command at the front of the queue and is that command's effect on the state with the queue's rest.
(Choices of the model in it: log 132.) -/
def Obligations.StepRunsFrontCommand : Prop :=
  ∀ (c : Instr) (rest : List Instr) (s : State), s.pending = c :: rest → step s = exec c { s with pending := rest }

/-- On an empty queue the block idles: one nanosecond of device time passes while input power is on, and nothing but time, the
dies' frames and the foghorns' counts changes (the model's choice, log 2). -/
def Obligations.EmptyQueuePassesOneTick : Prop :=
  ∀ s : State, s.pending = [] →
    ∃ t, step s = .next t ∧ (s.pins.inputOn = true → t.time = s.time + 1) ∧ (s.pins.inputOn = false → t = s)
      ∧ t = { s with time := t.time, pwr := { s.pwr with dies := t.pwr.dies }, sfs := t.sfs }

/-- No command changes the queue of the commands that wait behind it. -/
def Obligations.CommandsLeaveQueue : Prop :=
  ∀ (c : Instr) (s t : State), exec c s = .next t → t.pending = s.pending

/-- Every step keeps every addressed memory in its canonical form. -/
def Obligations.StepKeepsMemoryCanonical : Prop :=
  ∀ s t : State, s.memOk → step s = .next t → t.memOk

/-- After reset every addressed memory is in its canonical form, no register of any scalar unit holds anything but zero, and
the registers with a Reset column other than zero hold it.
(Choices of the model in it: log 3, 4, 14.) -/
def Obligations.ResetState : Prop :=
  State.reset.memOk ∧ State.reset.pending = [] ∧ State.reset.time = 0 ∧ State.reset.phase = .booting
    ∧ (∀ g r, (State.reset.scu g).reg r = {}) ∧ (∀ g r, (State.reset.scu g).pred r = {})
    ∧ (∀ g a, memGet (State.reset.mu g).mem a = 0) ∧ (∀ a, memGet State.reset.hbm.mem a = 0)
    ∧ (∀ g, (State.reset.mu g).scrubInt = 64 ∧ (State.reset.mu g).powered = 0xFF#8)
    ∧ (∀ n, (State.reset.ctrl n).scrubInt = 16) ∧ State.reset.pmFlush = 4 ∧ (∀ r, (State.reset.sf r).thr = 4)
    ∧ State.reset.pwr.capW = 680 ∧ State.reset.kpr.retrainH = 24 ∧ State.reset.aud.floor = 1000 ∧ State.reset.aud.watchN = 8
    ∧ State.reset.err.wr = 0 ∧ State.reset.sectors = [] ∧ State.reset.ctxs = []

/-- No command lowers the anti-rollback floor of the flash. -/
def Obligations.RollbackFloorNeverFalls : Prop :=
  ∀ (c : Instr) (s t : State), exec c s = .next t → s.flash.floor ≤ t.flash.floor

/-! ### Encodings (R30, R272, R296, R297, R562) -/

/-- The encoder gives a 32-bit word, and the decoder reads the same instruction from it, for every scalar instruction. -/
def Obligations.ScalarDecodeOfEncode : Prop :=
  ∀ i : SInstr, encodeScalar i < 2 ^ 32 ∧ decodeScalar (encodeScalar i) = some i

/-- A word that decodes is the word its instruction encodes to: no two words spell one scalar instruction. Every 128-bit word is the encoding of the fields that the decoder reads from it. -/
def Obligations.EncodeOfDecode : Prop :=
  (∀ (w : Nat) (i : SInstr), w < 2 ^ 32 → decodeScalar w = some i → encodeScalar i = w)
  ∧ (∀ w : BitVec 128, encodeTensor (decodeTensor w) = w)

/-- The global unit ID is `cluster_id x 32 + local_index`: bits [15:5] hold the cluster and bits [4:0] the local index. Records, message
headers and the register that names a scalar unit hold it in this form. -/
def Obligations.GlobalUnitId : Prop :=
  (∀ (c : Fin 2048) (i : Fin 32), gidOf c.val i.val = c.val * 32 + i.val ∧ gidOf c.val i.val < 2 ^ 16
    ∧ fld (gidOf c.val i.val) 15 5 = c.val ∧ fld (gidOf c.val i.val) 4 0 = i.val
    ∧ clusterOf (gidOf c.val i.val) = c.val ∧ localOf (gidOf c.val i.val) = i.val)
  ∧ (∀ (m : MuId) (u : McuId) (v : VcuId) (k : ScuId), muGid m = gidOf m.cluster.val m.idx.val ∧ mcuGid u = gidOf u.cluster.val (12 + u.k.val)
    ∧ vcuGid v = gidOf v.cluster.val (16 + v.k.val) ∧ scuGid k = gidOf k.cluster.val (20 + k.k.val))
  ∧ (∀ (c : Fin 2048) (i : Fin 32) (len ctx seq tag : Nat) (pad fog comb : Bool) (r : Run) (bytes : List Byte) (e : ErrRec) (s : State),
    let g := gidOf c.val i.val
    (s.aboutUnit g e).unit = g ∧ (qsendMsg g r bytes fog).sender = g ∧ fld (ringHeader len g ctx seq tag pad fog comb) 31 16 = g
    ∧ s.special g 2 = g)

/-! ### Scalar units (R175 to R187, R297) -/

/-- The register operations of opcodes 0x01 to 0x0E: rd = ra op rb, the fog of the result is that of either operand, and the
unit goes on at the next word. Division rounds toward zero; by zero the quotient is 0 and the remainder the dividend. `sel`, the immediate operations, the immediate shifts and `lui`.
(Choices of the model in it: log 19.) -/
def Obligations.ScalarOperationsRetire : Prop :=
  (∀ (u : ScuId) (rd ra rb : Fin 32) (s : State),
     let g := scuGid u
     let x := (s.scu g).reg ra.val
     let y := (s.scu g).reg rb.val
     let done := fun (v : Word) =>
       Host.Outcome.next (φ := Fault) (ρ := Refusal)
         ((s.setScu g ((s.scu g).setReg rd.val { v := v, fog := x.fog || y.fog })).retireScalar g ((s.scu g).pc + 1) .running)
     (s.canRun g (.alu 0 rd ra rb) → exec (.add u rd ra rb) s = done (x.v + y.v))
     ∧ (s.canRun g (.alu 1 rd ra rb) → exec (.sub u rd ra rb) s = done (x.v - y.v))
     ∧ (s.canRun g (.alu 2 rd ra rb) → exec (.and u rd ra rb) s = done (x.v &&& y.v))
     ∧ (s.canRun g (.alu 3 rd ra rb) → exec (.or u rd ra rb) s = done (x.v ||| y.v))
     ∧ (s.canRun g (.alu 4 rd ra rb) → exec (.xor u rd ra rb) s = done (x.v ^^^ y.v))
     ∧ (s.canRun g (.alu 5 rd ra rb) → exec (.shl u rd ra rb) s = done (x.v <<< (y.v.toNat % 64)))
     ∧ (s.canRun g (.alu 6 rd ra rb) → exec (.shr u rd ra rb) s = done (x.v >>> (y.v.toNat % 64)))
     ∧ (s.canRun g (.alu 7 rd ra rb) → exec (.sar u rd ra rb) s = done (x.v.sshiftRight (y.v.toNat % 64)))
     ∧ (s.canRun g (.alu 8 rd ra rb) → exec (.mul u rd ra rb) s = done (x.v * y.v))
     ∧ (s.canRun g (.alu 9 rd ra rb) → exec (.mulhi u rd ra rb) s = done (BitVec.ofInt 64 (x.v.toInt * y.v.toInt / 2 ^ 64)))
     ∧ (s.canRun g (.alu 10 rd ra rb) → exec (.div u rd ra rb) s = done (if y.v = 0 then 0 else x.v.sdiv y.v))
     ∧ (s.canRun g (.alu 11 rd ra rb) → exec (.rem u rd ra rb) s = done (if y.v = 0 then x.v else x.v.srem y.v))
     ∧ (s.canRun g (.alu 12 rd ra rb) → exec (.min u rd ra rb) s = done (if x.v.toInt < y.v.toInt then x.v else y.v))
     ∧ (s.canRun g (.alu 13 rd ra rb) → exec (.max u rd ra rb) s = done (if x.v.toInt < y.v.toInt then y.v else x.v)))
  ∧ (∀ (u : ScuId) (rd ra rb : Fin 32) (p : Fin 8) (imm : BitVec 16) (sh : Fin 64) (up : BitVec 21) (s : State),
       let g := scuGid u
       let x := (s.scu g).reg ra.val
       let y := (s.scu g).reg rb.val
       let q := (s.scu g).pred p.val
       let done := fun (v : Word) (fog : Bool) =>
         Host.Outcome.next (φ := Fault) (ρ := Refusal)
           ((s.setScu g ((s.scu g).setReg rd.val { v := v, fog := fog })).retireScalar g ((s.scu g).pc + 1) .running)
       (s.canRun g (.sel rd ra rb p) → exec (.sel u rd ra rb p) s = done (if q.v then x.v else y.v) (x.fog || y.fog || q.fog))
       ∧ (s.canRun g (.imm 0 rd ra imm) → exec (.addi u rd ra imm) s = done (x.v + imm.signExtend 64) x.fog)
       ∧ (s.canRun g (.imm 1 rd ra imm) → exec (.andi u rd ra imm) s = done (x.v &&& imm.zeroExtend 64) x.fog)
       ∧ (s.canRun g (.imm 2 rd ra imm) → exec (.ori u rd ra imm) s = done (x.v ||| imm.zeroExtend 64) x.fog)
       ∧ (s.canRun g (.imm 3 rd ra imm) → exec (.xori u rd ra imm) s = done (x.v ^^^ imm.zeroExtend 64) x.fog)
       ∧ (s.canRun g (.shi 0 rd ra sh) → exec (.shli u rd ra sh) s = done (x.v <<< sh.val) x.fog)
       ∧ (s.canRun g (.shi 1 rd ra sh) → exec (.shri u rd ra sh) s = done (x.v >>> sh.val) x.fog)
       ∧ (s.canRun g (.shi 2 rd ra sh) → exec (.sari u rd ra sh) s = done (x.v.sshiftRight sh.val) x.fog)
       ∧ (s.canRun g (.lui rd up) → exec (.lui u rd up) s = done (up.signExtend 64 * 0x10000#64) false))

/-- `cmp`, `cmpi` and `pop` write one predicate with the fog of what they read; set 1 and set 0 are clear of fog.
(Choices of the model in it: log 19.) -/
def Obligations.ScalarPredicatesRetire : Prop :=
  ∀ (u : ScuId) (pd pa pb : Fin 8) (c : Cond) (f : PopFn) (ra rb : Fin 32) (imm : BitVec 15) (s : State),
    let g := scuGid u
    let x := (s.scu g).reg ra.val
    let y := (s.scu g).reg rb.val
    let a := (s.scu g).pred pa.val
    let b := (s.scu g).pred pb.val
    let holds := fun (c : Cond) (v w : Word) => match c with
      | .eq => decide (v = w) | .ne => decide (v ≠ w)
      | .lt => decide (v.toInt < w.toInt) | .le => decide (v.toInt ≤ w.toInt)
      | .gt => decide (w.toInt < v.toInt) | .ge => decide (w.toInt ≤ v.toInt)
      | .ltu => decide (v.toNat < w.toNat) | .leu => decide (v.toNat ≤ w.toNat)
    let fn := match f with
      | .and => a.v && b.v | .or => a.v || b.v | .xor => a.v != b.v | .andNot => a.v && !b.v | .notA => !a.v | .set1 => true | .set0 => false
    let fog := match f with
      | .notA => a.fog | .set1 => false | .set0 => false | _ => a.fog || b.fog
    let done := fun (v fog : Bool) =>
      Host.Outcome.next (φ := Fault) (ρ := Refusal)
        ((s.setScu g ((s.scu g).setPred pd.val { v := v, fog := fog })).retireScalar g ((s.scu g).pc + 1) .running)
    (s.canRun g (.cmp pd c ra rb) → exec (.cmp u pd c ra rb) s = done (holds c x.v y.v) (x.fog || y.fog))
    ∧ (s.canRun g (.cmpi pd c ra imm) → exec (.cmpi u pd c ra imm) s = done (holds c x.v (imm.signExtend 64)) x.fog)
    ∧ (s.canRun g (.pop pd pa pb f) → exec (.pop u pd pa pb f) s = done fn fog)

/-- What a scalar instruction that only writes one register leaves as it is: every other register, register g0, every
predicate and queue of its unit, every other unit, and every byte of every memory.
(Choices of the model in it: log 19.) -/
def Obligations.ScalarRegisterFrame : Prop :=
  ∀ (u : ScuId) (rd ra rb : Fin 32) (p : Fin 8) (imm : BitVec 16) (sh : Fin 64) (up : BitVec 21) (tg : BitVec 14) (sr : Fin 7) (s t : State),
    let g := scuGid u
    ∀ c ∈ [Instr.add u rd ra rb, .sub u rd ra rb, .and u rd ra rb, .or u rd ra rb, .xor u rd ra rb, .shl u rd ra rb, .shr u rd ra rb,
        .sar u rd ra rb, .mul u rd ra rb, .mulhi u rd ra rb, .div u rd ra rb, .rem u rd ra rb, .min u rd ra rb, .max u rd ra rb,
        .sel u rd ra rb p, .addi u rd ra imm, .andi u rd ra imm, .ori u rd ra imm, .xori u rd ra imm, .shli u rd ra sh, .shri u rd ra sh,
        .sari u rd ra sh, .lui u rd up, .jal u rd tg, .qtag u rd, .rdsr u rd sr],
      (s.scu g).imemUe = [] → (s.scu g).imemFog = [] → (s.scu g).pc < 16384 → exec c s = .next t →
        (∀ r, r ≠ rd.val → (t.scu g).reg r = (s.scu g).reg r) ∧ (t.scu g).reg 0 = {}
        ∧ (∀ r, (t.scu g).pred r = (s.scu g).pred r) ∧ (∀ q, (t.scu g).queue q = (s.scu g).queue q)
        ∧ (t.scu g).tags = (s.scu g).tags ∧ (t.scu g).send = (s.scu g).send ∧ (t.scu g).lastTag = (s.scu g).lastTag
        ∧ (∀ g', g' ≠ g → t.scu g' = s.scu g') ∧ t.tus = s.tus ∧ t.mcus = s.mcus ∧ t.vcus = s.vcus ∧ t.sws = s.sws
        ∧ (∀ g' a, memGet (t.mu g').mem a = memGet (s.mu g').mem a) ∧ t.hbm = s.hbm
        ∧ t.time = s.time ∧ t.ctxs = s.ctxs ∧ t.sectors = s.sectors ∧ t.ports = s.ports ∧ t.fns = s.fns

/-- A narrow load reads 1, 2, 4 or 8 bytes at ra + imm16 in the home MU, zero-extended, with the fog of the granules read; it
leaves every other register and every byte of every scratchpad as it was. A narrow store writes the low 1, 2, 4 or 8 bytes of rs at ra + imm16 in the home MU; every other byte of every scratchpad
and every register stay as they were.
(Choices of the model in it: log 18, 19, 49.) -/
def Obligations.NarrowAccesses : Prop :=
  (∀ (u : ScuId) (sz : Fin 4) (rd ra : Fin 32) (imm : BitVec 16) (s : State),
     let g := scuGid u
     let m := s.mu (homeMu g)
     let off := (((s.scu g).reg ra.val).v + imm.signExtend 64).toNat
     let n := 2 ^ sz.val
     let c := match sz with
       | 0 => Instr.ldNB u rd ra imm | 1 => .ldNH u rd ra imm | 2 => .ldNW u rd ra imm | _ => .ldND u rd ra imm
     s.canRun g (.ld sz rd ra imm) → ((s.scu g).reg ra.val).fog = false → off % n = 0 → m.rangeOk off n = true →
       m.zeroizing = false → m.asleep off n = 0 →
       ∃ t, exec c s = .next t ∧ (t.scu g).pc = (s.scu g).pc + 1 ∧ (t.scu g).state = .running
         ∧ (rd.val ≠ 0 → ((t.scu g).reg rd.val).v = BitVec.ofNat 64 (ofBytes (memRead m.mem off n))
                          ∧ ((t.scu g).reg rd.val).fog = (t.mu (homeMu g)).fogAt off n)
         ∧ (∀ r, r ≠ rd.val → (t.scu g).reg r = (s.scu g).reg r) ∧ (t.scu g).reg 0 = {}
         ∧ (∀ r, (t.scu g).pred r = (s.scu g).pred r)
         ∧ (∀ g' a, memGet (t.mu g').mem a = memGet (s.mu g').mem a) ∧ t.hbm.mem = s.hbm.mem)
  ∧ (∀ (u : ScuId) (sz : Fin 4) (rs ra : Fin 32) (imm : BitVec 16) (s : State),
       let g := scuGid u
       let m := s.mu (homeMu g)
       let off := (((s.scu g).reg ra.val).v + imm.signExtend 64).toNat
       let n := 2 ^ sz.val
       let c := match sz with
         | 0 => Instr.stNB u rs ra imm | 1 => .stNH u rs ra imm | 2 => .stNW u rs ra imm | _ => .stND u rs ra imm
       s.canRun g (.st sz rs ra imm) → ((s.scu g).reg ra.val).fog = false → off % n = 0 → m.rangeOk off n = true →
         m.zeroizing = false → m.asleep off n = 0 → Memory.wf m.mem = true →
         ∃ t, exec c s = .next t ∧ (t.scu g).pc = (s.scu g).pc + 1 ∧ (t.scu g).state = .running
           ∧ ofBytes (memRead (t.mu (homeMu g)).mem off n) = ((s.scu g).reg rs.val).v.toNat % 2 ^ (8 * n)
           ∧ (∀ a, (a < off ∨ off + n ≤ a) → memGet (t.mu (homeMu g)).mem a = memGet m.mem a)
           ∧ (∀ g' a, g' ≠ homeMu g → memGet (t.mu g').mem a = memGet (s.mu g').mem a) ∧ t.hbm.mem = s.hbm.mem
           ∧ (∀ r, (t.scu g).reg r = (s.scu g).reg r) ∧ (∀ r, (t.scu g).pred r = (s.scu g).pred r))

/-- `br` goes to its target if `al` is set or p xor `neg` is 1, else to the next word; `jal` writes the word after it and goes to
its target; `jr` goes to the word ra names; `halt` leaves the unit halted at word 0.
(Choices of the model in it: log 19.) -/
def Obligations.ScalarControlFlow : Prop :=
  ∀ (u : ScuId) (al neg : Bool) (p : Fin 8) (rd ra : Fin 32) (tg : BitVec 14) (s : State),
    let g := scuGid u
    let q := (s.scu g).pred p.val
    let x := (s.scu g).reg ra.val
    (s.canRun g (.br al neg p tg) → (al = true ∨ q.fog = false) →
      exec (.br u al neg p tg) s
        = .next (s.retireScalar g (if al = true ∨ q.v ≠ neg then tg.toNat else (s.scu g).pc + 1) .running))
    ∧ (s.canRun g (.jal rd tg) →
      exec (.jal u rd tg) s
        = .next ((s.setScu g ((s.scu g).setReg rd.val { v := BitVec.ofNat 64 ((s.scu g).pc + 1) })).retireScalar g tg.toNat .running))
    ∧ (s.canRun g (.jr ra) → x.fog = false → x.v.toNat < 16384 → exec (.jr u ra) s = .next (s.retireScalar g x.v.toNat .running))
    ∧ (s.canRun g .halt → exec (.halt u) s = .next (s.retireScalar g 0 .halted))

/-- Fog that would steer control stops the unit: a branch on a fogged predicate and a jump to a fogged register fail the
unit's context with FOGGED_CONTROL, and the instruction has no effect. The first status of a context that fails is the one it keeps.
(Choices of the model in it: log 19, 129.) -/
def Obligations.FoggedControlFailsContext : Prop :=
  (∀ (u : ScuId) (neg : Bool) (p : Fin 8) (ra : Fin 32) (tg : BitVec 14) (s : State) (x : Nat) (k : Ctx),
     let g := scuGid u
     s.ownerOf (clusterOf g) = some x → s.ctx x = some k → k.state ≠ .failed →
     ∀ i c, ((i = SInstr.br false neg p tg ∧ c = Instr.br u false neg p tg ∧ ((s.scu g).pred p.val).fog = true)
           ∨ (i = .jr ra ∧ c = .jr u ra ∧ ((s.scu g).reg ra.val).fog = true)) → s.canRun g i →
       ∃ t, exec c s = .next t ∧ t.ctx x = some { k with state := .failed, status := stFoggedControl, tearing := true }
         ∧ (∀ g', t.scu g' = s.scu g') ∧ t.mus = s.mus)
  ∧ (∀ (s : State) (x st : Nat) (r : ErrRec) (k : Ctx), s.ctx x = some k →
       (k.state = .failed → (s.failCtx x st r).ctx x = some k)
       ∧ (k.state ≠ .failed → (s.failCtx x st r).ctx x = some { k with state := .failed, status := st, tearing := true })
       ∧ (∀ y, y ≠ x → (s.failCtx x st r).ctx y = s.ctx y))

/-- `qrecv` pops the oldest entry of a register-mode queue with its fog and tag, or reads 0 with tag 0xFF from a queue that is closed
and empty; in ring mode it gives the offset of the head message, or all ones when the ring is closed and empty. `qsel` chooses a ready queue of its mask, writes its number and sets its predicate; with none ready and a timeout of 0 it writes 64
and clears the predicate. `qtag`, `qrp` and `qclose` do as R297 says.
(Choices of the model in it: log 19, 60.) -/
def Obligations.ScalarReceiveAndSelect : Prop :=
  (∀ (u : ScuId) (rd ra : Fin 32) (q : Fin 64) (o : QSrc) (e : QEntry) (l : List QEntry) (s : State),
     let g := scuGid u
     let v := s.scu g
     let k := v.queue q.val
     (o = .imm q ∨ (o = .reg ra ∧ (v.reg ra.val).fog = false ∧ (v.reg ra.val).v.toNat % 64 = q.val)) → s.canRun g (.qrecv rd o) →
     (k.mode = .register → k.entries = e :: l →
       exec (.qrecv u rd o) s = .next ((s.setScu g { (v.setQueue q.val { k with entries := l }).setReg rd.val { v := e.data, fog := e.fog } with
         lastTag := e.tag }).retireScalar g (v.pc + 1) .running))
     ∧ (k.mode = .register → k.entries = [] → k.opened = false →
       exec (.qrecv u rd o) s = .next ((s.setScu g { v.setReg rd.val {} with lastTag := 0xFF }).retireScalar g (v.pc + 1) .running))
     ∧ (k.isRing = true → k.wp ≠ k.rp → (memGet (s.mu (homeMu g)).mem (k.base + k.rp + 9)).getLsbD 0 = false →
       exec (.qrecv u rd o) s
         = .next ((s.setScu g ((v.setQueue q.val k).setReg rd.val { v := BitVec.ofNat 64 (k.base + k.rp) })).retireScalar g (v.pc + 1) .running))
     ∧ (k.isRing = true → k.wp = k.rp → k.opened = false →
       exec (.qrecv u rd o) s = .next ((s.setScu g (v.setReg rd.val { v := BitVec.allOnes 64 })).retireScalar g (v.pc + 1) .running))
     ∧ (k.mode = .register → k.entries = [] → k.opened = true →
       exec (.qrecv u rd o) s = .next (s.blockScalar g (.qrecv rd o) 1 v s.time)))
  ∧ (∀ (u : ScuId) (rd ra rb : Fin 32) (pd : Fin 8) (rot : Bool) (q : Fin 64) (n : Nat) (s : State),
       let g := scuGid u
       let v := s.scu g
       let a := v.reg ra.val
       let b := v.reg rb.val
       (s.canRun g (.qsel rd ra rb pd rot) → a.fog = false → b.fog = false → (∀ k < 64, a.v.getLsbD k = true → (v.queue k).mode ≠ .off) →
         (v.choose a.v rot = some n →
           exec (.qsel u rd ra rb pd rot) s
             = .next ((s.setScu g ((({ v with rot := if rot then n else v.rot } : Scu).setReg rd.val { v := BitVec.ofNat 64 n }).setPred pd.val
                 { v := true })).retireScalar g (v.pc + 1) .running))
         ∧ (v.choose a.v rot = none → b.v = 0 →
           exec (.qsel u rd ra rb pd rot) s
             = .next ((s.setScu g ((v.setReg rd.val { v := 64 }).setPred pd.val { v := false })).retireScalar g (v.pc + 1) .running)))
       ∧ (s.canRun g (.qtag rd) →
         exec (.qtag u rd) s = .next ((s.setScu g (v.setReg rd.val { v := BitVec.ofNat 64 v.lastTag })).retireScalar g (v.pc + 1) .running))
       ∧ (s.canRun g (.qrp ra q) → a.fog = false → (v.queue q.val).isRing = true → (v.queue q.val).rpOk a.v.toNat = true →
         exec (.qrp u ra q) s
           = .next ((s.setScu g (v.setQueue q.val { v.queue q.val with rp := a.v.toNat })).retireScalar g (v.pc + 1) .running))
       ∧ (s.canRun g (.qclose q) → (v.queue q.val).mode = .register →
         exec (.qclose u q) s
           = .next ((s.setScu g (v.setQueue q.val { v.queue q.val with opened := false })).retireScalar g (v.pc + 1) .running)))

/-- A `qsend` places a message of rc bytes in the send buffer, with the queue address, priority and class that ra names and the sender's
context, and retires; the bytes are rb's own with `m` 0, and those at rb in the home MU with `m` 1. With the buffer of 8 full it waits
with cause 4.
(Choices of the model in it: log 19, 57, 58, 59, 162.) -/
def Obligations.ScalarSend : Prop :=
  ∀ (u : ScuId) (ra rb rc : Fin 32) (tag : BitVec 8) (s : State),
    let g := scuGid u
    let v := s.scu g
    let a := (v.reg ra.val).v.toNat
    let b := v.reg rb.val
    let n := (v.reg rc.val).v.toNat
    let m : Msg := { unit := a % 2 ^ 16, queue := a / 2 ^ 16 % 2 ^ 6, prio := a / 2 ^ 22 % 2 ^ 2, fou := a.testBit 24, tag := tag.toNat,
                     payload := toBytes n b.v.toNat, fog := false, sender := g, ctx := (s.ownerOf (clusterOf g)).getD 0 }
    (s.canRun g (.qsend ra rb rc tag false) → (v.reg ra.val).fog = false → (v.reg rc.val).fog = false → b.fog = false → n ≤ 8 →
      s.addrOk (a % 2 ^ 16) (a / 2 ^ 16 % 2 ^ 6) tag.toNat = true →
      (v.send.length < 8 →
        exec (.qsend u ra rb rc tag false) s
          = .next ((s.setScu g { v with send := v.send ++ [{ msg := m, scu := localOf g }] }).retireScalar g (v.pc + 1) .running))
      ∧ (8 ≤ v.send.length →
        exec (.qsend u ra rb rc tag false) s = .next (s.blockScalar g (.qsend ra rb rc tag false) 4 v s.time)))
    ∧ (let h := homeMu g
       let k := s.touchRead h b.v.toNat n
       s.canRun g (.qsend ra rb rc tag true) → (v.reg ra.val).fog = false → (v.reg rc.val).fog = false → b.fog = false → n ≤ 4080 →
         s.addrOk (a % 2 ^ 16) (a / 2 ^ 16 % 2 ^ 6) tag.toNat = true → (s.mu h).rangeOk b.v.toNat n = true → (s.mu h).zeroizing = false →
         (s.mu h).asleep b.v.toNat n = 0 → (k.mu h).fogAt b.v.toNat n = false → v.send.length < 8 →
         exec (.qsend u ra rb rc tag true) s
           = .next ((k.setScu g { v with send := v.send ++ [{ msg := { m with payload := memRead (s.mu h).mem b.v.toNat n }
                                                              scu := localOf g }] }).retireScalar g (v.pc + 1) .running))

/-- `tiss` puts the word's instruction in the issue queue of its unit, with rc and rs in place of `count` and `sq` unless the register
is g0, when no other scalar unit is ahead of it in the rotation, and holds its completion tag; `wait` reads the posted status of a tag and forgets it, or 0 for a tag that is not outstanding;
`pout` sends a predicate on a port; `rdsr` reads a special register.
(Choices of the model in it: log 19, 20, 63, 163.) -/
def Obligations.ScalarIssueWaitPortSpecial : Prop :=
  ∀ (u : ScuId) (w : Fin 1024) (i rc rs rd : Fin 32) (tg : BitVec 16) (st : Nat) (port : Fin 2) (p : Fin 8) (sr : Fin 7) (s : State),
    let g := scuGid u
    let c := clusterOf g
    let v := s.scu g
    let t0 := decodeTensor ((s.tu (holderOf g i.val)).word w.val)
    let t1 : TInstr := if rc.val = 0 then t0 else { t0 with count := (v.reg rc.val).v.toNat % 65536 }
    let t2 : TInstr := if rs.val = 0 then t1 else { t1 with sq := (v.reg rs.val).v.toNat % 65536 }
    (s.canRun g (.tiss i w rc rs) → (v.reg rc.val).fog = false → (v.reg rs.val).fog = false → (i.val < 20 ∨ i.val = 24) →
      (s.tu (holderOf g i.val)).wordBad w.val = false → classAgrees i.val t2 = true → v.tags.length < 64 →
      (∀ e ∈ v.tags, e.tag ≠ t2.tag) → (s.issueQ c i.val).length < 8 → s.issuesAhead g i.val = false →
      exec (.tiss u i w rc rs) s
        = .next ((((s.setTu (gidOf c i.val) { s.tu (gidOf c i.val) with lastScu := localOf g - 20 }).setIssueQ c i.val (s.issueQ c i.val ++ [{ i := t2, scu := localOf g, ctx := s.ctxOf g }])).setScu g
            (if t2.tag = 0 then v else { v with tags := v.tags ++ [{ tag := t2.tag }] })).retireScalar g (v.pc + 1) .running))
    ∧ (s.canRun g (.wait rd tg) → v.tags.find? (fun e => e.tag == tg.toNat) = some { tag := tg.toNat, posted := some st } →
      exec (.wait u rd tg) s
        = .next ((s.setScu g (({ v with tags := v.tags.filter (fun e => e.tag != tg.toNat) } : Scu).setReg rd.val { v := BitVec.ofNat 64 st })).retireScalar
            g (v.pc + 1) .running))
    ∧ (s.canRun g (.wait rd tg) → (∀ e ∈ v.tags, e.tag ≠ tg.toNat) →
      exec (.wait u rd tg) s = .next ((s.setScu g (v.setReg rd.val {})).retireScalar g (v.pc + 1) .running))
    ∧ (s.canRun g (.pout port p) → (v.pred p.val).fog = false → (if port.val = 0 then v.pport0 else v.pport1).length < 16 →
      exec (.pout u port p) s
        = .next ((s.setScu g (if port.val = 0 then { v with pport0 := v.pport0 ++ [(v.pred p.val).v] }
            else { v with pport1 := v.pport1 ++ [(v.pred p.val).v] })).retireScalar g (v.pc + 1) .running))
    ∧ (s.canRun g (.rdsr rd sr) →
      exec (.rdsr u rd sr) s
        = .next ((s.setScu g (v.setReg rd.val { v := BitVec.ofNat 64 (match sr with
            | 0 => s.time | 1 => c | 2 => g | 3 => (s.ownerOf c).getD 0 | 4 => v.lastStatus + v.lastUnit * 2 ^ 16 + v.undeliv * 2 ^ 32
            | 5 => (s.die (dieOf c)).frame | _ => s.flash.boot) })).retireScalar g (v.pc + 1) .running))

/-- SCU_UNBLOCK resumes the instruction a blocked unit waits with; QSEL_TIMEOUT ends a `qsel` with none ready by writing 64;
SCALAR_RESERVED_OPCODE fails the context of a unit whose next word holds no instruction.
(Choices of the model in it: log 19.) -/
def Obligations.ScalarBlockedAndReserved : Prop :=
  ∀ (u : ScuId) (rd ra rb : Fin 32) (pd : Fin 8) (rot : Bool) (i : SInstr) (x : Nat) (k : Ctx) (t : Nat) (s : State),
    let g := scuGid u
    let v := s.scu g
    s.scuLive g = true →
    (v.state = .blocked → v.blocked = some i → exec (.scuUnblock u) s = .next (s.runScalarAt g i))
    ∧ (v.state = .blocked → v.blocked = some (.qsel rd ra rb pd rot) → s.qselDeadline g rb.val = some t →
        v.choose (v.reg ra.val).v rot = none →
        ∃ t', exec (.qselTimeout u) s = .next t' ∧ t ≤ t'.time ∧ ((t'.scu g).pc = v.pc + 1) ∧ (t'.scu g).state = .running
          ∧ ((t'.scu g).pred pd.val) = { v := false } ∧ (rd.val ≠ 0 → (t'.scu g).reg rd.val = { v := 64 }))
    ∧ (v.state = .running → v.pc ≤ 16383 → v.imemUe.contains v.pc = false → v.imemFog.contains v.pc = false →
        v.imemCe.contains v.pc = false → decodeScalar (v.word v.pc) = none → s.ownerOf (clusterOf g) = some x → s.ctx x = some k → k.state ≠ .failed →
        ∃ t', exec (.scalarReservedOpcode u) s = .next t'
          ∧ t'.ctx x = some { k with state := .failed, status := stContextFault, tearing := true } ∧ t'.scu g = v)

/-! ### Tensor instructions: issue and memory units (R82 to R107, R270 to R289) -/

/-- SLOT_DEF, SLOT_CLR, WIN_OPEN and WIN_CLOSE take effect at issue and complete at once: a definition gives an EMPTY slot its base,
length and readers, a clear makes a slot EMPTY, an opening opens the window with its record and a new epoch and cancels a pending
power-down of a group it covers, and a closing closes it. While a write that the window accepted has still to be performed, both leave
the window closed and wait.
(Choices of the model in it: log 22, 25.) -/
def Obligations.SlotAndWindowInstructions : Prop :=
  ∀ (m : MuId) (h : Issued) (s : State),
    let g := muGid m
    let u := s.mu g
    let p := (s.tu g).recordAt h.i.par
    let k := h.i.num
    (s.headReady g 0x05 h → recFld p 27 14 ≠ 0 → recFld p 31 28 ≠ 0 → recFld p 255 32 = 0 → (u.slot k).state = .empty →
      exec (.slotDef m) s = .next ((s.setMu g (u.setSlot k
        { base := recFld p 13 0, length := recFld p 27 14, readers := recFld p 31 28, gen := (u.slot k).gen + 1 })).headDone g h))
    ∧ (s.headReady g 0x06 h →
      exec (.slotClr m) s = .next ((s.setMu g (u.setSlot k
        { u.slot k with state := .empty, started := 0, completed := 0, gen := (u.slot k).gen + 1 })).headDone g h))
    ∧ (s.headReady g 0x07 h → recFld p 31 16 ≠ 0 → recFld p 255 47 = 0 → u.rangeOk (recFld p 15 0 * 64) (recFld p 31 16 * 64) = true →
        u.winBusy k = false →
      let w : Win := { base := recFld p 15 0, length := recFld p 31 16, writer := recFld p 43 32, rights := recFld p 46 44, opened := true,
                       epoch := ((u.win k).epoch + 1) % 65536 }
      exec (.winOpen m) s = .next ((s.setMu g { u.setWin k w with
        downReq := u.downReq &&& ~~~ (u.downReq &&& u.powered &&& w.groups)
        cancelled := u.cancelled ||| (u.downReq &&& u.powered &&& w.groups) }).headDone g h))
    ∧ (s.headReady g 0x08 h → u.winBusy k = false →
      exec (.winClose m) s = .next ((s.setMu g (u.setWin k { u.win k with opened := false })).headDone g h))
    ∧ (∀ e ∈ [(0x07, Instr.winOpen m), (0x08, .winClose m)], s.headReady g e.1 h → u.winBusy k = true →
        (e.1 = 0x07 → recFld p 31 16 ≠ 0 ∧ recFld p 255 47 = 0 ∧ u.rangeOk (recFld p 15 0 * 64) (recFld p 31 16 * 64) = true) →
      exec e.2 s = .next (s.setMu g (u.setWin k { u.win k with opened := false })))

/-- The life of a slot: an EMPTY slot lets one write start, which makes it FILLING and, complete, FULL; a FULL slot lets a read start
and is DRAINING until as many reads have completed as it has readers, and is then EMPTY. A slot that its state allows is granted to the first that waits for it; INSTRUCTION_COMPLETE completes the first instruction that
meets its condition, which leaves its unit and posts its tag.
(Choices of the model in it: log 51.) -/
def Obligations.SlotsGrantAndComplete : Prop :=
  (∀ x : Slot,
     (x.mayStart true = true ↔ x.state = .empty) ∧ (x.start true).state = .filling ∧ (x.finish true).state = .full
     ∧ (x.mayStart false = true ↔ x.state = .full ∨ (x.state = .draining ∧ x.started < x.readers))
     ∧ (x.state = .full → (x.start false).state = .draining ∧ (x.start false).started = 1 ∧ (x.start false).completed = 0)
     ∧ (x.state = .draining → (x.start false).state = .draining ∧ (x.start false).started = x.started + 1)
     ∧ (x.completed + 1 = x.readers → (x.finish false).state = .empty)
     ∧ (x.completed + 1 < x.readers → (x.finish false).state = x.state ∧ (x.finish false).completed = x.completed + 1))
  ∧ (∀ (m : MuId) (u : TuId) (slot : Fin 256) (e : Nat × Nat × Bool) (r : Run) (s : State),
       (s.acts (muGid m) = true → (s.tu (muGid m)).stopped = false →
         (s.mu (muGid m)).slotQ.find? (fun e => e.1 == slot.val && ((s.mu (muGid m)).slot slot.val).mayStart e.2.2) = some e →
         (s.tu (muGid m)).running.find? (fun r => r.id == e.2.1) = some r →
         exec (.slotGrant m slot) s = .next ((s.grantSlot (muGid m) slot.val e.2.2 r).progress m.cluster.val))
       ∧ (s.acts (tuGid u) = true → (s.tu (tuGid u)).running = [r] → s.mayComplete (tuGid u) r = true → r.iss.chain = none → r.iss.i.op ≠ 0x60 →
         exec (.instructionComplete u) s
           = .next (((s.dropRun (tuGid u) r.id).postTag (tuGid u) r.iss r.status).progress u.cluster.val)))

/-- A data movement instruction at the head of its queue that passes its checks and finds its generators leaves the queue and is in
progress, with its record, its descriptors as they stand, and the generators; GENERATOR_ACQUIRE does the same for one that waited.
(Choices of the model in it: log 22, 38.) -/
def Obligations.MovementInstructionsIssue : Prop :=
  ∀ (m : MuId) (h : Issued) (gens : List Nat) (s : State),
    let g := muGid m
    ∀ e ∈ [(0x01, Instr.ldW m), (0x02, .stW m), (0x03, .pf m), (0x09, .importMu m), (0x0A, .contrib m), (0x04, .xfer m),
        (0x01, .generatorAcquire m), (0x02, .generatorAcquire m), (0x03, .generatorAcquire m), (0x09, .generatorAcquire m),
        (0x0A, .generatorAcquire m)],
      s.headReady g e.1 h → s.moveBad g h = none → s.freeGens g (muNeeds h.i).reads (muNeeds h.i).writes = some gens →
      s.xposeTaken g = false → (s.mu g).xf.active = false →
      ∃ t, exec e.2 s = .next t
        ∧ (t.tu g).iq = (s.tu g).iq.drop 1
        ∧ (t.tu g).running = (s.tu g).running ++
            [{ iss := h, id := (s.tu g).nextId, prm := (s.tu g).recordAt h.i.par, latch := (s.mu g).latchOf h.i, gens := gens,
               slotBase := ((s.mu g).slotRange h.i.num).1, slotLen := ((s.mu g).slotRange h.i.num).2 }]
        ∧ ((t.mu g).xf.active = true ↔ e.1 = 0x04)
        ∧ (∀ g' a, memGet (t.mu g').mem a = memGet (s.mu g').mem a) ∧ (∀ g', g' ≠ g → t.tu g' = s.tu g')

/-- The instruction in turn carries out its run: `LD.W` with C 0xFFFF delivers the elements read as a tensor, `ST.W`, `LD.W` and
`IMPORT` write theirs through C, `CONTRIB` hands its blocks to the cluster's router, a prefetch ends when its reads are done, and an
`XFER` whose rows are all written ends its run.
(Choices of the model in it: log 51, 139.) -/
def Obligations.MovementInstructionsCarryOut : Prop :=
  ∀ (m : MuId) (r : Run) (s : State),
    let g := muGid m
    let c := m.cluster.val
    let legsC := r.legs r.iss.i.dc r.sideC (r.iss.i.op != 0x02)
    let d := r.desc r.iss.i.da
    let written := fun (s : State) => ((legsC.zip r.els).zip (upto 0 legsC.length)).foldl (fun s ((l, xs), k) =>
      s.writeWalk g l.d l.base (splitRuns l.d xs) (r.came.getD k [])) s
    r.iss.i.count ≠ 0 →
    (s.inTurn g 0x01 r → (r.iss.i.slot = false ∨ r.slotGranted = true) → r.phase = 2 → r.iss.i.dc = 0xFFFF →
      exec (.ldW m) s
        = .next (((s.deliver g r (tensorFlits d.bits (splitRuns d (r.els.getD 0 [])) (r.came.getD 0 []))).endRun g r r.slotNum false).progress c))
    ∧ (∀ e ∈ [(0x01, Instr.ldW m, r.slotNum), (0x09, .importMu m, none)],
        s.inTurn g e.1 r → (e.1 = 0x01 → r.iss.i.slot = false ∨ r.slotGranted = true) → r.phase = 2 → r.iss.i.dc ≠ 0xFFFF →
        legsC.any (·.ext) = false → s.wakeLegs g legsC = none →
      exec e.2.1 s = .next (((written s).endRun g r e.2.2 false).progress c))
    ∧ (s.inTurn g 0x02 r → (r.iss.i.slot = false ∨ r.slotGranted = true) → r.phase = 2 → legsC.any (·.ext) = false →
        s.wakeLegs g legsC = none →
      exec (.stW m) s
        = .next ((((legsC.zip r.els).foldl (fun s (l, xs) => s.writeWalk g l.d l.base (splitRuns l.d xs) (r.came.getD 0 [])) s).endRun g r
            r.slotNum true).progress c))
    ∧ (s.inTurn g 0x03 r → r.phase = 1 → s.pushRun g r .plain d.limit = none → r.reqs.all (·.done) = true →
      exec (.pf m) s = .next ((s.endRun g r none false).progress c))
    ∧ (s.inTurn g 0x04 r → (r.iss.i.slot = false ∨ r.slotGranted = true) → r.phase = 1 → r.reqs = [] →
        r.xferRows.length ≤ (s.mu g).xf.watermark →
      let u := (s.xferChecks g r).endRun g r r.slotNum true
      exec (.xfer m) s
        = .next (State.progress (if r.iss.i.count ≤ r.run + 1 then u.setMu g { u.mu g with xf := { (u.mu g).xf with active := false } } else u) c))

/-- `FENCE` completes once its unit is quiet; a DAYMARK without configuration sends its token behind what its channel holds; a CHAIN that
passes its checks leaves the queue once the lanes it needs are free, and takes them; in turn it puts its stages, each with its place in the
chain, in the issue queues of their units once all have room, with a count of 0 for an empty chain; a `QSEND` whose message has room in the
send buffer places it.
(Choices of the model in it: log 62, 72.) -/
def Obligations.CommonTensorInstructions : Prop :=
  ∀ (u : TuId) (h : Issued) (r : Run) (s : State),
    let g := tuGid u
    let c := u.cluster.val
    let p := (s.tu g).recordAt h.i.par
    let st := (chainEntries p).map (s.chainStage c)
    let d := r.desc r.iss.i.da
    let read := s.readPlain (homeMu g) d 0
    let bytes := read.2.1.flatMap (fun x => packEls d.bits (x.map (·.bits)))
    let free := (upto 0 4).filter (fun n => !((s.sw c).lanes.any (fun e => e.1 == n)))
    let need := (chainLanes st).length
    let sr := (chainEntries r.prm).map (s.chainStage c)
    (s.headReady g 0x70 h → (s.tu g).running = [] → exec (.fence u) s = .next (s.headDone g h))
    ∧ (s.headReady g 0x71 h → h.i.da = 0xFFFF → h.i.sout = 1 → epochOk (h.i.count % 4096) (s.cl c).quietEpoch = true →
        ((s.sw c).circFrom (chanPort (localOf g) 0)).isSome = true → (s.tu g).running = [] →
      exec (.daymark u) s = .next ((s.setTu g { s.tu g with
        outq0 := (s.tu g).outq0 ++ [{ bytes := toBytes 128 (h.i.count % 4096), kind := .daymark, own := (s.tu g).nextId }] }).beginRun g
          { iss := h, finished := true }))
    ∧ (s.headReady g 0x60 h → st.any (fun e => e.2.2.2) = false → chainRecOk p = true → chainOk (localOf g) st = true →
        need ≤ free.length →
      ∃ t, exec (.chain u) s = .next t ∧ (t.tu g).iq = (s.tu g).iq.drop 1
        ∧ (t.tu g).running = (s.tu g).running ++ [{ iss := h, id := (s.tu g).nextId, prm := p, lanes := free.take need, phase := 1 }]
        ∧ (∀ n ∈ free.take need, (tabGet ({} : Lane) (t.sw c).lanes n).owner = some g)
        ∧ (∀ n, n ∉ free.take need → tabFind (t.sw c).lanes n = tabFind (s.sw c).lanes n) ∧ t.mus = s.mus ∧ t.hbm = s.hbm)
    ∧ (s.inTurn g 0x60 r → r.phase = 1 → chainOk (localOf g) sr = true → sr.any (fun e => e.2.2.2) = false →
        (∀ e ∈ sr, (s.issueQ c e.1).length < 8) →
      ∃ t, exec (.chain u) s = .next t ∧ t.mus = s.mus ∧ t.hbm = s.hbm
        ∧ ∀ j e, sr[j]? = some e →
            t.issueQ c e.1 = s.issueQ c e.1 ++ [{
              i := { e.2.1 with tag := 0, count := if r.iss.i.count = 0 then 0 else e.2.1.count }, scu := r.iss.scu, ctx := r.iss.ctx
              chain := some { head := g, id := r.id, stage := j, last := decide (j + 1 = sr.length), run := r.run
                              outTo := (sr[j + 1]?).map (·.1)
                              outLane := ((chainLanes sr).findIdx? (· == j)).bind (fun q => r.lanes[q]?), idle := r.iss.i.count == 0 } }])
    ∧ (s.inTurn g 0x50 r → s.myTurn g r = true → (s.mu (homeMu g)).walkAsleep d 0 = 0 → (s.tu g).send.length < 8 →
        read.2.1.any (fun x => x.any (·.fog)) = false →
      exec (.qsendTensor u) s
        = .next (((read.1.setTu g { read.1.tu g with
            send := (read.1.tu g).send ++ [{ msg := qsendMsg g r bytes false, scu := r.iss.scu, run := r.id }] }).putRun g
            { r with run := r.run + 1, finished := decide (r.iss.i.count ≤ r.run + 1) }).progress c))

/-! ### Matrix and vector units -/

/-- A matrix instruction leaves the issue queue and waits to bind; MCU_BIND gives it a free slot of its class and the generators it needs
once it passes its checks and no earlier epilogue has still to read a tile of its own; an `EPI` leaves the queue likewise and, in turn,
queues its tiles. MCU_QUANTUM runs a quantum of the earliest-bound instruction that is ready; EPILOGUE_TILE takes the tile that has
waited longest out of the queue, and sends its converted rows on or writes them through C.
(Choices of the model in it: log 26, 27, 28, 35, 140, 141, 142, 143, 144, 145, 158.) -/
def Obligations.MatrixInstructionsBindAndRun : Prop :=
  (∀ (u : McuId) (h : Issued) (r : Run) (k : Nat) (gens : List Nat) (s : State),
     let g := mcuGid u
     let waits := fun (q : Run) => decide (0x20 ≤ q.iss.i.op) && decide (q.iss.i.op ≤ 0x23) && q.phase == 0
     (∀ e ∈ [(0x20, Instr.mmFwd u), (0x21, .mmDual u), (0x22, .mmPass u), (0x23, .mmAdpt u)],
       s.headReady g e.1 h → (s.tu g).running.any waits = false →
       (h.i.sin = 0 ∨ s.chanOk g h.i.sin false = true) → (h.i.sout = 0 ∨ s.chanOk g h.i.sout true = true) →
       exec e.2 s = .next (s.beginRun g { iss := h, prm := (s.tu g).recordAt h.i.par }))
     ∧ (s.acts g = true → (s.tu g).stopped = false → (s.tu g).running = [r] → waits r = true →
         let x := mmOf r.iss.i.op r.prm
         let m := s.mu (homeMu g)
         let ds := [x.x1, x.x1 + 1, x.x2, x.x2 + 1, x.pipDesc, (epiOf ((s.tu g).recordAt x.epiRec)).pipDesc]
         let q : Run := { r with latch := m.latchMore (m.latchOf r.iss.i) ds }
         ({ s with tus := tabSet s.tus g { s.tu g with running := [] } } : State).mmBad g r.iss q x = none →
         (if r.iss.i.op = 0x20 then [0, 1] else [2, 3]).find? (fun k => ((s.mcu g).slots.getD k none).isNone) = some k →
         (s.mcu g).epiQ = [] →
         ({ s with tus := tabSet s.tus g { s.tu g with running := [] } } : State).xposeTaken (homeMu g) = false →
         s.homeGens g (x.readsHome q) (x.fuse && (x.writesHome q || (epiOf ((s.tu g).recordAt x.epiRec)).pipOut)) = some gens →
         ∃ t, exec (.mcuBind u) s = .next t ∧ (t.mcu g).slots.getD k none = some { id := r.id, order := (s.mcu g).bindCount }
           ∧ (t.mcu g).bindCount = (s.mcu g).bindCount + 1 ∧ (t.mcu g).acc = (s.mcu g).acc
           ∧ ∃ r', (t.tu g).running = [r'] ∧ r'.id = r.id ∧ r'.phase = 1 ∧ r'.gens = gens ∧ r'.latch = q.latch)
     ∧ (s.headReady g 0x24 h →
         let p := (s.tu g).recordAt h.i.par
         let e := epiOf p
         let n := tilesOf e.em * tilesOf e.en
         let m := s.mu (homeMu g)
         s.epiBad (homeMu g) e h.i n (tilesOf e.en) = none → e.ebase + n ≤ 32 → h.chain = none →
         ((h.i.dc ≠ 0xFFFF ∧ h.i.sout = 0) ∨ (h.i.dc = 0xFFFF ∧ h.i.sout ≠ 0 ∧ s.chanOk g h.i.sout true = true)) →
         s.homeGens g false (h.i.dc != 0xFFFF || e.pipOut) = some gens → (∀ x ∈ (s.tu g).running, x.iss.i.op ≠ 0x24) →
         exec (.epi u) s
           = .next (s.beginRun g { iss := h, prm := p, latch := m.latchMore (m.latchOf h.i) [e.pipDesc], gens := gens }))
     ∧ (s.inTurn g 0x24 r → r.phase = 0 → r.iss.i.count ≠ 0 → (s.tu g).running = [r] →
         let e := epiOf r.prm
         let n := tilesOf e.em * tilesOf e.en
         n ≠ 0 →
         ∃ t, exec (.epi u) s = .next t
           ∧ (t.mcu g).epiQ.map (fun q => (q.id, q.tile, q.index))
             = (s.mcu g).epiQ.map (fun q => (q.id, q.tile, q.index)) ++ (upto 0 n).map (fun k => (r.id, e.ebase + k, k))))
  ∧ (∀ (u : McuId) (q : EpiTile) (l : List EpiTile) (r : Run) (s : State),
       let g := mcuGid u
       let e := s.epiOfRun g r
       let bound := (s.mcu g).boundOrder.filter (fun b => s.eligibleBound g b.2)
       s.acts g = true → (s.tu g).stopped = false →
       (exec (.mcuQuantum u) s = .next (match s.firstStep (fun s b => s.boundFill g b.1 b.2 (s.tileWanted g b.2.id)) bound with
           | .did t => t.progress u.cluster.val
           | _ => match s.firstStep (fun s b => s.boundStep g b.1 b.2) bound with
             | .did t => t.progress u.cluster.val
             | .woke t => t
             | .wait => s))
       ∧ ((s.mcu g).epiQ = q :: l → s.runOf g q.id = some r → r.iss.i.dc = 0xFFFF → e.hasScale = false → e.hasBias = false →
           e.pipOut = false → (s.mcu g).accBad = [] →
           let ys := epiRows ((s.mcu g).tile q.tile) (List.replicate 32 (0x3F800000#32)) (List.replicate 32 (0x80000000#32)) e.lo e.hi
           let em := if r.iss.i.op = 0x24 then e.em else (mmOf r.iss.i.op r.prm).m
           let en := if r.iss.i.op = 0x24 then e.en else (mmOf r.iss.i.op r.prm).cols
           let masks := (upto 0 32).map (fun i => (upto 0 32).map (fun j => decide (em ≤ q.row * 32 + i) || decide (en ≤ q.col * 32 + j)))
           let els := (ys.zip masks).map (fun (y, mk) => (rowSent e y mk).map
             (fun b => ({ bits := b, fog := (s.mcu g).tileFog.getLsbD q.tile } : El)))
           ∃ t, exec (.epilogueTile u) s = .next t ∧ (t.mcu g).epiQ = l ∧ (t.mcu g).acc = (s.mcu g).acc
             ∧ (∀ g' a, memGet (t.mu g').mem a = memGet (s.mu g').mem a)
             ∧ (r.iss.chain = none → r.iss.i.sout = 1 →
                 (t.tu g).outq0 = (s.tu g).outq0 ++ (partFlits (fmtBits (e.ofmt % 32)) q.lastOfRun r.crcTail els).1.map
                   (fun f => { f with mask := [], own := r.id })))
       ∧ ((s.mcu g).epiQ = q :: l → s.runOf g q.id = some r → r.iss.i.dc ≠ 0xFFFF → e.hasScale = false → e.hasBias = false →
           e.pipOut = false → (s.mu (homeMu g)).runsAsleep (r.desc r.iss.i.dc) (r.comp r.iss.i.dc) (upto (q.index * 32) 32) = 0 →
           let h := homeMu g
           let d := r.desc r.iss.i.dc
           let ys := epiRows ((s.mcu g).tile q.tile) (List.replicate 32 (0x3F800000#32)) (List.replicate 32 (0x80000000#32)) e.lo e.hi
           let masks := (upto 0 32).map (fun i => (upto 0 32).map (fun j =>
             match (d.runs.getD (q.index * 32 + i) [])[j]? with | some w => w.masked | none => true))
           let rows := (ys.zip masks).map (fun (y, mk) => rowBits e y mk)
           let a := s.readTile g q.tile
           let fog := (a.mcu g).tileFog.getLsbD q.tile
           ∀ t, (∀ w, w = ((ys.zip masks).zip (upto 0 32)).flatMap (fun ((y, mk), i) =>
                   ((y.zip mk).zip (upto 0 32)).filterMap (fun ((v, p), j) => if p then none else some (i, j, v))) →
               t = ((rows.zip (rows.map (fun o => o.1.map (fun b => ({ bits := b, fog := fog } : El))))).zip (upto (q.index * 32) 32)).foldl
                 (fun (t : State) ((o, xs), k) => t.writeRow h d (r.comp r.iss.i.dc) (d.runs.getD k []) xs o.2.1 fog)
                 (a.setMcu g ((a.mcu g).noteFlags w (rows.any (·.2.2)) r.iss.i.tag q.index))) →
             (q.lastOfRun = false → exec (.epilogueTile u) s = .next ((t.tileOut g r q).progress u.cluster.val))
             ∧ (q.lastOfRun = true → d.scaled = false →
                 exec (.epilogueTile u) s = .next (((t.denseDone h d).tileOut g r q).progress u.cluster.val))
             ∧ (q.lastOfRun = true → d.scaled = true →
                 exec (.epilogueTile u) s
                   = .next ((((t.denseDone h d).denseDone h (r.comp r.iss.i.dc)).tileOut g r q).progress u.cluster.val))))

/-- A vector instruction leaves the issue queue once the generators it needs are free, with its descriptors as they stand. In turn, with
its operands in the home MU and their groups awake, it takes the next flits of its walk of A, at most to the next safe point; an
`EXPORT.SIGN` takes the next blocks; one of count 0 finishes.
(Choices of the model in it: log 21, 39, 43, 47, 140, 147, 148, 149, 150, 151, 153, 157, 159, 160, 161, 168.) -/
def Obligations.VectorInstructionsCompute : Prop :=
  ∀ (u : VcuId) (h : Issued) (r : Run) (gens : List Nat) (s : State),
    let g := vcuGid u
    let m := s.mu (homeMu g)
    let v := vrOf r.prm
    let p := (s.tu g).recordAt h.i.par
    (∀ e ∈ [(0x30, Instr.vop u, false), (0x31, .vred u, true)],
      s.headReady g e.1 h → (s.tu g).running = [] → s.vecBad g h (vrOf p) e.2.2 = none → s.xposeTaken (homeMu g) = false →
      s.homeGens g (h.i.da != 0xFFFF || h.i.db != 0xFFFF) (h.i.dc != 0xFFFF || (vrOf p).planes e.2.2) = some gens →
      exec e.2.1 s
        = .next (s.beginRun g { iss := h, prm := p, latch := m.latchMore (m.latchOf h.i) [(vrOf p).planeDesc], gens := gens }))
    ∧ (s.headReady g 0x32 h → (s.tu g).running = [] → s.signBad g h p = none → s.xposeTaken (homeMu g) = false →
      s.homeGens g (h.i.da != 0xFFFF || h.i.db != 0xFFFF) true = some gens →
      exec (.exportSign u) s
        = .next (s.beginRun g { iss := h, prm := p, latch := m.latchMore (m.latchOf h.i) [eOut p, sOut p], gens := gens }))
    ∧ (∀ e ∈ [(0x30, Instr.vop u, false), (0x31, .vred u, true)],
      s.inTurn g e.1 r → (s.tu g).running = [r] → r.iss.i.count ≠ 0 → r.iss.i.da ≠ 0xFFFF → v.readsS = false →
      r.vecAsleep m ([r.iss.i.da, r.iss.i.db, r.iss.i.dc] ++ (if v.planes e.2.2 then [v.planeDesc] else [])) = 0 →
      let d := r.desc r.iss.i.da
      let left := (v.plan e.2.2 d).length - r.pos
      let k := partSize r.pos left v.audit true
      (k = 0 → left = 0) →
      let q := s.readPart (homeMu g) d (r.comp r.iss.i.da) (r.pos == 0) (((v.plan e.2.2 d).drop r.pos).take k)
      exec e.2.1 s = .next ((q.1.vecPart g r v e.2.2 (k == left) q.2 []).progress u.cluster.val))
    ∧ (s.inTurn g 0x32 r → (s.tu g).running = [r] → r.iss.i.count ≠ 0 →
      r.vecAsleep m [r.iss.i.da, r.iss.i.db, r.iss.i.dc, eOut r.prm, sOut r.prm] = 0 →
      exec (.exportSign u) s = .next ((s.signPart g r).progress u.cluster.val))
    ∧ (∀ e ∈ [(0x30, Instr.vop u), (0x31, .vred u), (0x32, .exportSign u)],
      s.inTurn g e.1 r → (s.tu g).running = [r] → r.iss.i.count = 0 → r.iss.i.dc ≠ 0xFFFF →
      exec e.2 s = .next ((s.putRun g { r with finished := true }).progress u.cluster.val))

/-- Conversion to an integer format saturates at the format's bounds, infinities go to the bounds, and a NaN converts to 0. -/
def Obligations.IntegerConversionSaturates : Prop :=
  ∀ (f mode : Nat), fmtInt f = true →
    let lo := (intBounds f).1
    let hi := (intBounds f).2
    (convert f mode .nan).1 = 0
    ∧ (convert f mode (.inf true)).1 = wrapInt lo (fmtBits f) ∧ (convert f mode (.inf false)).1 = wrapInt hi (fmtBits f)
    ∧ ∀ neg m e, let q := if neg then -(roundTo (decide (mode = 1)) m e 0 : Int) else (roundTo (decide (mode = 1)) m e 0 : Int)
        convert f mode (.fin neg m e) = (wrapInt (max lo (min hi q)) (fmtBits f), decide (q < lo ∨ hi < q))

/-! ### Stream fabric, steering and spill (R212 to R246) -/

/-- A `STEER.*` at the head of the switch's queue that names wired ports waits at its element and leaves the queue; when the element is
idle the configuration takes effect and the instruction's tag is posted. A steering element that needs a predicate bit takes the one at the head of its control buffer; a 0 ends the loop of a CARRY.
(Choices of the model in it: log 73.) -/
def Obligations.SteeringConfigures : Prop :=
  (∀ (c : Fin 2048) (h : Issued) (l : List Issued) (e : Fin 8) (cfg : SteerCfg) (s : State),
     let w := s.sw c.val
     s.acts (gidOf c.val 24) = true →
     (∀ x ∈ [(0x40, Instr.steerOff c), (0x41, .steerSw c), (0x42, .steerMg c), (0x43, .steerGate c), (0x44, .steerCarry c),
         (0x45, .steerRep c), (0x46, .steerDec c)],
       w.iq = h :: l → h.i.op = x.1 → fieldsOk 24 h.i = true → steerPorts w (h.i.sq % 8) (x.1 - 0x40) = true →
       (0x45 ≤ x.1 → h.i.count ≠ 0) → (tabGet ({} : Elem) w.elems (h.i.sq % 8)).next = none →
       exec x.2 s = .next ((s.setSw c.val { w with
         iq := l
         elems := tabSet w.elems (h.i.sq % 8) { tabGet ({} : Elem) w.elems (h.i.sq % 8) with
           next := some ({ kind := x.1 - 0x40, gran := h.i.gran, n := if 0x45 ≤ x.1 then h.i.count else 0 }, h) } })))
     ∧ ((tabGet ({} : Elem) w.elems e.val).next = some (cfg, h) → w.idleElem e.val = true → s.ctlSpilled c.val e.val = false →
       exec (.steerConfigApply c e) s = .next (((s.setSw c.val { w with
         elems := tabSet w.elems e.val { tabGet ({} : Elem) w.elems e.val with
           cfg := cfg, next := none, looping := false, index := 0, flit := 0, blockBytes := [] } }).postTag (gidOf c.val 24) h stOK).progress c.val)))
  ∧ (∀ (c : Fin 2048) (e : Fin 8) (i : Nat) (b : Bool) (bs : List Bool) (s : State),
       let w := s.sw c.val
       let x := tabGet ({} : Elem) w.elems e.val
       s.acts (gidOf c.val 24) = true → (x.cfg.kind = 1 ∨ x.cfg.kind = 2 ∨ x.cfg.kind = 3 ∨ (x.cfg.kind = 4 ∧ x.looping = true)) → x.bit = none →
         x.inTensor = false → x.conf0 = 0 → x.conf1 = 0 → w.inHead e.val 0 = none → w.inHead e.val 1 = none →
         w.ctlOf e.val = some i → tabGet [] w.ctl i = b :: bs → newer (tabGet 0 w.circEpoch (64 + i)) x.epoch = false →
         exec (.steerToken c e) s = .next ((s.setSw c.val { w.dropCtl i with
           elems := tabSet w.elems e.val (if x.cfg.kind = 4 ∧ b = false then { x with looping := false } else { x with bit := some b }) }).progress c.val))

/-- A flit at a unit's output channel leaves it for the circuit that starts there; a flit on a chain lane enters its consumer's input queue
while that has room; a predicate bit leaves its port for the control circuit that starts there.
(Choices of the model in it: log 64, 72, 146.) -/
def Obligations.StreamTransfers : Prop :=
  ∀ (c : Fin 2048) (u : Fin 20) (n : Fin 4) (k : Fin 4) (i : Nat) (f : Flit) (l : List Flit) (b : Bool) (bs : List Bool) (s : State),
    s.acts (gidOf c.val 24) = true →
    ((s.tu (gidOf c.val u.val)).outq0 = f :: l →
      exec (.streamFlitTransfer c (.fromUnit u 0)) s
        = .next (s.intoCircuit (s.setTu (gidOf c.val u.val) { s.tu (gidOf c.val u.val) with outq0 := l }) c.val (chanPort u.val 0) { f with own := 0 }))
    ∧ (let x := tabGet ({} : Lane) (s.sw c.val).lanes n.val
       let q := chanRef x.dst (s.laneChan c.val x.dst)
       x.flits = f :: l → laneFlit f = true → x.dst < 20 → (s.sw c.val).spilling (queueNum q) = false → (s.queueItems c.val q).length < 16 →
       ∃ t, exec (.streamFlitTransfer c (.lane n)) s = .next t
         ∧ (t.tu (gidOf c.val x.dst)).hand = (s.tu (gidOf c.val x.dst)).hand ++ [f]
         ∧ (tabGet ({} : Lane) (t.sw c.val).lanes n.val).flits = l)
    ∧ ((s.scu (gidOf c.val (20 + k.val))).pport0 = b :: bs → (s.sw c.val).ctlFrom (64 + 2 * k.val) = some i →
       s.canTake c.val (ctlRef i) = true →
       exec (.controlBitTransfer c (.fromPort k 0)) s
         = .next (((s.setScu (gidOf c.val (20 + k.val)) { s.scu (gidOf c.val (20 + k.val)) with pport0 := bs }).arrive c.val (ctlRef i)
             (bitFlit b)).progress c.val))

/-- A region without progress for its threshold and with no full queue is recorded once as a starved stall, and the turn of the step
that runs there counts as expired; with a full queue the stall is counted and the count of cycles starts again.
(Choices of the model in it: log 69.) -/
def Obligations.FoghornStalls : Prop :=
  ∀ (sec : Fin 64) (x : Sector) (s : State),
    s.sector sec.val = some x → s.phase = .ready → (s.sf sec.val).starvedNow = false →
    ((∀ e ∈ s.sws, inRegion x.region e.1 = true → s.fullQueues e.1 = []) →
      ∃ t, exec (.foghornStall sec) s = .next t ∧ (t.sf sec.val).starvedNow = true
        ∧ (t.sf sec.val).starved = min ((s.sf sec.val).starved + 1) 0xFFFFFFFF ∧ (t.sf sec.val).thr = (s.sf sec.val).thr
        ∧ s.time ≤ t.time)
    ∧ ((∃ e ∈ s.sws, inRegion x.region e.1 = true ∧ s.fullQueues e.1 ≠ []) →
      ∃ t, exec (.foghornStall sec) s = .next t ∧ (t.sf sec.val).noProg = 0
        ∧ (t.sf sec.val).stalls = min ((s.sf sec.val).stalls + 1) 0xFFFFFFFF ∧ s.time ≤ t.time ∧ t.ctxs = s.ctxs)

/-- A token that waits at a queue in spill mode is written behind the records of its sector's ring while that has room; with the ring full
the owning context fails with SPILL_EXHAUSTED. Read back, the oldest record of a queue fills a free place of it.
(Choices of the model in it: log 70, 71.) -/
def Obligations.SpillRecords : Prop :=
  ∀ (c : Fin 2048) (q : QueueRef) (f : Flit) (l : List Flit) (r x : Nat) (k : Ctx) (s : State),
    let w := s.sw c.val
    let b := s.sf r
    s.acts (gidOf c.val 24) = true → s.retrains = false → s.spillOwner c.val = some (r, x) →
    (tabGet [] w.waiting (queueNum q) = f :: l → b.hasRoom = true →
      ∃ t, exec (.spillRecordWrite c q) s = .next t
        ∧ (t.sf r).ring = b.ring ++ [{ pos := b.next, cluster := c.val, q := q, flit := f.settle, bit := f.eot, ctx := x }]
        ∧ (t.sf r).next = (b.next + 1) % b.cap ∧ (t.sf r).written = (b.written + 1) % 2 ^ 64 ∧ tabGet [] (t.sw c.val).waiting (queueNum q) = l)
    ∧ (tabGet [] w.waiting (queueNum q) = f :: l → b.hasRoom = false → s.ownerOf c.val = some x → s.ctx x = some k → k.state ≠ .failed →
      ∃ t, exec (.spillRecordWrite c q) s = .next t
        ∧ t.ctx x = some { k with state := .failed, status := stSpillExhausted, tearing := true })
    ∧ (w.spilling (queueNum q) = true → b.ofQueue c.val q = [] → tabGet [] w.waiting (queueNum q) = [] →
      exec (.spillRecordRead c q) s
        = .next (s.setSw c.val { w with spill := setDel w.spill (queueNum q), readAhead := tabDel w.readAhead (queueNum q) }))
    ∧ (∀ z, let h := s.hbmRead { unit := gidOf c.val 24, ctx := some x } (b.addrOf z.pos) 256
        w.spilling (queueNum q) = true → b.ofQueue c.val q = [z] → z.bad = false → h.2.2.any id = false → tabGet [] w.waiting (queueNum q) = [] →
        tabGet 0 w.readAhead (queueNum q) = 0 → (s.queueItems c.val q).length < queueCap q →
      exec (.spillRecordRead c q) s
        = .next ((((h.1.setSw c.val { w with readAhead := tabDel w.readAhead (queueNum q), spill := setDel w.spill (queueNum q) }).setSf r
            (b.readOne c.val q)).enqueue c.val q z.flit).progress c.val))

/-! ### Mesh, messages and groups (R189 to R207, R247 to R267) -/

/-- While the device is in service a router injects and forwards packets. The first message for an SCU in its router's box is checked against
the queue that it names: one that is accepted is placed, one that is not is refused, held back or fails its sender, and the outcome goes
back to the sender, whom it tells; a message held by the receiver is offered again. A result that a combining queue holds is placed in its
ring once that has room.
(Choices of the model in it: log 31, 37, 74, 110.) -/
def Obligations.MessagesTravel : Prop :=
  (∀ (c : Fin 2048) (n : Nat) (px : Fin 64) (py : Fin 34) (side : Fin 5) (cls : Fin 6) (s : State),
     s.phase = .ready →
     (s.logWaits (gidOf c.val 25) = false →
       exec (.packetForward (.inject c n)) s = .next (if n < 6 then s.continueInjection c.val n else s.startInjection c.val (n - 6)))
     ∧ ((∀ k, s.logicalAt px.val py.val = some k → s.logWaits (gidOf k 25) = false) →
       exec (.packetForward (.move px py side cls)) s = .next (s.hop px.val py.val side.val cls.val)))
  ∧ (∀ (u : ScuId) (a b : List Packet) (p : Packet) (m : Msg) (s : State),
       let g := scuGid u
       let c := u.cluster.val
       let k := (s.scu g).queue m.queue
       let t := s.setRt c { s.rt c with inbox := a ++ b }
       let answer := fun (t : State) (st : Nat) (held : Bool) => t.reply c g p.src p.ctx (.outcome m.queue g st held)
       s.acts g = true → (s.scu g).frozen = false → (s.rt c).inbox = a ++ p :: b → (∀ x ∈ a, x.isMessage g = false) → p.body = .message m →
         m.unit = g → s.ctxFailed m.ctx = false → (s.mu (homeMu g)).zeroizing = false → (s.mu (homeMu g)).asleepAll (s.acceptRanges g m) = 0 →
       (k.check (s.ownerOf c) m = .accepted → exec (.messageArrival u) s = .next (answer ((t.accept g m).progress c) stOK false))
       ∧ (∀ st, k.check (s.ownerOf c) m = .refused st → exec (.messageArrival u) s = .next (answer t st false))
       ∧ (k.check (s.ownerOf c) m = .held → exec (.messageArrival u) s = .next (answer t stOK true))
       ∧ (∀ st ca, k.check (s.ownerOf c) m = .senderFails st ca → exec (.messageArrival u) s = .next (t.failSender m st ca))
       ∧ (k.mode = .register → k.opened = true → s.ownerOf c = some m.ctx → m.payload.length ≤ 8 → k.entries.length < 32 →
           exec (.messageArrival u) s = .next (answer ((t.setScu g ((s.scu g).setQueue m.queue { k with
             entries := k.entries ++ [{ data := BitVec.ofNat 64 (ofBytes m.payload), tag := m.tag, fog := m.fog }] })).progress c) stOK false)))
  ∧ (∀ (v : SenderId) (a b : List Packet) (p : Packet) (q w st : Nat) (hb : Bool) (s : State),
       let g := senderGid v
       let c := v.cluster.val
       s.acts g = true → (s.rt c).inbox = a ++ p :: b → (∀ x ∈ a, x.isOutcome g = false) → p.dest = g → p.body = .outcome q w st hb →
         s.ownerOf c = some p.ctx →
       exec (.messageOutcome v) s = .next ((s.setRt c { s.rt c with inbox := a ++ b }).takeOutcome g q w st hb))
  ∧ (∀ (v : SenderId) (j : Nat) (e : SendEntry) (s : State),
       let g := senderGid v
       s.acts g = true → (s.sendBuf g)[j]? = some e → e.state = .held →
       exec (.messageReoffer v j) s = .next (s.setSendBuf g ((s.sendBuf g).set j { e with state := .waiting })))
  ∧ (∀ (u : ScuId) (q : Fin 64) (r : HeldResult) (s : State),
       let g := scuGid u
       let k := (s.scu g).queue q.val
       let l := k.placeRanges (16 + r.payload.length)
       s.acts g = true → (s.scu g).frozen = false → (s.mu (homeMu g)).zeroizing = false → k.result = some r → l ≠ [] →
         (s.mu (homeMu g)).asleepAll l = 0 →
       exec (.combiningResultPlace u q) s
         = .next (((s.placeResult (homeMu g) k).1.setScu g (((s.placeResult (homeMu g) k).1.scu g).setQueue q.val
             (s.placeResult (homeMu g) k).2)).progress u.cluster.val))

/-- A CONTRIB whose round is the group's current one hands its blocks to the router of its cluster as shares for the group's root; one
with an earlier round fails its context. The first share in a router's box that merges there merges in the slot of its block, or takes a free
one, and the slot is sent on once it holds the shares of all the members that lie behind it; a slot that has waited its time is sent on and
counted. At the root a block at the group's count of contributions is written out, and one above it fails the owning context. A router
takes the round of the packet that reaches it, and so does the image of a cluster of the owner that is switched out; a share of a freed
group is discarded.
(Choices of the model in it: log 61.) -/
def Obligations.GroupShares : Prop :=
  (∀ (m : MuId) (r : Run) (s : State),
     let g := muGid m
     let c := m.cluster.val
     let k := tabGet 256 (((s.ctx r.iss.ctx).map (·.binds)).getD []) r.iss.i.num
     let round := (recFld r.prm 143 128 + r.run) % 65536
     let now := tabGet 0 (s.rt c).rounds k % 65536
     let d := r.desc r.iss.i.da
     s.inTurn g 0x0A r → r.iss.i.count ≠ 0 → (s.grp k).valid = true → (s.grp k).owner = r.iss.ctx → (s.grp k).members.contains c = true →
       (s.grp k).rslots ≠ 0 → contribFmtOk d.code (s.grp k).ofmt = true → d.count ≠ 0 →
       recFld r.prm 153 144 + ceilDiv d.count 16 ≤ ceilDiv (s.grp k).elems 16 →
     (round = now → s.wakeLegs g [⟨d, 0, false, none⟩] = none →
       ∃ (t : State) (pk : List Packet), exec (.contrib m) s = .next t ∧ (t.rt c).inbox = (s.rt c).inbox ++ pk
         ∧ pk.length = (chunks 16 d.count (s.readPlain g d 0).2.1.flatten).length
         ∧ ∀ p ∈ pk, p.dest = gidOf (s.grp k).root 0 ∧ p.src = g ∧ ∃ b f v o, p.body = .contribution k round b f v o)
     ∧ (round ≠ now → 32768 ≤ (round + 65536 - now) % 65536 →
         ∀ x, s.ctx r.iss.ctx = some x → x.state ≠ .failed →
           ∃ t, exec (.contrib m) s = .next t ∧ t.ctx r.iss.ctx = some { x with state := .failed, status := stContextFault, tearing := true }))
  ∧ (∀ (c : Fin 2048) (n : Fin 64) (k : Comb) (s : State),
       s.routing c.val = true → tabFind (s.rt c.val).slots n.val = some k → k.root = false →
       let a := s.advanceTo (k.since + s.pmFlush * 32)
       exec (.transitSlotFlush c n) s
         = .next ((a.setRt c.val { a.rt c.val with flushes := sat32 (a.rt c.val).flushes 1 }).sendPartial c.val n.val))
  ∧ (∀ (c : Fin 2048) (p : Packet) (x : Share) (a b : List Packet) (s : State),
       let v := s.rt c.val
       let t := s.setRt c.val { v with inbox := a ++ b }
       s.routing c.val = true → v.inbox = a ++ p :: b → shareOf p = some x → v.tblBad = false →
       ((∀ y ∈ a, mergesAt s c.val false y = false) → mergesAt s c.val false p = true →
         ((s.grp x.g).valid = false → exec (.contributionMerge c) s = .next (t.setRt c.val { v with inbox := a ++ b, waited := false }))
         ∧ ((s.grp x.g).valid = true → p.ctx = (s.grp x.g).owner → ∀ j,
             (match v.slotOf false x.g x.round x.blk with
               | some j => some j
               | none => if v.transit < 64 - s.reservedSlots c.val then v.freeSlot else none) = some j →
             let z := t.readSlot c.val j
             let r := { (z.rt c.val).fill j false (fmtInt (s.grp x.g).ofmt) s.time x with waited := false }
             let u := (z.setRt c.val r).progress c.val
             exec (.contributionMerge c) s
               = .next (if (match tabFind r.slots j with | some k => decide (u.fanIn c.val x.g ≤ k.count) | none => false) then u.sendPartial c.val j else u)))
       ∧ ((∀ y ∈ v.inbox, y.isWriteAck (gidOf c.val 25) = false) → (∀ y ∈ a, mergesAt s c.val true y = false) → mergesAt s c.val true p = true →
           p.ctx = (s.grp x.g).owner → ∀ j,
           (match v.slotOf true x.g x.round x.blk with | some j => some j | none => v.freeSlot) = some j →
           (x.round = (s.grp x.g).round →
             let z := t.readSlot c.val j
             let r := (z.rt c.val).fill j true (fmtInt (s.grp x.g).ofmt) s.time x
             let u := (z.setRt c.val r).progress c.val
             ∀ k', tabFind r.slots j = some k' →
               (k'.count < (s.grp x.g).contribs → exec (.rootMerge c) s = .next u)
               ∧ (k'.count = (s.grp x.g).contribs → exec (.rootMerge c) s = .next (u.putBlock c.val k'))
               ∧ ((s.grp x.g).contribs < k'.count → exec (.rootMerge c) s = .next (u.overCount c.val x)))
           ∧ (x.round ≠ (s.grp x.g).round → exec (.rootMerge c) s = .next (t.overCount c.val x))))
  ∧ (∀ (c : Fin 2048) (p : Packet) (g round : Nat) (a b : List Packet) (s : State),
       let v := s.rt c.val
       let t := s.setRt c.val { v with inbox := a ++ b, rounds := tabSet v.rounds g round }
       s.routing c.val = true → v.inbox = a ++ p :: b → (∀ y ∈ a, y.isAdvance = false) → p.body = .roundAdvance g round →
       ((s.grp g).valid = false → exec (.roundAdvance c) s = .next (s.setRt c.val { v with inbox := a ++ b }))
       ∧ ((s.grp g).valid = true → s.ctx (s.grp g).owner = none → exec (.roundAdvance c) s = .next (t.progress c.val))
       ∧ ((s.grp g).valid = true → ∀ x, s.ctx (s.grp g).owner = some x →
           exec (.roundAdvance c) s = .next ((t.setCtx (s.grp g).owner { x with
             scans := tabMap x.scans (fun d i => if d = c.val then { i with rounds := tabSet i.rounds g round } else i) }).progress c.val)))

/-! ### Reconfiguration and scan (R301 to R327) -/

/-- A native reconfiguration at the region's step boundary loads the staged images of its clusters; a forced drain of a quiet region
makes the newest epoch its quiet one; a slot table that waits replaces the one in force. A newer daymark at the head of a circuit's buffer gives the circuit its epoch, and its cluster the newest epoch seen; a unit switches
over to the epoch of a newer token at the head of a channel that none of its instructions reads.
(Choices of the model in it: log 65, 66, 80, 81.) -/
def Obligations.ReconfiguresAndMarks : Prop :=
  (∀ (sec : Fin 64) (g : Region) (place : Fin 2) (disc : Bool) (x : Sector) (imgs : List (Nat × Staged)) (c : Fin 2048) (link : Fin 4)
       (lane : Fin 2) (e : Nat) (l : List Nat) (s : State),
     let cs := regionClusters g
     (s.phase = .ready → s.sector sec.val = some x → x.holds g = true → cs.all s.atBoundary = true → s.stagedIn cs place.val = some imgs →
       exec (.nativeReconfiguration sec g place disc) s = .next (s.reconfigure sec.val imgs place.val disc none).1)
     ∧ (s.phase = .ready → s.sector sec.val = some x → x.holds g = true → cs.all s.drainable = true → cs.all (s.quiet cs) = true →
         512 ≤ (s.newestEpoch cs + 4096 - (s.cl (cs.headD 0)).quietEpoch % 4096) % 4096 →
         ∃ t, exec (.forcedDrain sec g) s = .next t ∧ (∀ k ∈ cs, (t.cl k).quietEpoch = s.newestEpoch cs) ∧ t.ctxs = s.ctxs)
     ∧ (s.acts (gidOf c.val 24) = true → tabFind (s.sw c.val).nextTab (2 * link.val + lane.val) = some (e, l) →
         (∀ n ∈ (tabGet [] (s.sw c.val).slotTab (2 * link.val + lane.val)).filterMap (slotEntry lane.val), n < 64 →
           s.hasPassed c.val n link.val e = true) →
         exec (.slotTableSwitch c link lane) s = .next (s.setSw c.val { s.sw c.val with
           slotTab := tabSet (s.sw c.val).slotTab (2 * link.val + lane.val) l
           nextTab := tabDel (s.sw c.val).nextTab (2 * link.val + lane.val) })))
  ∧ (∀ (c : Fin 2048) (n : Fin 64) (u : TuId) (f : Flit) (l : List Flit) (s : State),
       let w := s.sw c.val
       let k := s.cl c.val
       (s.acts (gidOf c.val 24) = true → tabGet [] w.bufs n.val = f :: l → f.kind = .daymark → f.sideBad = false → f.settle.fogged = false →
           f.dmEpoch ≠ tabGet 0 w.circEpoch n.val → newer (tabGet 0 w.circEpoch n.val) f.dmEpoch = true →
           exec (.daymarkTokenArrival c (.circuit n)) s
             = .next (((s.setSw c.val { w with circEpoch := tabSet w.circEpoch n.val f.dmEpoch }).setCl c.val
                 { k with epoch := if newer k.epoch f.dmEpoch then f.dmEpoch else k.epoch }).progress c.val))
       ∧ (∀ ch : Fin 2, s.acts (tuGid u) = true → (s.tu (tuGid u)).inq ch.val = f :: l → f.kind = .daymark →
           (if ch.val = 0 then (s.tu (tuGid u)).conf0 else (s.tu (tuGid u)).conf1) = 0 →
           newer (s.tu (tuGid u)).epoch f.dmEpoch = true → f.sideBad = false → f.settle.fogged = false → (s.tu (tuGid u)).running = [] →
           exec (.unitSwitchover u ch) s
             = .next ((((s.setTu (tuGid u) { (s.tu (tuGid u)).takeMark ch.val f.dmConf true with epoch := f.dmEpoch }).countWords u.cluster.val
                 [f]).switched u.cluster.val f.dmEpoch).progress u.cluster.val)))

/-- A scan: the Keeper's freeze makes a running cluster freezing; each unit stops at its safe point; with all stopped the freeze ends, after
flits between switches have landed and transit slots have gone, and the cluster is frozen with `done` set; a scan-out of a frozen cluster
writes its image at the page `buf` of device memory; a scan-in puts an image back, unless its bytes have changed or it is of another sector or
context; a release lets the cluster run again, unless its context waits for its turn. No other requester's write does any of this.
(Choices of the model in it: log 82, 83, 84.) -/
def Obligations.ScanOperations : Prop :=
  (∀ (c : Fin 2048) (u : TuId) (v : Word) (x : Fin 4096) (s : State),
     let a := s.scanCtl c.val v
     let k := a.cl c.val
     let b := a.setCl c.val { k with scan := .moving, pendingOp := 3 }
     let z := (s.landAll c.val).sendTransit c.val
     (k.scan = .running → k.loading = false →
       exec (.scanFreeze .keeper c v) s = .next (a.setCl c.val { k with scan := .freezing, scanned := true, pendingOp := 1 }))
     ∧ ((s.cl u.cluster.val).scan = .freezing →
       exec (.safePointStop u) s = .next (s.setTu (tuGid u) { s.tu (tuGid u) with stopped := true }))
     ∧ ((s.cl c.val).scan = .freezing → (∀ k < 20, (s.tu (gidOf c.val k)).stopped = true) →
       exec (.scanOpDone c) s = .next (z.setCl c.val { z.cl c.val with scan := .frozen, done := true, pendingOp := 0 }))
     ∧ ((s.cl c.val).scan = .moving → s.retrains = false →
       exec (.scanOpDone c) s = .next (s.setCl c.val { s.cl c.val with scan := .frozen, done := true, pendingOp := 0 }))
     ∧ (k.scan = .frozen →
       let y := (a.readTiles c.val).putImage ((a.readTiles c.val).takeScan c.val k.prog (some k.buf))
       exec (.scanOut .keeper c v) s = .next (y.1.setCl c.val { k with scan := .moving, pendingOp := 2, kib := y.2.kib })
       ∧ tabFind y.1.scanImgs k.buf = some y.2 ∧ y.2.kib ≤ 3200 ∧ y.2.bytes.take 4 = toBytes 4 0x4B525343
       ∧ (Memory.wf s.hbm.mem = true → memRead y.1.hbm.mem (k.buf * 4096) y.2.bytes.length = y.2.bytes))
     ∧ (k.scan = .frozen →
       let d := (b.scanAt c.val k.buf).1
       (∀ i, (b.scanAt c.val k.buf).2 = some i →
         (i.crcBad = true ∨ ((b.sectorOf i.cluster).isSome = true ∧ b.sectorOf i.cluster = b.sectorOf c.val ∧ i.context = x.val) →
           exec (.scanIn .keeper c v x) s = .next (((d.dropRequests c.val).scanInto c.val x.val i).admitOther c.val))
         ∧ (i.crcBad = false → ((b.sectorOf i.cluster).isSome = false ∨ b.sectorOf i.cluster ≠ b.sectorOf c.val ∨ i.context ≠ x.val) →
           exec (.scanIn .keeper c v x) s
             = .next ((d.setCl c.val { d.cl c.val with bad := true }).failCtx x.val stContextFault
                 { unit := gidOf c.val 26, cls := 7, sev := 3, cause := 0x0C })))
       ∧ ((b.scanAt c.val k.buf).2 = none →
         exec (.scanIn .keeper c v x) s = .next (d.failCtx x.val stFoggedControl { unit := gidOf c.val 26, cls := 5, sev := 3, cause := 0x04 })))
     ∧ (k.scan = .frozen →
       let d := if a.parked c.val then a else a.release c.val
       exec (.scanRelease .keeper c v) s = .next (d.setCl c.val { d.cl c.val with done := true, scanned := false }))
     ∧ (∀ r, r ≠ Requester.keeper → ∀ e ∈ [Instr.scanFreeze r c v, .scanOut r c v, .scanIn r c v x, .scanRelease r c v], exec e s = .next s))
  ∧ (∀ (c x : Nat) (i : ScanImg) (y : Ctx) (s : State), s.ctx x = some y →
       (i.crcBad = true → y.state ≠ .failed →
         (s.scanInto c x i).ctx x = some { y with state := .failed, status := stFoggedControl, tearing := true })
       ∧ (i.crcBad = false → i.prog = true → s.scanInto c x i = s.putScan c i)
       ∧ (i.crcBad = false → i.prog = false → ∀ p g, y.imageWith c i.imageCrc = some (p, g) →
         s.scanInto c x i = (s.loadCluster c g p i.epoch).putScan c i))

/-! ### Registers (R5, R8, R536 to R546) -/

/-- A misaligned or unassigned access is counted and logged; a read of it returns zero, and a write changes no register; that of a function
that TSP has assigned on a link whose stream is not Secure is refused. An access held longer than 5 ms is abandoned and counted, a read with all ones; a performance counter that wraps sets `ovf`, gives up
2^48 of its count and signals the Keeper, which counts the wrap.
(Choices of the model in it: log 55, 86, 87, 89, 152.) -/
def Obligations.AccessesCounted : Prop :=
  (∀ (r : Requester) (a : RegAddr) (size : Nat) (s : State), s.enumerated r = true →
     (s.refused r = none → (∃ t, exec (.registerAccessMisaligned r a size true) s = .next t ∧ t.kpr.bad = min (s.kpr.bad + 1) 0xFFFFFFFF
       ∧ t.out = s.out ∧ t.mus = s.mus ∧ t.mcus = s.mcus ∧ t.vcus = s.vcus ∧ t.scus = s.scus ∧ t.ports = s.ports ∧ t.pwr = s.pwr
       ∧ t.aud = s.aud ∧ t.txn = s.txn ∧ t.groups = s.groups)
     ∧ (∃ t, exec (.registerAccessMisaligned r a size false) s = .next t ∧ t.kpr.bad = min (s.kpr.bad + 1) 0xFFFFFFFF
       ∧ t.out = s.out ++ [.readReply r 0]))
     ∧ (∀ p w, s.refused r = some p → exec (.registerAccessMisaligned r a size w) s = .next (s.emit (.unsupported p))))
  ∧ (∀ (n : Nat) (h : Held) (u : McuId) (w : VcuId) (k : Fin 20) (s ended : State),
       ended = s.advanceTo (h.since + 5000000) →
       let dropped : State := { ended with held := ended.held.eraseIdx n, kpr := { ended.kpr with timeouts := min (ended.kpr.timeouts + 1) 0xFFFFFFFF } }
       let counted := fun (off : Nat) (t : State) => ({ t with kpr := { t.kpr with wraps := tabSet t.kpr.wraps off (tabGet 0 t.kpr.wraps off + 1) } } : State)
       let mo := 0x4000000 + u.cluster.val * 0x8000 + (12 + u.k.val) * 0x400 + 0x30
       let vo := 0x4000000 + w.cluster.val * 0x8000 + (16 + w.k.val) * 0x400 + 0x30
       let co := 0x200000 + k.val * 0x10000 + 0x38
       let m := s.mcu (mcuGid u)
       let v := s.vcu (vcuGid w)
       let c := s.ctrl k.val
       (s.held[n]? = some h →
         exec (.heldAccessTimeout n) s = .next (if h.write then dropped else dropped.emit (.readReply h.who (BitVec.allOnes 64))))
       ∧ (exec (.perfCounterWrap mo) s
           = .next (counted mo (s.setMcu (mcuGid u) { m with busy := { m.busy with ovf := true } })))
       ∧ (v.flits.signals ≠ 0 →
         exec (.perfCounterWrap vo) s
           = .next (counted vo (s.setVcu (vcuGid w) { v with flits := { v.flits with signals := v.flits.signals - 1 } })))
       ∧ (v.flits.signals = 0 → exec (.perfCounterWrap vo) s = .next s)
       ∧ (c.perfRd.signals ≠ 0 →
         exec (.perfCounterWrap co) s
           = .next (counted co (s.setCtrl k.val { c with perfRd := { c.perfRd with signals := c.perfRd.signals - 1 } }))))
  ∧ (∀ (p : Perf) (n : Nat), p.count < 2 ^ 48 → n ≤ 2 ^ 48 →
       (p.count + n < 2 ^ 48 → perfAdd p n = { p with count := p.count + n })
       ∧ (2 ^ 48 ≤ p.count + n → perfAdd p n = { p with count := p.count + n - 2 ^ 48, ovf := true, signals := p.signals + 1 }))

/-- A register write by the Keeper to a block outside the cluster windows sets the fields its row names and nothing else: the cap and
the highest clock step of `PWR`, the alert of `ERR`, the read pointer of the log, a foghorn's threshold, the router flush. An error injection is armed only while the device is debug-unlocked; otherwise the write is ignored.
(Choices of the model in it: log 111.) -/
def Obligations.KeeperRegisterWrites : Prop :=
  (∀ (v : Word) (s : State), s.phase = .ready →
     (100 ≤ v.toNat % 1024 → v.toNat % 1024 ≤ 680 → v.toNat / 1024 % 8 ≤ 4 →
       exec (.registerWrite .keeper (.mgmt 0x20008) v) s
         = .next { s with pwr := { s.pwr with capW := v.toNat % 1024, maxStep := v.toNat / 1024 % 8 } })
     ∧ (v.toNat ≤ s.err.wr → s.err.wr ≤ v.toNat + 65536 →
       exec (.errLogRdWrite .keeper v) s = .next { s with err := { s.err with rd := v.toNat } })
     ∧ (s.err.wr < v.toNat ∨ v.toNat + 65536 < s.err.wr → exec (.errLogRdWrite .keeper v) s = .next s)
     ∧ exec (.registerWrite .keeper (.mgmt 0x484000) v) s
         = .next { s with pmFlush := if v.toNat % 128 = 0 then 1 else min (v.toNat % 128) 64 }
     ∧ (∀ (n : Fin 20) (sec : Fin 64),
         exec (.hbmRcQuotaWrite .keeper n sec v) s = .next (s.setCtrl n.val ((s.ctrl n.val).setQuota sec.val (v.toNat % 256))))
     ∧ exec (.audSeedWrite .keeper v) s = .next (s.reseed v))
  ∧ (∀ (v : Word) (s : State), s.phase = .ready →
       (s.sec.unlocked = false → exec (.errInjectArm .keeper v) s = .next s)
       ∧ (s.sec.unlocked = true → 1 ≤ v.toNat / 2 ^ 16 % 16 → v.toNat / 2 ^ 16 % 16 ≤ 4 →
         let u := v.toNat % 2 ^ 16
         let k := v.toNat / 2 ^ 16 % 16
         let o := v.toNat / 2 ^ 20 % 2 ^ 22
         exec (.errInjectArm .keeper v) s
           = .next ((s.modErr (fun e => { e with injUnit := u, injKind := k, injOffset := o, arm := decide (k = 3 ∨ k = 4) })).inject u k o)))
  ∧ (∀ (c : Ctrl) (sec q : Nat), q ≤ 128 → (c.quota.foldl (fun a e => if e.1 = sec then a else a + e.2) 0) + q ≤ 128 →
       tabGet 0 (c.setQuota sec q).quota sec = q ∧ (∀ k, k ≠ sec → tabGet 0 (c.setQuota sec q).quota k = tabGet 0 c.quota k)
       ∧ ((c.setQuota sec q).cache.filter (fun e => e.1 == sec)).length ≤ q * 1024)
  ∧ (∀ (c : Ctrl) (sec q : Nat), (128 < q ∨ 128 < (c.quota.foldl (fun a e => if e.1 = sec then a else a + e.2) 0) + q) → c.setQuota sec q = c)

/-- Writes in a cluster's window while the cluster runs: the descriptor access registers stage an entry and replace it whole with word
7; a bank group request, a ring pointer and the flag registers do as their rows say. A descriptor staged through the access registers is the entry selected, once word 7 is written: words 0 to 6 as staged. A flag of a VCU stays set until it is cleared by a one, and `first_tag` is 0 once the last set flag is cleared and unchanged
otherwise.
(Choices of the model in it: log 50, 56, 90.) -/
def Obligations.ClusterRegisterWrites : Prop :=
  (∀ (m : MuId) (u : ScuId) (k : McuId) (w : VcuId) (j : Fin 7) (v : Word) (s : State),
     s.phase = .ready →
     (∀ c, c = m.cluster.val ∨ c = u.cluster.val ∨ c = k.cluster.val ∨ c = w.cluster.val →
       (s.cl c).scan = .running ∧ (s.cl c).loading = false ∧ (s.cl c).retired = false ∧ s.swapping c = false) →
     exec (.muDtSelWrite .keeper m v) s = .next (s.setMu (muGid m) ((s.mu (muGid m)).selectDesc .keeper v))
     ∧ exec (.muDtWordStage .keeper m j v) s = .next (s.setMu (muGid m) ((s.mu (muGid m)).stageDesc .keeper j.val v))
     ∧ exec (.muDtWord7Write .keeper m v) s = .next (s.setMu (muGid m) ((s.mu (muGid m)).replaceDesc .keeper v))
     ∧ exec (.muBgCtlWrite .keeper m v) s = .next (s.setMu (muGid m) { s.mu (muGid m) with downReq := v.setWidth 8 })
     ∧ exec (.scuQPtrWrite .keeper u v) s = .next (s.writeRp (scuGid u) .keeper v)
     ∧ exec (.nfFlagClear .keeper k v) s = .next (s.setMcu (mcuGid k) (clearNf (s.mcu (mcuGid k)) v))
     ∧ exec (.vcuFlagClear .keeper w v) s = .next (s.setVcu (vcuGid w) ((s.vcu (vcuGid w)).clearFlags v)))
  ∧ (∀ (m : Mu) (r : Requester) (i : Fin 1024) (ws : List Word) (v : Word), ws.length = 7 →
       let a := m.selectDesc r (BitVec.ofNat 64 i.val)
       let b := ((upto 0 7).foldl (fun (x : Mu) k => x.stageDesc r k (ws.getD k 0)) a).replaceDesc r v
       (∀ k < 7, fld (tabGet 0 b.desc i.val).toNat (64 * k + 63) (64 * k) = (ws.getD k 0).toNat)
       ∧ fld (tabGet 0 b.desc i.val).toNat 511 448 = v.toNat
       ∧ (∀ n, n ≠ i.val → tabGet 0 b.desc n = tabGet 0 m.desc n))
  ∧ (∀ (m : Vcu) (v : Word),
       let t := m.clearFlags v
       t.nan = (m.nan && !v.getLsbD 0) ∧ t.sat = (m.sat && !v.getLsbD 1) ∧ t.div0 = (m.div0 && !v.getLsbD 2) ∧ t.oob = (m.oob && !v.getLsbD 3)
       ∧ t.firstTag = (if t.nan = true ∨ t.sat = true ∨ t.div0 = true ∨ t.oob = true then m.firstTag else 0)
       ∧ t.tblPar = m.tblPar ∧ t.busy = m.busy ∧ t.gen = m.gen)

/-! ### Rings and commands (R385 to R402) -/

/-- The doorbells and control registers of a ring: a tail write above T is the new T when it lies within D + size, and sets `overrun` beyond
it; a completion head above H and up to D is the new H; every other doorbell is ignored, as is any of a disabled ring; a sequence base is
taken while the ring is disabled, whose commands are then gone (log 91); enabling takes the setup, disabling stops fetching and leaves the
commands; the status bits clear. A shadow line is read from the host and reads as one tail write for each ring that has `shadow` set.
(Choices of the model in it: log 91.) -/
def Obligations.RingRegisters : Prop :=
  (∀ (f : FnId) (r : Fin 16) (v : Word) (s : State),
     let k := fnKey f
     let x := s.ring k r.val
     (s.port f.port.val).cxl = true → s.refused (.fn f) = none → s.phase ≠ .off →
     (x.enable = true → x.t < v.toNat → v.toNat ≤ x.d + ringEntries x.size →
       exec (.cxDbTailWrite f r v) s = .next (s.setRing k r.val { x with t := v.toNat }))
     ∧ (x.enable = true → x.d + ringEntries x.size < v.toNat → x.t < v.toNat →
       exec (.cxDbTailWrite f r v) s = .next (s.setRing k r.val { x with overrun := true }))
     ∧ (x.enable = false ∨ v.toNat ≤ x.t → exec (.cxDbTailWrite f r v) s = .next (s.setRing k r.val x))
     ∧ (x.enable = true → x.h < v.toNat → v.toNat ≤ x.d →
       exec (.cxDbCplheadWrite f r v) s = .next (s.setRing k r.val { x with h := v.toNat }))
     ∧ (x.enable = false ∨ v.toNat ≤ x.h ∨ x.d < v.toNat → exec (.cxDbCplheadWrite f r v) s = .next (s.setRing k r.val x))
     ∧ (x.enable = false →
       exec (.cxRingSeqWrite f r v) s
         = .next (s.setRing k r.val { x with f := v.toNat, d := v.toNat, t := v.toNat, h := v.toNat, odd := [], cmds := [] }))
     ∧ (x.enable = true → exec (.cxRingSeqWrite f r v) s = .next (s.setRing k r.val x))
     ∧ (x.enable = false →
       exec (.ringEnable f r v) s = .next (s.setRing k r.val { x with
         enable := decide (ringEntries (v.toNat / 2 % 16) ≠ 0), size := v.toNat / 2 % 16, vec := v.toNat / 32 % 16, shadow := v.getLsbD 9
         coalN := v.toNat / 2 ^ 10 % 2 ^ 8, coalUs := v.toNat / 2 ^ 18 % 2 ^ 16, intEn := v.getLsbD 34 }))
     ∧ (x.enable = true → exec (.ringEnable f r v) s = .next (s.setRing k r.val x))
     ∧ (x.enable = true → exec (.ringDisable f r v) s = .next (s.setRing k r.val { x with enable := false, stopped := false }))
     ∧ exec (.stalledClear f r) s = .next (s.setRing k r.val { x with stalled := false })
     ∧ exec (.overrunClear f r) s = .next (s.setRing k r.val { x with overrun := false }))
  ∧ (∀ (f : FnId) (words : List Word) (s : State), words.length = 16 → (s.port f.port.val).cacheEn = true →
       ∃ t, exec (.shadowDoorbell f words) s = .next t
         ∧ (∀ r : Fin 16, t.ring (fnKey f) r.val
             = if (s.ring (fnKey f) r.val).shadow then (s.ring (fnKey f) r.val).tail (words.getD r.val 0).toNat else s.ring (fnKey f) r.val)
         ∧ t = { s with fns := t.fns, out := s.out ++ (s.shadowLines (fnKey f)).map (fun a => .hostRead f.port.val (a * 64) 64) }
         ∧ (∀ g, g ≠ fnKey f → t.fn g = s.fn g) ∧ t.fn (fnKey f) = { s.fn (fnKey f) with rings := (t.fn (fnKey f)).rings })
  ∧ (∀ (f : FnId) (words : List Word) (s : State), (s.port f.port.val).cacheEn = false → exec (.shadowDoorbell f words) s = .next s)

/-- An entry is read from the host at its place in the ring; one whose sequence is F joins the ring's fetched commands and F goes up by one, completed with VERIFY_REJECT when it is
malformed; one with another sequence stalls the ring and signals its vector.
(Choices of the model in it: log 108.) -/
def Obligations.CommandFetchChecksSequence : Prop :=
  ∀ (f : FnId) (r : Fin 16) (entry : BitVec 512) (s : State),
    let k := fnKey f
    let x := s.ring k r.val
    let c : Cmd := { entry := entry, seq := x.f, wait := if entry.toNat % 256 = 7 then (s.fn k).rings.map (fun e => (e.1, e.2.f)) else [] }
    let s' := s.emit (.hostRead f.port.val (x.cmdBase + x.f % ringEntries x.size * 64) 64)
    s.mayFetch k r.val = true →
    (entry.toNat / 2 ^ 32 % 2 ^ 64 = x.f % 2 ^ 64 → c.malformed = false →
      exec (.commandFetch f r entry) s = .next (s'.setRing k r.val { x with f := x.f + 1, cmds := x.cmds ++ [c] }))
    ∧ (entry.toNat / 2 ^ 32 % 2 ^ 64 = x.f % 2 ^ 64 → c.malformed = true →
      exec (.commandFetch f r entry) s
        = .next (s'.setRing k r.val { x with f := x.f + 1, cmds := x.cmds ++ [{ c with done := true, status := stVerifyReject }] }))
    ∧ (entry.toNat / 2 ^ 32 % 2 ^ 64 ≠ x.f % 2 ^ 64 →
      exec (.commandFetch f r entry) s = .next ((s'.setRing k r.val { x with stalled := true }).signal k x.vec))

/-- QUERY completes at once with OK and the value of its row. FENCE completes once every command fetched before it on any ring of the
function has completed. -/
def Obligations.QueryAndFence : Prop :=
  ∀ (f : FnId) (r : Fin 16) (c : Cmd) (x : Ctx) (s : State),
    let k := fnKey f
    s.phase = .ready →
    (s.front k r.val 8 = some c →
      (c.what = 0 → exec (.queryDeviceTime f r) s = .next (s.finish k r.val stOK (s.time % 2 ^ 64)))
      ∧ (c.what = 1 → exec (.queryBeacon f r) s = .next (s.finish k r.val stOK (s.kpr.beacon % 2 ^ 32 + s.flash.boot % 2 ^ 16 * 2 ^ 32)))
      ∧ (c.what = 2 → s.boundCtx k c = some x → exec (.queryEngineTime f r) s = .next (s.finish k r.val stOK (x.engine % 2 ^ 64)))
      ∧ (c.what = 3 → s.boundCtx k c = some x →
          exec (.queryContextState f r) s = .next (s.finish k r.val stOK ((match x.state with
            | .idle => 0 | .waiting => 1 | .running => 1 | .notResident => 2 | .failed => 3) + x.status % 2 ^ 16 * 4)))
      ∧ (c.what = 4 → exec (.queryMailboxRecords f r) s = .next (s.finish k r.val stOK ((s.fn k).mbx.wr % 2 ^ 64))))
    ∧ (∀ entry : BitVec 512, let y := s.ring k r.val
        s.mayFetch k r.val = true → entry.toNat % 256 = 7 → entry.toNat / 2 ^ 32 % 2 ^ 64 = y.f % 2 ^ 64 →
        ({ entry := entry, seq := y.f } : Cmd).malformed = false →
        exec (.commandFetch f r entry) s = .next ((s.emit (.hostRead f.port.val (y.cmdBase + y.f % ringEntries y.size * 64) 64)).setRing k r.val { y with
          f := y.f + 1, cmds := y.cmds ++ [{ entry := entry, seq := y.f, wait := (s.fn k).rings.map (fun e => (e.1, e.2.f)) }] }))
    ∧ (s.front k r.val 7 = some c → (∀ e ∈ c.wait, ∀ d ∈ (s.ring k e.1).cmds, d.seq < e.2 → d.done = true) →
        exec (.fenceCommand f r) s = .next (s.finish k r.val stOK 0))
    ∧ (s.front k r.val 7 = some c → (∃ e ∈ c.wait, ∃ d ∈ (s.ring k e.1).cmds, d.seq < e.2 ∧ d.done = false) →
        exec (.fenceCommand f r) s = .next s)

/-- A STEP of a context with a program waits at its context; one of a failed context completes with NOT_RUN, one with a payload address that
is no SCU of the sector, or without a program, with VERIFY_REJECT; BIND sets the page table root, share, turn and PASID of its context, at
once when no step has begun and before the next step otherwise, makes a failed context idle, and completes; a root that is no table of the
sector completes with VERIFY_REJECT.
(Choices of the model in it: log 99, 103.) -/
def Obligations.StepAndBind : Prop :=
  ∀ (f : FnId) (r : Fin 16) (c : Cmd) (x : Ctx) (q : Sector) (a : State) (s : State),
    let k := fnKey f
    let e := c.entry.toNat
    s.phase = .ready →
    (s.front k r.val 1 = some c → c.started = false → s.boundCtx k c = none → exec (.stepCmd f r) s = .next (s.finish k r.val stVerifyReject 0))
    ∧ (s.front k r.val 1 = some c → c.started = false → s.boundCtx k c = some x → s.payloadBad x c.qaddr = true →
        exec (.stepCmd f r) s = .next (s.finish k r.val stVerifyReject 0))
    ∧ (s.front k r.val 1 = some c → c.started = false → s.boundCtx k c = some x → s.payloadBad x c.qaddr = false →
      (x.state = .failed → exec (.stepCmd f r) s = .next (s.finish k r.val stNotRun 0))
      ∧ (x.state ≠ .failed → x.program = false → exec (.stepCmd f r) s = .next (s.finish k r.val stVerifyReject 0))
      ∧ (x.state ≠ .failed → x.program = true → s.takeIn c.ctxN x = some a →
          exec (.stepCmd f r) s = .next ((a.setFront k r.val (fun c => { c with started := true })).addStep c.ctxN { fn := k, ring := r.val })))
    ∧ (s.front k r.val 3 = some c → s.boundCtx k c = some x → s.sector x.sector = some q → fld e 191 128 % 4096 = 0 →
        s.rootOk x.sector (fld e 191 128) 4096 = true → x.tearing = false →
        let b : Binding := {
          root := fld e 191 128, share := fld e 207 192, turn := if fld e 215 208 = 0 then 8 else fld e 215 208
          pasid := fld e 235 216, pasidV := e.testBit 236 }
        (x.state ≠ .running → x.state ≠ .failed → x.begun = false →
          exec (.bind f r) s = .next (((s.setCtx c.ctxN (x.bindTo b)).dropTlb c.ctxN).finish k r.val stOK 0))
        ∧ ((x.state = .running ∨ x.begun = true) →
          exec (.bind f r) s = .next ((s.setCtx c.ctxN { x with rebind := some b }).finish k r.val stOK 0))
        ∧ (x.state = .failed → x.begun = false →
          exec (.bind f r) s = .next (((s.setCtx c.ctxN { x.bindTo b with
            state := if s.residents x.sector < 64 then .idle else .notResident, status := 0, foot := none, program := false, images := [], scans := [], savedMem := [], savedSpill := []
            save := 0 }).dropTlb c.ctxN).finish k r.val stOK 0)))
    ∧ (s.front k r.val 3 = some c → s.boundCtx k c = some x → s.sector x.sector = some q →
        (fld e 191 128 % 4096 ≠ 0 ∨ s.rootOk x.sector (fld e 191 128) 4096 = false) →
        exec (.bind f r) s = .next (s.finish k r.val stVerifyReject 0))

/-- LOAD_PROGRAM, whole or only staged, starts once at the front of its ring and its lines may be read: a set that is rejected completes with VERIFY_REJECT, one that
passes is kept and, with `stage`, completes, without it is a step of its context. COPY, EXPORT and IMPORT are checked, move row after row
of 4 KiB and complete with the bytes moved, and with VERIFY_REJECT when their context is not the function's: a row of a COPY is read and
written with its fog, a row of an EXPORT goes to the host unless it is fogged, a row of an IMPORT is what the host returned, fogged where it is
poisoned.
(Choices of the model in it: log 30, 98.) -/
def Obligations.LoadAndCopy : Prop :=
  (∀ (f : FnId) (r : Fin 16) (c : Cmd) (x : Ctx) (data : List Byte) (poison : List Nat) (s : State),
     let k := fnKey f
     s.phase = .ready →
     (s.front k r.val 2 = some c → c.started = false → c.entry.getLsbD 10 = false → exec (.loadProgram f r) s = .next (s.startLoad k r.val c))
     ∧ (s.front k r.val 2 = some c → c.started = false → c.entry.getLsbD 10 = true →
         exec (.loadProgramStageOnly f r) s = .next (s.startLoad k r.val c))
     ∧ (∀ e ∈ [(4, Instr.copy f r, false, false), (5, .exportCmd f r, true, false), (6, .importCommand f r data poison, false, true)],
         s.front k r.val e.1 = some c →
         (s.boundCtx k c = none → exec e.2.1 s = .next (s.finish k r.val stVerifyReject 0))
         ∧ (s.boundCtx k c = some x → c.started = false →
           let outside := c.len ≠ 0 ∧ (s.firstOutside x c.src false e.2.2.2 = true ∨ s.firstOutside x c.dst true e.2.2.1 = true)
           (outside → exec e.2.1 s = .next (s.finish k r.val stVerifyReject 0))
           ∧ (¬ outside → x.state = .failed → exec e.2.1 s = .next (s.finish k r.val stNotRun 0))
           ∧ (¬ outside → x.state ≠ .failed → exec e.2.1 s = .next (s.setFront k r.val (fun c => { c with started := true }))))
         ∧ (s.boundCtx k c = some x → x.state ≠ .failed → c.started = true →
           (c.len ≤ c.pos → exec e.2.1 s = .next (s.finish k r.val stOK c.pos))
           ∧ (c.pos < c.len → e.1 ≠ 6 →
             exec e.2.1 s = .next (s.copyRow k r.val c.ctxN x c e.2.2.1 e.2.2.2 [] []))
           ∧ (c.pos < c.len → e.1 = 6 →
             exec e.2.1 s = .next (s.copyRow k r.val c.ctxN x c e.2.2.1 e.2.2.2 data poison)))))
  ∧ (∀ (k r : Nat) (c : Cmd) (x : Ctx) (q : Sector) (imgs : List (Nat × Staged)) (s : State),
       let d := s.directAccess (copyUnit k r) (s.setLines x c.region c.src) []
       let t := (d.1.loadSet x c.ctxN q c.region c.src c.place).1
       let o := (d.1.loadSet x c.ctxN q c.region c.src c.place).2
       let a := (t.chainLoad x.sector c.region imgs).keepImages c.ctxN c.place imgs
       s.boundCtx k c = some x → s.sector x.sector = some q → q.holds c.region = true → s.firstOutside x c.src false false = false →
       x.state = .idle → s.keeperUp = true → q.res = false →
       (d.2 = false → s.startLoad k r c = d.1)
       ∧ (d.2 = true → o = .reject → s.startLoad k r c = t.finish k r stVerifyReject 0)
       ∧ (d.2 = true → c.entry.getLsbD 10 = true → o = .ok imgs → s.startLoad k r c = a.finish k r stOK 0)
       ∧ (d.2 = true → c.entry.getLsbD 10 = false → o = .ok imgs → x.foot = some c.region →
           s.startLoad k r c = (a.setFront k r (fun c => { c with started := true })).addStep c.ctxN
             { fn := k, ring := r, load := some ⟨c.region, c.place, c.entry.getLsbD 9⟩ }))
  ∧ (∀ (k r : Nat) (c : Cmd) (x : Ctx) (toHost fromHost : Bool) (data : List Byte) (poison : List Nat) (a b : List (Nat × Nat)) (s : State),
       let n := c.ctxN
       let m := min 4096 (c.len - c.pos)
       let src := copyPieces (c.src + c.pos) 3 m
       let dst := copyPieces (c.dst + c.pos) 3 m
       let z := (s.rowSides n x toHost fromHost src dst).2
       let d := s.directAccess (copyUnit k r) ((src ++ dst).flatMap (fun e => s.tableLines x e.1) ++ z.1.lines) z.2.lines
       let y := d.1.rowSides n x toHost fromHost src dst
       let moved := fun (v : State) => v.setFront k r (fun c => { c with pos := c.pos + m })
       let v := y.1.copyVerify n x c.src c.len (c.src + c.pos) m
       let w := v.readSide { ctx := some n } a
       let at_ : ErrRec := { unit := 0xFFFF, cls := 5, sev := 3, cause := 0x05, akind := 4, addr := c.src + c.pos }
       (d.2 = false → s.copyRow k r n x c toHost fromHost data poison = d.1)
       ∧ (d.2 = true → y.2 = (.hbm a, .hbm b) →
           s.copyRow k r n x c toHost fromHost data poison
             = moved ((w.1.writeSide { ctx := some n } w.2.1 w.2.2 b).copyChecks n x c.dst c.pos m))
       ∧ (d.2 = true → y.2 = (.hbm a, .host b) →
         (w.2.2.any id = false → s.copyRow k r n x c toHost fromHost data poison = moved (w.1.hostSide x.port w.2.1 b))
         ∧ (w.2.2.any id = true → s.copyRow k r n x c toHost fromHost data poison = w.1.failCtx n stFoggedOutput at_))
       ∧ (d.2 = true → y.2 = (.host a, .hbm b) →
         let u := a.foldl (fun (u : State) e => u.emit (.hostRead x.port e.1 e.2)) y.1
         s.copyRow k r n x c toHost fromHost data poison
           = moved ((u.writeSide { ctx := some n } ((upto 0 m).map (fun i => data.getD i 0)) ((upto 0 m).map (fun i => poison.contains i)) b).copyChecks
               n x c.dst c.pos m)))

/-- The oldest command of a ring, once it has completed and its failure has been recorded, is written to the completion ring, behind a read
that keeps its order, and its interrupt is signalled, unless it is coalesced; a hold of 2 ms ends; a coalesced interrupt
that has waited its time is signalled.
(Choices of the model in it: log 8, 97.) -/
def Obligations.CompletionsAreWritten : Prop :=
  ∀ (f : FnId) (r : Fin 16) (c : Cmd) (l : List Cmd) (t h : Nat) (s : State),
    let k := fnKey f
    let x := s.ring k r.val
    (s.phase = .ready → x.cmds = c :: l → x.stopped = false → c.done = true → c.heldSince = none →
        (c.status = stOK ∨ ∀ e ∈ s.err.collector ++ s.err.held, ¬ (e.cv = true ∧ e.context = c.ctxN ∧ 3 ≤ e.sev)) →
      exec (.completionWrite f r) s = .next (s.writeCompletion k r.val))
    ∧ (x.cmds = c :: l → ringEntries x.size ≠ 0 →
        let n := ringEntries x.size
        let j := x.d % n
        let phase := !x.odd.contains j
        let v := completionBytes c phase s.flash.boot
        let at_ := x.cplBase + j * 32
        s.writeCompletion k r.val
          = ((((s.setRing k r.val { x with d := x.d + 1, cmds := l, odd := if phase = true then setAdd x.odd j else setDel x.odd j }).emit
              (.zeroRead f.port.val x.cplBase)).emit
                (if (s.port f.port.val).cacheEn = true then .cacheWrite f.port.val at_ v else .hostWrite f.port.val at_ v [])).coalesce k r.val
                  (c.entry.getLsbD 8)))
    ∧ (∀ irq, x.intEn = false → s.coalesce k r.val irq = s)
    ∧ (∀ irq, x.intEn = true → (irq = true ∨ x.coalN ≤ x.unsig + 1) →
        s.coalesce k r.val irq = (s.setRing k r.val { x with unsig := 0, coalSince := none }).signal k x.vec)
    ∧ (x.cmds = c :: l → c.heldSince = some h →
      let a := s.advanceTo (h + 2000000)
      exec (.completionHoldTimeout f r) s
        = .next ((a.setRing k r.val { a.ring k r.val with cmds := { c with heldSince := none } :: l }).writeCompletion k r.val))
    ∧ (x.coalSince = some t → x.intEn = true →
      exec (.coalescingTimer f r) s
        = .next (((s.advanceTo (t + x.coalUs * 1000)).setRing k r.val { x with unsig := 0, coalSince := none }).signal k x.vec))

/-! ### Contexts, errors, audit (R412 to R479) -/

/-- A dispatch tick charges every running context; a pass chooses among the waiting ones unless starts are held. A granted context whose footprint is its own starts its step, or goes on with one that was switched out; a step whose SCUs have all
halted and whose units are quiet ends with OK; one whose payload is refused ends with that status, and one that is a LOAD_PROGRAM is carried
out at once; a footprint is switched to the context it was given to, all of it out before all of it in, for a time that stays open; a step whose supply
was in doubt is abandoned; a step longer than its sector's
limit fails its context with TIMEOUT; the teardown of a failed context is carried out.
(Choices of the model in it: log 101, 102, 104, 106, 107, 126.) -/
def Obligations.StepsRun : Prop :=
  (∀ (sec : Fin 64) (x : Sector) (s : State), s.phase = .ready → s.sector sec.val = some x →
     exec (.dispatchTick sec) s = .next (((s.ctxsOf sec.val).foldl (fun (s : State) e => s.chargeCtx e.1) s).preemptAll sec.val)
     ∧ ((s.preemptAll sec.val).startsHeld x = false → exec (.dispatchPass sec) s = .next ((s.preemptAll sec.val).pass sec.val))
     ∧ ((s.preemptAll sec.val).startsHeld x = true → exec (.dispatchPass sec) s = .next (s.preemptAll sec.val)))
  ∧ (∀ (x : Fin 4096) (k : Ctx) (p : Pend) (c : Cmd) (a : State) (q : Sector) (s : State),
       s.phase = .ready → s.ctx x.val = some k →
       (k.granted = true → k.doubt = false → k.state = .waiting → k.steps.head? = some p → (∀ c ∈ k.wantClusters, (s.cl c).scanned = false) →
         (p.load = none → (∀ c ∈ k.wantClusters, s.ownerOf c = some x.val) →
           (k.begun = true → exec (.stepStart x) s = .next (s.run x.val false 0))
           ∧ (k.begun = false → s.drainDue k.wantClusters = false → s.front p.fn p.ring 1 = some c →
               (s.deliverPayload x.val c = .yes a → exec (.stepStart x) s = .next (a.run x.val true c.seq))
               ∧ (∀ st, s.deliverPayload x.val c = .refused st → exec (.stepStart x) s = .next (s.endStep x.val st))))
         ∧ (∀ l, p.load = some l → s.kpr.restarting = false → s.drainDue k.wantClusters = false → (∀ c ∈ k.wantClusters, s.ownerOf c = some x.val ∨ s.ownerOf c = none) →
             exec (.stepStart x) s = .next (s.loadStep x.val l)))
       ∧ (k.doubt = false → k.state = .running → k.clusters.all s.clusterDone = true → exec (.stepEnd x) s = .next (s.endStep x.val stOK))
       ∧ (k.doubt = true → (∀ c ∈ k.clusters, (s.cl c).scanned = false) → exec (.stepEnd x) s = .next (s.abandonStep x.val))
       ∧ (let cs := k.wantClusters.filter (fun c => s.ownerOf c != some x.val)
          let w := (Config.freeValue s.fresh).toNat
          let s' : State := { s with fresh := s.fresh + 1 }
          k.granted = true → s.kpr.restarting = false → s.retrains = false →
          (∀ c ∈ cs, (s.cl c).scanned = false ∧ ∀ y z, s.ownerOf c = some y → s.ctx y = some z → z.holdsFoot = false
            ∧ ∀ r, s.sector z.sector = some r → r.res = false) →
            exec (.footprintSwitch x) s = .next ((s'.switchOutAll cs x.val (w % 2 ^ 32)).switchInAll cs x.val (w / 2 ^ 32 % 2 ^ 32)))
       ∧ (k.state = .running → s.sector k.sector = some q → q.limit ≠ 0 →
           exec (.stepLimitTimeout x) s
             = .next (((s.advanceTo (k.intervalFrom + (q.limit * 1000000 - k.onTime) + 1)).chargeCtx x.val).failCtx x.val stTimeout
                 { unit := 0xFFFF, cls := 5, sev := 3, cause := 0x0B }))
       ∧ (k.state = .failed → k.tearing = true → k.clusters.any s.swapping = false → exec (.contextTeardown x) s = .next (s.teardown x.val)))
  ∧ (∀ (e : Nat) (k : Ctx),
       let a := k.charge e
       a.engine = (k.engine + e) % 2 ^ 64 ∧ a.stepEngine = k.stepEngine + e ∧ a.v = k.v + BitVec.ofNat 64 (ceilDiv (e * 65535) k.share))

/-- The oldest record of the collector goes to the log, and a record held at its source takes the place it leaves. A unit's first corrected error of a class and cause is recorded at once with `repeat` 1; further ones within the second are counted;
at the end of the second one record stands for them, with their number and the address of the latest.
(Choices of the model in it: log 109, 110, 131, 154.) -/
def Obligations.RecordsAndCoalescing : Prop :=
  (∀ (r : ErrRec) (l : List ErrRec) (s : State), s.err.collector = r :: l → s.phase = .ready →
     exec .logRecordWrite s
       = .next (({ s with err := { s.err with collector := l ++ s.err.held.take 1, held := s.err.held.drop 1 } } : State).writeLog r))
  ∧ (∀ (r : ErrRec) (c : CorrRun) (s : State),
       (s.err.coalesce = [] → s.err.collector.length < 1024 → r.rep = 1 →
         ∃ q, (s.corrected r).err.collector = s.err.collector ++ [q] ∧ q.rep = 1 ∧ q.sev = 1 ∧ q.cause = 1 ∧ q.addr = r.addr ∧ q.unit = r.unit
           ∧ (s.corrected r).err.coalesce = [{ start := s.time, count := 0, latest := { r with sev := 1, cause := 1, fn := s.fnOf r } }])
       ∧ (s.err.coalesce = [c] → c.about r.unit r.cls 1 = true → s.time ≤ c.start + 1000000000 →
         s.corrected r = { s with err := { s.err with coalesce := [{ c with count := min (c.count + 1) 65535, latest := { r with sev := 1, cause := 1, fn := s.fnOf r } }] } })
       ∧ (s.err.coalesce = [c] → 0 < c.count → s.err.collector.length < 1024 →
         ∃ t q, exec (.correctedErrorSummary c.latest.unit c.latest.cls c.latest.cause) s = .next t
           ∧ t.err.collector = s.err.collector ++ [q] ∧ q.rep = c.count ∧ q.addr = c.latest.addr ∧ q.unit = c.latest.unit
           ∧ t.err.coalesce = [] ∧ c.start + 1000000000 ≤ t.time))

/-- A device reset runs for the trigger that is latched, with one more restart for another cause, or for one that comes while the device is
in service; it ends in service with every session gone, and the fourth within 600 s leaves the device halted.
(Choices of the model in it: log 112.) -/
def Obligations.DeviceResetRuns : Prop :=
  ∀ (cause : Fin 10) (bad : List (Fin 2176)) (ok : Bool) (c : Nat) (s : State),
    (s.phase = .ready ∨ s.phase = .resetting) →
    (s.trigger = some c →
      exec (.deviceReset cause bad ok) s
        = .next (s.deviceReset c (s.err.again + (if cause.val = 0 ∨ cause.val = c then 0 else 1)) (bad.map (·.val)) ok))
    ∧ (s.trigger = none → cause.val ≠ 0 →
      exec (.deviceReset cause bad ok) s
        = .next ((s.latchReset cause.val).deviceReset cause.val 0 (bad.map (·.val)) ok))
    ∧ (let recent := (s.err.resetTimes.filter (fun t => decide (s.triggerAt ≤ t + 600000000000))).length
       (recent < 3 → (s.deviceReset c 0 (bad.map (·.val)) ok).phase = .ready ∧ (s.deviceReset c 0 (bad.map (·.val)) ok).sec.sessions = [])
       ∧ (3 ≤ recent → (s.deviceReset c 0 (bad.map (·.val)) ok).phase = .halted ∧ (s.deviceReset c 0 (bad.map (·.val)) ok).err.halted = true))

/-- A unit reported is put under watch, and its cluster is swapped when its last watch began within 24 hours; a partner that agrees makes an
audit clean; one that does not makes the sample go to a second partner, with the completions of its cluster held; the verdict of the third
tells who is faulty, the unit, the partner or both; without one in 1 ms the audited unit is taken to be.
(Choices of the model in it: log 116, 128, 130.) -/
def Obligations.AuditsDecide : Prop :=
  ∀ (unit n : Nat) (x : Sample) (s : State), s.phase = .ready →
    (s.kpr.restarting = false → unit ∈ s.aud.reports →
      let p := s.physUnit unit
      let t : State := { s with aud := { s.aud with
        reports := s.aud.reports.erase unit, watches := tabSet s.aud.watches p (2 ^ 24), events := tabSet s.aud.events p s.time,
        watch := sat32 s.aud.watch 1 } }
      (tabFind s.aud.events p = none → exec (.unitWatch unit) s = .next t)
      ∧ (∀ b, tabFind s.aud.events p = some b →
          (s.time ≤ b + 86400000000000 → exec (.unitWatch unit) s = .next (t.queueSwap (clusterOf unit)))
          ∧ (b + 86400000000000 < s.time → exec (.unitWatch unit) s = .next t)))
    ∧ (s.aud.samples[n]? = some x → x.mismatch = false → (∀ y ∈ s.aud.samples.take n, y.partner = x.partner → y.mismatch = true) →
      let z := s.nextPartner x.sector x.unit [x.partner / 32]
      let y := { x with mismatch := true, reported := z.1.time, second := z.2.getD 0xFFFFFF }
      exec (.auditSampleRun n true) s = .next (({ s with aud := { s.aud with samples := s.aud.samples.eraseIdx n } } : State).cleanAudit x)
      ∧ exec (.auditSampleRun n false) s
          = .next (({ z.1 with aud := { z.1.aud with
              samples := z.1.aud.samples.set n y, mismatch := sat32 z.1.aud.mismatch 1
              pending := setAdd z.1.aud.pending (clusterOf x.unit) } } : State).holdSteps (clusterOf x.unit)))
    ∧ (s.aud.samples[n]? = some x → x.mismatch = true →
      (x.second ≠ 0xFFFFFF →
        let a := s.endSample n (clusterOf x.unit)
        exec (.auditVerdict n .firstPartner) s
          = .next (({ a with aud := { a.aud with unitBad := sat16 a.aud.unitBad 1 } } : State).unitFaulty x)
        ∧ exec (.auditVerdict n .auditedUnit) s
          = .next ((({ a with aud := { a.aud with partnerBad := sat16 a.aud.partnerBad 1 } } : State).partnerFaulty x).releaseSteps (clusterOf x.unit) false)
        ∧ exec (.auditVerdict n .neither) s
          = .next ((({ a with aud := { a.aud with both := sat16 a.aud.both 1 } } : State).partnerFaulty x).unitFaulty x))
      ∧ (let a := (s.advanceTo (x.reported + 1000000)).endSample n (clusterOf x.unit)
         exec (.auditSecondPartnerTimeout n) s
           = .next (({ a with aud := { a.aud with noThird := sat16 a.aud.noThird 1 } } : State).unitFaulty x)))

/-! ### Keeper and transactions (R516 to R546) -/

/-- The beacon goes up by one each millisecond; standing still for 100 ms it brings a device reset with cause 6; a die agent that does not
answer brings one with cause 3. Firmware: an image written to the slot not in force is kept with whether it verified and is not below the
rollback floor; `go` starts a hot restart, and is refused while a transaction, a swap, a retraining, a retirement or a trial stands; 400 ms
later the hardware stops the beacon; 60 s after takeover the new slot is in force and the rollback floor is at least its version.
(Choices of the model in it: log 34, 119, 124.) -/
def Obligations.BeaconAndFirmware : Prop :=
  (∀ (die : Fin 8) (s : State), s.phase = .ready →
     (s.kpr.beaconDead = false → s.kpr.restarting = false →
       let t := s.advanceTo (s.kpr.beaconAt + 1000000)
       exec .beaconTick s = .next { t with kpr := { s.kpr with beacon := (s.kpr.beacon + 1) % 2 ^ 64, beaconAt := t.time } })
     ∧ (s.kpr.restarting = false → exec .watchdogExpiry s = .next ((s.advanceTo (s.kpr.beaconAt + 100000000)).latchReset 6))
     ∧ (die.val ≠ 0 → exec (.dieAgentTimeout die) s = .next (s.latchAs 3 0x0B))
     ∧ (∀ (k w : Nat), s.trigger = none →
         let t : State := { s with trigger := some k, triggerAt := s.time, phase := .resetting
                                   ports := tabMap s.ports (fun _ v => { v with resetDrop := 0 }) }
         s.latchReset k = t ∧ s.latchAs k w = { t with err := { s.err with trigCause := w } }))
  ∧ (∀ (slot : Fin 2) (img : FwImage) (r : Requester) (v : Word) (s : State), s.phase = .ready →
       (s.kpr.restarting = false → slot.val ≠ s.flash.inForce →
         let good := Config.rsaGood img.bytes img.sig
         let low := decide (img.svn.toNat < s.flash.floor)
         let x : FwSlot := { version := img.version.toNat, svn := img.svn.toNat, digest := Config.sha512 img.bytes, good := good && !low }
         exec (.firmwareImageWrite slot img) s = .next { s with
           flash := { s.flash with
             slotA := if slot.val = 0 then x else s.flash.slotA, slotB := if slot.val = 0 then s.flash.slotB else x, counter := s.flash.counter + 1 }
           kpr := { s.kpr with fwResult := if good = false then 2 else if low = true then 3 else 1 } })
       ∧ (s.mayManage r = true → v.getLsbD 0 = true → s.kpr.restarting = false →
           let stands := s.txn.state ≠ .idle ∨ s.kpr.swapQ ≠ [] ∨ s.kpr.retrainStack ≠ none ∨ s.kpr.failing = true ∨ s.kpr.trial = true
           (¬ stands → exec (.firmwareUpdateGo r v) s = .next { s with kpr := { s.kpr with restarting := true, restartAt := s.time } })
           ∧ (stands → exec (.firmwareUpdateGo r v) s = .next { s with kpr := { s.kpr with fwResult := 4 } }))
       ∧ (s.kpr.restarting = true →
           let t := s.advanceTo (s.kpr.restartAt + 400000000)
           exec .hotRestartTimeout s = .next { t with kpr := { t.kpr with beaconDead := true } })
       ∧ (s.kpr.trial = true → s.kpr.restarting = false →
           ∀ t, t = s.advanceTo (s.kpr.trialAt + 60000000000) →
           exec .trialEnd s = .next { t with
             kpr := { t.kpr with trial := false }
             flash := { t.flash with
               inForce := t.sec.runSlot, trialSlot := none, floor := max t.flash.floor t.sec.svn, fwUpdates := sat16 t.flash.fwUpdates 1
               counter := t.flash.counter + 1 } }))

/-- A transaction is opened, takes its staged entries in order, is discarded by a rollback or after 10 s; a commit with an entry that
fails its check changes nothing but its status and the entry's index; one whose entries pass applies every register write at once, when
nothing that it waits for stands, and its operations are to run; with none it ends with OK.
(Choices of the model in it: log 121.) -/
def Obligations.Transactions : Prop :=
  (∀ (r : Requester) (v : Word) (i : Nat) (s : State), s.mayManage r = true →
     (s.txn.state = .idle → s.kpr.restarting = false →
       exec (.txnBegin r) s = .next { s with txn := { s.txn with state := .opened, staged := [], id := s.txn.id + 1, openedAt := s.time, ops := [] } })
     ∧ (s.txn.state = .opened → s.txn.staged.length < 1024 →
         exec (.txnStageWrite r v) s = .next { s with txn := { s.txn with staged := s.txn.staged ++ [.write s.txn.addr v] } }
         ∧ exec (.txnStageOp r v) s = .next { s with txn := { s.txn with staged := s.txn.staged ++ [.op v] } })
     ∧ (s.txn.state = .opened → 1024 ≤ s.txn.staged.length →
         ∀ e ∈ [Instr.txnStageWrite r v, .txnStageOp r v], exec e s = .next { s with txn := { s.txn with status := stOversize } })
     ∧ (s.txn.state ≠ .opened →
         ∀ e ∈ [Instr.txnStageWrite r v, .txnStageOp r v], exec e s = .next { s with txn := { s.txn with status := stVerifyReject } })
     ∧ (s.txn.state = .opened → exec (.txnRollback r) s = .next { s with txn := { s.txn with state := .idle, staged := [], ops := [] } })
     ∧ (s.txn.state = .opened → s.phase = .ready →
         let t := s.advanceTo (s.txn.openedAt + 10000000000)
         exec .txnTimeout s = .next { t with txn := { t.txn with state := .idle, staged := [], ops := [] } })
     ∧ (s.txn.state = .opened → s.kpr.restarting = false → s.checkItems (itemsOf s.txn.staged) = some i →
         exec (.txnCommit r) s
           = .next { s with txn := { s.txn with state := .idle, staged := [], status := stVerifyReject, failIdx := i % 1024 } })
     ∧ (s.txn.state = .opened → s.kpr.restarting = false → s.checkItems (itemsOf s.txn.staged) = none → s.txn.staged ≠ [] →
         let t : State := { s with txn := { s.txn with state := .committing } }
         (s.commitWaits = true → exec (.txnCommit r) s = .next t) ∧ (s.commitWaits = false → exec (.txnCommit r) s = .next t.safePoint))
     ∧ (s.txn.state = .opened → s.kpr.restarting = false → s.txn.staged = [] →
         exec (.txnCommit r) s = .next { s with txn := { s.txn with state := .idle, status := stOK, staged := [], ops := [] } }))
  ∧ (∀ (l : List (Nat × Word)) (s : State), s.txn.staged = l.map (fun e => TxnEntry.write e.1 e.2) →
       s.safePoint = (l.foldl (fun (t : State) e => t.keeperWrite e.1 e.2) s).txnDone)

/-- The operations of a commit run in their order: each is the one at the head of those that are left; the release of a sector waits for
the hosts to answer the snoops of its granules' lines. A queued swap of a running cluster is
carried out, and ends the operation that asked for it; a retraining ends with its result, and one that fails twice retires the stack; a failing
part is retired once it can be. A context is created idle with its function; a destroyed context and a released sector are no more.
(Choices of the model in it: log 32, 33, 105, 122, 123, 167.) -/
def Obligations.OperationsSwapsRetirements : Prop :=
  (∀ (ws : List Nat) (a : State) (s : State),
     (∀ e ∈ [(1, Instr.createSector), (3, .createContext), (4, .destroyContext), (7, .retirePseudoChannel), (8, .retireStack)],
       s.headOp e.1 = some ws → (s.opApply ws = some a → exec e.2 s = .next a.popOp) ∧ (s.opApply ws = none → exec e.2 s = .next s.popOp))
     ∧ (s.headOp 2 = some ws →
         (s.sector (fld (ws.headD 0) 17 12) = none → exec .releaseSector s = .next (s.runOp 2))
         ∧ (∀ x, s.sector (fld (ws.headD 0) 17 12) = some x →
             exec .releaseSector s = .next (if (s.hostsLetGo x).2 then (s.hostsLetGo x).1.runOp 2 else (s.hostsLetGo x).1)))
     ∧ (∀ k, s.headOp k = some ws →
         (s.opApply ws = some a → s.runOp k = a.popOp) ∧ (s.opApply ws = none → s.runOp k = s.popOp))
     ∧ (s.headOp 5 = some ws → exec .swapCluster s = .next (s.queueSwap (fld (ws.headD 0) 22 12)))
     ∧ (s.headOp 6 = some ws → s.kpr.retrainStack = none →
         exec .retrainStack s = .next { s.setCtrl (opStack (ws.headD 0)) { s.ctrl (opStack (ws.headD 0)) with retraining := true } with
           kpr := { s.kpr with retrainStack := some (opStack (ws.headD 0)) } })
     ∧ (s.headOp 9 = some ws →
         exec .operatorDeviceReset s = .next (({ s with txn := { s.txn with ops := s.txn.ops.drop 1 } } : State).latchReset 9)))
  ∧ (∀ (c : Fin 2048) (n : Fin 20) (k : Nat) (pc : Option Nat) (l : List (Nat × Option Nat)) (a : State) (s : State),
       s.phase = .ready → s.kpr.restarting = false →
       (s.swapping c.val = true → (s.cl c.val).scan = .running → (s.cl c.val).scanned = false → (s.cl c.val).loading = false →
           s.underWay c.val = false →
           let b : State := { s.swapNow c.val with kpr := { (s.swapNow c.val).kpr with swapQ := s.kpr.swapQ.erase c.val } }
           (∀ ws, b.headOp 5 = some ws → fld (ws.headD 0) 22 12 = c.val → exec (.lightshipSwap c) s = .next b.popOp.commitPoint)
           ∧ ((∀ ws, b.headOp 5 = some ws → fld (ws.headD 0) 22 12 ≠ c.val) → exec (.lightshipSwap c) s = .next b.commitPoint))
       ∧ ((s.ctrl n.val).retired = false → (∀ m, s.kpr.retrainStack = some m → m = n.val) → s.headOp 6 = none →
           let b : State := { s.setCtrl n.val { s.ctrl n.val with retraining := false, trained := true } with kpr := { s.kpr with retrainStack := none } }
           let d : State := { s.setCtrl n.val { s.ctrl n.val with retraining := false, trained := false } with kpr := { s.kpr with retrainStack := none } }
           exec (.hbmRetrain n .good) s = .next b.commitPoint
           ∧ ((d.retireOrFail n.val none).headOp 6 = none →
               exec (.hbmRetrain n .failedTwice) s = .next (d.retireOrFail n.val none).commitPoint))
       ∧ (s.hbm.failing = (k, pc) :: l → s.retirePart k pc = some a →
           exec .retirementProceed s = .next { a with hbm := { a.hbm with failing := l }, kpr := { a.kpr with failing := !l.isEmpty } }))
  ∧ (∀ (r p f n : Nat) (x : Sector) (s t : State), s.sector r = some x →
       (s.createContext r p f n = some t →
         s.ctx n = none ∧ bitOf x.ports p = true ∧ ∃ y, t.ctx n = some y ∧ y.sector = r ∧ y.port = p ∧ y.fn = f ∧ y.steps = [] ∧ y.program = false
           ∧ (s.residents r < 64 → y.state = .idle) ∧ (∀ m, m ≠ n → t.ctx m = s.ctx m))
       ∧ (s.destroyContext n).ctx n = none ∧ (s.releaseSector r).sector r = none)

/-! ### Memory units and external memory -/

/-- The events of a memory unit: a bank group powered down or woken reads as zero with no fog; an answered read completes, a write that has
been acknowledged completes; a scrub reads the next granule; a window write that passes its checks is performed and acknowledged, or accepted
until its bank groups have woken; one with a closed window or an old epoch is refused and one that breaks another check fails its writer, and
both are counted. A bank group that loses its contents reads as zero in its range, its fog bits are clear and its blocks are unchecked; every byte outside
it stays.
(Choices of the model in it: log 25, 48, 50.) -/
def Obligations.MemoryUnitEvents : Prop :=
  (∀ (m : MuId) (b : Fin 8) (n : Nat) (host : List Byte) (poison : List Bool) (q : ExtReq) (p : Packet) (x y : List Packet) (j : Nat) (s : State),
     let g := muGid m
     let u := s.mu g
     let r := s.rt m.cluster.val
     let a := s.setRt m.cluster.val { r with inbox := x ++ y }
     (s.phase = .ready → u.mayPowerDown b.val = true →
       exec (.bankGroupPowerDown m b) s = .next (s.setMu g { u.loseGroup b.val with powered := u.powered &&& ~~~ (1#8 <<< b.val) }))
     ∧ (u.waking.getLsbD b.val = true →
       exec (.bankGroupWake m b) s = .next (s.setMu g (u.wakeNow (1#8 <<< b.val))))
     ∧ (s.reqWhere g n (fun q => !q.write && q.sent && !q.done && (q.answered || q.target == 1)) = some q → q.target ≠ 1 →
       exec (.externalReadData m n host poison) s = .next ((s.progress m.cluster.val).modReq g q.id (fun q => { q with done := true })))
     ∧ (s.reqWhere g n (fun q => !q.write && q.sent && !q.done && (q.answered || q.target == 1)) = some q → q.target = 1 →
       exec (.externalReadData m n host poison) s = .next ((s.progress m.cluster.val).modReq g q.id (fun q => { q with
         done := true, data := (host ++ List.replicate q.len 0).take q.len
         fog := (upto 0 q.len).map (fun i => poison.getD ((q.addr + i) / 64 - q.addr / 64) false) })))
     ∧ (∀ req st, r.inbox = x ++ p :: y → (∀ z ∈ x, z.isWriteAck g = false) → p.dest = g → p.body = .writeAck req st →
       exec (.writeAcknowledgement m) s
         = .next ((a.modReq g req (fun q => { q with done := true, status := st })).progress m.cluster.val))
     ∧ ((∀ z ∈ r.inbox, z.isWriteAck g = false) →
         s.reqWhere g 0 (fun q => q.write && q.answered && !q.done) = some q →
       exec (.writeAcknowledgement m) s = .next ((s.modReq g q.id (fun q => { q with done := true })).progress m.cluster.val))
     ∧ (s.phase = .ready → u.scrubInt ≠ 0 → u.nextPowered u.scrubPos = some j →
       ∃ t, exec (.muScrubRead m) s = .next t ∧ (t.mu g).scrubPos = (j + 1) % 49152
         ∧ ∀ g' a, memGet (t.mu g').mem a = memGet (s.mu g').mem a)
     ∧ (s.phase = .ready → u.zeroizing = false → s.logWaits g = false →
         (∀ z l, u.accepted = z :: l → u.asleep z.addr z.bytes.length ≠ 0) →
         r.inbox = x ++ p :: y → (∀ z ∈ x, z.isWindowWrite g = false) → p.dest = g →
         ∀ k ep off right bytes keep fog req, p.body = .windowWrite k ep off right bytes keep fog req →
           let w := u.win k
           let z : WinWrite := { win := k, addr := w.base * 64 + off, bytes := bytes, keep := keep, fog := fog, src := p.src, ctx := p.ctx, req := req }
           let dropped := a.setMu g { u with winDrop := min (u.winDrop + 1) 0xFFFFFFFF }
           (w.opened = true → w.epoch = ep → w.writer = p.ctx → bitOf w.rights right = true → off + bytes.length ≤ w.length * 64 →
             (u.accepted = [] → u.asleep z.addr bytes.length = 0 →
               exec (.windowWrite m) s
                 = .next (((a.performWin g z).reply m.cluster.val g p.src p.ctx (.writeAck req stOK)).progress m.cluster.val))
             ∧ ((u.accepted ≠ [] ∨ u.asleep z.addr bytes.length ≠ 0) →
               exec (.windowWrite m) s = .next (a.setMu g { u.wake z.addr bytes.length with accepted := u.accepted ++ [z] })))
           ∧ (w.opened = false ∨ w.epoch ≠ ep →
               exec (.windowWrite m) s = .next (dropped.reply m.cluster.val g p.src p.ctx (.writeAck req stWindowClosed)))
           ∧ (w.opened = true → w.epoch = ep → (w.writer ≠ p.ctx ∨ bitOf w.rights right = false ∨ w.length * 64 < off + bytes.length) →
               exec (.windowWrite m) s
                 = .next (dropped.failCtx p.ctx stContextFault p.sent)))
     ∧ (s.phase = .ready → u.zeroizing = false → s.logWaits g = false → ∀ z l, u.accepted = z :: l → u.asleep z.addr z.bytes.length = 0 →
         exec (.windowWrite m) s
           = .next ((((s.setMu g { u with accepted := l }).performWin g z).reply m.cluster.val g z.src z.ctx (.writeAck z.req stOK)).progress
               m.cluster.val)))
  ∧ (∀ (m : Mu) (b : Fin 8) (a : Nat), Memory.wf m.mem = true →
       let t := m.loseGroup b.val
       (groupOf a = b.val → memGet t.mem a = 0) ∧ (groupOf a ≠ b.val → memGet t.mem a = memGet m.mem a)
       ∧ (∀ g ∈ t.fog, groupOf (g * 64) ≠ b.val) ∧ (∀ e ∈ t.checks, groupOf (e.1 * 4096) ≠ b.val))

/-- A controller serves the request at the head of its queue: a read answers with the bytes that memory holds, a write stores its bytes and
is acknowledged, and the read or write of a host that had to wait is performed; a scrub reads the next line. What becomes of a page request: a success waits at its engine, a failure or a second without an answer fails the request; an
invalidation of translations that nothing uses completes.
(Choices of the model in it: log 75, 76, 78, 79, 137, 138.) -/
def Obligations.ExternalMemoryServes : Prop :=
  (∀ (n : Fin 20) (h : HbmReq) (l : List HbmReq) (k : Nat) (s : State),
     let rd := s.mayAccess (ctrlWho n.val) (linesOf h.addr h.len) []
     let wr := s.mayAccess (ctrlWho n.val) [] (linesOf h.addr h.len)
     let a := (rd.1.popHead n.val).serveRead n.val h
     (s.serves n.val = true → (s.ctrl n.val).queue = h :: l → h.write = false → h.hostPort = none →
       exec (.hbmRead n) s = .next (if rd.2 then a.1.answerReq h.unit h.req a.2.1 a.2.2 else rd.1))
     ∧ (s.serves n.val = true → (s.ctrl n.val).queue = h :: l → h.write = true → h.hostPort = none →
       exec (.hbmWrite n) s
         = .next (if wr.2 then ((wr.1.popHead n.val).hbmWriteKeep h.who h.addr h.bytes h.keep h.fog).answerReq h.unit h.req [] [] else wr.1))
     ∧ (s.serves n.val = true → (s.ctrl n.val).queue = h :: l → ∀ p, h.hostPort = some p →
         (h.write = false → exec (.hbmRead n) s = .next ((s.popHead n.val).hostRead p h.req h.addr))
         ∧ (h.write = true → exec (.hbmWrite n) s = .next ((s.popHead n.val).hostWrite h.addr h.bytes h.keep (h.fog.any id))))
     ∧ (s.phase = .ready → (s.ctrl n.val).scrubInt ≠ 0 → (s.ctrl n.val).retraining = false → s.nextLine n.val (s.ctrl n.val).scrubPos = some k →
       exec (.hbmScrubRead n) s
         = .next ((s.readLine {} k).setCtrl n.val { (s.readLine {} k).ctrl n.val with scrubPos := k + 1 })))
  ∧ (∀ (f : FnId) (n i : Nat) (q : PageReq) (p : Fin 8) (iova len : Nat) (s : State),
       (s.pageOf (fnKey f) n = some (i, q) →
         (∀ pl w, exec (.pageResponse f n (.success pl w)) s
             = .next (if w then { s with pageReqs := listSet s.pageReqs i { q with answer := some (.success pl w) } }
                 else s.pageFail i q stPageFault 0x0C))
         ∧ (exec (.pageResponse f n .invalidRequest) s = .next (s.pageFail i q stPageFault 0x0C))
         ∧ exec (.pageRequestTimeout f n) s = .next ((s.advanceTo (q.sentAt + 1000000000)).pageFail i q stTimeout 0x0B)
         ∧ exec (.pageResponse f n .responseFailure) s
             = .next ((s.setFn (fnKey f) { s.fn (fnKey f) with priFailed := true }).pageFail i q stPageFault 0x0C))
       ∧ ((∀ e ∈ s.tus, ∀ r ∈ e.2.running, s.usesPage p.val iova len r = false) →
           ∃ t, exec (.atsInvalidation p iova len) s = .next t ∧ t.out = s.out ++ [.atsDone p.val iova]
             ∧ ∀ e ∈ t.atc, ¬ (e.port = p.val ∧ e.iova < iova + len ∧ iova < e.iova + 4096))
       ∧ ((∃ e ∈ s.tus, ∃ r ∈ e.2.running, s.usesPage p.val iova len r = true) → exec (.atsInvalidation p iova len) s = .next s))
  ∧ (∀ (who : Nat) (rd wr : List Nat) (s : State),
       let t := s.mayAccess who rd wr
       (t.2 = true → t.1.hbm = s.hbm ∧ t.1.out = s.out) ∧ t.1.hbm.mem = s.hbm.mem
       ∧ (s.snoops = [] → (∀ p < 8, (s.port p).filter = []) → t = (s, true)))

/-! ### The host's ports (R381, R403 to R411) -/

/-- A host read of a mapped line answers with the bytes that device memory holds there and with poison for a fogged or uncorrectable
line, changes no byte and leaves the line in the port's snoop filter (its half-lines decode without error); a write stores the bytes that its
mask names and no other; while the stack is held or an earlier request of the line waits, both are left at the controller; an unmapped
offset is counted, and read as zeros with poison. An answer to a snoop ends it and writes back the line that came with it; a snoop that stays unanswered for 10 ms fogs the line and
takes the port's CXL.mem out of service.
(Choices of the model in it: log 77, 156.) -/
def Obligations.HostMemoryAccesses : Prop :=
  (∀ (p : Fin 8) (off : Nat) (data : List Byte) (mask : List Bool) (poison : Bool) (s : State),
     let v := s.port p.val
     let o := off / 64 * 64
     v.cxl = true → v.memEn = true → s.memRefused p.val = false → s.inReset = false →
     (v.hdm o = none →
       exec (.cxlMemRead p off) s = .next ((s.setPort p.val { v with unmapped := min (v.unmapped + 1) 0xFFFFFFFF }).emit
         (.memReply p.val o (List.replicate 64 0) true))
       ∧ exec (.cxlMemWrite p off data mask poison) s = .next (s.setPort p.val { v with unmapped := min (v.unmapped + 1) 0xFFFFFFFF }))
     ∧ ∀ a, v.hdm o = some a → s.serves (s.stackOf a) = true →
       (s.hostWaits a = false →
         (v.filter.length < 262144 → (∀ k, tabGet [] s.hbm.errs k = []) →
           ∃ t, exec (.cxlMemRead p off) s = .next t ∧ t.out = s.out ++ [.memReply p.val o (memRead s.hbm.mem a 64) (s.hbmBad a 64)]
             ∧ t.hbm.mem = s.hbm.mem ∧ a / 64 ∈ (t.port p.val).filter)
         ∧ ((∀ i < 64, mask.getD i false = true) → Memory.wf s.hbm.mem = true →
             ∃ t, exec (.cxlMemWrite p off data mask poison) s = .next t
               ∧ (∀ i < 64, memGet t.hbm.mem (a + i) = data.getD i 0)
               ∧ (∀ b, (b < a ∨ a + 64 ≤ b) → memGet t.hbm.mem b = memGet s.hbm.mem b))
         ∧ (Memory.wf s.hbm.mem = true → (∀ k, tabGet [] s.hbm.errs k = []) →
             ∃ t, exec (.cxlMemWrite p off data mask poison) s = .next t
               ∧ (∀ i < 64, memGet t.hbm.mem (a + i) = if mask.getD i false then data.getD i 0 else memGet s.hbm.mem (a + i))
               ∧ (∀ b, (b < a ∨ a + 64 ≤ b) → memGet t.hbm.mem b = memGet s.hbm.mem b)))
       ∧ (s.hostWaits a = true →
         exec (.cxlMemRead p off) s
             = .next (s.holdHost { unit := hostUnit p.val, req := o, addr := a, len := 64, write := false })
         ∧ exec (.cxlMemWrite p off data mask poison) s
             = .next (s.holdHost { unit := hostUnit p.val, req := o, addr := a, len := 64, write := true
                                   bytes := (upto 0 64).map (fun i => data.getD i 0), keep := maskKeep mask, fog := [poison] })))
  ∧ (∀ (p : Fin 8) (line : Nat) (x : Snoop) (wb : List Byte) (s : State),
       s.snoops.find? (fun x => x.port == p.val && x.line == line && !x.answered) = some x →
       let a := s.answerSnoop p.val line
       let w := a.hbmWrite {} (line * 64) ((upto 0 64).map (fun i => wb.getD i 0)) []
       exec (.biResponse p line none) s = .next (a.settleMap p.val)
       ∧ ((s.addrSector (line * 64)).isSome = true → exec (.biResponse p line (some wb)) s = .next (w.settleMap p.val))
       ∧ ((s.addrSector (line * 64)).isSome = false → exec (.biResponse p line (some wb)) s = .next (a.settleMap p.val))
       ∧ (Memory.wf s.hbm.mem = true → ∀ i < 64, memGet w.hbm.mem (line * 64 + i) = wb.getD i 0)
       ∧ a.hbm = s.hbm ∧ (∀ y ∈ a.snoops, y.port = p.val → y.line = line → y.answered = true)
       ∧ (∀ y, ¬ (y.port = p.val ∧ y.line = line) → (y ∈ a.snoops ↔ y ∈ s.snoops))
       ∧ (∃ t, exec (.bisnpTimeout p line) s = .next t ∧ x.sentAt + 10000000 ≤ t.time ∧ line ∈ t.hbm.fogLines
         ∧ (t.port p.val).memEn = false ∧ (t.port p.val).memOff = true
         ∧ (∀ y ∈ t.snoops, y.port = p.val → y.line = line → y.answered = true)))

/-- A link that trains in flit mode brings its port into service, another one keeps it out; a reset of the port, however it comes, leaves
it out of service with no address map, no tracked line, no snoop and no translation; PERST_N, which is counted, and Hot Reset, which a
viral indication and an integrity failure of the link's encryption are treated as, bring one at once, a link that is down for more than 10 ms
too; the keys of the link come with a session; an FLR takes every command of the functions it names, and the contexts of those functions.
(Choices of the model in it: log 92, 93, 94, 95, 96.) -/
def Obligations.PortEvents : Prop :=
  (∀ (p : Fin 8) (rate width : Fin 4) (fm : Bool) (us ms ses : Nat) (f : FnId) (s : State),
     let v := s.port p.val
     let r := s.portReset p.val
     s.phase = .ready →
     (rate.val ≠ 0 → width.val ≠ 0 →
       exec (.linkUp p rate width true) s = .next (s.setPort p.val { v with
         rate := rate.val, width := width.val, cxl := true, cacheEn := true, memEn := !v.memOff
         retrains := if v.cxl then min (v.retrains + 1) 0xFFFF else v.retrains }))
     ∧ ((rate.val = 0 ∨ width.val = 0 ∨ fm = false) →
       exec (.linkUp p rate width fm) s = .next (s.setPort p.val { v with
         rate := rate.val, width := width.val, cxl := false, cacheEn := false, memEn := false }))
     ∧ (∀ e ∈ [Instr.hotReset p, .viralIndication p],
         exec e s = .next (r.setPort p.val { r.port p.val with hot := min ((r.port p.val).hot + 1) 0xFFFF }))
     ∧ (10 ≤ us →
         exec (.perstN p us) s = .next (r.setPort p.val { r.port p.val with perst := min ((r.port p.val).perst + 1) 0xFFFF, memOff := false }))
     ∧ (us = 0 → exec (.perstN p us) s = .next s)
     ∧ (10 < ms → exec (.dlDown p ms) s = .next r) ∧ (ms ≤ 10 → exec (.dlDown p ms) s = .next s)
     ∧ (v.ideSecure = true → exec (.ideIntegrityFailure p) s = .next ((s.setPort p.val { v with ideSecure := false }).hotReset p.val))
     ∧ (s.sec.sessions.any (fun x => x.id == ses && x.path == .doe p) = true →
         exec (.cxlKeyExchange p ses) s
           = .next ((s.emit (.spdm "CXL_KEY_EXCHANGE" true)).setPort p.val { v with ideKeys := true, ideSecure := true }))
     ∧ (s.sec.sessions.any (fun x => x.id == ses && x.path == .doe p) = false →
         exec (.cxlKeyExchange p ses) s = .next (s.emit (.spdm "CXL_KEY_EXCHANGE" false)))
     ∧ exec (.tspAssignment f) s = .next (s.setFn (fnKey f) { s.fn (fnKey f) with tsp := true })
     ∧ (f.fn.val ≠ 0 → exec (.flrVf f) s = .next ((s.flr f.port.val f.fn.val).countFlr f.port.val 1))
     ∧ exec (.vfEnableClear p) s = .next (((upto 1 127).foldl (fun (t : State) n => t.flr p.val n) s).countFlr p.val 127)
     ∧ (let m := (upto 0 128).foldl (fun (t : State) n =>
          let x := t.fn (p.val * 128 + n)
          (t.setFn (p.val * 128 + n) { x with mbx := { x.mbx with stopped := true } }).stopRings (p.val * 128 + n)) s
        exec (.flrPf p) s = .next ((m.takeDownAll ((m.ctxsWhere (fun x => x.port == p.val)).map (·.1))).countFlr p.val 1)
        ∧ (∀ n < 128, (m.fn (p.val * 128 + n)).mbx.stopped = true ∧ ∀ r, (m.ring (p.val * 128 + n) r).cmds = [])
        ∧ (∀ g, (g < p.val * 128 ∨ p.val * 128 + 128 ≤ g) → m.fn g = s.fn g)))
  ∧ (∀ (p : Nat) (s : State),
       let v := (s.portReset p).port p
       v.cxl = false ∧ v.memEn = false ∧ v.cacheEn = false ∧ v.hdmMap = [] ∧ v.filter = [] ∧ v.ideSecure = false ∧ v.ideKeys = false
         ∧ (∀ x ∈ (s.portReset p).snoops, x.port ≠ p) ∧ (∀ x ∈ (s.portReset p).atc, x.port ≠ p))
  ∧ (∀ (p f : Nat) (s : State), f < 128 → (∀ e ∈ s.ctxs, e.2.port ≠ p ∨ e.2.fn ≠ f) →
       let t := s.flr p f
       (∀ r, (t.ring (p * 128 + f) r).cmds = []) ∧ (∀ g, g ≠ p * 128 + f → t.fn g = s.fn g) ∧ t.ctxs = s.ctxs)

/-! ### Security, boot, power and cooling (R480 to R515, R555, R556) -/

/-- Sessions: one is opened while its path has fewer than it allows, and ended; a measurement is answered with its content; a session keys
a sector that has no key of another session and no step; its grants stand until it revokes them, which the receiving context's queues see at
once; what is not allowed is answered with a refusal.
(Choices of the model in it: log 12, 117, 118.) -/
def Obligations.SessionsKeysAndGrants : Prop :=
  (∀ (p : SpdmPath) (i ses : Nat) (sec : Fin 64) (key : BitVec 512) (claim : BitVec 256) (a b : Fin 4096) (x : Sector) (s : State),
     let most := match p with | .doe _ => 4 | .i3c => 2
     let held := (s.sec.sessions.filter (fun x => x.path == p)).length
     let known := (1 ≤ i ∧ i ≤ 6) ∨ (64 ≤ i ∧ i < 128)
     let steps := (s.ctxsOf sec.val).any (fun e => e.2.state == .running || e.2.state == .waiting)
     let g : Grant := { recv := a.val, admitted := b.val, ses := ses }
     s.phase = .ready →
     (s.pathUp p = true → held < most →
       exec (.spdmKeyExchange p) s = .next (({ s with sec := { s.sec with
         sessions := s.sec.sessions ++ [{ id := s.sec.nextSes, path := p }], nextSes := s.sec.nextSes + 1 } } : State).emit (.spdm "KEY_EXCHANGE" true)))
     ∧ (s.pathUp p = true → most ≤ held → exec (.spdmKeyExchange p) s = .next (s.emit (.spdm "KEY_EXCHANGE" false)))
     ∧ exec (.spdmEndSession ses) s = .next { s with sec := { s.sec with sessions := s.sec.sessions.filter (fun x => x.id != ses) } }
     ∧ (s.pathUp p = true → known → exec (.getMeasurements p i) s = .next (s.emit (.measurement i (s.measure i).1 (s.measure i).2)))
     ∧ (s.pathUp p = true → ¬ known → exec (.getMeasurements p i) s = .next (s.emit (.spdm "GET_MEASUREMENTS" false)))
     ∧ (s.hasSession ses = true → s.sector sec.val = some x →
         ((x.keyed = false ∨ x.keySes = some ses) → steps = false →
           exec (.setSectorKey ses sec key claim) s
             = .next ((s.setKey sec.val { x with keyed := true, claim := claim, keySes := some ses } key).emit (.spdm "SET_SECTOR_KEY" true)))
         ∧ ((x.keyed = true ∧ x.keySes ≠ some ses) ∨ steps = true →
           exec (.setSectorKey ses sec key claim) s = .next (s.emit (.spdm "SET_SECTOR_KEY" false))))
     ∧ (s.keyedBy ses a.val = true → (s.ctx b.val).isSome = true →
         exec (.grantQueue ses a b) s = .next (({ s with sec := { s.sec with grants := s.sec.grants ++ [g] } } : State).emit (.spdm "GRANT_QUEUE" true)))
     ∧ (s.hasSession ses = true → (s.keyedBy ses a.val = false ∨ s.ctx b.val = none) →
         exec (.grantQueue ses a b) s = .next (s.emit (.spdm "GRANT_QUEUE" false)))
     ∧ (s.hasSession ses = true → g ∈ s.sec.grants →
         let t : State := { s with sec := { s.sec with grants := s.sec.grants.filter (· != g) } }
         exec (.revokeQueue ses a b) s
           = .next (((t.cls.filter (fun e => e.2.owner == some a.val)).foldl (fun (t : State) e => t.admitOther e.1) t).emit (.spdm "REVOKE_QUEUE" true)))
     ∧ (s.hasSession ses = true → g ∉ s.sec.grants → exec (.revokeQueue ses a b) s = .next (s.emit (.spdm "REVOKE_QUEUE" false))))
  ∧ (∀ (r : Nat) (s : State),
       s.measure 1 = (Config.rootHash, []) ∧ s.measure 2 = (s.sec.digest, []) ∧ s.measure 3 = (0, [s.sec.version, s.sec.svn, s.flash.floor])
       ∧ s.measure 4 = (Config.sha512 s.flash.recordBytes, []) ∧ s.measure 6 = (0, [s.flash.boot])
       ∧ (s.sec.unlocked = true → s.measure 5 = (s.sec.tokenDigest, [1])) ∧ (s.sec.unlocked = false → s.measure 5 = (0, [0]))
       ∧ (∀ x, s.sector r = some x → s.measure (64 + r) = (x.chain, x.words)))

/-- Debug unlock: a nonce is drawn afresh and read by those who may; a token that is accepted unlocks the device for its time and ends every
sector, session and nonce, and every key slot is redrawn; one that is refused spends the nonce; a relock, and the end of the time, do the same
and leave the device locked with no permission.
(Choices of the model in it: log 6, 12.) -/
def Obligations.DebugUnlock : Prop :=
  (∀ (p : SpdmPath) (tk : Token) (r : Requester) (v : Word) (s : State), s.phase = .ready →
     let mayRead := s.classOf r none = .keeper ∨ s.classOf r none = .management
     let freed := s.releaseAll.redrawKeys
     (mayRead → reaches r 0x30020 = true →
       exec (.debugNonceRead r) s = .next { s with
         fresh := s.fresh + 1
         sec := { s.sec with nonce := some ((Config.freeValue s.fresh).setWidth 64), nonceAt := s.time }
         out := s.out ++ [.readReply r ((Config.freeValue s.fresh).setWidth 64)] })
     ∧ (¬ mayRead → reaches r 0x30020 = true → exec (.debugNonceRead r) s = .next (s.emit (.readReply r 0)))
     ∧ (s.pathUp p = true → s.sec.sessions.any (fun x => x.path == p) = true →
         (s.sec.unlocked = true → exec (.debugToken p tk) s = .next (s.emit (.spdm "DEBUG_TOKEN" false)))
         ∧ (s.sec.unlocked = false → s.tokenOk tk = false →
           exec (.debugToken p tk) s = .next (({ s with sec := { s.sec with nonce := none } } : State).emit (.spdm "DEBUG_TOKEN" false)))
         ∧ (s.sec.unlocked = false → s.tokenOk tk = true →
           exec (.debugToken p tk) s = .next (({ freed with sec := { freed.sec with
             sessions := [], nonce := none, unlocked := true, perms := tk.perms.toNat, ttlEnd := freed.time + tk.ttl.toNat * 1000000000
             tokenDigest := Config.sha512 ((tokenBytes tk) ++ toBytes 512 tk.sig.toNat) } } : State).emit (.spdm "DEBUG_TOKEN" true))))
     ∧ (s.sec.unlocked = true →
         (v.getLsbD 0 = true → mayRead → reaches r 0x30028 = true → exec (.relock r v) s = .next s.relock)
         ∧ (v.getLsbD 0 = false → exec (.relock r v) s = .next s)
         ∧ exec .unlockExpiry s = .next (s.advanceTo s.sec.ttlEnd).relock))
  ∧ (∀ s : State, s.releaseAll.sectors = [] ∧ s.relock.sectors = [] ∧ s.relock.sec.unlocked = false ∧ s.relock.sec.perms = 0)

/-- A boot whose root key does not verify ends in recovery at step 1, one with no slot to run at step 2; in recovery the boot status is read
and a verified image starts the boot again; the dynamic address is the one that the bus gives.
(Choices of the model in it: log 9, 12, 119, 120, 130.) -/
def Obligations.BootAndRecovery : Prop :=
  ∀ (r : BootResult) (slot : Fin 2) (img : FwImage) (addr : BitVec 7) (s : State),
    (s.phase = .booting → s.pins.rails = true →
      (r.rootKeyOk = false → exec (.boot r) s = .next { s with phase := .recovery, sec := { s.sec with failStep := 1 } })
      ∧ (r.rootKeyOk = true → s.flash.selected = none → exec (.boot r) s = .next { s with phase := .recovery, sec := { s.sec with failStep := 2 } })
      ∧ (r.rootKeyOk = true → s.flash.selected = some s.flash.inForce → r.pufOk = true → r.recordsOk = true → r.measureOk = true → r.tablesOk = true →
          r.badStacks = [] → r.badClusters = [] → s.flash.trialSlot = none → s.flash.stacksRetired = [] → s.flash.pcRetired = [] →
          s.flash.failed = [] → s.flash.shipFailed = [] →
          ∃ t, exec (.boot r) s = .next t ∧ t.phase = .ready ∧ t.flash.boot = (s.flash.boot + 1) % 2 ^ 16 ∧ t.sec.runSlot = s.flash.inForce
            ∧ t.sec.wrapKey = some (Config.wrapKey s.flash.helper) ∧ t.sec.recordKey = some (Config.recordKey s.flash.helper)
            ∧ (∀ n < 20, (t.ctrl n).trained = true ∧ (t.ctrl n).retired = false)))
    ∧ (s.phase = .recovery →
      exec .recoveryReadBootStatus s = .next (s.emit (.bootStatus s.sec.failStep))
      ∧ (Config.rsaGood img.bytes img.sig = true → s.flash.floor ≤ img.svn.toNat →
          ∃ t, exec (.recoveryWriteFirmware slot img) s = .next t ∧ t.phase = .booting ∧ (t.flash.slot slot.val).good = true
            ∧ (t.flash.slot slot.val).digest = Config.sha512 img.bytes ∧ (t.flash.slot (1 - slot.val)) = s.flash.slot (1 - slot.val)
            ∧ t.flash.floor = s.flash.floor))
    ∧ (s.phase = .ready →
      exec (.dynamicAddressAssignment .entdaa addr) s = .next { s with sec := { s.sec with i3cAddr := some addr.toNat } }
      ∧ exec (.dynamicAddressAssignment (.setdasa 0x3A) addr) s = .next { s with sec := { s.sec with i3cAddr := some addr.toNat } })

/-- Power and reset pins: a thermal trip, an overvoltage, a loss of input power or of `MOD_PWREN` turns the rails off, and only the flash with its
records is kept; with both back the device waits in reset; `MOD_RESET_N` held for 10 microseconds loses every context and sector.
(Choices of the model in it: log 4, 13, 114.) -/
def Obligations.PowerAndResetPins : Prop :=
  ∀ (us : Nat) (s : State),
    (s.pins.inputOn = true →
      ∀ e ∈ [Instr.thermalTrip, .inputOvervoltage, .modPwrenDeassert, .inputPowerLoss],
        ∃ t, exec e s = .next t ∧ t.phase = .off ∧ t.pins.rails = false ∧ t.flash = s.flash ∧ t.remap = s.remap ∧ t.sectors = [] ∧ t.ctxs = []
          ∧ t.hbm = {} ∧ t.scus = [] ∧ t.mus = [] ∧ (t.pins.thermtrip = true → e = .thermalTrip ∨ s.pins.thermtrip = true)
          ∧ (t.pins.inputOn = false ↔ e = .inputPowerLoss))
    ∧ (s.pins.inputOn = true → s.pins.thermtrip = false → s.phase = .off →
        ∃ t, exec .modPwrenAssert s = .next t ∧ t.phase = .booting ∧ t.pins.rails = true ∧ t.pins.pwren = true ∧ t.flash = s.flash)
    ∧ (s.pins.inputOn = false → s.pins.pwren = true → s.pins.thermtrip = false → s.phase = .off →
        ∃ t, exec .inputPowerApplied s = .next t ∧ t.phase = .booting ∧ t.time = 0 ∧ t.pins.inputOn = true ∧ t.flash = s.flash)
    ∧ (s.phase ≠ .off → 10 ≤ us →
        ∃ t, exec (.modResetNAssert us) s = .next t ∧ t.phase = .booting ∧ t.sectors = [] ∧ t.ctxs = [] ∧ t.flash = s.flash ∧ t.time = s.time
          ∧ t.pins = s.pins ∧ t.sec.wrapKey = none ∧ t.sec.recordKey = none)

/-- Supply levels: a warning of the input or of a die's rail brings the clock to 1.2 GHz, is counted and recorded; a second crossing before it
clears is only counted; a doubt is counted, abandons the steps it affects and stands until it clears; the reset level of the input latches a
device reset with cause 7 and that of a rail one with cause 8. A change of the array clock takes effect 100 ns after its decision, at each
die's next frame boundary; a sample stores the voltage, the current and the averages, and an average above 7.5 kW over 1 ms takes the clock
to 1.2 GHz; a junction at 105 degrees does so and pauses starts, which go on at 100 degrees; a cooling fault or a leak does so and pauses starts,
until cooling resumes.
(Choices of the model in it: log 125, 126, 127.) -/
def Obligations.SupplyPowerAndCooling : Prop :=
  (∀ (d : Fin 8) (s : State), s.phase = .ready →
     let p := { s.pwr with warn := min (s.pwr.warn + 1) 0xFFFF }
     let q := { s.pwr with doubt := min (s.pwr.doubt + 1) 0xFFFF }
     let x := s.die d.val
     let w : State := { s with pwr := { p with supplyStep := 4 } }
     let u : State := { s with pwr := q }
     (s.pwr.inWarn = false →
       exec (.warningCrossed .input) s
         = .next ((({ s with pwr := { p with inWarn := true, supplyStep := 4 } } : State).decideStep).record (levelRec 0)))
     ∧ (s.pwr.inWarn = true → exec (.warningCrossed .input) s = .next { s with pwr := p })
     ∧ (x.railWarn = false →
       exec (.warningCrossed (.die d)) s = .next ((w.setDie d.val { x with railWarn := true }).decideStep.record (levelRec 0)))
     ∧ (x.railWarn = true → exec (.warningCrossed (.die d)) s = .next { s with pwr := p })
     ∧ (s.pwr.inDoubt = false → exec (.doubtCrossed .input) s = .next (({ s with pwr := { q with inDoubt := true } } : State).doubt .input))
     ∧ (s.pwr.inDoubt = true → exec (.doubtCrossed .input) s = .next u)
     ∧ (x.railDoubt = false → exec (.doubtCrossed (.die d)) s = .next ((u.setDie d.val { x with railDoubt := true }).doubt (.die d)))
     ∧ (x.railDoubt = true → exec (.doubtCrossed (.die d)) s = .next u)
     ∧ (s.trigger = none →
       let t : State := { s with triggerAt := s.time, phase := .resetting, ports := tabMap s.ports (fun _ v => { v with resetDrop := 0 }) }
       exec (.resetLevelCrossed .input) s = .next { t with trigger := some 7 }
       ∧ exec (.resetLevelCrossed (.die d)) s = .next { t with trigger := some 8 })
     ∧ (s.pwr.inWarn = true →
       exec (.levelCleared .input .warning) s = .next ({ s with pwr := { s.pwr with inWarn := false } } : State).warnCleared.commitPoint)
     ∧ (s.pwr.inDoubt = true →
       exec (.levelCleared .input .doubt) s
         = .next (({ s with pwr := { s.pwr with inDoubt := false } } : State).record (levelRec 2)).commitPoint)
     ∧ (x.railWarn = true →
       exec (.levelCleared (.die d) .warning) s = .next (s.setDie d.val { x with railWarn := false }).warnCleared.commitPoint)
     ∧ (x.railDoubt = true →
       exec (.levelCleared (.die d) .doubt) s = .next ((s.setDie d.val { x with railDoubt := false }).record (levelRec 2)).commitPoint))
  ∧ (∀ (k at_ mv da ms1 s1 peak : Nat) (tj : Int) (l : List Int) (s : State), s.phase = .ready →
       (s.pwr.change = some (k, at_) →
         let a := s.advanceTo (at_ + 100)
         exec .clockStepChange s = .next { a.advance 14 with pwr := { a.pwr with
           step := k, change := none, dies := (upto 0 8).map (fun d => (d, (a.die d).change k 14)) } })
       ∧ (let a : State := { s with pwr := { s.pwr with
            mv := min 65535 mv, da := min 65535 da, watt := min 65535 s1, peak := max s.pwr.peak (min 65535 peak) } }
          exec (.powerSample mv da ms1 s1 peak) s = .next ((a.powerRule ms1 s1).supplyBack.decideStep))
       ∧ (l.length ≤ 7 →
           exec (.junctionSample (tj :: l)) s = .next (((s.readJunctions (tj :: l)).thermRule (l.foldl max tj)).decideStep))
       ∧ (s.pins.coolFault = false →
           exec .coolFault s = .next ({ s with pins := { s.pins with coolFault := true } } : State).coolAlarm)
       ∧ (s.pins.leak = false → exec .leakSense s = .next ({ s with pins := { s.pins with leak := true } } : State).coolAlarm)
       ∧ exec .coolingResume s
           = .next ({ s with pins := { s.pins with coolFault := false, leak := false }, pwr := { s.pwr with pausedCool := false } } : State).decideStep)
  ∧ (∀ (ms1 s1 : Nat) (hot : Int) (s : State),
       (7500 < ms1 → (s.powerRule ms1 s1).pwr.powerStep = 4 ∧ (s.powerRule ms1 s1).pwr.lastDown = some s.time)
       ∧ (420 ≤ hot → (s.thermRule hot).pwr.pausedThermal = true ∧ (s.thermRule hot).pwr.thermStep = 4)
       ∧ (hot ≤ 400 → (s.thermRule hot).pwr.pausedThermal = false)
       ∧ (s.pins.coolFault = true ∨ s.pins.leak = true ∨ s.pwr.supplyStep = 4 ∨ s.pwr.powerStep = 4 ∨ s.pwr.thermStep = 4 → 4 ≤ s.stepWanted)
       ∧ (s.pwr.change = none → s.stepWanted ≠ s.pwr.step → s.decideStep = { s with pwr := { s.pwr with change := some (s.stepWanted, s.time) } })
       ∧ (s.pwr.change = none → s.stepWanted = s.pwr.step → s.decideStep = s)
       ∧ (s.coolAlarm.pwr.pausedCool = true ∧ s.coolAlarm.pwr.cool = min (s.pwr.cool + 1) 0xFFFF)
       ∧ (∀ (d : Die) (k dt : Nat), (d.change k dt).step = k))
end

