-- ==== Sys2Proof/Laws/Memory.lean ====
section
/-!
SUPPORT. Addressed memories: a read after a write, and that every operation keeps the canonical form.
-/

namespace Sys2Proof.Machine

/-- The canonical form as an order: every listed address is above `lo`, addresses rise, and no listed byte is zero. -/
def Mem.above : Nat → Mem → Prop
  | _, [] => True
  | lo, (a, b) :: t => lo ≤ a ∧ b ≠ 0 ∧ Mem.above (a + 1) t

theorem Mem.above_mono {lo lo' : Nat} (h : lo' ≤ lo) : ∀ {m : Mem}, Mem.above lo m → Mem.above lo' m
  | [], _ => trivial
  | (_, _) :: _, ⟨h1, h2, h3⟩ => ⟨Nat.le_trans h h1, h2, h3⟩

theorem Mem.above_iff_wf : ∀ m : Mem, Mem.above 0 m ↔ Memory.wf m = true := by
  have step : ∀ (m : Mem) (a : Nat) (b : Byte), Mem.above (a + 1) m ↔
      (match m with | [] => true | (a', _) :: _ => decide (a < a')) = true ∧ Mem.above 0 m := by
    intro m a b
    cases m with
    | nil => simp [Mem.above]
    | cons e t => obtain ⟨a', b'⟩ := e; simp [Mem.above]
  intro m
  induction m with
  | nil => simp [Mem.above, Memory.wf]
  | cons e t ih =>
    obtain ⟨a, b⟩ := e
    simp only [Mem.above, Memory.wf, Bool.and_eq_true, bne_iff_ne, ne_eq, Nat.zero_le, true_and, step t a b, ih]
    tauto

theorem memGet_below {lo : Nat} : ∀ {m : Mem} {i : Nat}, Mem.above lo m → i < lo → memGet m i = 0
  | [], _, _, _ => rfl
  | (a, b) :: t, i, ⟨h1, _, _⟩, hi => by
    have h2 : i ≠ a := by omega
    have h3 : i < a := by omega
    simp [memGet, h2, h3]

theorem memSet_above {lo i : Nat} {v : Byte} (hi : lo ≤ i) : ∀ {m : Mem}, Mem.above lo m → Mem.above lo (memSet m i v)
  | [], _ => by
    unfold memSet; split
    · trivial
    · exact ⟨hi, by assumption, trivial⟩
  | (a, b) :: t, ⟨h1, h2, h3⟩ => by
    unfold memSet
    split
    · subst_vars; split
      · exact Mem.above_mono (by omega) h3
      · exact ⟨h1, by assumption, h3⟩
    · split
      · split
        · exact ⟨h1, h2, h3⟩
        · exact ⟨hi, by assumption, ⟨by omega, h2, h3⟩⟩
      · exact ⟨h1, h2, memSet_above (by omega) h3⟩

/-- Writing one byte keeps the canonical form. -/
theorem memSet_wf (m : Mem) (i : Nat) (v : Byte) (h : Memory.wf m = true) : Memory.wf (memSet m i v) = true :=
  (Mem.above_iff_wf _).1 (memSet_above (Nat.zero_le _) ((Mem.above_iff_wf _).2 h))

/-- Writing bytes keeps the canonical form. -/
theorem memWrite_wf (l : List Byte) : ∀ (m : Mem) (a : Nat), Memory.wf m = true → Memory.wf (memWrite m a l) = true := by
  induction l with
  | nil => exact fun _ _ h => h
  | cons b t ih => exact fun m a h => ih _ _ (memSet_wf m a b h)

theorem filter_above (f : Nat × Byte → Bool) : ∀ {lo : Nat} {m : Mem}, Mem.above lo m → Mem.above lo (m.filter f)
  | _, [], _ => trivial
  | lo, (a, b) :: t, ⟨h1, h2, h3⟩ => by
    have h4 := filter_above f h3
    rw [List.filter_cons]; split
    · exact ⟨h1, h2, h4⟩
    · exact Mem.above_mono (by omega) h4

/-- Zeroing a range keeps the canonical form. -/
theorem memZero_wf (m : Mem) (a n : Nat) (h : Memory.wf m = true) : Memory.wf (memZero m a n) = true :=
  (Mem.above_iff_wf _).1 (filter_above _ ((Mem.above_iff_wf _).2 h))

theorem memGet_memSet_above {lo : Nat} (i j : Nat) (v : Byte) :
    ∀ {m : Mem}, Mem.above lo m → memGet (memSet m i v) j = if j = i then v else memGet m j
  | [], _ => by
    simp only [memSet]
    by_cases hv : v = 0
    · rw [if_pos hv]; simp [memGet, hv]
    · rw [if_neg hv]; by_cases h : j = i <;> simp [memGet, h]
  | (a, b) :: t, ⟨_, _, h3⟩ => by
    have ih := memGet_memSet_above i j v h3
    unfold memSet
    by_cases h : i = a
    · subst h
      by_cases hv : v = 0
      · simp only [hv, if_true]
        by_cases hj : j = i
        · subst hj; simp [memGet_below h3]
        · by_cases hlt : j < i
          · simp [memGet, hj, hlt, memGet_below h3 (show j < i + 1 by omega)]
          · simp [memGet, hj, hlt]
      · simp only [hv, if_false, if_true, memGet]; split <;> rfl
    · by_cases hia : i < a
      · simp only [h, hia, if_true, if_false]
        by_cases hv : v = 0
        · simp only [hv, if_true]
          by_cases hj : j = i
          · subst hj; simp [memGet, h, hia]
          · simp [hj]
        · simp only [hv, if_false]
          by_cases hj : j = i
          · subst hj; simp [memGet]
          · by_cases hlt : j < i
            · have h5 : j ≠ a := by omega
              have h6 : j < a := by omega
              simp [memGet, hj, hlt, h5, h6]
            · conv_lhs => unfold memGet
              simp [hj, hlt]
      · simp only [h, hia, if_false]
        by_cases hj : j = i
        · have h5 : j ≠ a := by omega
          have h6 : ¬ j < a := by omega
          rw [memGet, if_neg h5, if_neg h6, ih, if_pos hj, if_pos hj]
        · simp only [memGet]
          simp [hj] at ih; simp [ih, hj]

/-- The byte at an address after one byte is written: the value written there, and every other byte as before. -/
theorem memGet_memSet (m : Mem) (i j : Nat) (v : Byte) (h : Memory.wf m = true) :
    memGet (memSet m i v) j = if j = i then v else memGet m j :=
  memGet_memSet_above i j v ((Mem.above_iff_wf m).2 h)

/-- The byte at an address after bytes are written from `a`. -/
theorem memGet_memWrite (l : List Byte) : ∀ (m : Mem) (a j : Nat), Memory.wf m = true →
    memGet (memWrite m a l) j = if a ≤ j ∧ j < a + l.length then l.getD (j - a) 0 else memGet m j := by
  induction l with
  | nil => intro m a j _; simp [memWrite]
  | cons b t ih =>
    intro m a j h
    simp only [memWrite, ih _ (a + 1) j (memSet_wf m a b h), memGet_memSet m a j b h, List.length_cons]
    by_cases h1 : j = a
    · subst h1; simp
    · by_cases h2 : a + 1 ≤ j ∧ j < a + 1 + t.length
      · obtain ⟨k, hk⟩ : ∃ k, j - a = k + 1 := ⟨j - a - 1, by omega⟩
        have h3 : j - (a + 1) = k := by omega
        rw [if_pos h2, if_pos (by omega), hk, h3]; rfl
      · rw [if_neg h2, if_neg h1, if_neg (by omega)]

theorem memGet_filter_above (f : Nat → Bool) (j : Nat) : ∀ {lo : Nat} {m : Mem}, Mem.above lo m →
    memGet (m.filter (fun c => f c.1)) j = if f j then memGet m j else 0
  | _, [], _ => by simp [memGet]
  | lo, (a, b) :: t, ⟨_, _, h3⟩ => by
    have ih := memGet_filter_above f j h3
    rw [List.filter_cons]
    by_cases hf : f a
    · simp only [hf, if_true]
      by_cases h1 : j = a
      · subst h1; simp [memGet, hf]
      · simp only [memGet, h1, if_false, ih]; split <;> simp
    · simp only [hf, Bool.false_eq_true, if_false, ih]
      by_cases h1 : j = a
      · subst h1; simp [hf]
      · by_cases h2 : j < a
        · simp [memGet, h1, h2, memGet_below h3 (show j < a + 1 by omega)]
        · simp [memGet, h1, h2]

/-- The byte at an address after a filter on the addresses. -/
theorem memGet_filter (f : Nat → Bool) (m : Mem) (j : Nat) (h : Memory.wf m = true) :
    memGet (m.filter (fun c => f c.1)) j = if f j then memGet m j else 0 :=
  memGet_filter_above f j ((Mem.above_iff_wf m).2 h)

/-- A filter keeps the canonical form. -/
theorem filter_wf (f : Nat × Byte → Bool) (m : Mem) (h : Memory.wf m = true) : Memory.wf (m.filter f) = true :=
  (Mem.above_iff_wf _).1 (filter_above f ((Mem.above_iff_wf _).2 h))

theorem length_toBytes (n : Nat) : ∀ x, (toBytes n x).length = n := by
  induction n with
  | zero => exact fun _ => rfl
  | succ n ih => exact fun x => by simp [toBytes, ih]

/-- The bytes of a number stand for it, modulo the bytes there are. -/
theorem ofBytes_toBytes (n : Nat) : ∀ x, ofBytes (toBytes n x) = x % 2 ^ (8 * n) := by
  induction n with
  | zero => intro x; simp [toBytes, ofBytes, Nat.mod_one]
  | succ n ih =>
    intro x
    have h : (2 : Nat) ^ (8 * (n + 1)) = 256 * 2 ^ (8 * n) := by rw [Nat.mul_add, Nat.pow_add]; omega
    simp only [toBytes, ofBytes, ih, BitVec.toNat_ofNat, h, Nat.mod_mul]

/-- A read of as many bytes as were written gives them. -/
theorem memRead_eq_map (m : Mem) (n : Nat) : ∀ a, memRead m a n = (List.range n).map (fun i => memGet m (a + i)) := by
  induction n with
  | zero => exact fun _ => rfl
  | succ n ih =>
    intro a
    rw [memRead, ih, List.range_succ_eq_map, List.map_cons, List.map_map]
    congr 1
    apply List.map_congr_left; intro i _; simp only [Function.comp]; congr 1; omega

theorem memRead_memWrite (m : Mem) (a : Nat) (l : List Byte) (h : Memory.wf m = true) : memRead (memWrite m a l) a l.length = l := by
  rw [memRead_eq_map]
  apply List.ext_getElem
  · simp
  · intro i h1 h2
    simp only [List.getElem_map, List.getElem_range, memGet_memWrite l m a (a + i) h]
    rw [if_pos (by omega)]
    simp [List.getD_eq_getElem?_getD, h2]

end Sys2Proof.Machine
end

