-- ==== Sys2Proof/Laws/State.lean ====
section
/-!
SUPPORT. What the replacements of one part of the state leave as it is, and what they replace: one law for each operation, every part
by `rfl`, so that no later proof unfolds a record update.
-/

namespace Sys2Proof.Machine

/-! ### Sparse tables -/

@[simp] theorem tabGet_tabSet {α : Type} (d : α) (t : Tab α) (i j : Nat) (v : α) :
    tabGet d (tabSet t i v) j = if j = i then v else tabGet d t j := by
  induction t with
  | nil => simp [tabSet, tabGet]
  | cons e t ih =>
    obtain ⟨k, w⟩ := e
    simp only [tabSet]
    split
    · subst_vars; simp only [tabGet]; split <;> rfl
    · split
      · simp only [tabGet]
      · simp only [tabGet, ih]; split
        · subst_vars; rw [if_neg (by omega)]
        · rfl

@[simp] theorem tabFind_tabSet {α : Type} (t : Tab α) (i j : Nat) (v : α) :
    tabFind (tabSet t i v) j = if j = i then some v else tabFind t j := by
  induction t with
  | nil => simp [tabSet, tabFind]
  | cons e t ih =>
    obtain ⟨k, w⟩ := e
    simp only [tabSet]
    split
    · subst_vars; simp only [tabFind]; split <;> rfl
    · split
      · simp only [tabFind]
      · simp only [tabFind, ih]; split
        · subst_vars; rw [if_neg (by omega)]
        · rfl

@[simp] theorem tabSet_tabSet {α : Type} (t : Tab α) (i : Nat) (v w : α) : tabSet (tabSet t i v) i w = tabSet t i w := by
  induction t with
  | nil => simp [tabSet]
  | cons e t ih =>
    obtain ⟨k, x⟩ := e
    by_cases h : i = k
    · simp [tabSet, h]
    · by_cases h2 : i < k
      · simp [tabSet, h, h2]
      · simp [tabSet, h, h2, ih]

theorem tabGet_of_tabFind {α : Type} (d : α) (t : Tab α) (i : Nat) : tabGet d t i = (tabFind t i).getD d := by
  induction t with
  | nil => rfl
  | cons e t ih => obtain ⟨k, w⟩ := e; simp only [tabGet, tabFind]; split <;> simp_all

theorem tabFind_tabMap {α : Type} (t : Tab α) (f : Nat → α → α) (i : Nat) : tabFind (tabMap t f) i = (tabFind t i).map (f i) := by
  induction t with
  | nil => rfl
  | cons e t ih => obtain ⟨k, w⟩ := e; simp only [tabMap, List.map_cons, tabFind]; split <;> simp_all [tabMap]

theorem tabFind_tabDel {α : Type} (t : Tab α) (i j : Nat) : tabFind (tabDel t i) j = if j = i then none else tabFind t j := by
  induction t with
  | nil => simp [tabDel, tabFind]
  | cons e t ih =>
    obtain ⟨k, w⟩ := e
    unfold tabDel at *
    simp only [List.filter_cons]
    by_cases h : k = i <;> by_cases h2 : j = k <;> simp_all [tabFind]

/-- A table all of whose entries satisfy a property still does after one is set to an entry that does. -/
theorem tabSet_all {α : Type} (P : α → Prop) (t : Tab α) (i : Nat) (v : α) (h : ∀ e ∈ t, P e.2) (hv : P v) : ∀ e ∈ tabSet t i v, P e.2 := by
  induction t with
  | nil => simpa [tabSet] using hv
  | cons e t ih =>
    obtain ⟨k, w⟩ := e
    have h1 : P w := h (k, w) (by simp)
    have h2 : ∀ e ∈ t, P e.2 := fun e he => h e (by simp [he])
    simp only [tabSet]
    split
    · intro e he; rcases List.mem_cons.1 he with rfl | he
      · exact hv
      · exact h2 e he
    · split
      · intro e he; simp only [List.mem_cons] at he
        rcases he with rfl | rfl | he
        · exact hv
        · exact h1
        · exact h2 e he
      · intro e he; rcases List.mem_cons.1 he with rfl | he
        · exact h1
        · exact ih h2 e he

/-! ### The replacements of one part of the state -/

@[simp] theorem State.setTu_frame (s : State) (i : Nat) (v : Tu) :
    (s.setTu i v).pending = s.pending ∧ (s.setTu i v).time = s.time ∧ (s.setTu i v).phase = s.phase ∧ (s.setTu i v).trigger = s.trigger ∧
    (s.setTu i v).triggerAt = s.triggerAt ∧ (s.setTu i v).pins = s.pins ∧ (s.setTu i v).mus = s.mus ∧ (s.setTu i v).mcus = s.mcus ∧
    (s.setTu i v).vcus = s.vcus ∧ (s.setTu i v).scus = s.scus ∧ (s.setTu i v).sws = s.sws ∧ (s.setTu i v).rts = s.rts ∧
    (s.setTu i v).cls = s.cls ∧ (s.setTu i v).mesh = s.mesh ∧ (s.setTu i v).groups = s.groups ∧ (s.setTu i v).pmFlush = s.pmFlush ∧
    (s.setTu i v).sfs = s.sfs ∧ (s.setTu i v).remap = s.remap ∧ (s.setTu i v).quadBad = s.quadBad ∧ (s.setTu i v).hbm = s.hbm ∧
    (s.setTu i v).pageReqs = s.pageReqs ∧ (s.setTu i v).atc = s.atc ∧ (s.setTu i v).snoops = s.snoops ∧ (s.setTu i v).ports = s.ports ∧
    (s.setTu i v).fns = s.fns ∧ (s.setTu i v).sectors = s.sectors ∧ (s.setTu i v).ctxs = s.ctxs ∧ (s.setTu i v).err = s.err ∧
    (s.setTu i v).aud = s.aud ∧ (s.setTu i v).sec = s.sec ∧ (s.setTu i v).flash = s.flash ∧ (s.setTu i v).pwr = s.pwr ∧
    (s.setTu i v).kpr = s.kpr ∧ (s.setTu i v).txn = s.txn ∧ (s.setTu i v).held = s.held ∧ (s.setTu i v).out = s.out ∧
    (s.setTu i v).fresh = s.fresh ∧
    (s.setTu i v).scanImgs = s.scanImgs ∧ (s.setTu i v).placed = s.placed ∧
    (∀ j, (s.setTu i v).mu j = s.mu j) ∧ (∀ j, (s.setTu i v).mcu j = s.mcu j) ∧
    (∀ j, (s.setTu i v).vcu j = s.vcu j) ∧ (∀ j, (s.setTu i v).scu j = s.scu j) ∧ (∀ j, (s.setTu i v).sw j = s.sw j) ∧
    (∀ j, (s.setTu i v).rt j = s.rt j) ∧ (∀ j, (s.setTu i v).cl j = s.cl j) ∧ (∀ j, (s.setTu i v).grp j = s.grp j) ∧
    (∀ j, (s.setTu i v).sf j = s.sf j) ∧ (∀ j, (s.setTu i v).port j = s.port j) ∧ (∀ j, (s.setTu i v).fn j = s.fn j) ∧
    (∀ j, (s.setTu i v).ctrl j = s.ctrl j) ∧ (∀ j, (s.setTu i v).ctx j = s.ctx j) ∧ (∀ j, (s.setTu i v).sector j = s.sector j) ∧
    (∀ j, (s.setTu i v).die j = s.die j) ∧ (∀ j, (s.setTu i v).ownerOf j = s.ownerOf j) ∧ (∀ j, (s.setTu i v).sectorOf j = s.sectorOf j) ∧
    (∀ j, (s.setTu i v).live j = s.live j) ∧ (∀ n q, (s.setTu i v).ring n q = s.ring n q) :=
    ⟨rfl, rfl, rfl, rfl, rfl, rfl, rfl, rfl, rfl, rfl, rfl, rfl, rfl, rfl, rfl, rfl, rfl, rfl, rfl, rfl, rfl, rfl, rfl, rfl, rfl, rfl, rfl, rfl, rfl,
    rfl, rfl, rfl, rfl, rfl, rfl, rfl, rfl, rfl, rfl, fun _ => rfl, fun _ => rfl, fun _ => rfl, fun _ => rfl, fun _ => rfl, fun _ => rfl,
    fun _ => rfl, fun _ => rfl, fun _ => rfl, fun _ => rfl, fun _ => rfl, fun _ => rfl, fun _ => rfl, fun _ => rfl, fun _ => rfl,
    fun _ => rfl, fun _ => rfl, fun _ => rfl, fun _ _ => rfl⟩

@[simp] theorem State.setTu_tu (s : State) (i j : Nat) (v : Tu) : (s.setTu i v).tu j = if j = i then v else s.tu j := by
  simp [State.setTu, State.tu]

@[simp] theorem State.setMu_frame (s : State) (i : Nat) (v : Mu) :
    (s.setMu i v).pending = s.pending ∧ (s.setMu i v).time = s.time ∧ (s.setMu i v).phase = s.phase ∧ (s.setMu i v).trigger = s.trigger ∧
    (s.setMu i v).triggerAt = s.triggerAt ∧ (s.setMu i v).pins = s.pins ∧ (s.setMu i v).tus = s.tus ∧ (s.setMu i v).mcus = s.mcus ∧
    (s.setMu i v).vcus = s.vcus ∧ (s.setMu i v).scus = s.scus ∧ (s.setMu i v).sws = s.sws ∧ (s.setMu i v).rts = s.rts ∧
    (s.setMu i v).cls = s.cls ∧ (s.setMu i v).mesh = s.mesh ∧ (s.setMu i v).groups = s.groups ∧ (s.setMu i v).pmFlush = s.pmFlush ∧
    (s.setMu i v).sfs = s.sfs ∧ (s.setMu i v).remap = s.remap ∧ (s.setMu i v).quadBad = s.quadBad ∧ (s.setMu i v).hbm = s.hbm ∧
    (s.setMu i v).pageReqs = s.pageReqs ∧ (s.setMu i v).atc = s.atc ∧ (s.setMu i v).snoops = s.snoops ∧ (s.setMu i v).ports = s.ports ∧
    (s.setMu i v).fns = s.fns ∧ (s.setMu i v).sectors = s.sectors ∧ (s.setMu i v).ctxs = s.ctxs ∧ (s.setMu i v).err = s.err ∧
    (s.setMu i v).aud = s.aud ∧ (s.setMu i v).sec = s.sec ∧ (s.setMu i v).flash = s.flash ∧ (s.setMu i v).pwr = s.pwr ∧
    (s.setMu i v).kpr = s.kpr ∧ (s.setMu i v).txn = s.txn ∧ (s.setMu i v).held = s.held ∧ (s.setMu i v).out = s.out ∧
    (s.setMu i v).fresh = s.fresh ∧
    (s.setMu i v).scanImgs = s.scanImgs ∧ (s.setMu i v).placed = s.placed ∧
    (∀ j, (s.setMu i v).tu j = s.tu j) ∧ (∀ j, (s.setMu i v).mcu j = s.mcu j) ∧
    (∀ j, (s.setMu i v).vcu j = s.vcu j) ∧ (∀ j, (s.setMu i v).scu j = s.scu j) ∧ (∀ j, (s.setMu i v).sw j = s.sw j) ∧
    (∀ j, (s.setMu i v).rt j = s.rt j) ∧ (∀ j, (s.setMu i v).cl j = s.cl j) ∧ (∀ j, (s.setMu i v).grp j = s.grp j) ∧
    (∀ j, (s.setMu i v).sf j = s.sf j) ∧ (∀ j, (s.setMu i v).port j = s.port j) ∧ (∀ j, (s.setMu i v).fn j = s.fn j) ∧
    (∀ j, (s.setMu i v).ctrl j = s.ctrl j) ∧ (∀ j, (s.setMu i v).ctx j = s.ctx j) ∧ (∀ j, (s.setMu i v).sector j = s.sector j) ∧
    (∀ j, (s.setMu i v).die j = s.die j) ∧ (∀ j, (s.setMu i v).ownerOf j = s.ownerOf j) ∧ (∀ j, (s.setMu i v).sectorOf j = s.sectorOf j) ∧
    (∀ j, (s.setMu i v).live j = s.live j) ∧ (∀ n q, (s.setMu i v).ring n q = s.ring n q) :=
    ⟨rfl, rfl, rfl, rfl, rfl, rfl, rfl, rfl, rfl, rfl, rfl, rfl, rfl, rfl, rfl, rfl, rfl, rfl, rfl, rfl, rfl, rfl, rfl, rfl, rfl, rfl, rfl, rfl, rfl,
    rfl, rfl, rfl, rfl, rfl, rfl, rfl, rfl, rfl, rfl, fun _ => rfl, fun _ => rfl, fun _ => rfl, fun _ => rfl, fun _ => rfl, fun _ => rfl,
    fun _ => rfl, fun _ => rfl, fun _ => rfl, fun _ => rfl, fun _ => rfl, fun _ => rfl, fun _ => rfl, fun _ => rfl, fun _ => rfl,
    fun _ => rfl, fun _ => rfl, fun _ => rfl, fun _ _ => rfl⟩

@[simp] theorem State.setMu_mu (s : State) (i j : Nat) (v : Mu) : (s.setMu i v).mu j = if j = i then v else s.mu j := by
  simp [State.setMu, State.mu]

@[simp] theorem State.setMcu_frame (s : State) (i : Nat) (v : Mcu) :
    (s.setMcu i v).pending = s.pending ∧ (s.setMcu i v).time = s.time ∧ (s.setMcu i v).phase = s.phase ∧
    (s.setMcu i v).trigger = s.trigger ∧ (s.setMcu i v).triggerAt = s.triggerAt ∧ (s.setMcu i v).pins = s.pins ∧
    (s.setMcu i v).tus = s.tus ∧ (s.setMcu i v).mus = s.mus ∧ (s.setMcu i v).vcus = s.vcus ∧ (s.setMcu i v).scus = s.scus ∧
    (s.setMcu i v).sws = s.sws ∧ (s.setMcu i v).rts = s.rts ∧ (s.setMcu i v).cls = s.cls ∧ (s.setMcu i v).mesh = s.mesh ∧
    (s.setMcu i v).groups = s.groups ∧ (s.setMcu i v).pmFlush = s.pmFlush ∧ (s.setMcu i v).sfs = s.sfs ∧ (s.setMcu i v).remap = s.remap ∧
    (s.setMcu i v).quadBad = s.quadBad ∧ (s.setMcu i v).hbm = s.hbm ∧ (s.setMcu i v).pageReqs = s.pageReqs ∧ (s.setMcu i v).atc = s.atc ∧
    (s.setMcu i v).snoops = s.snoops ∧ (s.setMcu i v).ports = s.ports ∧ (s.setMcu i v).fns = s.fns ∧ (s.setMcu i v).sectors = s.sectors ∧
    (s.setMcu i v).ctxs = s.ctxs ∧ (s.setMcu i v).err = s.err ∧ (s.setMcu i v).aud = s.aud ∧ (s.setMcu i v).sec = s.sec ∧
    (s.setMcu i v).flash = s.flash ∧ (s.setMcu i v).pwr = s.pwr ∧ (s.setMcu i v).kpr = s.kpr ∧ (s.setMcu i v).txn = s.txn ∧
    (s.setMcu i v).held = s.held ∧ (s.setMcu i v).out = s.out ∧ (s.setMcu i v).fresh = s.fresh ∧
    (s.setMcu i v).scanImgs = s.scanImgs ∧ (s.setMcu i v).placed = s.placed ∧
    (∀ j, (s.setMcu i v).tu j = s.tu j) ∧
    (∀ j, (s.setMcu i v).mu j = s.mu j) ∧ (∀ j, (s.setMcu i v).vcu j = s.vcu j) ∧ (∀ j, (s.setMcu i v).scu j = s.scu j) ∧
    (∀ j, (s.setMcu i v).sw j = s.sw j) ∧ (∀ j, (s.setMcu i v).rt j = s.rt j) ∧ (∀ j, (s.setMcu i v).cl j = s.cl j) ∧
    (∀ j, (s.setMcu i v).grp j = s.grp j) ∧ (∀ j, (s.setMcu i v).sf j = s.sf j) ∧ (∀ j, (s.setMcu i v).port j = s.port j) ∧
    (∀ j, (s.setMcu i v).fn j = s.fn j) ∧ (∀ j, (s.setMcu i v).ctrl j = s.ctrl j) ∧ (∀ j, (s.setMcu i v).ctx j = s.ctx j) ∧
    (∀ j, (s.setMcu i v).sector j = s.sector j) ∧ (∀ j, (s.setMcu i v).die j = s.die j) ∧ (∀ j, (s.setMcu i v).ownerOf j = s.ownerOf j) ∧
    (∀ j, (s.setMcu i v).sectorOf j = s.sectorOf j) ∧ (∀ j, (s.setMcu i v).live j = s.live j) ∧
    (∀ n q, (s.setMcu i v).ring n q = s.ring n q) :=
    ⟨rfl, rfl, rfl, rfl, rfl, rfl, rfl, rfl, rfl, rfl, rfl, rfl, rfl, rfl, rfl, rfl, rfl, rfl, rfl, rfl, rfl, rfl, rfl, rfl, rfl, rfl, rfl, rfl, rfl,
    rfl, rfl, rfl, rfl, rfl, rfl, rfl, rfl, rfl, rfl, fun _ => rfl, fun _ => rfl, fun _ => rfl, fun _ => rfl, fun _ => rfl, fun _ => rfl,
    fun _ => rfl, fun _ => rfl, fun _ => rfl, fun _ => rfl, fun _ => rfl, fun _ => rfl, fun _ => rfl, fun _ => rfl, fun _ => rfl,
    fun _ => rfl, fun _ => rfl, fun _ => rfl, fun _ _ => rfl⟩

@[simp] theorem State.setMcu_mcu (s : State) (i j : Nat) (v : Mcu) : (s.setMcu i v).mcu j = if j = i then v else s.mcu j := by
  simp [State.setMcu, State.mcu]

@[simp] theorem State.setVcu_frame (s : State) (i : Nat) (v : Vcu) :
    (s.setVcu i v).pending = s.pending ∧ (s.setVcu i v).time = s.time ∧ (s.setVcu i v).phase = s.phase ∧
    (s.setVcu i v).trigger = s.trigger ∧ (s.setVcu i v).triggerAt = s.triggerAt ∧ (s.setVcu i v).pins = s.pins ∧
    (s.setVcu i v).tus = s.tus ∧ (s.setVcu i v).mus = s.mus ∧ (s.setVcu i v).mcus = s.mcus ∧ (s.setVcu i v).scus = s.scus ∧
    (s.setVcu i v).sws = s.sws ∧ (s.setVcu i v).rts = s.rts ∧ (s.setVcu i v).cls = s.cls ∧ (s.setVcu i v).mesh = s.mesh ∧
    (s.setVcu i v).groups = s.groups ∧ (s.setVcu i v).pmFlush = s.pmFlush ∧ (s.setVcu i v).sfs = s.sfs ∧ (s.setVcu i v).remap = s.remap ∧
    (s.setVcu i v).quadBad = s.quadBad ∧ (s.setVcu i v).hbm = s.hbm ∧ (s.setVcu i v).pageReqs = s.pageReqs ∧ (s.setVcu i v).atc = s.atc ∧
    (s.setVcu i v).snoops = s.snoops ∧ (s.setVcu i v).ports = s.ports ∧ (s.setVcu i v).fns = s.fns ∧ (s.setVcu i v).sectors = s.sectors ∧
    (s.setVcu i v).ctxs = s.ctxs ∧ (s.setVcu i v).err = s.err ∧ (s.setVcu i v).aud = s.aud ∧ (s.setVcu i v).sec = s.sec ∧
    (s.setVcu i v).flash = s.flash ∧ (s.setVcu i v).pwr = s.pwr ∧ (s.setVcu i v).kpr = s.kpr ∧ (s.setVcu i v).txn = s.txn ∧
    (s.setVcu i v).held = s.held ∧ (s.setVcu i v).out = s.out ∧ (s.setVcu i v).fresh = s.fresh ∧
    (s.setVcu i v).scanImgs = s.scanImgs ∧ (s.setVcu i v).placed = s.placed ∧
    (∀ j, (s.setVcu i v).tu j = s.tu j) ∧
    (∀ j, (s.setVcu i v).mu j = s.mu j) ∧ (∀ j, (s.setVcu i v).mcu j = s.mcu j) ∧ (∀ j, (s.setVcu i v).scu j = s.scu j) ∧
    (∀ j, (s.setVcu i v).sw j = s.sw j) ∧ (∀ j, (s.setVcu i v).rt j = s.rt j) ∧ (∀ j, (s.setVcu i v).cl j = s.cl j) ∧
    (∀ j, (s.setVcu i v).grp j = s.grp j) ∧ (∀ j, (s.setVcu i v).sf j = s.sf j) ∧ (∀ j, (s.setVcu i v).port j = s.port j) ∧
    (∀ j, (s.setVcu i v).fn j = s.fn j) ∧ (∀ j, (s.setVcu i v).ctrl j = s.ctrl j) ∧ (∀ j, (s.setVcu i v).ctx j = s.ctx j) ∧
    (∀ j, (s.setVcu i v).sector j = s.sector j) ∧ (∀ j, (s.setVcu i v).die j = s.die j) ∧ (∀ j, (s.setVcu i v).ownerOf j = s.ownerOf j) ∧
    (∀ j, (s.setVcu i v).sectorOf j = s.sectorOf j) ∧ (∀ j, (s.setVcu i v).live j = s.live j) ∧
    (∀ n q, (s.setVcu i v).ring n q = s.ring n q) :=
    ⟨rfl, rfl, rfl, rfl, rfl, rfl, rfl, rfl, rfl, rfl, rfl, rfl, rfl, rfl, rfl, rfl, rfl, rfl, rfl, rfl, rfl, rfl, rfl, rfl, rfl, rfl, rfl, rfl, rfl,
    rfl, rfl, rfl, rfl, rfl, rfl, rfl, rfl, rfl, rfl, fun _ => rfl, fun _ => rfl, fun _ => rfl, fun _ => rfl, fun _ => rfl, fun _ => rfl,
    fun _ => rfl, fun _ => rfl, fun _ => rfl, fun _ => rfl, fun _ => rfl, fun _ => rfl, fun _ => rfl, fun _ => rfl, fun _ => rfl,
    fun _ => rfl, fun _ => rfl, fun _ => rfl, fun _ _ => rfl⟩

@[simp] theorem State.setVcu_vcu (s : State) (i j : Nat) (v : Vcu) : (s.setVcu i v).vcu j = if j = i then v else s.vcu j := by
  simp [State.setVcu, State.vcu]

@[simp] theorem State.setScu_frame (s : State) (i : Nat) (v : Scu) :
    (s.setScu i v).pending = s.pending ∧ (s.setScu i v).time = s.time ∧ (s.setScu i v).phase = s.phase ∧
    (s.setScu i v).trigger = s.trigger ∧ (s.setScu i v).triggerAt = s.triggerAt ∧ (s.setScu i v).pins = s.pins ∧
    (s.setScu i v).tus = s.tus ∧ (s.setScu i v).mus = s.mus ∧ (s.setScu i v).mcus = s.mcus ∧ (s.setScu i v).vcus = s.vcus ∧
    (s.setScu i v).sws = s.sws ∧ (s.setScu i v).rts = s.rts ∧ (s.setScu i v).cls = s.cls ∧ (s.setScu i v).mesh = s.mesh ∧
    (s.setScu i v).groups = s.groups ∧ (s.setScu i v).pmFlush = s.pmFlush ∧ (s.setScu i v).sfs = s.sfs ∧ (s.setScu i v).remap = s.remap ∧
    (s.setScu i v).quadBad = s.quadBad ∧ (s.setScu i v).hbm = s.hbm ∧ (s.setScu i v).pageReqs = s.pageReqs ∧ (s.setScu i v).atc = s.atc ∧
    (s.setScu i v).snoops = s.snoops ∧ (s.setScu i v).ports = s.ports ∧ (s.setScu i v).fns = s.fns ∧ (s.setScu i v).sectors = s.sectors ∧
    (s.setScu i v).ctxs = s.ctxs ∧ (s.setScu i v).err = s.err ∧ (s.setScu i v).aud = s.aud ∧ (s.setScu i v).sec = s.sec ∧
    (s.setScu i v).flash = s.flash ∧ (s.setScu i v).pwr = s.pwr ∧ (s.setScu i v).kpr = s.kpr ∧ (s.setScu i v).txn = s.txn ∧
    (s.setScu i v).held = s.held ∧ (s.setScu i v).out = s.out ∧ (s.setScu i v).fresh = s.fresh ∧
    (s.setScu i v).scanImgs = s.scanImgs ∧ (s.setScu i v).placed = s.placed ∧
    (∀ j, (s.setScu i v).tu j = s.tu j) ∧
    (∀ j, (s.setScu i v).mu j = s.mu j) ∧ (∀ j, (s.setScu i v).mcu j = s.mcu j) ∧ (∀ j, (s.setScu i v).vcu j = s.vcu j) ∧
    (∀ j, (s.setScu i v).sw j = s.sw j) ∧ (∀ j, (s.setScu i v).rt j = s.rt j) ∧ (∀ j, (s.setScu i v).cl j = s.cl j) ∧
    (∀ j, (s.setScu i v).grp j = s.grp j) ∧ (∀ j, (s.setScu i v).sf j = s.sf j) ∧ (∀ j, (s.setScu i v).port j = s.port j) ∧
    (∀ j, (s.setScu i v).fn j = s.fn j) ∧ (∀ j, (s.setScu i v).ctrl j = s.ctrl j) ∧ (∀ j, (s.setScu i v).ctx j = s.ctx j) ∧
    (∀ j, (s.setScu i v).sector j = s.sector j) ∧ (∀ j, (s.setScu i v).die j = s.die j) ∧ (∀ j, (s.setScu i v).ownerOf j = s.ownerOf j) ∧
    (∀ j, (s.setScu i v).sectorOf j = s.sectorOf j) ∧ (∀ j, (s.setScu i v).live j = s.live j) ∧
    (∀ n q, (s.setScu i v).ring n q = s.ring n q) :=
    ⟨rfl, rfl, rfl, rfl, rfl, rfl, rfl, rfl, rfl, rfl, rfl, rfl, rfl, rfl, rfl, rfl, rfl, rfl, rfl, rfl, rfl, rfl, rfl, rfl, rfl, rfl, rfl, rfl, rfl,
    rfl, rfl, rfl, rfl, rfl, rfl, rfl, rfl, rfl, rfl, fun _ => rfl, fun _ => rfl, fun _ => rfl, fun _ => rfl, fun _ => rfl, fun _ => rfl,
    fun _ => rfl, fun _ => rfl, fun _ => rfl, fun _ => rfl, fun _ => rfl, fun _ => rfl, fun _ => rfl, fun _ => rfl, fun _ => rfl,
    fun _ => rfl, fun _ => rfl, fun _ => rfl, fun _ _ => rfl⟩

@[simp] theorem State.setScu_scu (s : State) (i j : Nat) (v : Scu) : (s.setScu i v).scu j = if j = i then v else s.scu j := by
  simp [State.setScu, State.scu]

@[simp] theorem State.setSw_frame (s : State) (i : Nat) (v : Sw) :
    (s.setSw i v).pending = s.pending ∧ (s.setSw i v).time = s.time ∧ (s.setSw i v).phase = s.phase ∧ (s.setSw i v).trigger = s.trigger ∧
    (s.setSw i v).triggerAt = s.triggerAt ∧ (s.setSw i v).pins = s.pins ∧ (s.setSw i v).tus = s.tus ∧ (s.setSw i v).mus = s.mus ∧
    (s.setSw i v).mcus = s.mcus ∧ (s.setSw i v).vcus = s.vcus ∧ (s.setSw i v).scus = s.scus ∧ (s.setSw i v).rts = s.rts ∧
    (s.setSw i v).cls = s.cls ∧ (s.setSw i v).mesh = s.mesh ∧ (s.setSw i v).groups = s.groups ∧ (s.setSw i v).pmFlush = s.pmFlush ∧
    (s.setSw i v).sfs = s.sfs ∧ (s.setSw i v).remap = s.remap ∧ (s.setSw i v).quadBad = s.quadBad ∧ (s.setSw i v).hbm = s.hbm ∧
    (s.setSw i v).pageReqs = s.pageReqs ∧ (s.setSw i v).atc = s.atc ∧ (s.setSw i v).snoops = s.snoops ∧ (s.setSw i v).ports = s.ports ∧
    (s.setSw i v).fns = s.fns ∧ (s.setSw i v).sectors = s.sectors ∧ (s.setSw i v).ctxs = s.ctxs ∧ (s.setSw i v).err = s.err ∧
    (s.setSw i v).aud = s.aud ∧ (s.setSw i v).sec = s.sec ∧ (s.setSw i v).flash = s.flash ∧ (s.setSw i v).pwr = s.pwr ∧
    (s.setSw i v).kpr = s.kpr ∧ (s.setSw i v).txn = s.txn ∧ (s.setSw i v).held = s.held ∧ (s.setSw i v).out = s.out ∧
    (s.setSw i v).fresh = s.fresh ∧
    (s.setSw i v).scanImgs = s.scanImgs ∧ (s.setSw i v).placed = s.placed ∧
    (∀ j, (s.setSw i v).tu j = s.tu j) ∧ (∀ j, (s.setSw i v).mu j = s.mu j) ∧
    (∀ j, (s.setSw i v).mcu j = s.mcu j) ∧ (∀ j, (s.setSw i v).vcu j = s.vcu j) ∧ (∀ j, (s.setSw i v).scu j = s.scu j) ∧
    (∀ j, (s.setSw i v).rt j = s.rt j) ∧ (∀ j, (s.setSw i v).cl j = s.cl j) ∧ (∀ j, (s.setSw i v).grp j = s.grp j) ∧
    (∀ j, (s.setSw i v).sf j = s.sf j) ∧ (∀ j, (s.setSw i v).port j = s.port j) ∧ (∀ j, (s.setSw i v).fn j = s.fn j) ∧
    (∀ j, (s.setSw i v).ctrl j = s.ctrl j) ∧ (∀ j, (s.setSw i v).ctx j = s.ctx j) ∧ (∀ j, (s.setSw i v).sector j = s.sector j) ∧
    (∀ j, (s.setSw i v).die j = s.die j) ∧ (∀ j, (s.setSw i v).ownerOf j = s.ownerOf j) ∧ (∀ j, (s.setSw i v).sectorOf j = s.sectorOf j) ∧
    (∀ j, (s.setSw i v).live j = s.live j) ∧ (∀ n q, (s.setSw i v).ring n q = s.ring n q) :=
    ⟨rfl, rfl, rfl, rfl, rfl, rfl, rfl, rfl, rfl, rfl, rfl, rfl, rfl, rfl, rfl, rfl, rfl, rfl, rfl, rfl, rfl, rfl, rfl, rfl, rfl, rfl, rfl, rfl, rfl,
    rfl, rfl, rfl, rfl, rfl, rfl, rfl, rfl, rfl, rfl, fun _ => rfl, fun _ => rfl, fun _ => rfl, fun _ => rfl, fun _ => rfl, fun _ => rfl,
    fun _ => rfl, fun _ => rfl, fun _ => rfl, fun _ => rfl, fun _ => rfl, fun _ => rfl, fun _ => rfl, fun _ => rfl, fun _ => rfl,
    fun _ => rfl, fun _ => rfl, fun _ => rfl, fun _ _ => rfl⟩

@[simp] theorem State.setSw_sw (s : State) (i j : Nat) (v : Sw) : (s.setSw i v).sw j = if j = i then v else s.sw j := by
  simp [State.setSw, State.sw]

@[simp] theorem State.setRt_frame (s : State) (i : Nat) (v : Rt) :
    (s.setRt i v).pending = s.pending ∧ (s.setRt i v).time = s.time ∧ (s.setRt i v).phase = s.phase ∧ (s.setRt i v).trigger = s.trigger ∧
    (s.setRt i v).triggerAt = s.triggerAt ∧ (s.setRt i v).pins = s.pins ∧ (s.setRt i v).tus = s.tus ∧ (s.setRt i v).mus = s.mus ∧
    (s.setRt i v).mcus = s.mcus ∧ (s.setRt i v).vcus = s.vcus ∧ (s.setRt i v).scus = s.scus ∧ (s.setRt i v).sws = s.sws ∧
    (s.setRt i v).cls = s.cls ∧ (s.setRt i v).mesh = s.mesh ∧ (s.setRt i v).groups = s.groups ∧ (s.setRt i v).pmFlush = s.pmFlush ∧
    (s.setRt i v).sfs = s.sfs ∧ (s.setRt i v).remap = s.remap ∧ (s.setRt i v).quadBad = s.quadBad ∧ (s.setRt i v).hbm = s.hbm ∧
    (s.setRt i v).pageReqs = s.pageReqs ∧ (s.setRt i v).atc = s.atc ∧ (s.setRt i v).snoops = s.snoops ∧ (s.setRt i v).ports = s.ports ∧
    (s.setRt i v).fns = s.fns ∧ (s.setRt i v).sectors = s.sectors ∧ (s.setRt i v).ctxs = s.ctxs ∧ (s.setRt i v).err = s.err ∧
    (s.setRt i v).aud = s.aud ∧ (s.setRt i v).sec = s.sec ∧ (s.setRt i v).flash = s.flash ∧ (s.setRt i v).pwr = s.pwr ∧
    (s.setRt i v).kpr = s.kpr ∧ (s.setRt i v).txn = s.txn ∧ (s.setRt i v).held = s.held ∧ (s.setRt i v).out = s.out ∧
    (s.setRt i v).fresh = s.fresh ∧
    (s.setRt i v).scanImgs = s.scanImgs ∧ (s.setRt i v).placed = s.placed ∧
    (∀ j, (s.setRt i v).tu j = s.tu j) ∧ (∀ j, (s.setRt i v).mu j = s.mu j) ∧
    (∀ j, (s.setRt i v).mcu j = s.mcu j) ∧ (∀ j, (s.setRt i v).vcu j = s.vcu j) ∧ (∀ j, (s.setRt i v).scu j = s.scu j) ∧
    (∀ j, (s.setRt i v).sw j = s.sw j) ∧ (∀ j, (s.setRt i v).cl j = s.cl j) ∧ (∀ j, (s.setRt i v).grp j = s.grp j) ∧
    (∀ j, (s.setRt i v).sf j = s.sf j) ∧ (∀ j, (s.setRt i v).port j = s.port j) ∧ (∀ j, (s.setRt i v).fn j = s.fn j) ∧
    (∀ j, (s.setRt i v).ctrl j = s.ctrl j) ∧ (∀ j, (s.setRt i v).ctx j = s.ctx j) ∧ (∀ j, (s.setRt i v).sector j = s.sector j) ∧
    (∀ j, (s.setRt i v).die j = s.die j) ∧ (∀ j, (s.setRt i v).ownerOf j = s.ownerOf j) ∧ (∀ j, (s.setRt i v).sectorOf j = s.sectorOf j) ∧
    (∀ j, (s.setRt i v).live j = s.live j) ∧ (∀ n q, (s.setRt i v).ring n q = s.ring n q) :=
    ⟨rfl, rfl, rfl, rfl, rfl, rfl, rfl, rfl, rfl, rfl, rfl, rfl, rfl, rfl, rfl, rfl, rfl, rfl, rfl, rfl, rfl, rfl, rfl, rfl, rfl, rfl, rfl, rfl, rfl,
    rfl, rfl, rfl, rfl, rfl, rfl, rfl, rfl, rfl, rfl, fun _ => rfl, fun _ => rfl, fun _ => rfl, fun _ => rfl, fun _ => rfl, fun _ => rfl,
    fun _ => rfl, fun _ => rfl, fun _ => rfl, fun _ => rfl, fun _ => rfl, fun _ => rfl, fun _ => rfl, fun _ => rfl, fun _ => rfl,
    fun _ => rfl, fun _ => rfl, fun _ => rfl, fun _ _ => rfl⟩

@[simp] theorem State.setRt_rt (s : State) (i j : Nat) (v : Rt) : (s.setRt i v).rt j = if j = i then v else s.rt j := by
  simp [State.setRt, State.rt]

@[simp] theorem State.setCl_frame (s : State) (i : Nat) (v : Cl) :
    (s.setCl i v).pending = s.pending ∧ (s.setCl i v).time = s.time ∧ (s.setCl i v).phase = s.phase ∧ (s.setCl i v).trigger = s.trigger ∧
    (s.setCl i v).triggerAt = s.triggerAt ∧ (s.setCl i v).pins = s.pins ∧ (s.setCl i v).tus = s.tus ∧ (s.setCl i v).mus = s.mus ∧
    (s.setCl i v).mcus = s.mcus ∧ (s.setCl i v).vcus = s.vcus ∧ (s.setCl i v).scus = s.scus ∧ (s.setCl i v).sws = s.sws ∧
    (s.setCl i v).rts = s.rts ∧ (s.setCl i v).mesh = s.mesh ∧ (s.setCl i v).groups = s.groups ∧ (s.setCl i v).pmFlush = s.pmFlush ∧
    (s.setCl i v).sfs = s.sfs ∧ (s.setCl i v).remap = s.remap ∧ (s.setCl i v).quadBad = s.quadBad ∧ (s.setCl i v).hbm = s.hbm ∧
    (s.setCl i v).pageReqs = s.pageReqs ∧ (s.setCl i v).atc = s.atc ∧ (s.setCl i v).snoops = s.snoops ∧ (s.setCl i v).ports = s.ports ∧
    (s.setCl i v).fns = s.fns ∧ (s.setCl i v).sectors = s.sectors ∧ (s.setCl i v).ctxs = s.ctxs ∧ (s.setCl i v).err = s.err ∧
    (s.setCl i v).aud = s.aud ∧ (s.setCl i v).sec = s.sec ∧ (s.setCl i v).flash = s.flash ∧ (s.setCl i v).pwr = s.pwr ∧
    (s.setCl i v).kpr = s.kpr ∧ (s.setCl i v).txn = s.txn ∧ (s.setCl i v).held = s.held ∧ (s.setCl i v).out = s.out ∧
    (s.setCl i v).fresh = s.fresh ∧
    (s.setCl i v).scanImgs = s.scanImgs ∧ (s.setCl i v).placed = s.placed ∧
    (∀ j, (s.setCl i v).tu j = s.tu j) ∧ (∀ j, (s.setCl i v).mu j = s.mu j) ∧
    (∀ j, (s.setCl i v).mcu j = s.mcu j) ∧ (∀ j, (s.setCl i v).vcu j = s.vcu j) ∧ (∀ j, (s.setCl i v).scu j = s.scu j) ∧
    (∀ j, (s.setCl i v).sw j = s.sw j) ∧ (∀ j, (s.setCl i v).rt j = s.rt j) ∧ (∀ j, (s.setCl i v).grp j = s.grp j) ∧
    (∀ j, (s.setCl i v).sf j = s.sf j) ∧ (∀ j, (s.setCl i v).port j = s.port j) ∧ (∀ j, (s.setCl i v).fn j = s.fn j) ∧
    (∀ j, (s.setCl i v).ctrl j = s.ctrl j) ∧ (∀ j, (s.setCl i v).ctx j = s.ctx j) ∧ (∀ j, (s.setCl i v).sector j = s.sector j) ∧
    (∀ j, (s.setCl i v).die j = s.die j) ∧ (∀ j, (s.setCl i v).sectorOf j = s.sectorOf j) ∧ (∀ n q, (s.setCl i v).ring n q = s.ring n q) :=
    ⟨rfl, rfl, rfl, rfl, rfl, rfl, rfl, rfl, rfl, rfl, rfl, rfl, rfl, rfl, rfl, rfl, rfl, rfl, rfl, rfl, rfl, rfl, rfl, rfl, rfl, rfl, rfl, rfl, rfl,
    rfl, rfl, rfl, rfl, rfl, rfl, rfl, rfl, rfl, rfl, fun _ => rfl, fun _ => rfl, fun _ => rfl, fun _ => rfl, fun _ => rfl, fun _ => rfl,
    fun _ => rfl, fun _ => rfl, fun _ => rfl, fun _ => rfl, fun _ => rfl, fun _ => rfl, fun _ => rfl, fun _ => rfl, fun _ => rfl,
    fun _ => rfl, fun _ _ => rfl⟩

@[simp] theorem State.setCl_cl (s : State) (i j : Nat) (v : Cl) : (s.setCl i v).cl j = if j = i then v else s.cl j := by
  simp [State.setCl, State.cl]

@[simp] theorem State.setGrp_frame (s : State) (i : Nat) (v : Grp) :
    (s.setGrp i v).pending = s.pending ∧ (s.setGrp i v).time = s.time ∧ (s.setGrp i v).phase = s.phase ∧
    (s.setGrp i v).trigger = s.trigger ∧ (s.setGrp i v).triggerAt = s.triggerAt ∧ (s.setGrp i v).pins = s.pins ∧
    (s.setGrp i v).tus = s.tus ∧ (s.setGrp i v).mus = s.mus ∧ (s.setGrp i v).mcus = s.mcus ∧ (s.setGrp i v).vcus = s.vcus ∧
    (s.setGrp i v).scus = s.scus ∧ (s.setGrp i v).sws = s.sws ∧ (s.setGrp i v).rts = s.rts ∧ (s.setGrp i v).cls = s.cls ∧
    (s.setGrp i v).mesh = s.mesh ∧ (s.setGrp i v).pmFlush = s.pmFlush ∧ (s.setGrp i v).sfs = s.sfs ∧ (s.setGrp i v).remap = s.remap ∧
    (s.setGrp i v).quadBad = s.quadBad ∧ (s.setGrp i v).hbm = s.hbm ∧ (s.setGrp i v).pageReqs = s.pageReqs ∧ (s.setGrp i v).atc = s.atc ∧
    (s.setGrp i v).snoops = s.snoops ∧ (s.setGrp i v).ports = s.ports ∧ (s.setGrp i v).fns = s.fns ∧ (s.setGrp i v).sectors = s.sectors ∧
    (s.setGrp i v).ctxs = s.ctxs ∧ (s.setGrp i v).err = s.err ∧ (s.setGrp i v).aud = s.aud ∧ (s.setGrp i v).sec = s.sec ∧
    (s.setGrp i v).flash = s.flash ∧ (s.setGrp i v).pwr = s.pwr ∧ (s.setGrp i v).kpr = s.kpr ∧ (s.setGrp i v).txn = s.txn ∧
    (s.setGrp i v).held = s.held ∧ (s.setGrp i v).out = s.out ∧ (s.setGrp i v).fresh = s.fresh ∧
    (s.setGrp i v).scanImgs = s.scanImgs ∧ (s.setGrp i v).placed = s.placed ∧
    (∀ j, (s.setGrp i v).tu j = s.tu j) ∧
    (∀ j, (s.setGrp i v).mu j = s.mu j) ∧ (∀ j, (s.setGrp i v).mcu j = s.mcu j) ∧ (∀ j, (s.setGrp i v).vcu j = s.vcu j) ∧
    (∀ j, (s.setGrp i v).scu j = s.scu j) ∧ (∀ j, (s.setGrp i v).sw j = s.sw j) ∧ (∀ j, (s.setGrp i v).rt j = s.rt j) ∧
    (∀ j, (s.setGrp i v).cl j = s.cl j) ∧ (∀ j, (s.setGrp i v).sf j = s.sf j) ∧ (∀ j, (s.setGrp i v).port j = s.port j) ∧
    (∀ j, (s.setGrp i v).fn j = s.fn j) ∧ (∀ j, (s.setGrp i v).ctrl j = s.ctrl j) ∧ (∀ j, (s.setGrp i v).ctx j = s.ctx j) ∧
    (∀ j, (s.setGrp i v).sector j = s.sector j) ∧ (∀ j, (s.setGrp i v).die j = s.die j) ∧ (∀ j, (s.setGrp i v).ownerOf j = s.ownerOf j) ∧
    (∀ j, (s.setGrp i v).sectorOf j = s.sectorOf j) ∧ (∀ j, (s.setGrp i v).live j = s.live j) ∧
    (∀ n q, (s.setGrp i v).ring n q = s.ring n q) :=
    ⟨rfl, rfl, rfl, rfl, rfl, rfl, rfl, rfl, rfl, rfl, rfl, rfl, rfl, rfl, rfl, rfl, rfl, rfl, rfl, rfl, rfl, rfl, rfl, rfl, rfl, rfl, rfl, rfl, rfl,
    rfl, rfl, rfl, rfl, rfl, rfl, rfl, rfl, rfl, rfl, fun _ => rfl, fun _ => rfl, fun _ => rfl, fun _ => rfl, fun _ => rfl, fun _ => rfl,
    fun _ => rfl, fun _ => rfl, fun _ => rfl, fun _ => rfl, fun _ => rfl, fun _ => rfl, fun _ => rfl, fun _ => rfl, fun _ => rfl,
    fun _ => rfl, fun _ => rfl, fun _ => rfl, fun _ _ => rfl⟩

@[simp] theorem State.setGrp_grp (s : State) (i j : Nat) (v : Grp) : (s.setGrp i v).grp j = if j = i then v else s.grp j := by
  simp [State.setGrp, State.grp]

@[simp] theorem State.setSf_frame (s : State) (i : Nat) (v : Sf) :
    (s.setSf i v).pending = s.pending ∧ (s.setSf i v).time = s.time ∧ (s.setSf i v).phase = s.phase ∧ (s.setSf i v).trigger = s.trigger ∧
    (s.setSf i v).triggerAt = s.triggerAt ∧ (s.setSf i v).pins = s.pins ∧ (s.setSf i v).tus = s.tus ∧ (s.setSf i v).mus = s.mus ∧
    (s.setSf i v).mcus = s.mcus ∧ (s.setSf i v).vcus = s.vcus ∧ (s.setSf i v).scus = s.scus ∧ (s.setSf i v).sws = s.sws ∧
    (s.setSf i v).rts = s.rts ∧ (s.setSf i v).cls = s.cls ∧ (s.setSf i v).mesh = s.mesh ∧ (s.setSf i v).groups = s.groups ∧
    (s.setSf i v).pmFlush = s.pmFlush ∧ (s.setSf i v).remap = s.remap ∧ (s.setSf i v).quadBad = s.quadBad ∧ (s.setSf i v).hbm = s.hbm ∧
    (s.setSf i v).pageReqs = s.pageReqs ∧ (s.setSf i v).atc = s.atc ∧ (s.setSf i v).snoops = s.snoops ∧ (s.setSf i v).ports = s.ports ∧
    (s.setSf i v).fns = s.fns ∧ (s.setSf i v).sectors = s.sectors ∧ (s.setSf i v).ctxs = s.ctxs ∧ (s.setSf i v).err = s.err ∧
    (s.setSf i v).aud = s.aud ∧ (s.setSf i v).sec = s.sec ∧ (s.setSf i v).flash = s.flash ∧ (s.setSf i v).pwr = s.pwr ∧
    (s.setSf i v).kpr = s.kpr ∧ (s.setSf i v).txn = s.txn ∧ (s.setSf i v).held = s.held ∧ (s.setSf i v).out = s.out ∧
    (s.setSf i v).fresh = s.fresh ∧
    (s.setSf i v).scanImgs = s.scanImgs ∧ (s.setSf i v).placed = s.placed ∧
    (∀ j, (s.setSf i v).tu j = s.tu j) ∧ (∀ j, (s.setSf i v).mu j = s.mu j) ∧
    (∀ j, (s.setSf i v).mcu j = s.mcu j) ∧ (∀ j, (s.setSf i v).vcu j = s.vcu j) ∧ (∀ j, (s.setSf i v).scu j = s.scu j) ∧
    (∀ j, (s.setSf i v).sw j = s.sw j) ∧ (∀ j, (s.setSf i v).rt j = s.rt j) ∧ (∀ j, (s.setSf i v).cl j = s.cl j) ∧
    (∀ j, (s.setSf i v).grp j = s.grp j) ∧ (∀ j, (s.setSf i v).port j = s.port j) ∧ (∀ j, (s.setSf i v).fn j = s.fn j) ∧
    (∀ j, (s.setSf i v).ctrl j = s.ctrl j) ∧ (∀ j, (s.setSf i v).ctx j = s.ctx j) ∧ (∀ j, (s.setSf i v).sector j = s.sector j) ∧
    (∀ j, (s.setSf i v).die j = s.die j) ∧ (∀ j, (s.setSf i v).ownerOf j = s.ownerOf j) ∧ (∀ j, (s.setSf i v).sectorOf j = s.sectorOf j) ∧
    (∀ j, (s.setSf i v).live j = s.live j) ∧ (∀ n q, (s.setSf i v).ring n q = s.ring n q) :=
    ⟨rfl, rfl, rfl, rfl, rfl, rfl, rfl, rfl, rfl, rfl, rfl, rfl, rfl, rfl, rfl, rfl, rfl, rfl, rfl, rfl, rfl, rfl, rfl, rfl, rfl, rfl, rfl, rfl, rfl,
    rfl, rfl, rfl, rfl, rfl, rfl, rfl, rfl, rfl, rfl, fun _ => rfl, fun _ => rfl, fun _ => rfl, fun _ => rfl, fun _ => rfl, fun _ => rfl,
    fun _ => rfl, fun _ => rfl, fun _ => rfl, fun _ => rfl, fun _ => rfl, fun _ => rfl, fun _ => rfl, fun _ => rfl, fun _ => rfl,
    fun _ => rfl, fun _ => rfl, fun _ => rfl, fun _ _ => rfl⟩

@[simp] theorem State.setSf_sf (s : State) (i j : Nat) (v : Sf) : (s.setSf i v).sf j = if j = i then v else s.sf j := by
  simp [State.setSf, State.sf]

@[simp] theorem State.setPort_frame (s : State) (i : Nat) (v : Port) :
    (s.setPort i v).pending = s.pending ∧ (s.setPort i v).time = s.time ∧ (s.setPort i v).phase = s.phase ∧
    (s.setPort i v).trigger = s.trigger ∧ (s.setPort i v).triggerAt = s.triggerAt ∧ (s.setPort i v).pins = s.pins ∧
    (s.setPort i v).tus = s.tus ∧ (s.setPort i v).mus = s.mus ∧ (s.setPort i v).mcus = s.mcus ∧ (s.setPort i v).vcus = s.vcus ∧
    (s.setPort i v).scus = s.scus ∧ (s.setPort i v).sws = s.sws ∧ (s.setPort i v).rts = s.rts ∧ (s.setPort i v).cls = s.cls ∧
    (s.setPort i v).mesh = s.mesh ∧ (s.setPort i v).groups = s.groups ∧ (s.setPort i v).pmFlush = s.pmFlush ∧ (s.setPort i v).sfs = s.sfs ∧
    (s.setPort i v).remap = s.remap ∧ (s.setPort i v).quadBad = s.quadBad ∧ (s.setPort i v).hbm = s.hbm ∧
    (s.setPort i v).pageReqs = s.pageReqs ∧ (s.setPort i v).atc = s.atc ∧ (s.setPort i v).snoops = s.snoops ∧ (s.setPort i v).fns = s.fns ∧
    (s.setPort i v).sectors = s.sectors ∧ (s.setPort i v).ctxs = s.ctxs ∧ (s.setPort i v).err = s.err ∧ (s.setPort i v).aud = s.aud ∧
    (s.setPort i v).sec = s.sec ∧ (s.setPort i v).flash = s.flash ∧ (s.setPort i v).pwr = s.pwr ∧ (s.setPort i v).kpr = s.kpr ∧
    (s.setPort i v).txn = s.txn ∧ (s.setPort i v).held = s.held ∧ (s.setPort i v).out = s.out ∧ (s.setPort i v).fresh = s.fresh ∧
    (s.setPort i v).scanImgs = s.scanImgs ∧ (s.setPort i v).placed = s.placed ∧
    (∀ j, (s.setPort i v).tu j = s.tu j) ∧ (∀ j, (s.setPort i v).mu j = s.mu j) ∧ (∀ j, (s.setPort i v).mcu j = s.mcu j) ∧
    (∀ j, (s.setPort i v).vcu j = s.vcu j) ∧ (∀ j, (s.setPort i v).scu j = s.scu j) ∧ (∀ j, (s.setPort i v).sw j = s.sw j) ∧
    (∀ j, (s.setPort i v).rt j = s.rt j) ∧ (∀ j, (s.setPort i v).cl j = s.cl j) ∧ (∀ j, (s.setPort i v).grp j = s.grp j) ∧
    (∀ j, (s.setPort i v).sf j = s.sf j) ∧ (∀ j, (s.setPort i v).fn j = s.fn j) ∧ (∀ j, (s.setPort i v).ctrl j = s.ctrl j) ∧
    (∀ j, (s.setPort i v).ctx j = s.ctx j) ∧ (∀ j, (s.setPort i v).sector j = s.sector j) ∧ (∀ j, (s.setPort i v).die j = s.die j) ∧
    (∀ j, (s.setPort i v).ownerOf j = s.ownerOf j) ∧ (∀ j, (s.setPort i v).sectorOf j = s.sectorOf j) ∧
    (∀ j, (s.setPort i v).live j = s.live j) ∧ (∀ n q, (s.setPort i v).ring n q = s.ring n q) :=
    ⟨rfl, rfl, rfl, rfl, rfl, rfl, rfl, rfl, rfl, rfl, rfl, rfl, rfl, rfl, rfl, rfl, rfl, rfl, rfl, rfl, rfl, rfl, rfl, rfl, rfl, rfl, rfl, rfl, rfl,
    rfl, rfl, rfl, rfl, rfl, rfl, rfl, rfl, rfl, rfl, fun _ => rfl, fun _ => rfl, fun _ => rfl, fun _ => rfl, fun _ => rfl, fun _ => rfl,
    fun _ => rfl, fun _ => rfl, fun _ => rfl, fun _ => rfl, fun _ => rfl, fun _ => rfl, fun _ => rfl, fun _ => rfl, fun _ => rfl,
    fun _ => rfl, fun _ => rfl, fun _ => rfl, fun _ _ => rfl⟩

@[simp] theorem State.setPort_port (s : State) (i j : Nat) (v : Port) : (s.setPort i v).port j = if j = i then v else s.port j := by
  simp [State.setPort, State.port]

@[simp] theorem State.setFn_frame (s : State) (i : Nat) (v : Fn) :
    (s.setFn i v).pending = s.pending ∧ (s.setFn i v).time = s.time ∧ (s.setFn i v).phase = s.phase ∧ (s.setFn i v).trigger = s.trigger ∧
    (s.setFn i v).triggerAt = s.triggerAt ∧ (s.setFn i v).pins = s.pins ∧ (s.setFn i v).tus = s.tus ∧ (s.setFn i v).mus = s.mus ∧
    (s.setFn i v).mcus = s.mcus ∧ (s.setFn i v).vcus = s.vcus ∧ (s.setFn i v).scus = s.scus ∧ (s.setFn i v).sws = s.sws ∧
    (s.setFn i v).rts = s.rts ∧ (s.setFn i v).cls = s.cls ∧ (s.setFn i v).mesh = s.mesh ∧ (s.setFn i v).groups = s.groups ∧
    (s.setFn i v).pmFlush = s.pmFlush ∧ (s.setFn i v).sfs = s.sfs ∧ (s.setFn i v).remap = s.remap ∧ (s.setFn i v).quadBad = s.quadBad ∧
    (s.setFn i v).hbm = s.hbm ∧ (s.setFn i v).pageReqs = s.pageReqs ∧ (s.setFn i v).atc = s.atc ∧ (s.setFn i v).snoops = s.snoops ∧
    (s.setFn i v).ports = s.ports ∧ (s.setFn i v).sectors = s.sectors ∧ (s.setFn i v).ctxs = s.ctxs ∧ (s.setFn i v).err = s.err ∧
    (s.setFn i v).aud = s.aud ∧ (s.setFn i v).sec = s.sec ∧ (s.setFn i v).flash = s.flash ∧ (s.setFn i v).pwr = s.pwr ∧
    (s.setFn i v).kpr = s.kpr ∧ (s.setFn i v).txn = s.txn ∧ (s.setFn i v).held = s.held ∧ (s.setFn i v).out = s.out ∧
    (s.setFn i v).fresh = s.fresh ∧
    (s.setFn i v).scanImgs = s.scanImgs ∧ (s.setFn i v).placed = s.placed ∧
    (∀ j, (s.setFn i v).tu j = s.tu j) ∧ (∀ j, (s.setFn i v).mu j = s.mu j) ∧
    (∀ j, (s.setFn i v).mcu j = s.mcu j) ∧ (∀ j, (s.setFn i v).vcu j = s.vcu j) ∧ (∀ j, (s.setFn i v).scu j = s.scu j) ∧
    (∀ j, (s.setFn i v).sw j = s.sw j) ∧ (∀ j, (s.setFn i v).rt j = s.rt j) ∧ (∀ j, (s.setFn i v).cl j = s.cl j) ∧
    (∀ j, (s.setFn i v).grp j = s.grp j) ∧ (∀ j, (s.setFn i v).sf j = s.sf j) ∧ (∀ j, (s.setFn i v).port j = s.port j) ∧
    (∀ j, (s.setFn i v).ctrl j = s.ctrl j) ∧ (∀ j, (s.setFn i v).ctx j = s.ctx j) ∧ (∀ j, (s.setFn i v).sector j = s.sector j) ∧
    (∀ j, (s.setFn i v).die j = s.die j) ∧ (∀ j, (s.setFn i v).ownerOf j = s.ownerOf j) ∧ (∀ j, (s.setFn i v).sectorOf j = s.sectorOf j) ∧
    (∀ j, (s.setFn i v).live j = s.live j) :=
    ⟨rfl, rfl, rfl, rfl, rfl, rfl, rfl, rfl, rfl, rfl, rfl, rfl, rfl, rfl, rfl, rfl, rfl, rfl, rfl, rfl, rfl, rfl, rfl, rfl, rfl, rfl, rfl, rfl, rfl,
    rfl, rfl, rfl, rfl, rfl, rfl, rfl, rfl, rfl, rfl, fun _ => rfl, fun _ => rfl, fun _ => rfl, fun _ => rfl, fun _ => rfl, fun _ => rfl,
    fun _ => rfl, fun _ => rfl, fun _ => rfl, fun _ => rfl, fun _ => rfl, fun _ => rfl, fun _ => rfl, fun _ => rfl, fun _ => rfl,
    fun _ => rfl, fun _ => rfl, fun _ => rfl⟩

@[simp] theorem State.setFn_fn (s : State) (i j : Nat) (v : Fn) : (s.setFn i v).fn j = if j = i then v else s.fn j := by
  simp [State.setFn, State.fn]

@[simp] theorem State.setCtrl_frame (s : State) (i : Nat) (v : Ctrl) :
    (s.setCtrl i v).pending = s.pending ∧ (s.setCtrl i v).time = s.time ∧ (s.setCtrl i v).phase = s.phase ∧
    (s.setCtrl i v).trigger = s.trigger ∧ (s.setCtrl i v).triggerAt = s.triggerAt ∧ (s.setCtrl i v).pins = s.pins ∧
    (s.setCtrl i v).tus = s.tus ∧ (s.setCtrl i v).mus = s.mus ∧ (s.setCtrl i v).mcus = s.mcus ∧ (s.setCtrl i v).vcus = s.vcus ∧
    (s.setCtrl i v).scus = s.scus ∧ (s.setCtrl i v).sws = s.sws ∧ (s.setCtrl i v).rts = s.rts ∧ (s.setCtrl i v).cls = s.cls ∧
    (s.setCtrl i v).mesh = s.mesh ∧ (s.setCtrl i v).groups = s.groups ∧ (s.setCtrl i v).pmFlush = s.pmFlush ∧ (s.setCtrl i v).sfs = s.sfs ∧
    (s.setCtrl i v).remap = s.remap ∧ (s.setCtrl i v).quadBad = s.quadBad ∧ (s.setCtrl i v).pageReqs = s.pageReqs ∧
    (s.setCtrl i v).atc = s.atc ∧ (s.setCtrl i v).snoops = s.snoops ∧ (s.setCtrl i v).ports = s.ports ∧ (s.setCtrl i v).fns = s.fns ∧
    (s.setCtrl i v).sectors = s.sectors ∧ (s.setCtrl i v).ctxs = s.ctxs ∧ (s.setCtrl i v).err = s.err ∧ (s.setCtrl i v).aud = s.aud ∧
    (s.setCtrl i v).sec = s.sec ∧ (s.setCtrl i v).flash = s.flash ∧ (s.setCtrl i v).pwr = s.pwr ∧ (s.setCtrl i v).kpr = s.kpr ∧
    (s.setCtrl i v).txn = s.txn ∧ (s.setCtrl i v).held = s.held ∧ (s.setCtrl i v).out = s.out ∧ (s.setCtrl i v).fresh = s.fresh ∧
    (s.setCtrl i v).scanImgs = s.scanImgs ∧ (s.setCtrl i v).placed = s.placed ∧
    (∀ j, (s.setCtrl i v).tu j = s.tu j) ∧ (∀ j, (s.setCtrl i v).mu j = s.mu j) ∧ (∀ j, (s.setCtrl i v).mcu j = s.mcu j) ∧
    (∀ j, (s.setCtrl i v).vcu j = s.vcu j) ∧ (∀ j, (s.setCtrl i v).scu j = s.scu j) ∧ (∀ j, (s.setCtrl i v).sw j = s.sw j) ∧
    (∀ j, (s.setCtrl i v).rt j = s.rt j) ∧ (∀ j, (s.setCtrl i v).cl j = s.cl j) ∧ (∀ j, (s.setCtrl i v).grp j = s.grp j) ∧
    (∀ j, (s.setCtrl i v).sf j = s.sf j) ∧ (∀ j, (s.setCtrl i v).port j = s.port j) ∧ (∀ j, (s.setCtrl i v).fn j = s.fn j) ∧
    (∀ j, (s.setCtrl i v).ctx j = s.ctx j) ∧ (∀ j, (s.setCtrl i v).sector j = s.sector j) ∧ (∀ j, (s.setCtrl i v).die j = s.die j) ∧
    (∀ j, (s.setCtrl i v).ownerOf j = s.ownerOf j) ∧ (∀ j, (s.setCtrl i v).sectorOf j = s.sectorOf j) ∧
    (∀ j, (s.setCtrl i v).live j = s.live j) ∧ (∀ n q, (s.setCtrl i v).ring n q = s.ring n q) ∧ (s.setCtrl i v).hbm.mem = s.hbm.mem ∧
    (s.setCtrl i v).hbm.fogLines = s.hbm.fogLines ∧ (s.setCtrl i v).hbm.errs = s.hbm.errs ∧ (s.setCtrl i v).hbm.dieErrs = s.hbm.dieErrs ∧
    (s.setCtrl i v).hbm.checks = s.hbm.checks ∧ (s.setCtrl i v).hbm.granules = s.hbm.granules ∧ (s.setCtrl i v).hbm.keys = s.hbm.keys ∧
    (s.setCtrl i v).hbm.failing = s.hbm.failing :=
    ⟨rfl, rfl, rfl, rfl, rfl, rfl, rfl, rfl, rfl, rfl, rfl, rfl, rfl, rfl, rfl, rfl, rfl, rfl, rfl, rfl, rfl, rfl, rfl, rfl, rfl, rfl, rfl, rfl, rfl,
    rfl, rfl, rfl, rfl, rfl, rfl, rfl, rfl, rfl, rfl, fun _ => rfl, fun _ => rfl, fun _ => rfl, fun _ => rfl, fun _ => rfl, fun _ => rfl,
    fun _ => rfl, fun _ => rfl, fun _ => rfl, fun _ => rfl, fun _ => rfl, fun _ => rfl, fun _ => rfl, fun _ => rfl, fun _ => rfl,
    fun _ => rfl, fun _ => rfl, fun _ => rfl, fun _ _ => rfl, rfl, rfl, rfl, rfl, rfl, rfl, rfl, rfl⟩

@[simp] theorem State.setCtrl_ctrl (s : State) (i j : Nat) (v : Ctrl) : (s.setCtrl i v).ctrl j = if j = i then v else s.ctrl j := by
  simp [State.setCtrl, State.ctrl]

@[simp] theorem State.setCtx_frame (s : State) (i : Nat) (v : Ctx) :
    (s.setCtx i v).pending = s.pending ∧ (s.setCtx i v).time = s.time ∧ (s.setCtx i v).phase = s.phase ∧
    (s.setCtx i v).trigger = s.trigger ∧ (s.setCtx i v).triggerAt = s.triggerAt ∧ (s.setCtx i v).pins = s.pins ∧
    (s.setCtx i v).tus = s.tus ∧ (s.setCtx i v).mus = s.mus ∧ (s.setCtx i v).mcus = s.mcus ∧ (s.setCtx i v).vcus = s.vcus ∧
    (s.setCtx i v).scus = s.scus ∧ (s.setCtx i v).sws = s.sws ∧ (s.setCtx i v).rts = s.rts ∧ (s.setCtx i v).cls = s.cls ∧
    (s.setCtx i v).mesh = s.mesh ∧ (s.setCtx i v).groups = s.groups ∧ (s.setCtx i v).pmFlush = s.pmFlush ∧ (s.setCtx i v).sfs = s.sfs ∧
    (s.setCtx i v).remap = s.remap ∧ (s.setCtx i v).quadBad = s.quadBad ∧ (s.setCtx i v).hbm = s.hbm ∧
    (s.setCtx i v).pageReqs = s.pageReqs ∧ (s.setCtx i v).atc = s.atc ∧ (s.setCtx i v).snoops = s.snoops ∧ (s.setCtx i v).ports = s.ports ∧
    (s.setCtx i v).fns = s.fns ∧ (s.setCtx i v).sectors = s.sectors ∧ (s.setCtx i v).err = s.err ∧ (s.setCtx i v).aud = s.aud ∧
    (s.setCtx i v).sec = s.sec ∧ (s.setCtx i v).flash = s.flash ∧ (s.setCtx i v).pwr = s.pwr ∧ (s.setCtx i v).kpr = s.kpr ∧
    (s.setCtx i v).txn = s.txn ∧ (s.setCtx i v).held = s.held ∧ (s.setCtx i v).out = s.out ∧ (s.setCtx i v).fresh = s.fresh ∧
    (s.setCtx i v).scanImgs = s.scanImgs ∧ (s.setCtx i v).placed = s.placed ∧
    (∀ j, (s.setCtx i v).tu j = s.tu j) ∧ (∀ j, (s.setCtx i v).mu j = s.mu j) ∧ (∀ j, (s.setCtx i v).mcu j = s.mcu j) ∧
    (∀ j, (s.setCtx i v).vcu j = s.vcu j) ∧ (∀ j, (s.setCtx i v).scu j = s.scu j) ∧ (∀ j, (s.setCtx i v).sw j = s.sw j) ∧
    (∀ j, (s.setCtx i v).rt j = s.rt j) ∧ (∀ j, (s.setCtx i v).cl j = s.cl j) ∧ (∀ j, (s.setCtx i v).grp j = s.grp j) ∧
    (∀ j, (s.setCtx i v).sf j = s.sf j) ∧ (∀ j, (s.setCtx i v).port j = s.port j) ∧ (∀ j, (s.setCtx i v).fn j = s.fn j) ∧
    (∀ j, (s.setCtx i v).ctrl j = s.ctrl j) ∧ (∀ j, (s.setCtx i v).sector j = s.sector j) ∧ (∀ j, (s.setCtx i v).die j = s.die j) ∧
    (∀ j, (s.setCtx i v).ownerOf j = s.ownerOf j) ∧ (∀ j, (s.setCtx i v).sectorOf j = s.sectorOf j) ∧
    (∀ n q, (s.setCtx i v).ring n q = s.ring n q) :=
    ⟨rfl, rfl, rfl, rfl, rfl, rfl, rfl, rfl, rfl, rfl, rfl, rfl, rfl, rfl, rfl, rfl, rfl, rfl, rfl, rfl, rfl, rfl, rfl, rfl, rfl, rfl, rfl, rfl, rfl,
    rfl, rfl, rfl, rfl, rfl, rfl, rfl, rfl, rfl, rfl, fun _ => rfl, fun _ => rfl, fun _ => rfl, fun _ => rfl, fun _ => rfl, fun _ => rfl,
    fun _ => rfl, fun _ => rfl, fun _ => rfl, fun _ => rfl, fun _ => rfl, fun _ => rfl, fun _ => rfl, fun _ => rfl, fun _ => rfl,
    fun _ => rfl, fun _ => rfl, fun _ _ => rfl⟩

@[simp] theorem State.setCtx_ctx (s : State) (i j : Nat) (v : Ctx) : (s.setCtx i v).ctx j = if j = i then some v else s.ctx j := by
  simp [State.setCtx, State.ctx]

@[simp] theorem State.setSector_frame (s : State) (i : Nat) (v : Sector) :
    (s.setSector i v).pending = s.pending ∧ (s.setSector i v).time = s.time ∧ (s.setSector i v).phase = s.phase ∧
    (s.setSector i v).trigger = s.trigger ∧ (s.setSector i v).triggerAt = s.triggerAt ∧ (s.setSector i v).pins = s.pins ∧
    (s.setSector i v).tus = s.tus ∧ (s.setSector i v).mus = s.mus ∧ (s.setSector i v).mcus = s.mcus ∧ (s.setSector i v).vcus = s.vcus ∧
    (s.setSector i v).scus = s.scus ∧ (s.setSector i v).sws = s.sws ∧ (s.setSector i v).rts = s.rts ∧ (s.setSector i v).cls = s.cls ∧
    (s.setSector i v).mesh = s.mesh ∧ (s.setSector i v).groups = s.groups ∧ (s.setSector i v).pmFlush = s.pmFlush ∧
    (s.setSector i v).sfs = s.sfs ∧ (s.setSector i v).remap = s.remap ∧ (s.setSector i v).quadBad = s.quadBad ∧
    (s.setSector i v).hbm = s.hbm ∧ (s.setSector i v).pageReqs = s.pageReqs ∧ (s.setSector i v).atc = s.atc ∧
    (s.setSector i v).snoops = s.snoops ∧ (s.setSector i v).ports = s.ports ∧ (s.setSector i v).fns = s.fns ∧
    (s.setSector i v).ctxs = s.ctxs ∧ (s.setSector i v).err = s.err ∧ (s.setSector i v).aud = s.aud ∧ (s.setSector i v).sec = s.sec ∧
    (s.setSector i v).flash = s.flash ∧ (s.setSector i v).pwr = s.pwr ∧ (s.setSector i v).kpr = s.kpr ∧ (s.setSector i v).txn = s.txn ∧
    (s.setSector i v).held = s.held ∧ (s.setSector i v).out = s.out ∧ (s.setSector i v).fresh = s.fresh ∧
    (s.setSector i v).scanImgs = s.scanImgs ∧ (s.setSector i v).placed = s.placed ∧
    (∀ j, (s.setSector i v).tu j = s.tu j) ∧ (∀ j, (s.setSector i v).mu j = s.mu j) ∧ (∀ j, (s.setSector i v).mcu j = s.mcu j) ∧
    (∀ j, (s.setSector i v).vcu j = s.vcu j) ∧ (∀ j, (s.setSector i v).scu j = s.scu j) ∧ (∀ j, (s.setSector i v).sw j = s.sw j) ∧
    (∀ j, (s.setSector i v).rt j = s.rt j) ∧ (∀ j, (s.setSector i v).cl j = s.cl j) ∧ (∀ j, (s.setSector i v).grp j = s.grp j) ∧
    (∀ j, (s.setSector i v).sf j = s.sf j) ∧ (∀ j, (s.setSector i v).port j = s.port j) ∧ (∀ j, (s.setSector i v).fn j = s.fn j) ∧
    (∀ j, (s.setSector i v).ctrl j = s.ctrl j) ∧ (∀ j, (s.setSector i v).ctx j = s.ctx j) ∧ (∀ j, (s.setSector i v).die j = s.die j) ∧
    (∀ j, (s.setSector i v).ownerOf j = s.ownerOf j) ∧ (∀ j, (s.setSector i v).live j = s.live j) ∧
    (∀ n q, (s.setSector i v).ring n q = s.ring n q) :=
    ⟨rfl, rfl, rfl, rfl, rfl, rfl, rfl, rfl, rfl, rfl, rfl, rfl, rfl, rfl, rfl, rfl, rfl, rfl, rfl, rfl, rfl, rfl, rfl, rfl, rfl, rfl, rfl, rfl, rfl,
    rfl, rfl, rfl, rfl, rfl, rfl, rfl, rfl, rfl, rfl, fun _ => rfl, fun _ => rfl, fun _ => rfl, fun _ => rfl, fun _ => rfl, fun _ => rfl,
    fun _ => rfl, fun _ => rfl, fun _ => rfl, fun _ => rfl, fun _ => rfl, fun _ => rfl, fun _ => rfl, fun _ => rfl, fun _ => rfl,
    fun _ => rfl, fun _ => rfl, fun _ _ => rfl⟩

@[simp] theorem State.setSector_sector (s : State) (i j : Nat) (v : Sector) : (s.setSector i v).sector j = if j = i then some v else s.sector j := by
  simp [State.setSector, State.sector]

@[simp] theorem State.setDie_frame (s : State) (i : Nat) (v : Die) :
    (s.setDie i v).pending = s.pending ∧ (s.setDie i v).time = s.time ∧ (s.setDie i v).phase = s.phase ∧
    (s.setDie i v).trigger = s.trigger ∧ (s.setDie i v).triggerAt = s.triggerAt ∧ (s.setDie i v).pins = s.pins ∧
    (s.setDie i v).tus = s.tus ∧ (s.setDie i v).mus = s.mus ∧ (s.setDie i v).mcus = s.mcus ∧ (s.setDie i v).vcus = s.vcus ∧
    (s.setDie i v).scus = s.scus ∧ (s.setDie i v).sws = s.sws ∧ (s.setDie i v).rts = s.rts ∧ (s.setDie i v).cls = s.cls ∧
    (s.setDie i v).mesh = s.mesh ∧ (s.setDie i v).groups = s.groups ∧ (s.setDie i v).pmFlush = s.pmFlush ∧ (s.setDie i v).sfs = s.sfs ∧
    (s.setDie i v).remap = s.remap ∧ (s.setDie i v).quadBad = s.quadBad ∧ (s.setDie i v).hbm = s.hbm ∧
    (s.setDie i v).pageReqs = s.pageReqs ∧ (s.setDie i v).atc = s.atc ∧ (s.setDie i v).snoops = s.snoops ∧ (s.setDie i v).ports = s.ports ∧
    (s.setDie i v).fns = s.fns ∧ (s.setDie i v).sectors = s.sectors ∧ (s.setDie i v).ctxs = s.ctxs ∧ (s.setDie i v).err = s.err ∧
    (s.setDie i v).aud = s.aud ∧ (s.setDie i v).sec = s.sec ∧ (s.setDie i v).flash = s.flash ∧ (s.setDie i v).kpr = s.kpr ∧
    (s.setDie i v).txn = s.txn ∧ (s.setDie i v).held = s.held ∧ (s.setDie i v).out = s.out ∧ (s.setDie i v).fresh = s.fresh ∧
    (s.setDie i v).scanImgs = s.scanImgs ∧ (s.setDie i v).placed = s.placed ∧
    (∀ j, (s.setDie i v).tu j = s.tu j) ∧ (∀ j, (s.setDie i v).mu j = s.mu j) ∧ (∀ j, (s.setDie i v).mcu j = s.mcu j) ∧
    (∀ j, (s.setDie i v).vcu j = s.vcu j) ∧ (∀ j, (s.setDie i v).scu j = s.scu j) ∧ (∀ j, (s.setDie i v).sw j = s.sw j) ∧
    (∀ j, (s.setDie i v).rt j = s.rt j) ∧ (∀ j, (s.setDie i v).cl j = s.cl j) ∧ (∀ j, (s.setDie i v).grp j = s.grp j) ∧
    (∀ j, (s.setDie i v).sf j = s.sf j) ∧ (∀ j, (s.setDie i v).port j = s.port j) ∧ (∀ j, (s.setDie i v).fn j = s.fn j) ∧
    (∀ j, (s.setDie i v).ctrl j = s.ctrl j) ∧ (∀ j, (s.setDie i v).ctx j = s.ctx j) ∧ (∀ j, (s.setDie i v).sector j = s.sector j) ∧
    (∀ j, (s.setDie i v).ownerOf j = s.ownerOf j) ∧ (∀ j, (s.setDie i v).sectorOf j = s.sectorOf j) ∧
    (∀ j, (s.setDie i v).live j = s.live j) ∧ (∀ n q, (s.setDie i v).ring n q = s.ring n q) :=
    ⟨rfl, rfl, rfl, rfl, rfl, rfl, rfl, rfl, rfl, rfl, rfl, rfl, rfl, rfl, rfl, rfl, rfl, rfl, rfl, rfl, rfl, rfl, rfl, rfl, rfl, rfl, rfl, rfl, rfl,
    rfl, rfl, rfl, rfl, rfl, rfl, rfl, rfl, rfl, rfl, fun _ => rfl, fun _ => rfl, fun _ => rfl, fun _ => rfl, fun _ => rfl, fun _ => rfl,
    fun _ => rfl, fun _ => rfl, fun _ => rfl, fun _ => rfl, fun _ => rfl, fun _ => rfl, fun _ => rfl, fun _ => rfl, fun _ => rfl,
    fun _ => rfl, fun _ => rfl, fun _ => rfl, fun _ _ => rfl⟩

@[simp] theorem State.setDie_die (s : State) (i j : Nat) (v : Die) : (s.setDie i v).die j = if j = i then v else s.die j := by
  simp [State.setDie, State.die]

@[simp] theorem State.setRing_ring (s : State) (f r g q : Nat) (v : Ring) :
    (s.setRing f r v).ring g q = if g = f ∧ q = r then v else s.ring g q := by
  by_cases h : g = f <;> simp [State.setRing, State.ring, h]

@[simp] theorem State.setCl_ownerOf (s : State) (i j : Nat) (v : Cl) : (s.setCl i v).ownerOf j = if j = i then v.owner else s.ownerOf j := by
  simp only [State.ownerOf, State.setCl_cl]; split <;> rfl

@[simp] theorem State.setRing_frame (s : State) (f r : Nat) (v : Ring) :
    (s.setRing f r v).pending = s.pending ∧ (s.setRing f r v).time = s.time ∧ (s.setRing f r v).phase = s.phase ∧
    (s.setRing f r v).trigger = s.trigger ∧ (s.setRing f r v).triggerAt = s.triggerAt ∧ (s.setRing f r v).pins = s.pins ∧
    (s.setRing f r v).tus = s.tus ∧ (s.setRing f r v).mus = s.mus ∧ (s.setRing f r v).mcus = s.mcus ∧ (s.setRing f r v).vcus = s.vcus ∧
    (s.setRing f r v).scus = s.scus ∧ (s.setRing f r v).sws = s.sws ∧ (s.setRing f r v).rts = s.rts ∧ (s.setRing f r v).cls = s.cls ∧
    (s.setRing f r v).mesh = s.mesh ∧ (s.setRing f r v).groups = s.groups ∧ (s.setRing f r v).pmFlush = s.pmFlush ∧
    (s.setRing f r v).sfs = s.sfs ∧ (s.setRing f r v).remap = s.remap ∧ (s.setRing f r v).quadBad = s.quadBad ∧
    (s.setRing f r v).hbm = s.hbm ∧ (s.setRing f r v).pageReqs = s.pageReqs ∧ (s.setRing f r v).atc = s.atc ∧
    (s.setRing f r v).snoops = s.snoops ∧ (s.setRing f r v).ports = s.ports ∧ (s.setRing f r v).sectors = s.sectors ∧
    (s.setRing f r v).ctxs = s.ctxs ∧ (s.setRing f r v).err = s.err ∧ (s.setRing f r v).aud = s.aud ∧ (s.setRing f r v).sec = s.sec ∧
    (s.setRing f r v).flash = s.flash ∧ (s.setRing f r v).pwr = s.pwr ∧ (s.setRing f r v).kpr = s.kpr ∧ (s.setRing f r v).txn = s.txn ∧
    (s.setRing f r v).held = s.held ∧ (s.setRing f r v).out = s.out ∧ (s.setRing f r v).fresh = s.fresh ∧
    (s.setRing f r v).scanImgs = s.scanImgs ∧ (s.setRing f r v).placed = s.placed ∧
    (∀ j, (s.setRing f r v).tu j = s.tu j) ∧ (∀ j, (s.setRing f r v).mu j = s.mu j) ∧ (∀ j, (s.setRing f r v).mcu j = s.mcu j) ∧
    (∀ j, (s.setRing f r v).vcu j = s.vcu j) ∧ (∀ j, (s.setRing f r v).scu j = s.scu j) ∧ (∀ j, (s.setRing f r v).sw j = s.sw j) ∧
    (∀ j, (s.setRing f r v).rt j = s.rt j) ∧ (∀ j, (s.setRing f r v).cl j = s.cl j) ∧ (∀ j, (s.setRing f r v).grp j = s.grp j) ∧
    (∀ j, (s.setRing f r v).sf j = s.sf j) ∧ (∀ j, (s.setRing f r v).port j = s.port j) ∧ (∀ j, (s.setRing f r v).ctrl j = s.ctrl j) ∧
    (∀ j, (s.setRing f r v).ctx j = s.ctx j) ∧ (∀ j, (s.setRing f r v).sector j = s.sector j) ∧ (∀ j, (s.setRing f r v).die j = s.die j) ∧
    (∀ j, (s.setRing f r v).ownerOf j = s.ownerOf j) ∧ (∀ j, (s.setRing f r v).sectorOf j = s.sectorOf j) ∧
    (∀ j, (s.setRing f r v).live j = s.live j) :=
    ⟨rfl, rfl, rfl, rfl, rfl, rfl, rfl, rfl, rfl, rfl, rfl, rfl, rfl, rfl, rfl, rfl, rfl, rfl, rfl, rfl, rfl, rfl, rfl, rfl, rfl, rfl, rfl, rfl, rfl,
    rfl, rfl, rfl, rfl, rfl, rfl, rfl, rfl, rfl, rfl, fun _ => rfl, fun _ => rfl, fun _ => rfl, fun _ => rfl, fun _ => rfl, fun _ => rfl,
    fun _ => rfl, fun _ => rfl, fun _ => rfl, fun _ => rfl, fun _ => rfl, fun _ => rfl, fun _ => rfl, fun _ => rfl, fun _ => rfl,
    fun _ => rfl, fun _ => rfl, fun _ => rfl⟩

@[simp] theorem State.emit_frame (s : State) (o : OutItem) :
    (s.emit o).pending = s.pending ∧ (s.emit o).time = s.time ∧ (s.emit o).phase = s.phase ∧ (s.emit o).trigger = s.trigger ∧
    (s.emit o).triggerAt = s.triggerAt ∧ (s.emit o).pins = s.pins ∧ (s.emit o).tus = s.tus ∧ (s.emit o).mus = s.mus ∧
    (s.emit o).mcus = s.mcus ∧ (s.emit o).vcus = s.vcus ∧ (s.emit o).scus = s.scus ∧ (s.emit o).sws = s.sws ∧ (s.emit o).rts = s.rts ∧
    (s.emit o).cls = s.cls ∧ (s.emit o).mesh = s.mesh ∧ (s.emit o).groups = s.groups ∧ (s.emit o).pmFlush = s.pmFlush ∧
    (s.emit o).sfs = s.sfs ∧ (s.emit o).remap = s.remap ∧ (s.emit o).quadBad = s.quadBad ∧ (s.emit o).hbm = s.hbm ∧
    (s.emit o).pageReqs = s.pageReqs ∧ (s.emit o).atc = s.atc ∧ (s.emit o).snoops = s.snoops ∧ (s.emit o).ports = s.ports ∧
    (s.emit o).fns = s.fns ∧ (s.emit o).sectors = s.sectors ∧ (s.emit o).ctxs = s.ctxs ∧ (s.emit o).err = s.err ∧ (s.emit o).aud = s.aud ∧
    (s.emit o).sec = s.sec ∧ (s.emit o).flash = s.flash ∧ (s.emit o).pwr = s.pwr ∧ (s.emit o).kpr = s.kpr ∧ (s.emit o).txn = s.txn ∧
    (s.emit o).held = s.held ∧ (s.emit o).fresh = s.fresh ∧
    (s.emit o).scanImgs = s.scanImgs ∧ (s.emit o).placed = s.placed ∧
    (∀ j, (s.emit o).tu j = s.tu j) ∧ (∀ j, (s.emit o).mu j = s.mu j) ∧
    (∀ j, (s.emit o).mcu j = s.mcu j) ∧ (∀ j, (s.emit o).vcu j = s.vcu j) ∧ (∀ j, (s.emit o).scu j = s.scu j) ∧
    (∀ j, (s.emit o).sw j = s.sw j) ∧ (∀ j, (s.emit o).rt j = s.rt j) ∧ (∀ j, (s.emit o).cl j = s.cl j) ∧
    (∀ j, (s.emit o).grp j = s.grp j) ∧ (∀ j, (s.emit o).sf j = s.sf j) ∧ (∀ j, (s.emit o).port j = s.port j) ∧
    (∀ j, (s.emit o).fn j = s.fn j) ∧ (∀ j, (s.emit o).ctrl j = s.ctrl j) ∧ (∀ j, (s.emit o).ctx j = s.ctx j) ∧
    (∀ j, (s.emit o).sector j = s.sector j) ∧ (∀ j, (s.emit o).die j = s.die j) ∧ (∀ j, (s.emit o).ownerOf j = s.ownerOf j) ∧
    (∀ j, (s.emit o).sectorOf j = s.sectorOf j) ∧ (∀ j, (s.emit o).live j = s.live j) ∧ (∀ n q, (s.emit o).ring n q = s.ring n q) ∧
    (s.emit o).out = s.out ++ [o] :=
    ⟨rfl, rfl, rfl, rfl, rfl, rfl, rfl, rfl, rfl, rfl, rfl, rfl, rfl, rfl, rfl, rfl, rfl, rfl, rfl, rfl, rfl, rfl, rfl, rfl, rfl, rfl, rfl, rfl, rfl,
    rfl, rfl, rfl, rfl, rfl, rfl, rfl, rfl, rfl, rfl, fun _ => rfl, fun _ => rfl, fun _ => rfl, fun _ => rfl, fun _ => rfl, fun _ => rfl,
    fun _ => rfl, fun _ => rfl, fun _ => rfl, fun _ => rfl, fun _ => rfl, fun _ => rfl, fun _ => rfl, fun _ => rfl, fun _ => rfl,
    fun _ => rfl, fun _ => rfl, fun _ => rfl, fun _ => rfl, fun _ _ => rfl, rfl⟩

@[simp] theorem State.modErr_frame (s : State) (f : Err → Err) :
    (s.modErr f).pending = s.pending ∧ (s.modErr f).time = s.time ∧ (s.modErr f).phase = s.phase ∧ (s.modErr f).trigger = s.trigger ∧
    (s.modErr f).triggerAt = s.triggerAt ∧ (s.modErr f).pins = s.pins ∧ (s.modErr f).tus = s.tus ∧ (s.modErr f).mus = s.mus ∧
    (s.modErr f).mcus = s.mcus ∧ (s.modErr f).vcus = s.vcus ∧ (s.modErr f).scus = s.scus ∧ (s.modErr f).sws = s.sws ∧
    (s.modErr f).rts = s.rts ∧ (s.modErr f).cls = s.cls ∧ (s.modErr f).mesh = s.mesh ∧ (s.modErr f).groups = s.groups ∧
    (s.modErr f).pmFlush = s.pmFlush ∧ (s.modErr f).sfs = s.sfs ∧ (s.modErr f).remap = s.remap ∧ (s.modErr f).quadBad = s.quadBad ∧
    (s.modErr f).hbm = s.hbm ∧ (s.modErr f).pageReqs = s.pageReqs ∧ (s.modErr f).atc = s.atc ∧ (s.modErr f).snoops = s.snoops ∧
    (s.modErr f).ports = s.ports ∧ (s.modErr f).fns = s.fns ∧ (s.modErr f).sectors = s.sectors ∧ (s.modErr f).ctxs = s.ctxs ∧
    (s.modErr f).aud = s.aud ∧ (s.modErr f).sec = s.sec ∧ (s.modErr f).flash = s.flash ∧ (s.modErr f).pwr = s.pwr ∧
    (s.modErr f).kpr = s.kpr ∧ (s.modErr f).txn = s.txn ∧ (s.modErr f).held = s.held ∧ (s.modErr f).out = s.out ∧
    (s.modErr f).fresh = s.fresh ∧
    (s.modErr f).scanImgs = s.scanImgs ∧ (s.modErr f).placed = s.placed ∧
    (∀ j, (s.modErr f).tu j = s.tu j) ∧ (∀ j, (s.modErr f).mu j = s.mu j) ∧
    (∀ j, (s.modErr f).mcu j = s.mcu j) ∧ (∀ j, (s.modErr f).vcu j = s.vcu j) ∧ (∀ j, (s.modErr f).scu j = s.scu j) ∧
    (∀ j, (s.modErr f).sw j = s.sw j) ∧ (∀ j, (s.modErr f).rt j = s.rt j) ∧ (∀ j, (s.modErr f).cl j = s.cl j) ∧
    (∀ j, (s.modErr f).grp j = s.grp j) ∧ (∀ j, (s.modErr f).sf j = s.sf j) ∧ (∀ j, (s.modErr f).port j = s.port j) ∧
    (∀ j, (s.modErr f).fn j = s.fn j) ∧ (∀ j, (s.modErr f).ctrl j = s.ctrl j) ∧ (∀ j, (s.modErr f).ctx j = s.ctx j) ∧
    (∀ j, (s.modErr f).sector j = s.sector j) ∧ (∀ j, (s.modErr f).die j = s.die j) ∧ (∀ j, (s.modErr f).ownerOf j = s.ownerOf j) ∧
    (∀ j, (s.modErr f).sectorOf j = s.sectorOf j) ∧ (∀ j, (s.modErr f).live j = s.live j) ∧ (∀ n q, (s.modErr f).ring n q = s.ring n q) ∧
    (s.modErr f).err = f s.err :=
    ⟨rfl, rfl, rfl, rfl, rfl, rfl, rfl, rfl, rfl, rfl, rfl, rfl, rfl, rfl, rfl, rfl, rfl, rfl, rfl, rfl, rfl, rfl, rfl, rfl, rfl, rfl, rfl, rfl, rfl,
    rfl, rfl, rfl, rfl, rfl, rfl, rfl, rfl, rfl, rfl, fun _ => rfl, fun _ => rfl, fun _ => rfl, fun _ => rfl, fun _ => rfl, fun _ => rfl,
    fun _ => rfl, fun _ => rfl, fun _ => rfl, fun _ => rfl, fun _ => rfl, fun _ => rfl, fun _ => rfl, fun _ => rfl, fun _ => rfl,
    fun _ => rfl, fun _ => rfl, fun _ => rfl, fun _ => rfl, fun _ _ => rfl, rfl⟩

@[simp] theorem State.draw_frame (s : State) :
    (s.draw.2).pending = s.pending ∧ (s.draw.2).time = s.time ∧ (s.draw.2).phase = s.phase ∧ (s.draw.2).trigger = s.trigger ∧
    (s.draw.2).triggerAt = s.triggerAt ∧ (s.draw.2).pins = s.pins ∧ (s.draw.2).tus = s.tus ∧ (s.draw.2).mus = s.mus ∧
    (s.draw.2).mcus = s.mcus ∧ (s.draw.2).vcus = s.vcus ∧ (s.draw.2).scus = s.scus ∧ (s.draw.2).sws = s.sws ∧ (s.draw.2).rts = s.rts ∧
    (s.draw.2).cls = s.cls ∧ (s.draw.2).mesh = s.mesh ∧ (s.draw.2).groups = s.groups ∧ (s.draw.2).pmFlush = s.pmFlush ∧
    (s.draw.2).sfs = s.sfs ∧ (s.draw.2).remap = s.remap ∧ (s.draw.2).quadBad = s.quadBad ∧ (s.draw.2).hbm = s.hbm ∧
    (s.draw.2).pageReqs = s.pageReqs ∧ (s.draw.2).atc = s.atc ∧ (s.draw.2).snoops = s.snoops ∧ (s.draw.2).ports = s.ports ∧
    (s.draw.2).fns = s.fns ∧ (s.draw.2).sectors = s.sectors ∧ (s.draw.2).ctxs = s.ctxs ∧ (s.draw.2).err = s.err ∧ (s.draw.2).aud = s.aud ∧
    (s.draw.2).sec = s.sec ∧ (s.draw.2).flash = s.flash ∧ (s.draw.2).pwr = s.pwr ∧ (s.draw.2).kpr = s.kpr ∧ (s.draw.2).txn = s.txn ∧
    (s.draw.2).held = s.held ∧ (s.draw.2).scanImgs = s.scanImgs ∧ (s.draw.2).placed = s.placed ∧ (s.draw.2).out = s.out ∧
    (∀ j, (s.draw.2).tu j = s.tu j) ∧ (∀ j, (s.draw.2).mu j = s.mu j) ∧
    (∀ j, (s.draw.2).mcu j = s.mcu j) ∧ (∀ j, (s.draw.2).vcu j = s.vcu j) ∧ (∀ j, (s.draw.2).scu j = s.scu j) ∧
    (∀ j, (s.draw.2).sw j = s.sw j) ∧ (∀ j, (s.draw.2).rt j = s.rt j) ∧ (∀ j, (s.draw.2).cl j = s.cl j) ∧
    (∀ j, (s.draw.2).grp j = s.grp j) ∧ (∀ j, (s.draw.2).sf j = s.sf j) ∧ (∀ j, (s.draw.2).port j = s.port j) ∧
    (∀ j, (s.draw.2).fn j = s.fn j) ∧ (∀ j, (s.draw.2).ctrl j = s.ctrl j) ∧ (∀ j, (s.draw.2).ctx j = s.ctx j) ∧
    (∀ j, (s.draw.2).sector j = s.sector j) ∧ (∀ j, (s.draw.2).die j = s.die j) ∧ (∀ j, (s.draw.2).ownerOf j = s.ownerOf j) ∧
    (∀ j, (s.draw.2).sectorOf j = s.sectorOf j) ∧ (∀ j, (s.draw.2).live j = s.live j) ∧ (∀ n q, (s.draw.2).ring n q = s.ring n q) ∧
    s.draw.2.fresh = s.fresh + 1 ∧ s.draw.1 = Config.freeValue s.fresh :=
    ⟨rfl, rfl, rfl, rfl, rfl, rfl, rfl, rfl, rfl, rfl, rfl, rfl, rfl, rfl, rfl, rfl, rfl, rfl, rfl, rfl, rfl, rfl, rfl, rfl, rfl, rfl, rfl, rfl, rfl,
    rfl, rfl, rfl, rfl, rfl, rfl, rfl, rfl, rfl, rfl, fun _ => rfl, fun _ => rfl, fun _ => rfl, fun _ => rfl, fun _ => rfl, fun _ => rfl,
    fun _ => rfl, fun _ => rfl, fun _ => rfl, fun _ => rfl, fun _ => rfl, fun _ => rfl, fun _ => rfl, fun _ => rfl, fun _ => rfl,
    fun _ => rfl, fun _ => rfl, fun _ => rfl, fun _ => rfl, fun _ _ => rfl, rfl, rfl⟩

end Sys2Proof.Machine
end

