-- ==== Sys2Proof/Laws/Mesh.lean ====
section
/-!
SUPPORT. What taking a packet from a router's box can do: the first packet that fits leaves it, and those before and behind it stay.
-/

namespace Sys2Proof.Machine

/-- The packet behind those that do not fit is the one that is taken. -/
theorem State.takeInbox_split (s : State) (c : Nat) (f : Packet → Bool) (x y : List Packet) (p : Packet)
    (h : (s.rt c).inbox = x ++ p :: y) (hx : ∀ z ∈ x, f z = false) (hp : f p = true) :
    s.takeInbox c f = some (p, s.setRt c { s.rt c with inbox := x ++ y }) := by
  have hi : (x ++ p :: y).findIdx? f = some x.length := by
    rw [List.findIdx?_append, List.findIdx?_eq_none_iff.2 (fun z hz => by simp [hx z hz])]; simp [List.findIdx?_cons, hp]
  unfold State.takeInbox; dsimp only
  rw [h, hi]
  simp [listDel, List.eraseIdx_append_of_length_le]

/-- With none that fits, none is taken. -/
theorem State.takeInbox_none (s : State) (c : Nat) (f : Packet → Bool) (hx : ∀ z ∈ (s.rt c).inbox, f z = false) :
    s.takeInbox c f = none := by
  unfold State.takeInbox; dsimp only
  rw [List.findIdx?_eq_none_iff.2 (fun z hz => by simp [hx z hz])]

end Sys2Proof.Machine
end

