-- ==== Sys2Proof/Laws/Ops.lean ====
section
/-!
SUPPORT. What the shared operations leave as it is: progress in a region, the passing of time, error records, the failing of a context,
the end of a scalar instruction.
-/

namespace Sys2Proof.Machine

/-- Progress in a region changes its foghorn and nothing else. -/
@[simp] theorem State.progress_frame (s : State) (c : Nat) :
    (s.progress c).pending = s.pending ∧ (s.progress c).time = s.time ∧ (s.progress c).phase = s.phase ∧
    (s.progress c).trigger = s.trigger ∧ (s.progress c).triggerAt = s.triggerAt ∧ (s.progress c).pins = s.pins ∧
    (s.progress c).tus = s.tus ∧ (s.progress c).mus = s.mus ∧ (s.progress c).mcus = s.mcus ∧ (s.progress c).vcus = s.vcus ∧
    (s.progress c).scus = s.scus ∧ (s.progress c).sws = s.sws ∧ (s.progress c).rts = s.rts ∧ (s.progress c).cls = s.cls ∧
    (s.progress c).mesh = s.mesh ∧ (s.progress c).groups = s.groups ∧ (s.progress c).pmFlush = s.pmFlush ∧ (s.progress c).remap = s.remap ∧
    (s.progress c).quadBad = s.quadBad ∧ (s.progress c).hbm = s.hbm ∧ (s.progress c).pageReqs = s.pageReqs ∧ (s.progress c).atc = s.atc ∧
    (s.progress c).snoops = s.snoops ∧ (s.progress c).ports = s.ports ∧ (s.progress c).fns = s.fns ∧ (s.progress c).sectors = s.sectors ∧
    (s.progress c).ctxs = s.ctxs ∧ (s.progress c).err = s.err ∧ (s.progress c).aud = s.aud ∧ (s.progress c).sec = s.sec ∧
    (s.progress c).flash = s.flash ∧ (s.progress c).pwr = s.pwr ∧ (s.progress c).kpr = s.kpr ∧ (s.progress c).txn = s.txn ∧
    (s.progress c).held = s.held ∧ (s.progress c).out = s.out ∧ (s.progress c).fresh = s.fresh ∧ (∀ j, (s.progress c).tu j = s.tu j) ∧
    (∀ j, (s.progress c).mu j = s.mu j) ∧ (∀ j, (s.progress c).mcu j = s.mcu j) ∧ (∀ j, (s.progress c).vcu j = s.vcu j) ∧
    (∀ j, (s.progress c).scu j = s.scu j) ∧ (∀ j, (s.progress c).sw j = s.sw j) ∧ (∀ j, (s.progress c).rt j = s.rt j) ∧
    (∀ j, (s.progress c).cl j = s.cl j) ∧ (∀ j, (s.progress c).grp j = s.grp j) ∧ (∀ j, (s.progress c).port j = s.port j) ∧
    (∀ j, (s.progress c).fn j = s.fn j) ∧ (∀ j, (s.progress c).ctrl j = s.ctrl j) ∧ (∀ j, (s.progress c).ctx j = s.ctx j) ∧
    (∀ j, (s.progress c).sector j = s.sector j) ∧ (∀ j, (s.progress c).die j = s.die j) ∧ (∀ j, (s.progress c).ownerOf j = s.ownerOf j) ∧
    (∀ j, (s.progress c).sectorOf j = s.sectorOf j) ∧ (∀ j, (s.progress c).live j = s.live j) ∧ (∀ j, (s.progress c).acts j = s.acts j) ∧
    (∀ n q, (s.progress c).ring n q = s.ring n q) := by
  simp only [State.progress]
  split <;> exact ⟨rfl, rfl, rfl, rfl, rfl, rfl, rfl, rfl, rfl, rfl, rfl, rfl, rfl, rfl, rfl, rfl, rfl, rfl, rfl, rfl, rfl, rfl, rfl, rfl, rfl, rfl, rfl,
    rfl, rfl, rfl, rfl, rfl, rfl, rfl, rfl, rfl, rfl, fun _ => rfl, fun _ => rfl, fun _ => rfl, fun _ => rfl, fun _ => rfl, fun _ => rfl,
    fun _ => rfl, fun _ => rfl, fun _ => rfl, fun _ => rfl, fun _ => rfl, fun _ => rfl, fun _ => rfl, fun _ => rfl, fun _ => rfl,
    fun _ => rfl, fun _ => rfl, fun _ => rfl, fun _ => rfl, fun _ _ => rfl⟩

/-- Passing time changes device time, the frames of the dies and the counts of the foghorns. -/
@[simp] theorem State.advance_frame (s : State) (d : Nat) :
    (s.advance d).pending = s.pending ∧ (s.advance d).phase = s.phase ∧ (s.advance d).trigger = s.trigger ∧
    (s.advance d).triggerAt = s.triggerAt ∧ (s.advance d).pins = s.pins ∧ (s.advance d).tus = s.tus ∧ (s.advance d).mus = s.mus ∧
    (s.advance d).mcus = s.mcus ∧ (s.advance d).vcus = s.vcus ∧ (s.advance d).scus = s.scus ∧ (s.advance d).sws = s.sws ∧
    (s.advance d).rts = s.rts ∧ (s.advance d).cls = s.cls ∧ (s.advance d).mesh = s.mesh ∧ (s.advance d).groups = s.groups ∧
    (s.advance d).pmFlush = s.pmFlush ∧ (s.advance d).remap = s.remap ∧ (s.advance d).quadBad = s.quadBad ∧ (s.advance d).hbm = s.hbm ∧
    (s.advance d).pageReqs = s.pageReqs ∧ (s.advance d).atc = s.atc ∧ (s.advance d).snoops = s.snoops ∧ (s.advance d).ports = s.ports ∧
    (s.advance d).fns = s.fns ∧ (s.advance d).sectors = s.sectors ∧ (s.advance d).ctxs = s.ctxs ∧ (s.advance d).err = s.err ∧
    (s.advance d).aud = s.aud ∧ (s.advance d).sec = s.sec ∧ (s.advance d).flash = s.flash ∧ (s.advance d).kpr = s.kpr ∧
    (s.advance d).txn = s.txn ∧ (s.advance d).held = s.held ∧ (s.advance d).out = s.out ∧ (s.advance d).fresh = s.fresh ∧
    (∀ j, (s.advance d).tu j = s.tu j) ∧ (∀ j, (s.advance d).mu j = s.mu j) ∧ (∀ j, (s.advance d).mcu j = s.mcu j) ∧
    (∀ j, (s.advance d).vcu j = s.vcu j) ∧ (∀ j, (s.advance d).scu j = s.scu j) ∧ (∀ j, (s.advance d).sw j = s.sw j) ∧
    (∀ j, (s.advance d).rt j = s.rt j) ∧ (∀ j, (s.advance d).cl j = s.cl j) ∧ (∀ j, (s.advance d).grp j = s.grp j) ∧
    (∀ j, (s.advance d).port j = s.port j) ∧ (∀ j, (s.advance d).fn j = s.fn j) ∧ (∀ j, (s.advance d).ctrl j = s.ctrl j) ∧
    (∀ j, (s.advance d).ctx j = s.ctx j) ∧ (∀ j, (s.advance d).sector j = s.sector j) ∧ (∀ j, (s.advance d).ownerOf j = s.ownerOf j) ∧
    (∀ j, (s.advance d).sectorOf j = s.sectorOf j) ∧ (∀ j, (s.advance d).live j = s.live j) ∧
    (∀ n q, (s.advance d).ring n q = s.ring n q) ∧ (s.advance d).time = s.time + d := by
  exact ⟨rfl, rfl, rfl, rfl, rfl, rfl, rfl, rfl, rfl, rfl, rfl, rfl, rfl, rfl, rfl, rfl, rfl, rfl, rfl, rfl, rfl, rfl, rfl, rfl, rfl, rfl, rfl,
    rfl, rfl, rfl, rfl, rfl, rfl, rfl, rfl, fun _ => rfl, fun _ => rfl, fun _ => rfl, fun _ => rfl, fun _ => rfl, fun _ => rfl,
    fun _ => rfl, fun _ => rfl, fun _ => rfl, fun _ => rfl, fun _ => rfl, fun _ => rfl, fun _ => rfl, fun _ => rfl, fun _ => rfl,
    fun _ => rfl, fun _ => rfl, fun _ _ => rfl, rfl⟩

/-- Moving device time on to a deadline changes no more. -/
@[simp] theorem State.advanceTo_frame (s : State) (d : Nat) :
    (s.advanceTo d).pending = s.pending ∧ (s.advanceTo d).phase = s.phase ∧ (s.advanceTo d).trigger = s.trigger ∧
    (s.advanceTo d).triggerAt = s.triggerAt ∧ (s.advanceTo d).pins = s.pins ∧ (s.advanceTo d).tus = s.tus ∧ (s.advanceTo d).mus = s.mus ∧
    (s.advanceTo d).mcus = s.mcus ∧ (s.advanceTo d).vcus = s.vcus ∧ (s.advanceTo d).scus = s.scus ∧ (s.advanceTo d).sws = s.sws ∧
    (s.advanceTo d).rts = s.rts ∧ (s.advanceTo d).cls = s.cls ∧ (s.advanceTo d).mesh = s.mesh ∧ (s.advanceTo d).groups = s.groups ∧
    (s.advanceTo d).pmFlush = s.pmFlush ∧ (s.advanceTo d).remap = s.remap ∧ (s.advanceTo d).quadBad = s.quadBad ∧
    (s.advanceTo d).hbm = s.hbm ∧ (s.advanceTo d).pageReqs = s.pageReqs ∧ (s.advanceTo d).atc = s.atc ∧ (s.advanceTo d).snoops = s.snoops ∧
    (s.advanceTo d).ports = s.ports ∧ (s.advanceTo d).fns = s.fns ∧ (s.advanceTo d).sectors = s.sectors ∧ (s.advanceTo d).ctxs = s.ctxs ∧
    (s.advanceTo d).err = s.err ∧ (s.advanceTo d).aud = s.aud ∧ (s.advanceTo d).sec = s.sec ∧ (s.advanceTo d).flash = s.flash ∧
    (s.advanceTo d).kpr = s.kpr ∧ (s.advanceTo d).txn = s.txn ∧ (s.advanceTo d).held = s.held ∧ (s.advanceTo d).out = s.out ∧
    (s.advanceTo d).fresh = s.fresh ∧ (∀ j, (s.advanceTo d).tu j = s.tu j) ∧ (∀ j, (s.advanceTo d).mu j = s.mu j) ∧
    (∀ j, (s.advanceTo d).mcu j = s.mcu j) ∧ (∀ j, (s.advanceTo d).vcu j = s.vcu j) ∧ (∀ j, (s.advanceTo d).scu j = s.scu j) ∧
    (∀ j, (s.advanceTo d).sw j = s.sw j) ∧ (∀ j, (s.advanceTo d).rt j = s.rt j) ∧ (∀ j, (s.advanceTo d).cl j = s.cl j) ∧
    (∀ j, (s.advanceTo d).grp j = s.grp j) ∧ (∀ j, (s.advanceTo d).port j = s.port j) ∧ (∀ j, (s.advanceTo d).fn j = s.fn j) ∧
    (∀ j, (s.advanceTo d).ctrl j = s.ctrl j) ∧ (∀ j, (s.advanceTo d).ctx j = s.ctx j) ∧ (∀ j, (s.advanceTo d).sector j = s.sector j) ∧
    (∀ j, (s.advanceTo d).ownerOf j = s.ownerOf j) ∧ (∀ j, (s.advanceTo d).sectorOf j = s.sectorOf j) ∧
    (∀ j, (s.advanceTo d).live j = s.live j) ∧ (∀ n q, (s.advanceTo d).ring n q = s.ring n q) := by
  simp only [State.advanceTo]
  split <;> exact ⟨rfl, rfl, rfl, rfl, rfl, rfl, rfl, rfl, rfl, rfl, rfl, rfl, rfl, rfl, rfl, rfl, rfl, rfl, rfl, rfl, rfl, rfl, rfl, rfl, rfl, rfl, rfl,
    rfl, rfl, rfl, rfl, rfl, rfl, rfl, rfl, fun _ => rfl, fun _ => rfl, fun _ => rfl, fun _ => rfl, fun _ => rfl, fun _ => rfl,
    fun _ => rfl, fun _ => rfl, fun _ => rfl, fun _ => rfl, fun _ => rfl, fun _ => rfl, fun _ => rfl, fun _ => rfl, fun _ => rfl,
    fun _ => rfl, fun _ => rfl, fun _ _ => rfl⟩

theorem State.advanceTo_time (s : State) (d : Nat) : (s.advanceTo d).time = max s.time d := by
  unfold State.advanceTo; split
  · simp; omega
  · omega

theorem State.advanceTo_reaches (s : State) (d : Nat) : d ≤ (s.advanceTo d).time := by
  rw [State.advanceTo_time]; omega

/-- What passing time leaves of the power manager: everything but the frames of the dies. -/
theorem State.advanceTo_pwr (s : State) (d : Nat) : (s.advanceTo d).pwr = { s.pwr with dies := (s.advanceTo d).pwr.dies } := by
  unfold State.advanceTo State.advance; split <;> rfl

theorem State.queueSwap_eq (s : State) (c : Nat) : ∃ k, s.queueSwap c = { s with kpr := k } := by
  unfold State.queueSwap; split
  · exact ⟨s.kpr, rfl⟩
  · exact ⟨_, rfl⟩

theorem State.noteUe_eq (s : State) (c : Nat) : ∃ k, s.noteUe c = { s with kpr := k } := by
  simp only [State.noteUe]
  split
  · exact State.queueSwap_eq _ c
  · exact ⟨_, rfl⟩

theorem State.noteRec_eq (s : State) (r : ErrRec) : ∃ k, s.noteRec r = { s with kpr := k } := by
  unfold State.noteRec; split
  · exact State.noteUe_eq _ _
  · exact ⟨s.kpr, rfl⟩

/-- A record changes the error block, draws a free value, and may queue a swap. -/
theorem State.recordAt_eq (s : State) (t b : Nat) (r : ErrRec) : ∃ k, s.recordAt t b r = { s with
    kpr := k, fresh := s.fresh + 1
    err := s.err.collect ({ r with fn := s.fnOf r }.stamp t b (Config.freeValue s.fresh)) } := by
  obtain ⟨k, h⟩ := State.noteRec_eq s.draw.2 ({ r with fn := s.fnOf r }.stamp t b s.draw.1)
  unfold State.recordAt
  simp only [h]
  exact ⟨k, rfl⟩

/-- The end of a run of corrected errors changes no more than a record does. -/
theorem State.endCorrRun_eq (s : State) (c : CorrRun) : ∃ k e f, s.endCorrRun c = { s with kpr := k, err := e, fresh := f } := by
  simp only [State.endCorrRun]
  split
  · exact ⟨_, _, _, rfl⟩
  · obtain ⟨k, h⟩ := State.recordAt_eq (s.modErr (fun k => { k with
      coalesce := k.coalesce.filter (fun x => !x.about c.latest.unit c.latest.cls c.latest.cause) })) (c.start + 1000000000)
        s.flash.boot { c.latest with rep := c.count }
    exact ⟨k, _, _, h⟩

/-- A corrected error changes no more than a record does. -/
theorem State.corrected_eq (s : State) (r : ErrRec) : ∃ k e f, s.corrected r = { s with kpr := k, err := e, fresh := f } := by
  have h1 : ∀ (s : State) (r : ErrRec), ∃ k e f, s.endOldRun r = { s with kpr := k, err := e, fresh := f } := by
    intro s r
    unfold State.endOldRun
    split
    · split
      · exact State.endCorrRun_eq s _
      · exact ⟨s.kpr, s.err, s.fresh, rfl⟩
    · exact ⟨s.kpr, s.err, s.fresh, rfl⟩
  have h2 : ∀ (s : State) (r : ErrRec), ∃ k e f, s.countCorr r = { s with kpr := k, err := e, fresh := f } := by
    intro s r
    unfold State.countCorr
    split
    · exact ⟨_, _, _, rfl⟩
    · obtain ⟨k, h⟩ := State.recordAt_eq s s.time s.flash.boot r
      simp only [State.record, h, State.modErr]
      exact ⟨_, _, _, rfl⟩
  unfold State.corrected
  obtain ⟨k, e, f, h⟩ := h1 s { r with sev := 1, cause := 1, fn := s.fnOf r }
  obtain ⟨k', e', f', h'⟩ := h2 { s with kpr := k, err := e, fresh := f } { r with sev := 1, cause := 1, fn := s.fnOf r }
  exact ⟨k', e', f', by simp only [h]; exact h'⟩

/-- Failing a context changes the contexts and what a record changes. -/
theorem State.failCtx_eq (s : State) (x st : Nat) (r : ErrRec) :
    ∃ k e f c, s.failCtx x st r = { s with kpr := k, err := e, fresh := f, ctxs := c } := by
  unfold State.failCtx
  split
  · exact ⟨s.kpr, s.err, s.fresh, s.ctxs, rfl⟩
  · rename_i c _
    obtain ⟨k, h⟩ := State.recordAt_eq s s.time s.flash.boot { r with
      sev := 3, status := st, cv := true, context := x, sector := c.sector, sv := true
      step := if (c.state == .running) = true then c.stepSeq % 2 ^ 32 else 0
      pcl := if r.unit = 0xFFFF then r.pcl else s.physOf (clusterOf r.unit) }
    simp only [State.record, h, State.setCtx]
    split
    · exact ⟨_, _, _, _, rfl⟩
    · exact ⟨_, _, _, _, rfl⟩

@[simp] theorem State.queueSwap_frame (s : State) (c : Nat) :
    (s.queueSwap c).pending = s.pending ∧ (s.queueSwap c).time = s.time ∧ (s.queueSwap c).phase = s.phase ∧
    (s.queueSwap c).trigger = s.trigger ∧ (s.queueSwap c).triggerAt = s.triggerAt ∧ (s.queueSwap c).pins = s.pins ∧
    (s.queueSwap c).tus = s.tus ∧ (s.queueSwap c).mus = s.mus ∧ (s.queueSwap c).mcus = s.mcus ∧ (s.queueSwap c).vcus = s.vcus ∧
    (s.queueSwap c).scus = s.scus ∧ (s.queueSwap c).sws = s.sws ∧ (s.queueSwap c).rts = s.rts ∧ (s.queueSwap c).cls = s.cls ∧
    (s.queueSwap c).mesh = s.mesh ∧ (s.queueSwap c).groups = s.groups ∧ (s.queueSwap c).pmFlush = s.pmFlush ∧ (s.queueSwap c).sfs = s.sfs ∧
    (s.queueSwap c).remap = s.remap ∧ (s.queueSwap c).quadBad = s.quadBad ∧ (s.queueSwap c).hbm = s.hbm ∧
    (s.queueSwap c).pageReqs = s.pageReqs ∧ (s.queueSwap c).atc = s.atc ∧ (s.queueSwap c).snoops = s.snoops ∧
    (s.queueSwap c).ports = s.ports ∧ (s.queueSwap c).fns = s.fns ∧ (s.queueSwap c).sectors = s.sectors ∧ (s.queueSwap c).ctxs = s.ctxs ∧
    (s.queueSwap c).err = s.err ∧ (s.queueSwap c).aud = s.aud ∧ (s.queueSwap c).sec = s.sec ∧ (s.queueSwap c).flash = s.flash ∧
    (s.queueSwap c).pwr = s.pwr ∧ (s.queueSwap c).txn = s.txn ∧ (s.queueSwap c).held = s.held ∧ (s.queueSwap c).out = s.out ∧
    (s.queueSwap c).fresh = s.fresh ∧ (∀ j, (s.queueSwap c).tu j = s.tu j) ∧ (∀ j, (s.queueSwap c).mu j = s.mu j) ∧
    (∀ j, (s.queueSwap c).mcu j = s.mcu j) ∧ (∀ j, (s.queueSwap c).vcu j = s.vcu j) ∧ (∀ j, (s.queueSwap c).scu j = s.scu j) ∧
    (∀ j, (s.queueSwap c).sw j = s.sw j) ∧ (∀ j, (s.queueSwap c).rt j = s.rt j) ∧ (∀ j, (s.queueSwap c).cl j = s.cl j) ∧
    (∀ j, (s.queueSwap c).grp j = s.grp j) ∧ (∀ j, (s.queueSwap c).sf j = s.sf j) ∧ (∀ j, (s.queueSwap c).port j = s.port j) ∧
    (∀ j, (s.queueSwap c).fn j = s.fn j) ∧ (∀ j, (s.queueSwap c).ctrl j = s.ctrl j) ∧ (∀ j, (s.queueSwap c).ctx j = s.ctx j) ∧
    (∀ j, (s.queueSwap c).sector j = s.sector j) ∧ (∀ j, (s.queueSwap c).die j = s.die j) ∧
    (∀ j, (s.queueSwap c).ownerOf j = s.ownerOf j) ∧ (∀ j, (s.queueSwap c).sectorOf j = s.sectorOf j) ∧
    (∀ j, (s.queueSwap c).live j = s.live j) ∧ (∀ n q, (s.queueSwap c).ring n q = s.ring n q) := by
  obtain ⟨k, h⟩ := s.queueSwap_eq c
  rw [h]
  exact ⟨rfl, rfl, rfl, rfl, rfl, rfl, rfl, rfl, rfl, rfl, rfl, rfl, rfl, rfl, rfl, rfl, rfl, rfl, rfl, rfl, rfl, rfl, rfl, rfl, rfl, rfl, rfl,
    rfl, rfl, rfl, rfl, rfl, rfl, rfl, rfl, rfl, rfl, fun _ => rfl, fun _ => rfl, fun _ => rfl, fun _ => rfl, fun _ => rfl, fun _ => rfl,
    fun _ => rfl, fun _ => rfl, fun _ => rfl, fun _ => rfl, fun _ => rfl, fun _ => rfl, fun _ => rfl, fun _ => rfl, fun _ => rfl,
    fun _ => rfl, fun _ => rfl, fun _ => rfl, fun _ => rfl, fun _ _ => rfl⟩

@[simp] theorem State.noteUe_frame (s : State) (c : Nat) :
    (s.noteUe c).pending = s.pending ∧ (s.noteUe c).time = s.time ∧ (s.noteUe c).phase = s.phase ∧ (s.noteUe c).trigger = s.trigger ∧
    (s.noteUe c).triggerAt = s.triggerAt ∧ (s.noteUe c).pins = s.pins ∧ (s.noteUe c).tus = s.tus ∧ (s.noteUe c).mus = s.mus ∧
    (s.noteUe c).mcus = s.mcus ∧ (s.noteUe c).vcus = s.vcus ∧ (s.noteUe c).scus = s.scus ∧ (s.noteUe c).sws = s.sws ∧
    (s.noteUe c).rts = s.rts ∧ (s.noteUe c).cls = s.cls ∧ (s.noteUe c).mesh = s.mesh ∧ (s.noteUe c).groups = s.groups ∧
    (s.noteUe c).pmFlush = s.pmFlush ∧ (s.noteUe c).sfs = s.sfs ∧ (s.noteUe c).remap = s.remap ∧ (s.noteUe c).quadBad = s.quadBad ∧
    (s.noteUe c).hbm = s.hbm ∧ (s.noteUe c).pageReqs = s.pageReqs ∧ (s.noteUe c).atc = s.atc ∧ (s.noteUe c).snoops = s.snoops ∧
    (s.noteUe c).ports = s.ports ∧ (s.noteUe c).fns = s.fns ∧ (s.noteUe c).sectors = s.sectors ∧ (s.noteUe c).ctxs = s.ctxs ∧
    (s.noteUe c).err = s.err ∧ (s.noteUe c).aud = s.aud ∧ (s.noteUe c).sec = s.sec ∧ (s.noteUe c).flash = s.flash ∧
    (s.noteUe c).pwr = s.pwr ∧ (s.noteUe c).txn = s.txn ∧ (s.noteUe c).held = s.held ∧ (s.noteUe c).out = s.out ∧
    (s.noteUe c).fresh = s.fresh ∧ (∀ j, (s.noteUe c).tu j = s.tu j) ∧ (∀ j, (s.noteUe c).mu j = s.mu j) ∧
    (∀ j, (s.noteUe c).mcu j = s.mcu j) ∧ (∀ j, (s.noteUe c).vcu j = s.vcu j) ∧ (∀ j, (s.noteUe c).scu j = s.scu j) ∧
    (∀ j, (s.noteUe c).sw j = s.sw j) ∧ (∀ j, (s.noteUe c).rt j = s.rt j) ∧ (∀ j, (s.noteUe c).cl j = s.cl j) ∧
    (∀ j, (s.noteUe c).grp j = s.grp j) ∧ (∀ j, (s.noteUe c).sf j = s.sf j) ∧ (∀ j, (s.noteUe c).port j = s.port j) ∧
    (∀ j, (s.noteUe c).fn j = s.fn j) ∧ (∀ j, (s.noteUe c).ctrl j = s.ctrl j) ∧ (∀ j, (s.noteUe c).ctx j = s.ctx j) ∧
    (∀ j, (s.noteUe c).sector j = s.sector j) ∧ (∀ j, (s.noteUe c).die j = s.die j) ∧ (∀ j, (s.noteUe c).ownerOf j = s.ownerOf j) ∧
    (∀ j, (s.noteUe c).sectorOf j = s.sectorOf j) ∧ (∀ j, (s.noteUe c).live j = s.live j) ∧ (∀ n q, (s.noteUe c).ring n q = s.ring n q) := by
  obtain ⟨k, h⟩ := s.noteUe_eq c
  rw [h]
  exact ⟨rfl, rfl, rfl, rfl, rfl, rfl, rfl, rfl, rfl, rfl, rfl, rfl, rfl, rfl, rfl, rfl, rfl, rfl, rfl, rfl, rfl, rfl, rfl, rfl, rfl, rfl, rfl,
    rfl, rfl, rfl, rfl, rfl, rfl, rfl, rfl, rfl, rfl, fun _ => rfl, fun _ => rfl, fun _ => rfl, fun _ => rfl, fun _ => rfl, fun _ => rfl,
    fun _ => rfl, fun _ => rfl, fun _ => rfl, fun _ => rfl, fun _ => rfl, fun _ => rfl, fun _ => rfl, fun _ => rfl, fun _ => rfl,
    fun _ => rfl, fun _ => rfl, fun _ => rfl, fun _ => rfl, fun _ _ => rfl⟩

@[simp] theorem State.recordAt_frame (s : State) (t b : Nat) (r : ErrRec) :
    (s.recordAt t b r).pending = s.pending ∧ (s.recordAt t b r).time = s.time ∧ (s.recordAt t b r).phase = s.phase ∧
    (s.recordAt t b r).trigger = s.trigger ∧ (s.recordAt t b r).triggerAt = s.triggerAt ∧ (s.recordAt t b r).pins = s.pins ∧
    (s.recordAt t b r).tus = s.tus ∧ (s.recordAt t b r).mus = s.mus ∧ (s.recordAt t b r).mcus = s.mcus ∧ (s.recordAt t b r).vcus = s.vcus ∧
    (s.recordAt t b r).scus = s.scus ∧ (s.recordAt t b r).sws = s.sws ∧ (s.recordAt t b r).rts = s.rts ∧ (s.recordAt t b r).cls = s.cls ∧
    (s.recordAt t b r).mesh = s.mesh ∧ (s.recordAt t b r).groups = s.groups ∧ (s.recordAt t b r).pmFlush = s.pmFlush ∧
    (s.recordAt t b r).sfs = s.sfs ∧ (s.recordAt t b r).remap = s.remap ∧ (s.recordAt t b r).quadBad = s.quadBad ∧
    (s.recordAt t b r).hbm = s.hbm ∧ (s.recordAt t b r).pageReqs = s.pageReqs ∧ (s.recordAt t b r).atc = s.atc ∧
    (s.recordAt t b r).snoops = s.snoops ∧ (s.recordAt t b r).ports = s.ports ∧ (s.recordAt t b r).fns = s.fns ∧
    (s.recordAt t b r).sectors = s.sectors ∧ (s.recordAt t b r).ctxs = s.ctxs ∧ (s.recordAt t b r).aud = s.aud ∧
    (s.recordAt t b r).sec = s.sec ∧ (s.recordAt t b r).flash = s.flash ∧ (s.recordAt t b r).pwr = s.pwr ∧ (s.recordAt t b r).txn = s.txn ∧
    (s.recordAt t b r).held = s.held ∧ (s.recordAt t b r).out = s.out ∧ (∀ j, (s.recordAt t b r).tu j = s.tu j) ∧
    (∀ j, (s.recordAt t b r).mu j = s.mu j) ∧ (∀ j, (s.recordAt t b r).mcu j = s.mcu j) ∧ (∀ j, (s.recordAt t b r).vcu j = s.vcu j) ∧
    (∀ j, (s.recordAt t b r).scu j = s.scu j) ∧ (∀ j, (s.recordAt t b r).sw j = s.sw j) ∧ (∀ j, (s.recordAt t b r).rt j = s.rt j) ∧
    (∀ j, (s.recordAt t b r).cl j = s.cl j) ∧ (∀ j, (s.recordAt t b r).grp j = s.grp j) ∧ (∀ j, (s.recordAt t b r).sf j = s.sf j) ∧
    (∀ j, (s.recordAt t b r).port j = s.port j) ∧ (∀ j, (s.recordAt t b r).fn j = s.fn j) ∧ (∀ j, (s.recordAt t b r).ctrl j = s.ctrl j) ∧
    (∀ j, (s.recordAt t b r).ctx j = s.ctx j) ∧ (∀ j, (s.recordAt t b r).sector j = s.sector j) ∧
    (∀ j, (s.recordAt t b r).die j = s.die j) ∧ (∀ j, (s.recordAt t b r).ownerOf j = s.ownerOf j) ∧
    (∀ j, (s.recordAt t b r).sectorOf j = s.sectorOf j) ∧ (∀ j, (s.recordAt t b r).live j = s.live j) ∧
    (∀ n q, (s.recordAt t b r).ring n q = s.ring n q) := by
  obtain ⟨k, h⟩ := s.recordAt_eq t b r
  rw [h]
  exact ⟨rfl, rfl, rfl, rfl, rfl, rfl, rfl, rfl, rfl, rfl, rfl, rfl, rfl, rfl, rfl, rfl, rfl, rfl, rfl, rfl, rfl, rfl, rfl, rfl, rfl, rfl, rfl,
    rfl, rfl, rfl, rfl, rfl, rfl, rfl, rfl, fun _ => rfl, fun _ => rfl, fun _ => rfl, fun _ => rfl, fun _ => rfl, fun _ => rfl,
    fun _ => rfl, fun _ => rfl, fun _ => rfl, fun _ => rfl, fun _ => rfl, fun _ => rfl, fun _ => rfl, fun _ => rfl, fun _ => rfl,
    fun _ => rfl, fun _ => rfl, fun _ => rfl, fun _ => rfl, fun _ _ => rfl⟩

@[simp] theorem State.record_frame (s : State) (r : ErrRec) :
    (s.record r).pending = s.pending ∧ (s.record r).time = s.time ∧ (s.record r).phase = s.phase ∧ (s.record r).trigger = s.trigger ∧
    (s.record r).triggerAt = s.triggerAt ∧ (s.record r).pins = s.pins ∧ (s.record r).tus = s.tus ∧ (s.record r).mus = s.mus ∧
    (s.record r).mcus = s.mcus ∧ (s.record r).vcus = s.vcus ∧ (s.record r).scus = s.scus ∧ (s.record r).sws = s.sws ∧
    (s.record r).rts = s.rts ∧ (s.record r).cls = s.cls ∧ (s.record r).mesh = s.mesh ∧ (s.record r).groups = s.groups ∧
    (s.record r).pmFlush = s.pmFlush ∧ (s.record r).sfs = s.sfs ∧ (s.record r).remap = s.remap ∧ (s.record r).quadBad = s.quadBad ∧
    (s.record r).hbm = s.hbm ∧ (s.record r).pageReqs = s.pageReqs ∧ (s.record r).atc = s.atc ∧ (s.record r).snoops = s.snoops ∧
    (s.record r).ports = s.ports ∧ (s.record r).fns = s.fns ∧ (s.record r).sectors = s.sectors ∧ (s.record r).ctxs = s.ctxs ∧
    (s.record r).aud = s.aud ∧ (s.record r).sec = s.sec ∧ (s.record r).flash = s.flash ∧ (s.record r).pwr = s.pwr ∧
    (s.record r).txn = s.txn ∧ (s.record r).held = s.held ∧ (s.record r).out = s.out ∧ (∀ j, (s.record r).tu j = s.tu j) ∧
    (∀ j, (s.record r).mu j = s.mu j) ∧ (∀ j, (s.record r).mcu j = s.mcu j) ∧ (∀ j, (s.record r).vcu j = s.vcu j) ∧
    (∀ j, (s.record r).scu j = s.scu j) ∧ (∀ j, (s.record r).sw j = s.sw j) ∧ (∀ j, (s.record r).rt j = s.rt j) ∧
    (∀ j, (s.record r).cl j = s.cl j) ∧ (∀ j, (s.record r).grp j = s.grp j) ∧ (∀ j, (s.record r).sf j = s.sf j) ∧
    (∀ j, (s.record r).port j = s.port j) ∧ (∀ j, (s.record r).fn j = s.fn j) ∧ (∀ j, (s.record r).ctrl j = s.ctrl j) ∧
    (∀ j, (s.record r).ctx j = s.ctx j) ∧ (∀ j, (s.record r).sector j = s.sector j) ∧ (∀ j, (s.record r).die j = s.die j) ∧
    (∀ j, (s.record r).ownerOf j = s.ownerOf j) ∧ (∀ j, (s.record r).sectorOf j = s.sectorOf j) ∧ (∀ j, (s.record r).live j = s.live j) ∧
    (∀ n q, (s.record r).ring n q = s.ring n q) := by
  obtain ⟨k, h⟩ := s.recordAt_eq s.time s.flash.boot r
  rw [State.record, h]
  exact ⟨rfl, rfl, rfl, rfl, rfl, rfl, rfl, rfl, rfl, rfl, rfl, rfl, rfl, rfl, rfl, rfl, rfl, rfl, rfl, rfl, rfl, rfl, rfl, rfl, rfl, rfl, rfl,
    rfl, rfl, rfl, rfl, rfl, rfl, rfl, rfl, fun _ => rfl, fun _ => rfl, fun _ => rfl, fun _ => rfl, fun _ => rfl, fun _ => rfl,
    fun _ => rfl, fun _ => rfl, fun _ => rfl, fun _ => rfl, fun _ => rfl, fun _ => rfl, fun _ => rfl, fun _ => rfl, fun _ => rfl,
    fun _ => rfl, fun _ => rfl, fun _ => rfl, fun _ => rfl, fun _ _ => rfl⟩

@[simp] theorem State.recordUnit_frame (s : State) (g : Nat) (r : ErrRec) :
    (s.recordUnit g r).pending = s.pending ∧ (s.recordUnit g r).time = s.time ∧ (s.recordUnit g r).phase = s.phase ∧
    (s.recordUnit g r).trigger = s.trigger ∧ (s.recordUnit g r).triggerAt = s.triggerAt ∧ (s.recordUnit g r).pins = s.pins ∧
    (s.recordUnit g r).tus = s.tus ∧ (s.recordUnit g r).mus = s.mus ∧ (s.recordUnit g r).mcus = s.mcus ∧ (s.recordUnit g r).vcus = s.vcus ∧
    (s.recordUnit g r).scus = s.scus ∧ (s.recordUnit g r).sws = s.sws ∧ (s.recordUnit g r).rts = s.rts ∧ (s.recordUnit g r).cls = s.cls ∧
    (s.recordUnit g r).mesh = s.mesh ∧ (s.recordUnit g r).groups = s.groups ∧ (s.recordUnit g r).pmFlush = s.pmFlush ∧
    (s.recordUnit g r).sfs = s.sfs ∧ (s.recordUnit g r).remap = s.remap ∧ (s.recordUnit g r).quadBad = s.quadBad ∧
    (s.recordUnit g r).hbm = s.hbm ∧ (s.recordUnit g r).pageReqs = s.pageReqs ∧ (s.recordUnit g r).atc = s.atc ∧
    (s.recordUnit g r).snoops = s.snoops ∧ (s.recordUnit g r).ports = s.ports ∧ (s.recordUnit g r).fns = s.fns ∧
    (s.recordUnit g r).sectors = s.sectors ∧ (s.recordUnit g r).ctxs = s.ctxs ∧ (s.recordUnit g r).aud = s.aud ∧
    (s.recordUnit g r).sec = s.sec ∧ (s.recordUnit g r).flash = s.flash ∧ (s.recordUnit g r).pwr = s.pwr ∧ (s.recordUnit g r).txn = s.txn ∧
    (s.recordUnit g r).held = s.held ∧ (s.recordUnit g r).out = s.out ∧ (∀ j, (s.recordUnit g r).tu j = s.tu j) ∧
    (∀ j, (s.recordUnit g r).mu j = s.mu j) ∧ (∀ j, (s.recordUnit g r).mcu j = s.mcu j) ∧ (∀ j, (s.recordUnit g r).vcu j = s.vcu j) ∧
    (∀ j, (s.recordUnit g r).scu j = s.scu j) ∧ (∀ j, (s.recordUnit g r).sw j = s.sw j) ∧ (∀ j, (s.recordUnit g r).rt j = s.rt j) ∧
    (∀ j, (s.recordUnit g r).cl j = s.cl j) ∧ (∀ j, (s.recordUnit g r).grp j = s.grp j) ∧ (∀ j, (s.recordUnit g r).sf j = s.sf j) ∧
    (∀ j, (s.recordUnit g r).port j = s.port j) ∧ (∀ j, (s.recordUnit g r).fn j = s.fn j) ∧ (∀ j, (s.recordUnit g r).ctrl j = s.ctrl j) ∧
    (∀ j, (s.recordUnit g r).ctx j = s.ctx j) ∧ (∀ j, (s.recordUnit g r).sector j = s.sector j) ∧
    (∀ j, (s.recordUnit g r).die j = s.die j) ∧ (∀ j, (s.recordUnit g r).ownerOf j = s.ownerOf j) ∧
    (∀ j, (s.recordUnit g r).sectorOf j = s.sectorOf j) ∧ (∀ j, (s.recordUnit g r).live j = s.live j) ∧
    (∀ n q, (s.recordUnit g r).ring n q = s.ring n q) := by
  exact State.record_frame s _

@[simp] theorem State.endCorrRun_frame (s : State) (c : CorrRun) :
    (s.endCorrRun c).pending = s.pending ∧ (s.endCorrRun c).time = s.time ∧ (s.endCorrRun c).phase = s.phase ∧
    (s.endCorrRun c).trigger = s.trigger ∧ (s.endCorrRun c).triggerAt = s.triggerAt ∧ (s.endCorrRun c).pins = s.pins ∧
    (s.endCorrRun c).tus = s.tus ∧ (s.endCorrRun c).mus = s.mus ∧ (s.endCorrRun c).mcus = s.mcus ∧ (s.endCorrRun c).vcus = s.vcus ∧
    (s.endCorrRun c).scus = s.scus ∧ (s.endCorrRun c).sws = s.sws ∧ (s.endCorrRun c).rts = s.rts ∧ (s.endCorrRun c).cls = s.cls ∧
    (s.endCorrRun c).mesh = s.mesh ∧ (s.endCorrRun c).groups = s.groups ∧ (s.endCorrRun c).pmFlush = s.pmFlush ∧
    (s.endCorrRun c).sfs = s.sfs ∧ (s.endCorrRun c).remap = s.remap ∧ (s.endCorrRun c).quadBad = s.quadBad ∧ (s.endCorrRun c).hbm = s.hbm ∧
    (s.endCorrRun c).pageReqs = s.pageReqs ∧ (s.endCorrRun c).atc = s.atc ∧ (s.endCorrRun c).snoops = s.snoops ∧
    (s.endCorrRun c).ports = s.ports ∧ (s.endCorrRun c).fns = s.fns ∧ (s.endCorrRun c).sectors = s.sectors ∧
    (s.endCorrRun c).ctxs = s.ctxs ∧ (s.endCorrRun c).aud = s.aud ∧ (s.endCorrRun c).sec = s.sec ∧ (s.endCorrRun c).flash = s.flash ∧
    (s.endCorrRun c).pwr = s.pwr ∧ (s.endCorrRun c).txn = s.txn ∧ (s.endCorrRun c).held = s.held ∧ (s.endCorrRun c).out = s.out ∧
    (∀ j, (s.endCorrRun c).tu j = s.tu j) ∧ (∀ j, (s.endCorrRun c).mu j = s.mu j) ∧ (∀ j, (s.endCorrRun c).mcu j = s.mcu j) ∧
    (∀ j, (s.endCorrRun c).vcu j = s.vcu j) ∧ (∀ j, (s.endCorrRun c).scu j = s.scu j) ∧ (∀ j, (s.endCorrRun c).sw j = s.sw j) ∧
    (∀ j, (s.endCorrRun c).rt j = s.rt j) ∧ (∀ j, (s.endCorrRun c).cl j = s.cl j) ∧ (∀ j, (s.endCorrRun c).grp j = s.grp j) ∧
    (∀ j, (s.endCorrRun c).sf j = s.sf j) ∧ (∀ j, (s.endCorrRun c).port j = s.port j) ∧ (∀ j, (s.endCorrRun c).fn j = s.fn j) ∧
    (∀ j, (s.endCorrRun c).ctrl j = s.ctrl j) ∧ (∀ j, (s.endCorrRun c).ctx j = s.ctx j) ∧ (∀ j, (s.endCorrRun c).sector j = s.sector j) ∧
    (∀ j, (s.endCorrRun c).die j = s.die j) ∧ (∀ j, (s.endCorrRun c).ownerOf j = s.ownerOf j) ∧
    (∀ j, (s.endCorrRun c).sectorOf j = s.sectorOf j) ∧ (∀ j, (s.endCorrRun c).live j = s.live j) ∧
    (∀ n q, (s.endCorrRun c).ring n q = s.ring n q) := by
  obtain ⟨k, e, f, h⟩ := s.endCorrRun_eq c
  rw [h]
  exact ⟨rfl, rfl, rfl, rfl, rfl, rfl, rfl, rfl, rfl, rfl, rfl, rfl, rfl, rfl, rfl, rfl, rfl, rfl, rfl, rfl, rfl, rfl, rfl, rfl, rfl, rfl, rfl,
    rfl, rfl, rfl, rfl, rfl, rfl, rfl, rfl, fun _ => rfl, fun _ => rfl, fun _ => rfl, fun _ => rfl, fun _ => rfl, fun _ => rfl,
    fun _ => rfl, fun _ => rfl, fun _ => rfl, fun _ => rfl, fun _ => rfl, fun _ => rfl, fun _ => rfl, fun _ => rfl, fun _ => rfl,
    fun _ => rfl, fun _ => rfl, fun _ => rfl, fun _ => rfl, fun _ _ => rfl⟩

@[simp] theorem State.corrected_frame (s : State) (r : ErrRec) :
    (s.corrected r).pending = s.pending ∧ (s.corrected r).time = s.time ∧ (s.corrected r).phase = s.phase ∧
    (s.corrected r).trigger = s.trigger ∧ (s.corrected r).triggerAt = s.triggerAt ∧ (s.corrected r).pins = s.pins ∧
    (s.corrected r).tus = s.tus ∧ (s.corrected r).mus = s.mus ∧ (s.corrected r).mcus = s.mcus ∧ (s.corrected r).vcus = s.vcus ∧
    (s.corrected r).scus = s.scus ∧ (s.corrected r).sws = s.sws ∧ (s.corrected r).rts = s.rts ∧ (s.corrected r).cls = s.cls ∧
    (s.corrected r).mesh = s.mesh ∧ (s.corrected r).groups = s.groups ∧ (s.corrected r).pmFlush = s.pmFlush ∧ (s.corrected r).sfs = s.sfs ∧
    (s.corrected r).remap = s.remap ∧ (s.corrected r).quadBad = s.quadBad ∧ (s.corrected r).hbm = s.hbm ∧
    (s.corrected r).pageReqs = s.pageReqs ∧ (s.corrected r).atc = s.atc ∧ (s.corrected r).snoops = s.snoops ∧
    (s.corrected r).ports = s.ports ∧ (s.corrected r).fns = s.fns ∧ (s.corrected r).sectors = s.sectors ∧ (s.corrected r).ctxs = s.ctxs ∧
    (s.corrected r).aud = s.aud ∧ (s.corrected r).sec = s.sec ∧ (s.corrected r).flash = s.flash ∧ (s.corrected r).pwr = s.pwr ∧
    (s.corrected r).txn = s.txn ∧ (s.corrected r).held = s.held ∧ (s.corrected r).out = s.out ∧ (∀ j, (s.corrected r).tu j = s.tu j) ∧
    (∀ j, (s.corrected r).mu j = s.mu j) ∧ (∀ j, (s.corrected r).mcu j = s.mcu j) ∧ (∀ j, (s.corrected r).vcu j = s.vcu j) ∧
    (∀ j, (s.corrected r).scu j = s.scu j) ∧ (∀ j, (s.corrected r).sw j = s.sw j) ∧ (∀ j, (s.corrected r).rt j = s.rt j) ∧
    (∀ j, (s.corrected r).cl j = s.cl j) ∧ (∀ j, (s.corrected r).grp j = s.grp j) ∧ (∀ j, (s.corrected r).sf j = s.sf j) ∧
    (∀ j, (s.corrected r).port j = s.port j) ∧ (∀ j, (s.corrected r).fn j = s.fn j) ∧ (∀ j, (s.corrected r).ctrl j = s.ctrl j) ∧
    (∀ j, (s.corrected r).ctx j = s.ctx j) ∧ (∀ j, (s.corrected r).sector j = s.sector j) ∧ (∀ j, (s.corrected r).die j = s.die j) ∧
    (∀ j, (s.corrected r).ownerOf j = s.ownerOf j) ∧ (∀ j, (s.corrected r).sectorOf j = s.sectorOf j) ∧
    (∀ j, (s.corrected r).live j = s.live j) ∧ (∀ n q, (s.corrected r).ring n q = s.ring n q) := by
  obtain ⟨k, e, f, h⟩ := s.corrected_eq r
  rw [h]
  exact ⟨rfl, rfl, rfl, rfl, rfl, rfl, rfl, rfl, rfl, rfl, rfl, rfl, rfl, rfl, rfl, rfl, rfl, rfl, rfl, rfl, rfl, rfl, rfl, rfl, rfl, rfl, rfl,
    rfl, rfl, rfl, rfl, rfl, rfl, rfl, rfl, fun _ => rfl, fun _ => rfl, fun _ => rfl, fun _ => rfl, fun _ => rfl, fun _ => rfl,
    fun _ => rfl, fun _ => rfl, fun _ => rfl, fun _ => rfl, fun _ => rfl, fun _ => rfl, fun _ => rfl, fun _ => rfl, fun _ => rfl,
    fun _ => rfl, fun _ => rfl, fun _ => rfl, fun _ => rfl, fun _ _ => rfl⟩

/-- The context that fails holds the first status; every other context is as before. -/
theorem State.failCtx_ctx (s : State) (x st : Nat) (r : ErrRec) (y : Nat) :
    (s.failCtx x st r).ctx y = if y = x then (s.ctx x).map (fun k =>
      if k.state = .failed then k else { k with state := .failed, status := st, tearing := true }) else s.ctx y := by
  simp only [State.failCtx]
  cases h : s.ctx x with
  | none => simp only [Option.map_none]; split <;> simp_all
  | some k =>
    simp only [Option.map_some, beq_iff_eq]
    split
    · simp only [State.record_frame]; split <;> simp_all
    · simp only [State.setCtx_ctx, State.record_frame]

@[simp] theorem State.failCtx_frame (s : State) (x st : Nat) (r : ErrRec) :
    (s.failCtx x st r).pending = s.pending ∧ (s.failCtx x st r).time = s.time ∧ (s.failCtx x st r).phase = s.phase ∧
    (s.failCtx x st r).trigger = s.trigger ∧ (s.failCtx x st r).triggerAt = s.triggerAt ∧ (s.failCtx x st r).pins = s.pins ∧
    (s.failCtx x st r).tus = s.tus ∧ (s.failCtx x st r).mus = s.mus ∧ (s.failCtx x st r).mcus = s.mcus ∧ (s.failCtx x st r).vcus = s.vcus ∧
    (s.failCtx x st r).scus = s.scus ∧ (s.failCtx x st r).sws = s.sws ∧ (s.failCtx x st r).rts = s.rts ∧ (s.failCtx x st r).cls = s.cls ∧
    (s.failCtx x st r).mesh = s.mesh ∧ (s.failCtx x st r).groups = s.groups ∧ (s.failCtx x st r).pmFlush = s.pmFlush ∧
    (s.failCtx x st r).sfs = s.sfs ∧ (s.failCtx x st r).remap = s.remap ∧ (s.failCtx x st r).quadBad = s.quadBad ∧
    (s.failCtx x st r).hbm = s.hbm ∧ (s.failCtx x st r).pageReqs = s.pageReqs ∧ (s.failCtx x st r).atc = s.atc ∧
    (s.failCtx x st r).snoops = s.snoops ∧ (s.failCtx x st r).ports = s.ports ∧ (s.failCtx x st r).fns = s.fns ∧
    (s.failCtx x st r).sectors = s.sectors ∧ (s.failCtx x st r).aud = s.aud ∧ (s.failCtx x st r).sec = s.sec ∧
    (s.failCtx x st r).flash = s.flash ∧ (s.failCtx x st r).pwr = s.pwr ∧ (s.failCtx x st r).txn = s.txn ∧
    (s.failCtx x st r).held = s.held ∧ (s.failCtx x st r).out = s.out ∧ (∀ j, (s.failCtx x st r).tu j = s.tu j) ∧
    (∀ j, (s.failCtx x st r).mu j = s.mu j) ∧ (∀ j, (s.failCtx x st r).mcu j = s.mcu j) ∧ (∀ j, (s.failCtx x st r).vcu j = s.vcu j) ∧
    (∀ j, (s.failCtx x st r).scu j = s.scu j) ∧ (∀ j, (s.failCtx x st r).sw j = s.sw j) ∧ (∀ j, (s.failCtx x st r).rt j = s.rt j) ∧
    (∀ j, (s.failCtx x st r).cl j = s.cl j) ∧ (∀ j, (s.failCtx x st r).grp j = s.grp j) ∧ (∀ j, (s.failCtx x st r).sf j = s.sf j) ∧
    (∀ j, (s.failCtx x st r).port j = s.port j) ∧ (∀ j, (s.failCtx x st r).fn j = s.fn j) ∧ (∀ j, (s.failCtx x st r).ctrl j = s.ctrl j) ∧
    (∀ j, (s.failCtx x st r).sector j = s.sector j) ∧ (∀ j, (s.failCtx x st r).die j = s.die j) ∧
    (∀ j, (s.failCtx x st r).ownerOf j = s.ownerOf j) ∧ (∀ j, (s.failCtx x st r).sectorOf j = s.sectorOf j) ∧
    (∀ n q, (s.failCtx x st r).ring n q = s.ring n q) := by
  obtain ⟨k, e, f, c, h⟩ := s.failCtx_eq x st r
  rw [h]
  exact ⟨rfl, rfl, rfl, rfl, rfl, rfl, rfl, rfl, rfl, rfl, rfl, rfl, rfl, rfl, rfl, rfl, rfl, rfl, rfl, rfl, rfl, rfl, rfl, rfl, rfl, rfl, rfl,
    rfl, rfl, rfl, rfl, rfl, rfl, rfl, fun _ => rfl, fun _ => rfl, fun _ => rfl, fun _ => rfl, fun _ => rfl, fun _ => rfl, fun _ => rfl,
    fun _ => rfl, fun _ => rfl, fun _ => rfl, fun _ => rfl, fun _ => rfl, fun _ => rfl, fun _ => rfl, fun _ => rfl, fun _ => rfl,
    fun _ => rfl, fun _ _ => rfl⟩

/-- Latching a device reset changes the phase, the trigger, the error block and the counts of dropped accesses of the ports. -/
@[simp] theorem State.latchReset_frame (s : State) (c : Nat) :
    (s.latchReset c).pending = s.pending ∧ (s.latchReset c).time = s.time ∧ (s.latchReset c).pins = s.pins ∧ (s.latchReset c).tus = s.tus ∧
    (s.latchReset c).mus = s.mus ∧ (s.latchReset c).mcus = s.mcus ∧ (s.latchReset c).vcus = s.vcus ∧ (s.latchReset c).scus = s.scus ∧
    (s.latchReset c).sws = s.sws ∧ (s.latchReset c).rts = s.rts ∧ (s.latchReset c).cls = s.cls ∧ (s.latchReset c).mesh = s.mesh ∧
    (s.latchReset c).groups = s.groups ∧ (s.latchReset c).pmFlush = s.pmFlush ∧ (s.latchReset c).sfs = s.sfs ∧
    (s.latchReset c).remap = s.remap ∧ (s.latchReset c).quadBad = s.quadBad ∧ (s.latchReset c).hbm = s.hbm ∧
    (s.latchReset c).pageReqs = s.pageReqs ∧ (s.latchReset c).atc = s.atc ∧ (s.latchReset c).snoops = s.snoops ∧
    (s.latchReset c).fns = s.fns ∧ (s.latchReset c).sectors = s.sectors ∧
    (s.latchReset c).ctxs = s.ctxs ∧ (s.latchReset c).aud = s.aud ∧ (s.latchReset c).sec = s.sec ∧ (s.latchReset c).flash = s.flash ∧
    (s.latchReset c).pwr = s.pwr ∧ (s.latchReset c).kpr = s.kpr ∧ (s.latchReset c).txn = s.txn ∧ (s.latchReset c).held = s.held ∧
    (s.latchReset c).out = s.out ∧ (s.latchReset c).fresh = s.fresh ∧ (∀ j, (s.latchReset c).tu j = s.tu j) ∧
    (∀ j, (s.latchReset c).mu j = s.mu j) ∧ (∀ j, (s.latchReset c).mcu j = s.mcu j) ∧ (∀ j, (s.latchReset c).vcu j = s.vcu j) ∧
    (∀ j, (s.latchReset c).scu j = s.scu j) ∧ (∀ j, (s.latchReset c).sw j = s.sw j) ∧ (∀ j, (s.latchReset c).rt j = s.rt j) ∧
    (∀ j, (s.latchReset c).cl j = s.cl j) ∧ (∀ j, (s.latchReset c).grp j = s.grp j) ∧ (∀ j, (s.latchReset c).sf j = s.sf j) ∧
    (∀ j, (s.latchReset c).fn j = s.fn j) ∧ (∀ j, (s.latchReset c).ctrl j = s.ctrl j) ∧
    (∀ j, (s.latchReset c).ctx j = s.ctx j) ∧ (∀ j, (s.latchReset c).sector j = s.sector j) ∧ (∀ j, (s.latchReset c).die j = s.die j) ∧
    (∀ j, (s.latchReset c).ownerOf j = s.ownerOf j) ∧ (∀ j, (s.latchReset c).sectorOf j = s.sectorOf j) ∧
    (∀ n q, (s.latchReset c).ring n q = s.ring n q) := by
  simp only [State.latchReset]
  split <;> exact ⟨rfl, rfl, rfl, rfl, rfl, rfl, rfl, rfl, rfl, rfl, rfl, rfl, rfl, rfl, rfl, rfl, rfl, rfl, rfl, rfl, rfl, rfl, rfl, rfl, rfl, rfl,
    rfl, rfl, rfl, rfl, rfl, rfl, rfl, fun _ => rfl, fun _ => rfl, fun _ => rfl, fun _ => rfl, fun _ => rfl, fun _ => rfl,
    fun _ => rfl, fun _ => rfl, fun _ => rfl, fun _ => rfl, fun _ => rfl, fun _ => rfl, fun _ => rfl, fun _ => rfl, fun _ => rfl,
    fun _ => rfl, fun _ => rfl, fun _ _ => rfl⟩

/-- The end of a scalar instruction changes its unit and the foghorn of its region. -/
@[simp] theorem State.retireScalar_frame (s : State) (g pc : Nat) (st : ScuState) :
    (s.retireScalar g pc st).pending = s.pending ∧ (s.retireScalar g pc st).time = s.time ∧ (s.retireScalar g pc st).phase = s.phase ∧
    (s.retireScalar g pc st).trigger = s.trigger ∧ (s.retireScalar g pc st).triggerAt = s.triggerAt ∧
    (s.retireScalar g pc st).pins = s.pins ∧ (s.retireScalar g pc st).tus = s.tus ∧ (s.retireScalar g pc st).mus = s.mus ∧
    (s.retireScalar g pc st).mcus = s.mcus ∧ (s.retireScalar g pc st).vcus = s.vcus ∧ (s.retireScalar g pc st).sws = s.sws ∧
    (s.retireScalar g pc st).rts = s.rts ∧ (s.retireScalar g pc st).cls = s.cls ∧ (s.retireScalar g pc st).mesh = s.mesh ∧
    (s.retireScalar g pc st).groups = s.groups ∧ (s.retireScalar g pc st).pmFlush = s.pmFlush ∧ (s.retireScalar g pc st).remap = s.remap ∧
    (s.retireScalar g pc st).quadBad = s.quadBad ∧ (s.retireScalar g pc st).hbm = s.hbm ∧ (s.retireScalar g pc st).pageReqs = s.pageReqs ∧
    (s.retireScalar g pc st).atc = s.atc ∧ (s.retireScalar g pc st).snoops = s.snoops ∧ (s.retireScalar g pc st).ports = s.ports ∧
    (s.retireScalar g pc st).fns = s.fns ∧ (s.retireScalar g pc st).sectors = s.sectors ∧ (s.retireScalar g pc st).ctxs = s.ctxs ∧
    (s.retireScalar g pc st).err = s.err ∧ (s.retireScalar g pc st).aud = s.aud ∧ (s.retireScalar g pc st).sec = s.sec ∧
    (s.retireScalar g pc st).flash = s.flash ∧ (s.retireScalar g pc st).pwr = s.pwr ∧ (s.retireScalar g pc st).kpr = s.kpr ∧
    (s.retireScalar g pc st).txn = s.txn ∧ (s.retireScalar g pc st).held = s.held ∧ (s.retireScalar g pc st).out = s.out ∧
    (s.retireScalar g pc st).fresh = s.fresh ∧ (∀ j, (s.retireScalar g pc st).tu j = s.tu j) ∧
    (∀ j, (s.retireScalar g pc st).mu j = s.mu j) ∧ (∀ j, (s.retireScalar g pc st).mcu j = s.mcu j) ∧
    (∀ j, (s.retireScalar g pc st).vcu j = s.vcu j) ∧ (∀ j, (s.retireScalar g pc st).sw j = s.sw j) ∧
    (∀ j, (s.retireScalar g pc st).rt j = s.rt j) ∧ (∀ j, (s.retireScalar g pc st).cl j = s.cl j) ∧
    (∀ j, (s.retireScalar g pc st).grp j = s.grp j) ∧ (∀ j, (s.retireScalar g pc st).port j = s.port j) ∧
    (∀ j, (s.retireScalar g pc st).fn j = s.fn j) ∧ (∀ j, (s.retireScalar g pc st).ctrl j = s.ctrl j) ∧
    (∀ j, (s.retireScalar g pc st).ctx j = s.ctx j) ∧ (∀ j, (s.retireScalar g pc st).sector j = s.sector j) ∧
    (∀ j, (s.retireScalar g pc st).die j = s.die j) ∧ (∀ j, (s.retireScalar g pc st).ownerOf j = s.ownerOf j) ∧
    (∀ j, (s.retireScalar g pc st).sectorOf j = s.sectorOf j) ∧ (∀ j, (s.retireScalar g pc st).live j = s.live j) ∧
    (∀ n q, (s.retireScalar g pc st).ring n q = s.ring n q) := by
  have h : ∃ k, s.retireScalar g pc st = { s with scus := k, sfs := (s.retireScalar g pc st).sfs } := by
    simp only [State.retireScalar, State.setScu, State.progress, State.setSf]
    split <;> exact ⟨_, rfl⟩
  obtain ⟨k, h⟩ := h
  rw [h]
  exact ⟨rfl, rfl, rfl, rfl, rfl, rfl, rfl, rfl, rfl, rfl, rfl, rfl, rfl, rfl, rfl, rfl, rfl, rfl, rfl, rfl, rfl, rfl, rfl, rfl, rfl, rfl, rfl,
    rfl, rfl, rfl, rfl, rfl, rfl, rfl, rfl, rfl, fun _ => rfl, fun _ => rfl, fun _ => rfl, fun _ => rfl, fun _ => rfl, fun _ => rfl,
    fun _ => rfl, fun _ => rfl, fun _ => rfl, fun _ => rfl, fun _ => rfl, fun _ => rfl, fun _ => rfl, fun _ => rfl, fun _ => rfl,
    fun _ => rfl, fun _ => rfl, fun _ _ => rfl⟩

theorem State.retireScalar_scu (s : State) (g pc : Nat) (st : ScuState) (j : Nat) :
    (s.retireScalar g pc st).scu j = if j = g then
      { s.scu g with pc := pc, state := st, cause := 0, blocked := none, instr := perfAdd (s.scu g).instr 1 } else s.scu j := by
  simp only [State.retireScalar, State.progress_frame, State.setScu_scu]

/-- A unit that can run an instruction carries it out when its command comes. -/
theorem runScalar_of_canRun (u : ScuId) (i : SInstr) (s : State) (h : s.canRun (scuGid u) i = true) :
    runScalar u i s = .next (s.runScalarAt (scuGid u) i) := by
  simp only [State.canRun, State.scalarNext, Bool.and_eq_true, Bool.not_eq_true', beq_iff_eq, decide_eq_true_eq] at h
  obtain ⟨⟨⟨⟨⟨⟨h1, h2⟩, h3⟩, h4⟩, h5⟩, h8⟩, h6⟩ := h
  have h7 : ¬ 16383 < (s.scu (scuGid u)).pc := by omega
  have hf : s.fetchScalar (scuGid u) = (s, some ((s.scu (scuGid u)).word (s.scu (scuGid u)).pc)) := by
    simp only [State.fetchScalar, if_neg h7, h5, h6, h8, Bool.false_eq_true, if_false]
  simp only [runScalar, h1, h2, hf, h4, if_true, beq_self_eq_true, Bool.and_true]

@[simp] theorem Scu.setReg_reg (u : Scu) (r k : Nat) (v : Reg) : (u.setReg r v).reg k = if k = r ∧ r ≠ 0 then v else u.reg k := by
  simp only [Scu.setReg, Scu.reg]
  by_cases hr : r = 0
  · subst hr; by_cases hk : k = 0 <;> simp [hk]
  · by_cases hk : k = 0
    · subst hk; simp [hr, Ne.symm hr]
    · by_cases h : k = r <;> simp [hr, hk, h]

/-- Of the Keeper's state a record touches only the times of errors no scrub repairs and the swaps that they queue. -/
theorem State.noteUe_kpr (s : State) (c : Nat) :
    (s.noteUe c).kpr = { s.kpr with ueTimes := (s.noteUe c).kpr.ueTimes, swapQ := (s.noteUe c).kpr.swapQ } := by
  unfold State.noteUe State.queueSwap; dsimp only; split <;> (try split) <;> rfl

theorem State.record_kpr (s : State) (r : ErrRec) :
    (s.record r).kpr = { s.kpr with ueTimes := (s.record r).kpr.ueTimes, swapQ := (s.record r).kpr.swapQ } := by
  unfold State.record State.recordAt State.noteRec State.modErr; dsimp only; split
  · exact State.noteUe_kpr _ _
  · rfl

end Sys2Proof.Machine
end

