-- ==== Sys2Proof/Laws/Regs.lean ====
section
/-!
SUPPORT. What a register write comes to: the write of a driver in its BAR0, of the Keeper in a cluster's window and in the global
blocks.
-/

namespace Sys2Proof.Machine

/-- A driver's write of its own BAR0, while the function is enumerated and not refused and the device is on. -/
theorem regWrite_bar0 (s : State) (f : FnId) (o : Nat) (v : Word) (he : s.enumerated (.fn f) = true) (h : s.refused (.fn f) = none)
    (hp : s.phase ≠ .off) : s.regWrite (.fn f) (.bar0 f o) v = s.writeBar0 (fnKey f) o v := by
  simp [State.regWrite, he, h, hp]

/-- A write of register `o` of ring `r`. -/
theorem writeBar0_ring (s : State) (f o : Nat) (r : Fin 16) (v : Word) (ho : o < 0x40) :
    s.writeBar0 f (0x1000 + 0x40 * r.val + o) v = s.setRing f r.val ((s.ring f r.val).regWrite o v.toNat) := by
  have hr := r.isLt
  have h1 : (0x1000 + 0x40 * r.val + o - 0x1000) / 0x40 = r.val := by omega
  have h2 : (0x1000 + 0x40 * r.val + o) % 0x40 = o := by omega
  unfold State.writeBar0
  dsimp only
  rw [if_neg (by omega), if_neg (by omega), if_pos (by omega), h1, h2]

/-- A write of the tail doorbell of ring `r`. -/
theorem writeBar0_tail (s : State) (f : Nat) (r : Fin 16) (v : Word) :
    s.writeBar0 f (0x2000 + 8 * r.val) v = s.setRing f r.val ((s.ring f r.val).tail v.toNat) := by
  have hr := r.isLt
  have h1 : (0x2000 + 8 * r.val - 0x2000) / 8 = r.val := by omega
  unfold State.writeBar0
  dsimp only
  rw [if_neg (by omega), if_neg (by omega), if_neg (by omega), if_pos (by omega), h1]

/-- A write of the completion head doorbell of ring `r`. -/
theorem writeBar0_cplHead (s : State) (f : Nat) (r : Fin 16) (v : Word) :
    s.writeBar0 f (0x2080 + 8 * r.val) v = s.setRing f r.val ((s.ring f r.val).cplHead v.toNat) := by
  have hr := r.isLt
  have h1 : (0x2080 + 8 * r.val - 0x2080) / 8 = r.val := by omega
  unfold State.writeBar0
  dsimp only
  rw [if_neg (by omega), if_neg (by omega), if_neg (by omega), if_neg (by omega), if_pos (by omega), h1]

/-- A Keeper's write of a global block. -/
theorem regWrite_keeper (s : State) (x : Nat) (v : Word) (hp : s.phase ≠ .off) (ha : assigned x = true) (hx : x < 0x4000000) :
    s.regWrite .keeper (.mgmt x) v = s.keeperWrite x v := by
  unfold State.regWrite
  simp only [State.enumerated, State.refused, reaches, ha, State.blockWrite, State.classOf]
  simp [hp]
  rw [if_neg (by omega), if_neg (by omega)]

/-- A Keeper's write of register `o` of the unit `g` of a cluster that runs. -/
theorem regWrite_unit (s : State) (c : Fin 2048) (u o : Nat) (v : Word) (hp : s.phase ≠ .off) (hu : u < 26) (ho : o < 0x400)
    (h1 : (s.cl c.val).scan = .running) (h2 : (s.cl c.val).loading = false) (h3 : s.swapping c.val = false) :
    s.regWrite .keeper (unitReg (gidOf c.val u) o) v = s.writeCluster c.val (u * 0x400 + o) .keeper v := by
  have hc := c.isLt
  have e1 : clusterOf (gidOf c.val u) = c.val := by simp only [clusterOf, gidOf]; omega
  have e2 : localOf (gidOf c.val u) = u := by simp only [localOf, gidOf]; omega
  have e3 : (0x4000000 + c.val * 0x8000 + u * 0x400 + o - 0x4000000) / 0x8000 = c.val := by omega
  have e4 : (0x4000000 + c.val * 0x8000 + u * 0x400 + o) % 0x8000 = u * 0x400 + o := by omega
  have ha : assigned (0x4000000 + c.val * 0x8000 + u * 0x400 + o) = true := by simp [assigned]; omega
  unfold unitReg
  rw [e1, e2]
  unfold State.regWrite
  simp only [State.enumerated, State.refused, reaches, ha]
  simp [hp]
  rw [if_pos (by omega)]
  simp only [e3, e4, State.clusterWrite, State.holdsAccess, h1, h2, h3]
  simp

/-- The write of register `o` of a memory unit, matrix unit, vector unit or scalar unit of a cluster in use. -/
theorem writeCluster_unit (s : State) (c u o : Nat) (v : Word) (ho : o < 0x400) (h8 : o % 8 = 0) (hr : (s.cl c).retired = false) :
    (u < 12 → s.writeCluster c (u * 0x400 + o) .keeper v = s.setMu (gidOf c u) ((s.mu (gidOf c u)).regWrite .keeper .keeper o v))
    ∧ (12 ≤ u → u < 16 → s.writeCluster c (u * 0x400 + o) .keeper v = s.setMcu (gidOf c u) ((s.mcu (gidOf c u)).regWrite o v))
    ∧ (16 ≤ u → u < 20 → s.writeCluster c (u * 0x400 + o) .keeper v = s.setVcu (gidOf c u) ((s.vcu (gidOf c u)).regWrite o v))
    ∧ (20 ≤ u → u < 24 → s.writeCluster c (u * 0x400 + o) .keeper v = s.writeScu (gidOf c u) .keeper .keeper o v) := by
  have e1 : (u * 0x400 + o) / 0x400 = u := by omega
  have e2 : (u * 0x400 + o) % 0x400 = o := by omega
  have e3 : ¬ (u * 0x400 + o) % 8 ≠ 0 := by omega
  have k : s.classOf .keeper (some c) = .keeper := rfl
  unfold State.writeCluster
  simp only [e1, e2, e3, k, hr]
  refine ⟨fun h => ?_, fun h h' => ?_, fun h h' => ?_, fun h h' => ?_⟩
  · simp [h, show ¬ 28 ≤ u by omega]
  · simp [h', show ¬ 28 ≤ u by omega, show ¬ u < 12 by omega]
  · simp [h', show ¬ 28 ≤ u by omega, show ¬ u < 12 by omega, show ¬ u < 16 by omega]
  · simp [h', show ¬ 28 ≤ u by omega, show ¬ u < 12 by omega, show ¬ u < 16 by omega, show ¬ u < 20 by omega]

/-- Logging a refused access changes nothing but the collector and the note of when a function's was last logged. -/
theorem logAccess_frame (s : State) (r : Requester) (off : Nat) :
    (s.logAccess r off).kpr.bad = s.kpr.bad ∧ (s.logAccess r off).out = s.out
      ∧ (s.logAccess r off).mus = s.mus ∧ (s.logAccess r off).mcus = s.mcus ∧ (s.logAccess r off).vcus = s.vcus
      ∧ (s.logAccess r off).scus = s.scus ∧ (s.logAccess r off).ports = s.ports ∧ (s.logAccess r off).pwr = s.pwr
      ∧ (s.logAccess r off).aud = s.aud ∧ (s.logAccess r off).txn = s.txn ∧ (s.logAccess r off).groups = s.groups := by
  have k : ∀ (s t : State) (e : ErrRec), (∃ g v, t = s.setFn g v) → (t.record e).kpr.bad = s.kpr.bad ∧ (t.record e).out = s.out
      ∧ (t.record e).mus = s.mus ∧ (t.record e).mcus = s.mcus ∧ (t.record e).vcus = s.vcus
      ∧ (t.record e).scus = s.scus ∧ (t.record e).ports = s.ports ∧ (t.record e).pwr = s.pwr
      ∧ (t.record e).aud = s.aud ∧ (t.record e).txn = s.txn ∧ (t.record e).groups = s.groups := by
    rintro s t e ⟨g, v, rfl⟩; rw [State.record_kpr]; simp [State.record_frame, State.setFn_frame]
  unfold State.logAccess
  cases r with
  | fn f =>
    dsimp only
    split
    · split
      · simp
      · exact k _ _ _ ⟨_, _, rfl⟩
    · exact k _ _ _ ⟨_, _, rfl⟩
  | keeper => dsimp only; rw [State.record_kpr]; simp
  | board => dsimp only; rw [State.record_kpr]; simp

/-- A refused access is counted and logged. -/
theorem badAccess_frame (s : State) (r : Requester) (off : Nat) :
    (s.badAccess r off).kpr.bad = sat32 s.kpr.bad 1 ∧ (s.badAccess r off).out = s.out
      ∧ (s.badAccess r off).mus = s.mus ∧ (s.badAccess r off).mcus = s.mcus ∧ (s.badAccess r off).vcus = s.vcus
      ∧ (s.badAccess r off).scus = s.scus ∧ (s.badAccess r off).ports = s.ports ∧ (s.badAccess r off).pwr = s.pwr
      ∧ (s.badAccess r off).aud = s.aud ∧ (s.badAccess r off).txn = s.txn ∧ (s.badAccess r off).groups = s.groups :=
  logAccess_frame _ r off

end Sys2Proof.Machine
end

