-- ==== Sys2Proof/Laws/Scratch.lean ====
section
/-!
SUPPORT. Access to a scratchpad: what a read with its codes, and a write, leave as they are.
-/

namespace Sys2Proof.Machine

/-- Folds of steps that change only the error block, the free values and the Keeper change no more. -/
theorem foldl_errOnly {α : Type} (f : State → α → State)
    (h : ∀ s a, ∃ k e n, f s a = { s with kpr := k, err := e, fresh := n }) (l : List α) :
    ∀ s : State, ∃ k e n, l.foldl f s = { s with kpr := k, err := e, fresh := n } := by
  induction l with
  | nil => exact fun s => ⟨s.kpr, s.err, s.fresh, rfl⟩
  | cons a l ih =>
    intro s
    obtain ⟨k, e, n, h1⟩ := h s a
    obtain ⟨k', e', n', h2⟩ := ih (f s a)
    exact ⟨k', e', n', by rw [List.foldl_cons, h2, h1]⟩

theorem State.latchReset_eq (s : State) (c : Nat) :
    ∃ e p t a o, s.latchReset c = { s with err := e, phase := p, trigger := t, triggerAt := a, ports := o } := by
  unfold State.latchReset
  split
  · exact ⟨_, _, _, _, _, rfl⟩
  · exact ⟨_, _, _, _, _, rfl⟩
  · exact ⟨_, _, _, _, _, rfl⟩
  · exact ⟨_, _, _, _, _, rfl⟩
  · exact ⟨s.err, s.phase, s.trigger, s.triggerAt, s.ports, rfl⟩

/-- Reading words with their codes changes the MU's fog, codes and counts, and what records and a latched reset change; no byte. -/
theorem State.readWords_eq (s : State) (g : Nat) (sel : Nat → Bool) :
    ∃ m k e n p t a o, s.readWords g sel = { s with mus := tabSet s.mus g m, kpr := k, err := e, fresh := n, phase := p, trigger := t, triggerAt := a, ports := o }
      ∧ m.mem = (s.mu g).mem ∧ m.powered = (s.mu g).powered ∧ m.cfgStore = (s.mu g).cfgStore ∧ m.zeroizing = (s.mu g).zeroizing
      ∧ m.wins = (s.mu g).wins ∧ m.slots = (s.mu g).slots ∧ m.desc = (s.mu g).desc ∧ m.checks = (s.mu g).checks := by
  unfold State.readWords
  extract_lets m ce ue m' s1 s2 s3
  obtain ⟨k1, e1, n1, h1⟩ : ∃ k e n, s2 = { s1 with kpr := k, err := e, fresh := n } := foldl_errOnly _ (fun s a => State.corrected_eq s _) ce s1
  obtain ⟨k2, e2, n2, h2⟩ : ∃ k e n, s3 = { s2 with kpr := k, err := e, fresh := n } := by
    refine foldl_errOnly _ (fun s a => ?_) ue s2
    obtain ⟨k, h⟩ := State.recordAt_eq s s.time s.flash.boot (s.aboutUnit g { cls := 0, sev := 2, cause := 0x02, akind := 1, addr := a * 8, inj := m.injWords.contains a })
    exact ⟨k, _, _, h⟩
  have h3 : s3 = { s1 with kpr := k2, err := e2, fresh := n2 } := by rw [h2, h1]
  split
  · obtain ⟨e3, p, t, a, o, h4⟩ := State.latchReset_eq s3 2
    exact ⟨m', k2, e3, n2, p, t, a, o, by rw [h4, h3]; rfl, rfl, rfl, rfl, rfl, rfl, rfl, rfl, rfl⟩
  · exact ⟨m', k2, e2, n2, s.phase, s.trigger, s.triggerAt, s.ports, by rw [h3]; rfl, rfl, rfl, rfl, rfl, rfl, rfl, rfl, rfl⟩

/-- A read of a range changes no more than reading its words. -/
theorem State.touchRead_eq (s : State) (g off n : Nat) :
    ∃ m k e i p t a o, s.touchRead g off n = { s with mus := tabSet s.mus g m, kpr := k, err := e, fresh := i, phase := p, trigger := t, triggerAt := a, ports := o }
      ∧ m.mem = (s.mu g).mem ∧ m.powered = (s.mu g).powered ∧ m.cfgStore = (s.mu g).cfgStore ∧ m.zeroizing = (s.mu g).zeroizing
      ∧ m.wins = (s.mu g).wins ∧ m.slots = (s.mu g).slots ∧ m.desc = (s.mu g).desc ∧ m.checks = (s.mu g).checks := by
  obtain ⟨m, k, e, i, p, t, a, o, h, h1⟩ := s.readWords_eq g (inWords off n)
  unfold State.touchRead
  simp only [h]
  split
  · obtain ⟨e3, p3, t3, a3, o3, h3⟩ := State.latchReset_eq { s with mus := tabSet s.mus g m, kpr := k, err := e, fresh := i, phase := p, trigger := t, triggerAt := a, ports := o } 2
    exact ⟨m, k, e3, i, p3, t3, a3, o3, h3, h1⟩
  · exact ⟨m, k, e, i, p, t, a, o, rfl, h1⟩

/-- A write of bytes writes them, and changes no more than a read does. -/
theorem State.muWrite_eq (s : State) (g off : Nat) (bytes : List Byte) (fog : List Bool) (hb : bytes ≠ []) :
    ∃ m k e i p t a o, s.muWrite g off bytes fog = { s with mus := tabSet s.mus g m, kpr := k, err := e, fresh := i, phase := p, trigger := t, triggerAt := a, ports := o }
      ∧ m.mem = memWrite (s.mu g).mem off bytes ∧ m.powered = (s.mu g).powered ∧ m.cfgStore = (s.mu g).cfgStore
      ∧ m.zeroizing = (s.mu g).zeroizing ∧ m.wins = (s.mu g).wins ∧ m.slots = (s.mu g).slots ∧ m.desc = (s.mu g).desc := by
  unfold State.muWrite
  have hn : ¬ bytes.length = 0 := by simpa using hb
  extract_lets n s1 m granules fogged fog'
  rw [if_neg hn]
  obtain ⟨m1, k, e, i, p, t, a, o, h, h1, h2, h3, h4, h5, h6, h7, -⟩ := s.readWords_eq g
    (fun w => inWords off n w && !(decide (off ≤ w * 8) && decide (w * 8 + 8 ≤ off + n)))
  have hm : m = m1 := by show s1.mu g = m1; rw [show s1 = _ from h]; simp [State.mu]
  refine ⟨{ m with
    mem := memWrite m.mem off bytes, fog := fog', ceWords := m.ceWords.filter (fun w => !inWords off n w)
    ueWords := m.ueWords.filter (fun w => !inWords off n w)
    injWords := m.injWords.filter (fun w => !inWords off n w) }, k, e, i, p, t, a, o, ?_, ?_⟩
  · rw [show s1 = _ from h]
    simp only [State.setMu, tabSet_tabSet]
  · rw [hm]
    exact ⟨by rw [h1], h2, h3, h4, h5, h6, h7⟩

/-- A plain write of bytes: the same, and the blocks it touches are unchecked. -/
theorem State.muWritePlain_eq (s : State) (g off : Nat) (bytes : List Byte) (fog : List Bool) (hb : bytes ≠ []) :
    ∃ m k e i p t a o, s.muWritePlain g off bytes fog
        = { s with mus := tabSet s.mus g m, kpr := k, err := e, fresh := i, phase := p, trigger := t, triggerAt := a, ports := o }
      ∧ m.mem = memWrite (s.mu g).mem off bytes ∧ m.powered = (s.mu g).powered ∧ m.cfgStore = (s.mu g).cfgStore
      ∧ m.zeroizing = (s.mu g).zeroizing ∧ m.wins = (s.mu g).wins ∧ m.slots = (s.mu g).slots ∧ m.desc = (s.mu g).desc := by
  obtain ⟨m, k, e, i, p, t, a, o, h, h1⟩ := s.muWrite_eq g off bytes fog hb
  unfold State.muWritePlain
  refine ⟨m.uncheck off bytes.length, k, e, i, p, t, a, o, ?_, ?_⟩
  · simp [h, State.setMu, State.mu]
  · unfold Mu.uncheck
    split <;> exact h1

end Sys2Proof.Machine
end

