-- ==== Sys2Proof/Laws/Tensor.lean ====
section
/-!
SUPPORT. What a tensor command comes to: the instruction at the head of the queue issues, or the one in turn goes a step further.
-/

namespace Sys2Proof.Machine

@[simp] theorem clusterOf_muGid (m : MuId) : clusterOf (muGid m) = m.cluster.val := by
  have := m.idx.isLt; simp only [clusterOf, muGid, gidOf]; omega
@[simp] theorem clusterOf_mcuGid (u : McuId) : clusterOf (mcuGid u) = u.cluster.val := by
  have := u.k.isLt; simp only [clusterOf, mcuGid, gidOf]; omega
@[simp] theorem clusterOf_vcuGid (u : VcuId) : clusterOf (vcuGid u) = u.cluster.val := by
  have := u.k.isLt; simp only [clusterOf, vcuGid, gidOf]; omega
@[simp] theorem clusterOf_scuGid (u : ScuId) : clusterOf (scuGid u) = u.cluster.val := by
  have := u.k.isLt; simp only [clusterOf, scuGid, gidOf]; omega
@[simp] theorem clusterOf_tuGid (u : TuId) : clusterOf (tuGid u) = u.cluster.val := by
  have := u.idx.isLt; simp only [clusterOf, tuGid, gidOf]; omega
@[simp] theorem clusterOf_senderGid (u : SenderId) : clusterOf (senderGid u) = u.cluster.val := by
  have := u.idx.isLt; simp only [clusterOf, senderGid, gidOf]; omega

@[simp] theorem localOf_muGid (m : MuId) : localOf (muGid m) = m.idx.val := by
  have := m.idx.isLt; simp only [localOf, muGid, gidOf]; omega
@[simp] theorem localOf_mcuGid (u : McuId) : localOf (mcuGid u) = 12 + u.k.val := by
  have := u.k.isLt; simp only [localOf, mcuGid, gidOf]; omega
@[simp] theorem localOf_vcuGid (u : VcuId) : localOf (vcuGid u) = 16 + u.k.val := by
  have := u.k.isLt; simp only [localOf, vcuGid, gidOf]; omega
@[simp] theorem localOf_scuGid (u : ScuId) : localOf (scuGid u) = 20 + u.k.val := by
  have := u.k.isLt; simp only [localOf, scuGid, gidOf]; omega
@[simp] theorem localOf_tuGid (u : TuId) : localOf (tuGid u) = u.idx.val := by
  have := u.idx.isLt; simp only [localOf, tuGid, gidOf]; omega

/-- With the head ready and nothing of its opcode in progress, a command issues the head. -/
theorem tensorCmd_issue (s : State) (g op : Nat) (h : Issued) (issue : State → Issued → State) (adv : State → Run → Option State)
    (hr : s.headReady g op h) : tensorCmd s g (fun o => o == op) issue adv = .next (issue s h) := by
  obtain ⟨h1, h2, h3, h4, h5, h6, -⟩ := hr
  have hf : (s.tu g).running.filter (fun r => (r.iss.i.op == op) && !r.finished) = [] := by
    rw [List.filter_eq_nil_iff]
    intro r hm; rcases h3 r hm with h | h <;> simp [h]
  obtain ⟨l, hl⟩ : ∃ l, (s.tu g).iq = h :: l := by
    cases hq : (s.tu g).iq with
    | nil => rw [hq] at h4; simp at h4
    | cons a l => rw [hq] at h4; simp at h4; exact ⟨l, by rw [h4]⟩
  simp [tensorCmd, issueHead, h1, h2, hf, firstAdvance, hl, h5, h6]

/-- With one run of its opcode in progress that can go on, a command takes it a step further. -/
theorem tensorCmd_advance (s t : State) (g op : Nat) (r : Run) (issue : State → Issued → State) (adv : State → Run → Option State)
    (hr : s.inTurn g op r) (ha : adv s r = some t) : tensorCmd s g (fun o => o == op) issue adv = .next (t.progress (clusterOf g)) := by
  obtain ⟨h1, h2, h3, h4⟩ := hr
  have h5 : ¬ ((r.phase = 0 ∧ s.myTurn g r = true) ∧ s.sourceBad g r = true) := by
    rintro ⟨⟨h, -⟩, h'⟩; rw [h4 h] at h'; exact absurd h' (by decide)
  simp [tensorCmd, h1, h2, h3, h5, firstAdvance, ha]

end Sys2Proof.Machine
end

