-- ==== Sys2Proof/Tests/Slice0.lean ====
section
/-!
SUPPORT. Tests: ill-formed commands, words of the manual, examples worked in it, and for every statement of
Certificates/Slice0/Obligations.lean that has hypotheses, `witness_<statement>`: states and operands that meet them together.
-/

namespace Sys2Proof.Tests

-- One after another: side by side, the kernel evaluations below would each wait in a thread of their own.
set_option Elab.async false

open Sys2Proof Sys2Proof.Machine

/-! ### Well-formedness: what each check refuses -/

theorem test_wf_misaligned_write : Instr.wf (.registerWrite .keeper (.mgmt 4) 0) = false := by decide
theorem test_wf_write_beyond_space : Instr.wf (.registerWrite .keeper (.mgmt (2 ^ 28)) 0) = false := by decide
theorem test_wf_write_beyond_bar0 : Instr.wf (.registerWrite .keeper (.bar0 ⟨0, 0⟩ 0x10000) 0) = false := by decide
theorem test_wf_aligned_is_no_misaligned_access : Instr.wf (.registerAccessMisaligned .keeper (.mgmt 8) 8 true) = false := by decide
theorem test_wf_perf_counter_offset : Instr.wf (.perfCounterWrap 12) = false := by decide
theorem test_wf_shadow_line : Instr.wf (.shadowDoorbell ⟨0, 0⟩ [0]) = false := by decide
theorem test_wf_reconfigured_region : Instr.wf (.nativeReconfiguration 0 ⟨31, 0, 2, 1⟩ 0 true) = false := by decide
theorem test_wf_drained_region : Instr.wf (.forcedDrain 0 ⟨0, 0, 0, 1⟩) = false := by decide
theorem test_wf_read_line : Instr.wf (.cxlMemRead 0 32) = false := by decide
theorem test_wf_written_line : Instr.wf (.cxlMemWrite 0 64 [] (List.replicate 64 true) false) = false := by decide
theorem test_wf_snooped_line : Instr.wf (.biResponse 0 (720 * 2 ^ 24) none) = false := by decide
theorem test_wf_written_back_line : Instr.wf (.biResponse 0 0 (some [1])) = false := by decide
theorem test_wf_timed_out_line : Instr.wf (.bisnpTimeout 0 (720 * 2 ^ 24)) = false := by decide
theorem test_wf_link_rate : Instr.wf (.linkUp 0 0 1 true) = false := by decide
theorem test_wf_flr_of_pf : Instr.wf (.flrVf ⟨0, 0⟩) = false := by decide
theorem test_wf_junctions : Instr.wf (.junctionSample [1]) = false := by decide
theorem test_wf_power_sample : Instr.wf (.powerSample 65536 0 0 0 0) = false := by decide
theorem test_wf_unassigned_access : Instr.wf (.registerAccessMisaligned .keeper (.mgmt 0x60000) 8 false) = true := by decide

/-! ### Words of the manual -/

/-- The `qsel` of the serving loop (the example under "Code words", spec/09). -/
theorem test_word_qsel : decodeScalar 0xC4A63980 = some (.qsel 5 6 7 1 true) := by decide
theorem test_word_br : decodeScalar 0xA1200010 = some (.br false true 1 0x010#14) := by decide
theorem test_word_tiss : decodeScalar 0xE0100200 = some (.tiss 0 0x200 8 0) := by decide
/-- Opcode 0x12 in bits 31 to 26, rd 3, ra 4, imm16 0xFFFF (R296, R297). -/
theorem test_word_ori : decodeScalar 0b010010_00011_00100_1111111111111111 = some (.imm 2 3 4 0xFFFF#16) := by decide
/-- A non-zero zero field is reserved (R297). -/
theorem test_word_zero_field : decodeScalar 0b000001_00011_00100_00101_00000000001 = none := by decide
/-- The `MM.FWD` of the example: opcode 0x20, class 1, A 0x10, B 0x11, C 0x12, record at 256, count 1, tag 0x31 (R272). -/
theorem test_word_tensor : decodeTensor 0x20100010001100120100000100000031
    = { op := 0x20, cls := 1, da := 0x10, db := 0x11, dc := 0x12, par := 0x100, count := 1, sq := 0, tag := 0x31 } := by decide

/-! ### Worked examples of the manual -/

/-- VCU2 of logical cluster (37, 20) (spec/01). -/
theorem test_example_unit_id : vcuGid ⟨1317, 2⟩ = 0xA4B2 ∧ dieOf 1317 = 6 ∧ quadOf 1317 = 338 ∧ homeMu 0xA4B2 = gidOf 1317 6 := by decide
/-- The encodings worked from R42 and R43: 1.0, 3.0, -0.1 as an FP32 value and 1,000. -/
theorem test_example_l8 : (convert 0x11 0 (.fin false 1 0)).1 = 0x40 ∧ (convert 0x11 0 (.fin false 3 0)).1 = 0x4D
    ∧ (convert 0x11 0 (val32 0xBDCCCCCD#32)).1 = 0xA5 ∧ convert 0x11 0 (.fin false 1000 0) = (0x7F, true) := by decide +kernel
theorem test_example_l16 : (convert 0x10 0 (.fin false 1 0)).1 = 0x4000 ∧ (convert 0x10 0 (.fin false 3 0)).1 = 0x4196
    ∧ (convert 0x10 0 (val32 0xBDCCCCCD#32)).1 = 0xBCAE ∧ (convert 0x10 0 (.fin false 1000 0)).1 = 0x49F7 := by decide +kernel
/-- L8 0x4D by L8 0xA5 on the log path: -(1 + 775/4,096) x 2^-2 (spec/02). -/
theorem test_example_log_product : product (decodeOper 0x11 0x4D 127) (decodeOper 0x11 0xA5 127) = .fin true ((4096 + 775) * 2 ^ 11) (-2) := by
  decide +kernel
/-- FP8 E4M3 0x4C by L8 0xA5, a mixed pair: M 0x94_0800, X -1 (spec/02). -/
theorem test_example_mixed_product : product (decodeOper 3 0x4C 127) (decodeOper 0x11 0xA5 127) = .fin true 0x940800 (-1) := by decide +kernel
/-- The group of three products into +0 gives 0x3ED7_F000 (spec/02). -/
theorem test_example_group : groupAdd 0 [.fin false (2 ^ 23) 0, .fin false (3 * 2 ^ 22) (-26), .fin true 9701376 (-1)] = 0x3ED7F000#32 := by
  decide +kernel
/-- The L16 element 0x4010 becomes the L8 code 0x41 in a VCU, and 0x4030 becomes 0x42 (spec/02). -/
theorem test_example_l16_to_l8 : (convert 0x11 0 (decodeVal 0x10 0x4010 127)).1 = 0x41 ∧ (convert 0x11 0 (decodeVal 0x10 0x4030 127)).1 = 0x42 := by
  decide +kernel
/-- A combining queue's 2^24, 1.0 and -2^24 (spec/06). -/
theorem test_example_combining : round32 (((({} : Acc).add (val32 0x4B800000#32)).add (val32 0x3F800000#32)).add (val32 0xCB800000#32)).val
    = 0x3F800000#32 := by decide +kernel
/-- The 4 KiB ring with `wp` 0xE40 and `rp` 0x300: 1,152 B are free, and a payload of 900 B holds its sender back (spec/06). -/
theorem test_example_ring : (({ mode := .ring, size := 1, wp := 0xE40, rp := 0x300 } : Queue).free = 1152)
    ∧ (({ mode := .ring, size := 1, wp := 0xE40, rp := 0x300 } : Queue).placing 916 = .holdBack) := by decide
/-- Device address 0x0012_3456_7800: granule 72, stack 3 in global mode (spec/11). -/
theorem test_example_stack : granuleOf 0x001234567800 = 72 ∧ State.reset.stackOf 0x001234567800 = 3 ∧ stackDie 3 = 1
    ∧ stacksOn [5, 6] = [12, 13, 14, 15] := by decide
/-- CRC-32C of the nine ASCII digits is 0xE306_9283 (the check value of the code; log 15). -/
theorem test_crc32c : crc32c [0x31, 0x32, 0x33, 0x34, 0x35, 0x36, 0x37, 0x38, 0x39] = 0xE3069283#32 := by decide +kernel
/-- -200 saturates in INT8 (R68). -/
theorem test_int8_saturates : convert 0xA 0 (.fin true 200 0) = (0x80, true) := by decide

/-! ### Small states for the witnesses -/

/-- The device in service, and otherwise as reset leaves it. -/
def rdy : State := { State.reset with phase := .ready }

/-- SCU0 of cluster 0, running, with one instruction at word 0. -/
def sc (i : SInstr) (v : Scu := {}) : State := rdy.setScu 20 { v with state := .running, imem := [(0, BitVec.ofNat 32 (encodeScalar i))] }

/-- Cluster 0 holds context 5 of sector 0, in the given state. -/
def owned (s : State) (k : CtxState := .idle) : State := { s with cls := [(0, { owner := some 5 })], ctxs := [(5, { sector := 0, port := 0, fn := 0, state := k })] }

/-- A descriptor of one level: base, format, element bytes, elements, and whether it is external. -/
def dsc (base fmt bytes n : Nat) (ext : Bool := false) : BitVec 512 :=
  BitVec.ofNat 512 (base + fmt * 2 ^ 32 + 2 ^ 40 + n * 2 ^ 61 + bytes * 2 ^ 205 + 63 * 2 ^ 445 + b2n ext * 2 ^ 483)

/-- Descriptors 0 and 1 of 32 FP32 elements in the scratchpad, 2 of the same in external memory, 3 of one INT32 element, 4 of one FP32
element and 5 of none. -/
def m0 : Mu := { desc := [(0, dsc 0x1000 0 4 32), (1, dsc 0x2000 0 4 32), (2, dsc 0 0 4 32 true), (3, dsc 0x3000 8 4 1), (4, dsc 0x3100 0 4 1),
  (5, dsc 0x4000 0 4 0)] }

/-- A tensor instruction that names nothing. -/
def ti (op cls : Nat) : TInstr := { op := op, cls := cls, da := 0xFFFF, db := 0xFFFF, dc := 0xFFFF, par := 0xFFFF }

/-- The instruction as it stands in a queue: issued by SCU0 for context 5. -/
def iss (i : TInstr) : Issued := { i := i, scu := 20, ctx := 5 }

/-- A unit of cluster 0 with the instruction at the head of its queue and a record at words 256 and 257. -/
def tq (g : Nat) (i : TInstr) (lo hi : BitVec 128 := 0) : State :=
  { rdy with tus := [(g, { tim := [(256, lo), (257, hi)], iq := [iss i] })], mus := [(homeMu g, m0)] }

/-- A unit of cluster 0 with the instruction in progress. -/
def tr (g : Nat) (r : Run) : State := { rdy with tus := [(g, { running := [r], nextId := 2 })], mus := [(homeMu g, m0)] }

/-- The run of an instruction whose descriptors are those of `m0`. -/
def run (i : TInstr) (phase : Nat := 0) : Run := { iss := iss i, id := 1, latch := m0.latchOf i, phase := phase }

/-- A sector of one quad, clusters 0, 1, 64 and 65. -/
def sec0 : Sector :=
  { qx := 0, qy := 0, qw := 1, qh := 1, ports := 1, granules := [], sysg := 0, imode := false, res := false, groups := [], spill := 0, quota := 0
    thr := 4, limit := 1, hostmem := false, debug := false, auditN := 16, bootAt := 0, serial := 0 }

/-- The same state with the sector. -/
def inSec (s : State) : State := { s with sectors := [(0, sec0)] }

/-- A scan image of a cluster for a context, at page 0. -/
def scan0 (c x : Nat) (prog : Bool := false) : ScanImg :=
  { cluster := c, context := x, prog := prog, epoch := 0, boot := 0, imageCrc := 0, tus := [], mus := [], mcus := [], vcus := [], scus := [], sw := {}
    rounds := [], roots := [], buf := some 0 }
/-! ### The queue, time and reset -/

theorem witness_StepRunsFrontCommand : ({ State.reset with pending := [.coolFault, .leakSense] } : State).pending = .coolFault :: [.leakSense] := rfl
theorem witness_EmptyQueuePassesOneTick : State.reset.pending = [] ∧ State.reset.pins.inputOn = true
    ∧ ({ State.reset with pins := { inputOn := false } } : State).pending = [] := ⟨rfl, rfl, rfl⟩
theorem witness_CommandsLeaveQueue : ∃ t, exec .coolFault { rdy with pending := [.leakSense] } = .next t ∧ t.pins.coolFault = true := ⟨_, rfl, rfl⟩
/-- A store changes the memory that the invariant speaks of. -/
theorem witness_StepKeepsMemoryCanonical :
    let s : State := { sc (.st 0 1 0 0) { g := [(1, { v := 7 })] } with pending := [.stNB ⟨0, 0⟩ 1 0 0] }
    s.memOk ∧ ∃ t, step s = .next t ∧ memGet (t.mu 8).mem 0 = 7 := by
  refine ⟨⟨by decide, by decide, by decide⟩, _, rfl, by decide +kernel⟩
theorem witness_RollbackFloorNeverFalls : ∃ t, exec .trialEnd { rdy with kpr := { trial := true }, sec := { svn := 3 } } = .next t
    ∧ t.flash.floor = 3 := ⟨_, rfl, by decide +kernel⟩
theorem witness_EncodeOfDecode : (0 : Nat) < 2 ^ 32 ∧ decodeScalar (encodeScalar (.alu 13 31 31 31)) = some (.alu 13 31 31 31)
    ∧ encodeScalar (.alu 13 31 31 31) < 2 ^ 32 := by decide

/-! ### Scalar units -/

theorem witness_ScalarOperationsRetire : (∀ k : Fin 14, (sc (.alu k 1 2 3)).canRun 20 (.alu k 1 2 3) = true)
    ∧ (sc (.sel 1 2 3 4)).canRun 20 (.sel 1 2 3 4) = true ∧ (∀ k : Fin 4, (sc (.imm k 31 0 0x8000)).canRun 20 (.imm k 31 0 0x8000) = true)
    ∧ (∀ k : Fin 3, (sc (.shi k 1 2 63)).canRun 20 (.shi k 1 2 63) = true) ∧ (sc (.lui 1 0x100000)).canRun 20 (.lui 1 0x100000) = true := by
  decide +kernel
theorem witness_ScalarPredicatesRetire : (∀ c ∈ [Cond.eq, .ne, .lt, .le, .ltu, .leu, .gt, .ge], (sc (.cmp 7 c 1 2)).canRun 20 (.cmp 7 c 1 2) = true)
    ∧ (sc (.cmpi 1 .gt 2 0x4000)).canRun 20 (.cmpi 1 .gt 2 0x4000) = true
    ∧ ∀ f ∈ [PopFn.and, .or, .xor, .andNot, .notA, .set1, .set0], (sc (.pop 0 1 2 f)).canRun 20 (.pop 0 1 2 f) = true := by decide +kernel
/-- The last word of the instruction memory. -/
theorem witness_ScalarRegisterFrame :
    let s := rdy.setScu 20 { state := .running, pc := 16383, imem := [(16383, BitVec.ofNat 32 (encodeScalar (.alu 0 31 31 31)))] }
    (s.scu 20).imemUe = [] ∧ (s.scu 20).imemFog = [] ∧ (s.scu 20).pc < 16384 ∧ ∃ t, exec (.add ⟨0, 0⟩ 31 31 31) s = .next t ∧ (t.scu 20).pc = 16384 :=
  ⟨rfl, rfl, by decide, _, rfl, by decide +kernel⟩
/-- The last eight bytes that the scratchpad has. -/
theorem witness_NarrowAccesses : ∀ sz : Fin 4,
    let s := sc (.ld sz 1 2 0) { g := [(2, { v := 0x2FFFF8 })] }
    let t := sc (.st sz 1 2 0) { g := [(2, { v := 0x2FFFF8 })] }
    s.canRun 20 (.ld sz 1 2 0) = true ∧ t.canRun 20 (.st sz 1 2 0) = true ∧ ((s.scu 20).reg 2).fog = false ∧ (s.mu 8).zeroizing = false
      ∧ (((s.scu 20).reg 2).v + (0 : BitVec 16).signExtend 64).toNat = 0x2FFFF8 ∧ 0x2FFFF8 % 2 ^ sz.val = 0
      ∧ (s.mu 8).rangeOk 0x2FFFF8 (2 ^ sz.val) = true ∧ (s.mu 8).asleep 0x2FFFF8 (2 ^ sz.val) = 0 ∧ Memory.wf (t.mu 8).mem = true := by decide +kernel
theorem witness_ScalarControlFlow : (sc (.br true true 1 0x3FFF)).canRun 20 (.br true true 1 0x3FFF) = true
    ∧ ((sc (.br false true 1 0)).canRun 20 (.br false true 1 0) = true ∧ (((sc (.br false true 1 0)).scu 20).pred 1).fog = false)
    ∧ (sc (.jal 1 0x3FFF)).canRun 20 (.jal 1 0x3FFF) = true
    ∧ (let s := sc (.jr 2) { g := [(2, { v := 16383 })] }
       s.canRun 20 (.jr 2) = true ∧ ((s.scu 20).reg 2).fog = false ∧ ((s.scu 20).reg 2).v.toNat < 16384)
    ∧ (sc .halt).canRun 20 .halt = true := by decide +kernel
theorem witness_FoggedControlFailsContext :
    (let s := owned (sc (.br false true 1 0) { p := [(1, { fog := true })] })
     s.ownerOf 0 = some 5 ∧ s.ctx 5 = some { sector := 0, port := 0, fn := 0 } ∧ ((s.scu 20).pred 1).fog = true ∧ s.canRun 20 (.br false true 1 0) = true)
    ∧ (let s := owned (sc (.jr 2) { g := [(2, { fog := true })] })
       ((s.scu 20).reg 2).fog = true ∧ s.canRun 20 (.jr 2) = true)
    ∧ (owned rdy .failed).ctx 5 = some { sector := 0, port := 0, fn := 0, state := .failed } := by decide +kernel

/-- SCU0 with a `qrecv` of queue 63, which is in the given state. -/
def qr (k : Queue) : State := sc (.qrecv 1 (.imm 63)) { queues := [(63, k)] }

theorem witness_ScalarReceive : (∀ k, (qr k).canRun 20 (.qrecv 1 (.imm 63)) = (qr {}).canRun 20 (.qrecv 1 (.imm 63)))
    ∧ (qr {}).canRun 20 (.qrecv 1 (.imm 63)) = true
    ∧ (let k : Queue := { mode := .ring, base := 0x1000, size := 1, rp := 0xFC0 }
       k.isRing = true ∧ k.wp ≠ k.rp ∧ (memGet ((qr k).mu 8).mem (k.base + k.rp + 9)).getLsbD 0 = false)
    ∧ (let k : Queue := { mode := .combining, size := 9 }
       k.isRing = true ∧ k.wp = k.rp ∧ k.opened = false)
    ∧ (let s := sc (.qrecv 1 (.reg 2)) { g := [(2, { v := 127 })] }
       s.canRun 20 (.qrecv 1 (.reg 2)) = true ∧ ((s.scu 20).reg 2).fog = false ∧ ((s.scu 20).reg 2).v.toNat % 64 = 63) :=
  ⟨fun _ => rfl, by decide +kernel, by decide +kernel, by decide +kernel, by decide +kernel⟩
theorem witness_ScalarSelect :
    (let s := sc (.qsel 1 2 3 4 true) { g := [(2, { v := 2 ^ 63 })], queues := [(63, { mode := .register })] }
     s.canRun 20 (.qsel 1 2 3 4 true) = true ∧ (s.scu 20).choose (2 ^ 63) true = some 63
       ∧ ∀ k < 64, (2 ^ 63 : Word).getLsbD k = true → ((s.scu 20).queue k).mode ≠ .off)
    ∧ (let s := sc (.qsel 1 2 3 4 false) { g := [(2, { v := 2 ^ 63 })], queues := [(63, { mode := .register, opened := true })] }
       s.canRun 20 (.qsel 1 2 3 4 false) = true ∧ (s.scu 20).choose (2 ^ 63) false = none ∧ ((s.scu 20).reg 3).v = 0)
    ∧ (sc (.qtag 1)).canRun 20 (.qtag 1) = true
    ∧ (let s := sc (.qrp 1 0) { g := [(1, { v := 0xFC0 })], queues := [(0, { mode := .ring, size := 1, wp := 0xFC0 })] }
       s.canRun 20 (.qrp 1 0) = true ∧ ((s.scu 20).reg 1).fog = false ∧ ((s.scu 20).queue 0).isRing = true
         ∧ ((s.scu 20).queue 0).rpOk ((s.scu 20).reg 1).v.toNat = true)
    ∧ (let s := sc (.qclose 0) { queues := [(0, { mode := .register, opened := true })] }
       s.canRun 20 (.qclose 0) = true ∧ ((s.scu 20).queue 0).mode = .register) := by decide +kernel
/-- Eight bytes to queue 63 of SCU1, with seven and with eight messages in the buffer. -/
theorem witness_ScalarSend : ∀ n ∈ [7, 8],
    let full := List.replicate n { msg := { unit := 21, queue := 0, sender := 20, ctx := 0 }, scu := 20 }
    let s := sc (.qsend 1 2 3 5 false) { g := [(1, { v := 21 + 63 * 2 ^ 16 }), (3, { v := 8 })], send := full }
    s.canRun 20 (.qsend 1 2 3 5 false) = true ∧ ((s.scu 20).reg 1).fog = false ∧ ((s.scu 20).reg 3).fog = false ∧ ((s.scu 20).reg 2).fog = false
      ∧ ((s.scu 20).reg 3).v.toNat ≤ 8
      ∧ s.addrOk (((s.scu 20).reg 1).v.toNat % 2 ^ 16) (((s.scu 20).reg 1).v.toNat / 2 ^ 16 % 2 ^ 6) 5 = true ∧ (s.scu 20).send.length = n := by
  decide +kernel
/-- The last 9 bytes that the scratchpad has. -/
theorem witness_ScalarSend_memory :
    let s := sc (.qsend 1 2 3 5 true) { g := [(1, { v := 21 + 63 * 2 ^ 16 }), (2, { v := 0x2FFFF7 }), (3, { v := 9 })] }
    s.canRun 20 (.qsend 1 2 3 5 true) = true ∧ ((s.scu 20).reg 1).fog = false ∧ ((s.scu 20).reg 3).fog = false ∧ ((s.scu 20).reg 2).fog = false
      ∧ ((s.scu 20).reg 3).v.toNat = 9 ∧ s.addrOk 21 63 5 = true ∧ (s.mu 8).rangeOk 0x2FFFF7 9 = true ∧ (s.mu 8).zeroizing = false
      ∧ (s.mu 8).asleep 0x2FFFF7 9 = 0 ∧ ((s.touchRead 8 0x2FFFF7 9).mu 8).fogAt 0x2FFFF7 9 = false ∧ (s.scu 20).send.length < 8 := by
  decide +kernel
/-- A `FENCE` for MU0 at the last word, and a `STEER.OFF` for the switch. -/
theorem witness_ScalarIssue :
    (let s := { sc (.tiss 0 1023 0 0) { tags := (upto 1 63).map (fun n => { tag := n }) } with
       tus := [(0, { tim := [(1023, encodeTensor { ti 0x70 0 with tag := 64 })] })] }
     s.canRun 20 (.tiss 0 1023 0 0) = true ∧ (s.tu (holderOf 20 0)).wordBad 1023 = false
       ∧ classAgrees 0 (decodeTensor ((s.tu (holderOf 20 0)).word 1023)) = true ∧ (s.scu 20).tags.length < 64
       ∧ (∀ e ∈ (s.scu 20).tags, e.tag ≠ (decodeTensor ((s.tu (holderOf 20 0)).word 1023)).tag) ∧ (s.issueQ 0 0).length < 8
       ∧ s.issuesAhead 20 0 = false)
    ∧ (let s := { sc (.tiss 24 0 1 2) { g := [(2, { v := 7 })] } with tus := [(8, { tim := [(0, encodeTensor (ti 0x40 3))] })] }
       s.canRun 20 (.tiss 24 0 1 2) = true ∧ classAgrees 24 (decodeTensor ((s.tu (holderOf 20 24)).word 0)) = true ∧ (s.issueQ 0 24).length < 8
         ∧ s.issuesAhead 20 24 = false) := by
  decide +kernel
theorem witness_ScalarWaitPortSpecial :
    (let s := sc (.wait 1 0xFFFF) { tags := [{ tag := 0xFFFF, posted := some 0x0E }] }
     s.canRun 20 (.wait 1 0xFFFF) = true ∧ (s.scu 20).tags.find? (fun e => e.tag == (0xFFFF : BitVec 16).toNat) = some { tag := 0xFFFF, posted := some 0x0E })
    ∧ (let s := sc (.wait 1 0xFFFF) { tags := [{ tag := 1 }] }
       s.canRun 20 (.wait 1 0xFFFF) = true ∧ ∀ e ∈ (s.scu 20).tags, e.tag ≠ (0xFFFF : BitVec 16).toNat)
    ∧ (∀ port : Fin 2, let s := sc (.pout port 1) { pport0 := List.replicate 15 true, pport1 := List.replicate 15 true }
        s.canRun 20 (.pout port 1) = true ∧ ((s.scu 20).pred 1).fog = false ∧ (if port.val = 0 then (s.scu 20).pport0 else (s.scu 20).pport1).length < 16)
    ∧ ∀ n : Fin 7, (sc (.rdsr 1 n)).canRun 20 (.rdsr 1 n) = true := by decide +kernel
theorem witness_ScalarBlockedAndReserved :
    (let s := rdy.setScu 20 { state := .blocked, blocked := some (.qrecv 1 (.imm 0)) }
     s.scuLive 20 = true ∧ (s.scu 20).state = .blocked ∧ (s.scu 20).blocked = some (.qrecv 1 (.imm 0)))
    ∧ (let s := rdy.setScu 20 { state := .blocked, blocked := some (.qsel 1 2 3 4 false), g := [(3, { v := 30 })] }
       s.scuLive 20 = true ∧ (s.scu 20).blocked = some (.qsel 1 2 3 4 false) ∧ s.qselDeadline 20 3 = some 10
         ∧ (s.scu 20).choose ((s.scu 20).reg 2).v false = none)
    ∧ (let s := owned (rdy.setScu 20 { state := .running, pc := 16383, imem := [(16383, 0xFFFFFFFF)] })
       s.scuLive 20 = true ∧ (s.scu 20).state = .running ∧ (s.scu 20).pc ≤ 16383 ∧ (s.scu 20).imemUe.contains 16383 = false
         ∧ (s.scu 20).imemFog.contains 16383 = false ∧ (s.scu 20).imemCe.contains 16383 = false ∧ decodeScalar ((s.scu 20).word 16383) = none ∧ s.ownerOf 0 = some 5) := by decide +kernel

/-! ### Tensor instructions -/

/-- A write that window 15 has accepted. -/
def win0 : WinWrite := { win := 15, addr := 0, bytes := [1], keep := [], fog := false, src := 1, ctx := 5, req := 7 }

theorem witness_SlotAndWindowInstructions :
    (let i : TInstr := { ti 5 0 with par := 256, sq := 255 }
     let s := tq 0 i (2 ^ 14 + 2 ^ 28)
     s.headReady 0 5 (iss i) ∧ recFld ((s.tu 0).recordAt 256) 27 14 ≠ 0 ∧ recFld ((s.tu 0).recordAt 256) 31 28 ≠ 0
       ∧ recFld ((s.tu 0).recordAt 256) 255 32 = 0 ∧ ((s.mu 0).slot i.num).state = .empty)
    ∧ (tq 0 { ti 6 0 with sq := 255 }).headReady 0 6 (iss { ti 6 0 with sq := 255 })
    ∧ (let i : TInstr := { ti 7 0 with par := 256, sq := 15 }
       let s := tq 0 i (2 ^ 16)
       s.headReady 0 7 (iss i) ∧ recFld ((s.tu 0).recordAt 256) 31 16 ≠ 0 ∧ recFld ((s.tu 0).recordAt 256) 255 47 = 0
         ∧ (s.mu 0).rangeOk (recFld ((s.tu 0).recordAt 256) 15 0 * 64) (recFld ((s.tu 0).recordAt 256) 31 16 * 64) = true
         ∧ (s.mu 0).winBusy i.num = false)
    ∧ (let i : TInstr := { ti 8 0 with sq := 15 }
       (tq 0 i).headReady 0 8 (iss i) ∧ ((tq 0 i).mu 0).winBusy i.num = false) := by
  simp only [State.headReady]; decide +kernel
/-- Both wait while the window has a write to perform. -/
theorem witness_SlotAndWindowInstructions_busy :
    (let i : TInstr := { ti 7 0 with par := 256, sq := 15 }
     let s : State := { tq 0 i (2 ^ 16) with mus := [(0, { m0 with accepted := [win0] })] }
     s.headReady 0 7 (iss i) ∧ (s.mu 0).winBusy i.num = true)
    ∧ (let i : TInstr := { ti 8 0 with sq := 15 }
       let s : State := { tq 0 i with mus := [(0, { m0 with accepted := [win0] })] }
       s.headReady 0 8 (iss i) ∧ (s.mu 0).winBusy i.num = true) := by
  simp only [State.headReady]; decide +kernel
theorem witness_SlotsGrantAndComplete :
    (let r : Run := { iss := iss { ti 1 0 with slot := true }, id := 1 }
     let s : State := { rdy with tus := [(0, { running := [r] })], mus := [(0, { slotQ := [(255, 1, true)] })] }
     s.acts 0 = true ∧ (s.tu 0).stopped = false
       ∧ (s.mu 0).slotQ.find? (fun e => e.1 == 255 && ((s.mu 0).slot 255).mayStart e.2.2) = some (255, 1, true)
       ∧ (s.tu 0).running.find? (fun r => r.id == 1) = some r)
    ∧ (let s := tr 0 { iss := iss (ti 3 0), id := 1, finished := true }
       s.acts 0 = true ∧ (s.tu 0).running = [{ iss := iss (ti 3 0), id := 1, finished := true }]
         ∧ s.mayComplete 0 { iss := iss (ti 3 0), id := 1, finished := true } = true ∧ (iss (ti 3 0)).chain = none ∧ (ti 3 0).op ≠ 0x60) := by decide +kernel

/-- The data movement instructions of MU0: `ST.W` takes a stream on channel 0. -/
def moves : List (Nat × TInstr) := [(0x01, { ti 1 0 with da := 2, dc := 0 }), (0x02, { ti 2 0 with dc := 0, sq := 2 ^ 8 }), (0x03, { ti 3 0 with da := 2 }),
  (0x09, { ti 9 0 with da := 2, dc := 0 }), (0x0A, { ti 0xA 0 with da := 0 }), (0x04, { ti 4 0 with da := 2, dc := 0 })]

/-- Circuits from and to both channels of local unit 0, and of the unit itself. -/
def wired (s : State) : State := { s with sws := [(0, { circ := [(0, { src := 8, valid := true, tos := [some 9] }), (1, { src := 9, valid := true, tos := [some 8] })] })] }

theorem witness_MovementInstructionsIssue : ∀ e ∈ moves,
    (wired (tq 0 e.2)).headReady 0 e.1 (iss e.2) ∧ (wired (tq 0 e.2)).moveBad 0 (iss e.2) = none
      ∧ ((wired (tq 0 e.2)).freeGens 0 (muNeeds e.2).reads (muNeeds e.2).writes).isSome = true ∧ (wired (tq 0 e.2)).xposeTaken 0 = false
      ∧ ((wired (tq 0 e.2)).mu 0).xf.active = false := by
  simp only [State.headReady]; decide +kernel
theorem witness_MovementInstructionsCarryOut :
    (let r := run { ti 1 0 with da := 0, sq := 2 ^ 10, count := 65535 } 2
     (tr 0 r).inTurn 0 1 r ∧ r.iss.i.slot = false ∧ r.phase = 2 ∧ r.iss.i.dc = 0xFFFF ∧ r.iss.i.count ≠ 0)
    ∧ (let r := run { ti 9 0 with da := 2, dc := 0, count := 1 } 2
       (tr 0 r).inTurn 0 9 r ∧ (r.legs r.iss.i.dc r.sideC true).any (·.ext) = false
         ∧ (tr 0 r).wakeLegs 0 (r.legs r.iss.i.dc r.sideC true) = none)
    ∧ (let r : Run := { run { ti 1 0 with da := 2, dc := 0, count := 1, slot := true } 2 with slotGranted := true, slotLen := 2 }
       (tr 0 r).inTurn 0 1 r ∧ r.slotGranted = true ∧ r.phase = 2 ∧ r.iss.i.dc ≠ 0xFFFF ∧ (r.legs r.iss.i.dc r.sideC true).any (·.ext) = false
         ∧ (tr 0 r).wakeLegs 0 (r.legs r.iss.i.dc r.sideC true) = none)
    ∧ (let r := run { ti 2 0 with dc := 0, sq := 2 ^ 8, count := 1 } 2
       (tr 0 r).inTurn 0 2 r ∧ (r.legs r.iss.i.dc r.sideC false).any (·.ext) = false
         ∧ (tr 0 r).wakeLegs 0 (r.legs r.iss.i.dc r.sideC false) = none)
    ∧ (let r := run { ti 3 0 with da := 2, count := 1 } 1
       (tr 0 r).inTurn 0 3 r ∧ (tr 0 r).pushRun 0 r .plain (r.desc r.iss.i.da).limit = none ∧ r.reqs.all (·.done) = true)
    ∧ (let r := run { ti 4 0 with da := 2, dc := 0, count := 1 } 1
       let s : State := { tr 0 r with mus := [(0, { m0 with xf := { active := true, watermark := 1 } })] }
       s.inTurn 0 4 r ∧ r.reqs = [] ∧ (s.mu 0).xf.faultWait = false ∧ r.xferRows.length ≤ (s.mu 0).xf.watermark ∧ r.iss.i.slot = false ∧ r.iss.i.count ≠ 0) := by
  simp only [State.inTurn]; decide +kernel
theorem witness_CommonTensorInstructions :
    ((tq 16 (ti 0x70 2)).headReady 16 0x70 (iss (ti 0x70 2)) ∧ ((tq 16 (ti 0x70 2)).tu 16).running = [])
    ∧ (let i : TInstr := { ti 0x71 0 with count := 1024, sq := 2 ^ 10 }
       let s := wired (tq 0 i)
       s.headReady 0 0x71 (iss i) ∧ i.da = 0xFFFF ∧ (s.tu 0).running = [] ∧ i.sout = 1 ∧ epochOk (i.count % 4096) (s.cl 0).quietEpoch = true
         ∧ ((s.sw 0).circFrom (chanPort (localOf 0) 0)).isSome = true)
    ∧ (let i : TInstr := { ti 0x60 5 with par := 256 }
       let p : BitVec 256 := 1 + 5 * 2 ^ 21
       let s : State := { rdy with tus := [(0, { tim := [(5, encodeTensor { ti 1 0 with da := 2, dc := 0 }), (256, 1 + 5 * 2 ^ 21)], iq := [iss i] })] }
       s.headReady 0 0x60 (iss i) ∧ i.count = 0 ∧ (s.tu 0).recordAt 256 = p ∧ chainRecOk p = true ∧ chainOk 0 ((chainEntries p).map (s.chainStage 0)) = true
         ∧ ((chainEntries p).map (s.chainStage 0)).any (fun e => e.2.2.2) = false
         ∧ (chainLanes ((chainEntries p).map (s.chainStage 0))).length ≤ ((upto 0 4).filter (fun n => !((s.sw 0).lanes.any (fun e => e.1 == n)))).length)
    ∧ (let r : Run := { run (ti 0x60 5) 1 with prm := 1 + 5 * 2 ^ 21 }
       let s : State := { rdy with tus := [(0, { tim := [(5, encodeTensor { ti 1 0 with da := 2, dc := 0 })], running := [r], nextId := 2 })] }
       let sr := (chainEntries r.prm).map (s.chainStage 0)
       s.inTurn 0 0x60 r ∧ r.phase = 1 ∧ chainOk 0 sr = true ∧ sr.any (fun e => e.2.2.2) = false ∧ (∀ e ∈ sr, (s.issueQ 0 e.1).length < 8) ∧ sr.length = 1)
    ∧ (let r := run { ti 0x50 4 with da := 0 }
       let full := List.replicate 7 { msg := { unit := 21, queue := 0, sender := 16, ctx := 0 }, scu := 20 }
       let s : State := { rdy with tus := [(16, { running := [r], send := full })], mus := [(4, m0)] }
       s.inTurn 16 0x50 r ∧ s.myTurn 16 r = true ∧ (s.mu (homeMu 16)).walkAsleep (r.desc r.iss.i.da) 0 = 0 ∧ (s.tu 16).send.length < 8
         ∧ (s.readPlain (homeMu 16) (r.desc r.iss.i.da) 0).2.1.any (fun x => x.any (·.fog)) = false) := by
  simp only [State.headReady, State.inTurn]; decide +kernel

/-! ### Matrix and vector units -/

theorem witness_IntegerConversionSaturates : ∀ f ∈ [0x08, 0x09, 0x0A, 0x0B, 0x0C], fmtInt f = true := by decide

theorem witness_MatrixInstructionsBind : ∀ op ∈ [0x20, 0x21, 0x22, 0x23],
    let i := ti op 1
    (tq 12 i).headReady 12 op (iss i) ∧ i.sin = 0 ∧ i.sout = 0
      ∧ ((tq 12 i).tu 12).running.any (fun q => decide (0x20 ≤ q.iss.i.op) && decide (q.iss.i.op ≤ 0x23) && q.phase == 0) = false := by
  simp only [State.headReady]; decide +kernel
theorem witness_MatrixInstructionsRun :
    (let i : TInstr := { ti 0x20 1 with da := 5, db := 5 }
     let r := run i
     let s := tr 12 r
     let x := mmOf 0x20 r.prm
     let m := s.mu (homeMu 12)
     let ds := [x.x1, x.x1 + 1, x.x2, x.x2 + 1, x.pipDesc, (epiOf ((s.tu 12).recordAt x.epiRec)).pipDesc]
     let q : Run := { r with latch := m.latchMore (m.latchOf i) ds }
     s.acts 12 = true ∧ (s.tu 12).stopped = false ∧ (s.tu 12).running = [r]
       ∧ ({ s with tus := tabSet s.tus 12 { s.tu 12 with running := [] } } : State).mmBad 12 r.iss q x = none
       ∧ [0, 1].find? (fun k => ((s.mcu 12).slots.getD k none).isNone) = some 0 ∧ (s.mcu 12).epiQ = []
       ∧ ({ s with tus := tabSet s.tus 12 { s.tu 12 with running := [] } } : State).xposeTaken 0 = false
       ∧ s.homeGens 12 (x.readsHome q) (x.fuse && (x.writesHome q || (epiOf ((s.tu 12).recordAt x.epiRec)).pipOut)) = some [0])
    ∧ (let r : Run := { run { ti 0x24 1 with count := 1 } with prm := 32 * 2 ^ 128 + 33 * 2 ^ 152 }
       (tr 12 r).inTurn 12 0x24 r ∧ r.phase = 0 ∧ r.iss.i.count ≠ 0 ∧ ((tr 12 r).tu 12).running = [r] ∧ tilesOf (epiOf r.prm).em * tilesOf (epiOf r.prm).en = 2)
    ∧ (let s : State := { tr 12 (run (ti 0x24 1) 1) with mcus := [(12, { epiQ := [{ id := 1, tile := 0, row := 0, col := 0, index := 0, lastOfRun := true, last := true }] })] }
       let e := s.epiOfRun 12 (run (ti 0x24 1) 1)
       s.acts 12 = true ∧ (s.tu 12).stopped = false ∧ s.runOf 12 1 = some (run (ti 0x24 1) 1) ∧ e.hasScale = false ∧ e.hasBias = false ∧ e.pipOut = false ∧ (s.mcu 12).accBad = []) := by
  simp only [State.inTurn]; decide +kernel
theorem witness_MatrixQuantum :
    let i : TInstr := { ti 0x20 1 with da := 5, db := 5, count := 1 }
    let s : State := { tr 12 (run i 1) with mcus := [(12, { f0 := some { id := 1, order := 0 }, bindCount := 1 })] }
    s.acts 12 = true ∧ (s.tu 12).stopped = false
      ∧ (match s.firstStep (fun s b => s.boundStep 12 b.1 b.2) ((s.mcu 12).boundOrder.filter (fun b => s.eligibleBound 12 b.2)) with | .did _ => true | _ => false)
        = true := by decide +kernel

/-- Descriptor 6, 32 rows of 32 FP32 elements, in the home MU of unit 12; descriptor 8 is of the same with E4M3 elements and a scale of each
32. -/
def m1 : Mu := { desc := [(6, BitVec.ofNat 512 (0x5000 + 2 * 2 ^ 40 + 2 ^ 46 + 32 * 2 ^ 61 + 32 * 2 ^ 85 + 4 * 2 ^ 205 + 128 * 2 ^ 237 + 63 * 2 ^ 445)),
  (8, BitVec.ofNat 512 (0x7000 + 0x23 * 2 ^ 32 + 2 * 2 ^ 40 + 2 ^ 46 + 32 * 2 ^ 61 + 32 * 2 ^ 85 + 2 ^ 205 + 32 * 2 ^ 237 + 63 * 2 ^ 445))] }
/-- An epilogue of one tile, to memory and to the stream output. -/
def epiTo (dc sq : Nat) : TInstr := { ti 0x24 1 with dc := dc, sq := sq, par := 256, count := 1 }

theorem witness_EpilogueIssues : ∀ i ∈ [epiTo 6 0, epiTo 0xFFFF (2 ^ 10)],
    let s : State := { tq 12 i 0 (32 + 32 * 2 ^ 24) with mus := [(0, m1)], sws := [(0, { circ := [(0, { src := 32, valid := true, tos := [some 33] })] })] }
    let e := epiOf ((s.tu 12).recordAt i.par)
    s.headReady 12 0x24 (iss i) ∧ tilesOf e.em * tilesOf e.en = 1 ∧ s.epiBad (homeMu 12) e i 1 (tilesOf e.en) = none ∧ e.ebase + 1 ≤ 32
      ∧ (iss i).chain = none ∧ ((i.dc ≠ 0xFFFF ∧ i.sout = 0) ∨ (i.dc = 0xFFFF ∧ i.sout ≠ 0 ∧ s.chanOk 12 i.sout true = true))
      ∧ (s.homeGens 12 false (i.dc != 0xFFFF || e.pipOut)).isSome = true ∧ (∀ x ∈ (s.tu 12).running, x.iss.i.op ≠ 0x24) := by
  simp only [State.headReady]; decide +kernel
theorem witness_EpilogueTile_memory : ∀ last ∈ [false, true], ∀ dc ∈ [6, 8],
    let q : EpiTile := { id := 1, tile := 31, row := 0, col := 0, index := 0, lastOfRun := last, last := last }
    let r : Run := { iss := iss (epiTo dc 0), id := 1, latch := m1.latchOf (epiTo dc 0), phase := 1, prm := 32 * 2 ^ 128 + 32 * 2 ^ 152 }
    let s : State := { rdy with tus := [(12, { running := [r], nextId := 2 })], mus := [(0, m1)], mcus := [(12, { epiQ := [q] })] }
    let e := s.epiOfRun 12 r
    s.acts 12 = true ∧ (s.tu 12).stopped = false ∧ (s.mcu 12).epiQ = q :: [] ∧ s.runOf 12 q.id = some r ∧ r.iss.i.dc ≠ 0xFFFF
      ∧ e.hasScale = false ∧ e.hasBias = false ∧ e.pipOut = false ∧ q.lastOfRun = last ∧ (r.desc r.iss.i.dc).scaled = (dc == 8)
      ∧ (s.mu (homeMu 12)).runsAsleep (r.desc r.iss.i.dc) (r.comp r.iss.i.dc) (upto (q.index * 32) 32) = 0 := by decide +kernel
theorem witness_VectorInstructionsCompute_run :
    (∀ op ∈ [0x30, 0x31],
      let r := run { ti op 2 with da := 0, dc := 1, count := 1 }
      let s := tr 16 r
      let v := vrOf r.prm
      let left := (v.plan (op == 0x31) (r.desc 0)).length - r.pos
      s.inTurn 16 op r ∧ (s.tu 16).running = [r] ∧ r.iss.i.count ≠ 0 ∧ r.iss.i.da ≠ 0xFFFF ∧ v.readsS = false ∧ v.planes (op == 0x31) = false
        ∧ r.vecAsleep (s.mu (homeMu 16)) ([0, 0xFFFF, 1] ++ []) = 0 ∧ 0 < partSize r.pos left v.audit true)
    ∧ (∀ op ∈ [0x30, 0x31, 0x32], let r := run { ti op 2 with da := 0, dc := 1 }
      (tr 16 r).inTurn 16 op r ∧ ((tr 16 r).tu 16).running = [r] ∧ r.iss.i.count = 0 ∧ r.iss.i.dc ≠ 0xFFFF)
    ∧ (let r : Run := { run { ti 0x32 2 with da := 0, db := 1, dc := 3, count := 1 } with prm := 1 + 4 * 1024 }
       (tr 16 r).inTurn 16 0x32 r ∧ ((tr 16 r).tu 16).running = [r] ∧ r.vecAsleep m0 [0, 1, 3, eOut r.prm, sOut r.prm] = 0) := by
  simp only [State.inTurn]; decide +kernel
theorem witness_VectorInstructionsCompute :
    (let i : TInstr := { ti 0x30 2 with da := 0, dc := 1 }
     let s := tq 16 i
     s.headReady 16 0x30 (iss i) ∧ s.vecBad 16 (iss i) (vrOf ((s.tu 16).recordAt 0xFFFF)) false = none
       ∧ s.xposeTaken (homeMu 16) = false ∧ (s.tu 16).running = [] ∧ (s.homeGens 16 true true).isSome = true)
    ∧ (let i : TInstr := { ti 0x31 2 with da := 0, dc := 4, par := 256 }
       (tq 16 i 0 (2 ^ 66)).headReady 16 0x31 (iss i) ∧ (tq 16 i 0 (2 ^ 66)).vecBad 16 (iss i) (vrOf (((tq 16 i 0 (2 ^ 66)).tu 16).recordAt 256)) true = none)
    ∧ (let i : TInstr := { ti 0x32 2 with da := 0, db := 1, dc := 3, par := 256 }
       let s := tq 16 i (1 + 4 * 1024)
       s.headReady 16 0x32 (iss i) ∧ s.signBad 16 (iss i) ((s.tu 16).recordAt 256) = none ∧ (s.homeGens 16 true true).isSome = true) := by
  simp only [State.headReady]; decide +kernel

/-! ### Stream fabric, steering and spill -/

/-- Switch 0 with circuits to and from every port of steering element 7, and control circuit 64 to its predicate port. -/
def steered : Sw := { circ := [(0, { src := 62, valid := true, tos := [some 62, some 63] }), (1, { src := 63, valid := true }), (64, { src := 64, valid := true, tos := [some 79] })] }

theorem witness_SteeringConfigures :
    (∀ op ∈ [0x40, 0x41, 0x42, 0x43, 0x44, 0x45, 0x46],
      let h := iss { ti op 3 with sq := 7, count := if 0x45 ≤ op then 1 else 0 }
      rdy.acts 24 = true ∧ fieldsOk 24 h.i = true ∧ steerPorts steered (h.i.sq % 8) (op - 0x40) = true ∧ (0x45 ≤ op → h.i.count ≠ 0)
        ∧ (tabGet ({} : Elem) steered.elems (h.i.sq % 8)).next = none)
    ∧ (let w : Sw := { steered with elems := [(7, { next := some ({ kind := 1 }, iss (ti 0x41 3)) })] }
       (tabGet ({} : Elem) w.elems 7).next = some ({ kind := 1 }, iss (ti 0x41 3)) ∧ w.idleElem 7 = true
         ∧ ({ rdy with sws := [(0, w)] } : State).ctlSpilled 0 7 = false)
    ∧ (∀ kind ∈ [1, 2, 3, 4],
      let w : Sw := { steered with elems := [(7, { cfg := { kind := kind }, looping := kind == 4 })], ctl := [(0, [kind != 4, false])] }
      let x := tabGet ({} : Elem) w.elems 7
      (kind = 4 → x.looping = true) ∧ x.bit = none ∧ x.inTensor = false ∧ x.conf0 = 0 ∧ x.conf1 = 0 ∧ w.inHead 7 0 = none ∧ w.inHead 7 1 = none ∧ w.ctlOf 7 = some 0 ∧ tabGet [] w.ctl 0 = (kind != 4) :: [false]
        ∧ newer (tabGet 0 w.circEpoch (64 + 0)) (tabGet ({} : Elem) w.elems 7).epoch = false) := by decide +kernel
theorem witness_StreamTransfers :
    (let f : Flit := { tag := some { head := 0, id := 1, stage := 1, lane := true } }
     let s : State := { rdy with tus := [(0, { outq0 := [{}], hand := List.replicate 15 f })], sws := [(0, { steered with lanes := [(3, { dst := 0, flits := [f] })] })] }
     let x := tabGet ({} : Lane) (s.sw 0).lanes 3
     let q := chanRef x.dst (s.laneChan 0 x.dst)
     s.acts 24 = true ∧ (s.tu (gidOf 0 0)).outq0 = {} :: [] ∧ x.flits = f :: [] ∧ laneFlit f = true ∧ x.dst < 20
       ∧ (s.sw 0).spilling (queueNum q) = false ∧ (s.queueItems 0 q).length = 15)
    ∧ (let s : State := { rdy with scus := [(20, { pport0 := [true] })], sws := [(0, { steered with ctl := [(0, List.replicate 15 false)] })] }
       s.acts 24 = true ∧ (s.scu (gidOf 0 (20 + 0))).pport0 = true :: [] ∧ (s.sw 0).ctlFrom (64 + 2 * 0) = some 0 ∧ s.canTake 0 (ctlRef 0) = true) := by
  decide +kernel
theorem witness_FoghornStalls :
    ((inSec rdy).sector 0 = some sec0 ∧ (inSec rdy).phase = .ready ∧ ((inSec rdy).sf 0).starvedNow = false
      ∧ ∀ e ∈ (inSec rdy).sws, inRegion sec0.region e.1 = true → (inSec rdy).fullQueues e.1 = [])
    ∧ (let s : State := { inSec rdy with sws := [(65, { circ := [(79, { src := 64, valid := true })], ctl := [(15, List.replicate 16 true)] })], scus := [(2100, { pport0 := [true] })] }
       ∃ e ∈ s.sws, inRegion sec0.region e.1 = true ∧ s.fullQueues e.1 ≠ []) := by decide +kernel

/-- Control buffer 15 of cluster 0 in spill mode, with what the ring holds and what waits. -/
def spilled (ring : List SpillRec) (waiting : List Flit) : State :=
  { inSec (owned rdy) with sws := [(0, { spill := [119], waiting := [(119, waiting)] })], sfs := [(0, { size := 0, ring := ring })] }

theorem witness_SpillRecords :
    (spilled [] [{}]).acts 24 = true ∧ (spilled [] [{}]).retrains = false ∧ (spilled [] [{}]).spillOwner 0 = some (0, 5)
    ∧ (tabGet [] ((spilled [] [{}]).sw 0).waiting (queueNum (.ctl 15)) = {} :: [] ∧ ((spilled [] [{}]).sf 0).hasRoom = true)
    ∧ (((spilled [] []).sw 0).spilling (queueNum (.ctl 15)) = true ∧ ((spilled [] []).sf 0).ofQueue 0 (.ctl 15) = []
        ∧ tabGet [] ((spilled [] []).sw 0).waiting (queueNum (.ctl 15)) = [])
    ∧ (let z : SpillRec := { cluster := 0, q := .ctl 15, flit := {}, ctx := 5 }
       let h := (spilled [z] []).hbmRead { unit := gidOf 0 24, ctx := some 5 } (((spilled [z] []).sf 0).addrOf z.pos) 256
       ((spilled [z] []).sf 0).ofQueue 0 (.ctl 15) = [z] ∧ z.bad = false ∧ h.2.2.any id = false ∧ tabGet 0 ((spilled [z] []).sw 0).readAhead (queueNum (.ctl 15)) = 0
         ∧ ((spilled [z] []).queueItems 0 (.ctl 15)).length < queueCap (.ctl 15)) := by decide +kernel
/-- The ring of code 0 holds 65,536 records. -/
theorem witness_SpillRecords_full :
    let s := spilled (List.replicate 65536 { cluster := 0, q := .ctl 15, flit := {}, ctx := 5 }) [{}]
    (s.sf 0).hasRoom = false ∧ (s.sf 0).cap ≤ (s.sf 0).ring.length ∧ s.ownerOf 0 = some 5 ∧ s.ctx 5 = some { sector := 0, port := 0, fn := 0 } := by
  refine ⟨rfl, ?_, rfl, rfl⟩
  show 65536 ≤ (List.replicate 65536 _).length
  rw [List.length_replicate]

/-! ### Mesh, messages and groups -/

/-- A message for queue 63 of SCU0 of cluster 0, and the packet that brings it. -/
def msg0 : Msg := { unit := 20, queue := 63, payload := [1, 2, 3, 4, 5, 6, 7, 8], sender := 53, ctx := 5 }
def pkt (b : Body) : Packet := { dest := 20, cls := 1, src := 53, ctx := 5, body := b }

/-- Cluster 0 with the packet in its router's box, behind one for its window 15, and queue 63 of SCU0 as given. -/
def boxed (b : Body) (k : Queue := { mode := .register, opened := true }) : State :=
  { owned rdy with rts := [(0, { inbox := [pkt (.windowWrite 15 0 0 1 [1] [] false 1), pkt b] })], scus := [(20, { queues := [(63, k)] })] }

/-- A queue that accepts the message, one that is closed, one that is full, and one that admits another context. -/
theorem witness_MessagesTravel_arrival :
    (∀ e ∈ [(({ mode := .register, opened := true, entries := List.replicate 31 ⟨0, 0, false⟩ } : Queue), MsgOutcome.accepted), ({ mode := .register }, .refused stQueueClosed),
        ({ mode := .register, opened := true, entries := List.replicate 32 ⟨0, 0, false⟩ }, .held),
        ({ mode := .ring, size := 1, wp := 4080, base := 0x1000, opened := true }, .accepted)],
      let s := boxed (.message msg0) e.1
      let w := pkt (.windowWrite 15 0 0 1 [1] [] false 1)
      s.acts 20 = true ∧ (s.scu 20).frozen = false ∧ (s.rt 0).inbox = [w] ++ pkt (.message msg0) :: [] ∧ w.isMessage 20 = false ∧ msg0.unit = 20
        ∧ s.ctxFailed msg0.ctx = false ∧ (s.mu (homeMu 20)).zeroizing = false ∧ (s.mu (homeMu 20)).asleepAll (s.acceptRanges 20 msg0) = 0
        ∧ ((s.scu 20).queue msg0.queue).check (s.ownerOf 0) msg0 = e.2)
    ∧ (let s := boxed (.message { msg0 with ctx := 6 })
       ((s.scu 20).queue 63).check (s.ownerOf 0) { msg0 with ctx := 6 } = .senderFails stContextFault 0x07 ∧ s.ctxFailed 6 = false
         ∧ (s.mu (homeMu 20)).asleepAll (s.acceptRanges 20 { msg0 with ctx := 6 }) = 0) := by decide +kernel
theorem witness_MessagesTravel :
    (rdy.phase = .ready ∧ rdy.logWaits 25 = false ∧ ∀ x ∈ [0, 63], ∀ y ∈ [0, 33], (rdy.logicalAt x y).all (fun k => !rdy.logWaits (gidOf k 25)) = true)
    ∧ (let s : State := { rdy with tus := [(19, { send := [{ msg := msg0, state := .held, scu := 20 }] })] }
       s.acts 19 = true ∧ (s.sendBuf (senderGid ⟨0, 19⟩))[0]? = some { msg := msg0, state := .held, scu := 20 })
    ∧ (let s := boxed (.outcome 63 21 stOK false)
       let w := pkt (.windowWrite 15 0 0 1 [1] [] false 1)
       s.acts (senderGid ⟨0, 20⟩) = true ∧ (s.rt 0).inbox = [w] ++ pkt (.outcome 63 21 stOK false) :: [] ∧ w.isOutcome 20 = false
         ∧ (pkt (.outcome 63 21 stOK false)).dest = senderGid ⟨0, 20⟩ ∧ s.ownerOf 0 = some (pkt (.outcome 63 21 stOK false)).ctx)
    ∧ (let r : HeldResult := { payload := [0, 0, 0, 0], fog := false, sender := 53, ctx := 5 }
       let s : State := { rdy with scus := [(20, { queues := [(63, { mode := .combining, size := 1, result := some r })] })] }
       let l := ((s.scu 20).queue 63).placeRanges (16 + r.payload.length)
       s.acts 20 = true ∧ (s.scu 20).frozen = false ∧ (s.mu (homeMu 20)).zeroizing = false ∧ ((s.scu 20).queue 63).result = some r ∧ l ≠ []
         ∧ (s.mu (homeMu 20)).asleepAll l = 0) := by decide +kernel

/-- Group 17: valid, owned by context 5, with root in cluster 0 or 1, one root slot, two contributions of 32 FP32 elements, and clusters 0
and 1 as members. -/
def grp0 (root : Nat) (valid : Bool := true) : Grp :=
  { ctl := BitVec.ofNat 64 (b2n valid + 5 * 2 ^ 7 + root * 2 ^ 19 + 2 ^ 30 + 2 * 2 ^ 36 + 32 * 2 ^ 48), members := [0, 1] }

/-- Cluster 0 with a packet behind a message and one slot in its router. -/
def merging (root : Nat) (valid : Bool) (b : Body) (slot : Comb) : State :=
  { rdy with groups := [(17, grp0 root valid)], rts := [(0, { inbox := [pkt (.message msg0), pkt b], slots := [(63, slot)] })] }

def share0 : Body := .contribution 17 0 0 0 [0] false
def slot0 (root : Bool) : Comb := { g := 17, round := 0, blk := 0, accs := [{}], count := 0, root := root }

theorem witness_GroupShares_contrib :
    let r := run { ti 0xA 0 with da := 0, count := 1 }
    let late : Run := { r with prm := 32767 * 2 ^ 128 }
    let k : Ctx := { sector := 0, port := 0, fn := 0, binds := [(0, 17)] }
    let s : State := { owned (tr 0 r) with ctxs := [(5, k)], groups := [(17, grp0 1)] }
    let t : State := { owned (tr 0 late) with ctxs := [(5, k)], rts := [(0, { rounds := [(17, 65535)] })] }
    s.inTurn 0 0xA r ∧ tabGet 256 k.binds r.iss.i.num = 17 ∧ (recFld r.prm 143 128 + r.run) % 65536 = tabGet 0 (s.rt 0).rounds 17 % 65536
      ∧ s.wakeLegs 0 [⟨r.desc r.iss.i.da, 0, false, none⟩] = none ∧ (s.grp 17).valid = true ∧ (s.grp 17).owner = r.iss.ctx ∧ (s.grp 17).members.contains 0 = true
      ∧ (s.grp 17).rslots ≠ 0 ∧ (r.desc r.iss.i.da).count ≠ 0 ∧ contribFmtOk (r.desc r.iss.i.da).code (s.grp 17).ofmt = true
      ∧ recFld r.prm 153 144 + ceilDiv (r.desc r.iss.i.da).count 16 ≤ ceilDiv (s.grp 17).elems 16 ∧ r.iss.i.count ≠ 0
      ∧ t.inTurn 0 0xA late ∧ 32768 ≤ ((recFld late.prm 143 128 + late.run) % 65536 + 65536 - tabGet 0 (t.rt 0).rounds 17 % 65536) % 65536
      ∧ t.ctx 5 = some k := by
  simp only [State.inTurn]; decide +kernel
theorem witness_GroupShares_flush :
    let s := merging 1 true share0 (slot0 false)
    s.routing 0 = true ∧ tabFind (s.rt 0).slots 63 = some (slot0 false) ∧ (slot0 false).root = false := by decide +kernel
/-- A share of a freed group, one with a slot of its own, and one that takes a free slot. -/
theorem witness_GroupShares_merge :
    (∀ e ∈ [(false, share0), (true, share0), (true, .contribution 17 0 1 0 [0] false)],
      let s := merging 1 e.1 e.2 (slot0 false)
      let v := s.rt 0
      s.routing 0 = true ∧ v.inbox = [pkt (.message msg0)] ++ pkt e.2 :: [] ∧ (shareOf (pkt e.2)).map (fun x => (x.g, x.round)) = some (17, 0)
        ∧ v.tblBad = false ∧ mergesAt s 0 false (pkt (.message msg0)) = false ∧ mergesAt s 0 false (pkt e.2) = true ∧ (s.grp 17).valid = e.1
        ∧ (pkt e.2).ctx = (s.grp 17).owner)
    ∧ (let s := merging 1 true share0 (slot0 false)
       (s.rt 0).slotOf false 17 0 0 = some 63 ∧ (s.rt 0).slotOf false 17 0 1 = none ∧ (s.rt 0).transit < 64 - s.reservedSlots 0
         ∧ (s.rt 0).freeSlot = some 0) := by decide +kernel
/-- A share at the root, at 0, 1 and 2 earlier contributions of a group of two, and one of another round. -/
theorem witness_GroupShares_root :
    (∀ n ∈ [0, 1, 2],
      let s := merging 0 true share0 { slot0 true with count := n }
      let v := s.rt 0
      s.routing 0 = true ∧ v.inbox = [pkt (.message msg0)] ++ pkt share0 :: [] ∧ v.tblBad = false ∧ (∀ y ∈ v.inbox, y.isWriteAck (gidOf 0 25) = false)
        ∧ mergesAt s 0 true (pkt (.message msg0)) = false ∧ mergesAt s 0 true (pkt share0) = true ∧ v.slotOf true 17 0 0 = some 63
        ∧ (s.grp 17).round = 0 ∧ (s.grp 17).contribs = 2 ∧ (pkt share0).ctx = (s.grp 17).owner
        ∧ (match shareOf (pkt share0) with
            | some x => (tabFind (v.fill 63 true (fmtInt (s.grp 17).ofmt) s.time x).slots 63).map (·.count) | none => none) = some (n + 1))
    ∧ (let s := merging 0 true (.contribution 17 1 0 0 [0] false) (slot0 true)
       mergesAt s 0 true (pkt (.contribution 17 1 0 0 [0] false)) = true ∧ (s.rt 0).slotOf true 17 1 0 = none ∧ (s.rt 0).freeSlot = some 0 ∧ (s.grp 17).round ≠ 1) := by
  decide +kernel
/-- An advance of a freed group, of one whose owner is gone, and of one whose owner is there. -/
theorem witness_GroupShares_advance :
    ∀ e ∈ [(false, none), (true, none), (true, some ({ sector := 0, port := 0, fn := 0, scans := [(0, scan0 0 5)] } : Ctx))],
      let s : State := { merging 0 e.1 (.roundAdvance 17 65535) (slot0 true) with ctxs := (e.2.map (fun x => (5, x))).toList }
      s.routing 0 = true ∧ (s.rt 0).inbox = [pkt (.message msg0)] ++ pkt (.roundAdvance 17 65535) :: [] ∧ (pkt (.message msg0)).isAdvance = false
        ∧ (s.grp 17).valid = e.1 ∧ (s.grp 17).owner = 5 ∧ s.ctx 5 = e.2 := by decide +kernel

/-! ### Reconfiguration and scan -/

theorem witness_ReconfiguresAndMarks :
    (let img : Staged := { crc := 0, store := 1, secs := [] }
     let s : State := { inSec rdy with cls := [(0, { staged1 := some img }), (1, { staged1 := some img }), (64, { staged1 := some img }), (65, { staged1 := some img })] }
     s.sector 0 = some sec0 ∧ sec0.holds sec0.region = true ∧ (regionClusters sec0.region).all s.atBoundary = true
       ∧ (s.stagedIn (regionClusters sec0.region) 1).isSome = true)
    ∧ (let s : State := { inSec rdy with cls := [(65, { epoch := 512 })] }
       sec0.holds sec0.region = true ∧ (regionClusters sec0.region).all s.drainable = true ∧ (regionClusters sec0.region).all (s.quiet (regionClusters sec0.region)) = true
         ∧ (s.newestEpoch (regionClusters sec0.region) + 4096 - (s.cl ((regionClusters sec0.region).headD 0)).quietEpoch % 4096) % 4096 = 512)
    ∧ (let s : State := { rdy with sws := [(0, { nextTab := [(7, (1, [0]))], circEpoch := [(63, 1)] })] }
       s.acts 24 = true ∧ tabFind (s.sw 0).nextTab (2 * 3 + 1) = some (1, [0]) ∧ s.hasPassed 0 63 3 1 = true)
    ∧ (let f : Flit := { bytes := toBytes 128 2047, kind := .daymark }
       let s : State := { rdy with sws := [(0, { bufs := [(63, [f])] })], tus := [(19, { inq0 := [f] })] }
       s.acts 24 = true ∧ s.acts 19 = true ∧ tabGet [] (s.sw 0).bufs 63 = f :: [] ∧ f.kind = .daymark ∧ f.sideBad = false ∧ f.settle.fogged = false ∧ f.dmEpoch ≠ tabGet 0 (s.sw 0).circEpoch 63
         ∧ newer (tabGet 0 (s.sw 0).circEpoch 63) f.dmEpoch = true ∧ (s.tu (tuGid ⟨0, 19⟩)).inq 0 = f :: [] ∧ (s.tu (tuGid ⟨0, 19⟩)).conf0 = 0
         ∧ newer (s.tu (tuGid ⟨0, 19⟩)).epoch f.dmEpoch = true ∧ (s.tu (tuGid ⟨0, 19⟩)).running = []) := by decide +kernel
theorem witness_ScanOperations :
    (((rdy.scanCtl 0 0).cl 0).scan = .running ∧ ((rdy.scanCtl 0 0).cl 0).loading = false)
    ∧ (let s : State := { rdy with cls := [(0, { scan := .freezing })], tus := (upto 0 20).map (fun k => (k, { stopped := true })) }
       (s.cl 0).scan = .freezing ∧ ∀ k < 20, (s.tu (gidOf 0 k)).stopped = true)
    ∧ (let y : Ctx := { sector := 0, port := 0, fn := 0 }
       let s : State := { rdy with cls := [(0, { scan := .frozen, owner := some 5 })], ctxs := [(5, y)] }
       ((s.scanCtl 0 0).cl 0).scan = .frozen ∧ (s.scanCtl 0 0).parked 0 = false ∧ (s.scanCtl 0 0).ownerOf 0 = some 5 ∧ (s.scanCtl 0 0).ctx 5 = some y
         ∧ y.state ≠ .failed ∧ Memory.wf s.hbm.mem = true)
    ∧ (let s : State := { owned rdy .waiting with cls := [(0, { scan := .frozen, owner := some 5 })] }
       ((s.scanCtl 0 0).cl 0).scan = .frozen ∧ (s.scanCtl 0 0).parked 0 = true)
    ∧ ({ rdy with cls := [(0, { scan := .moving })] } : State).cl 0 = { scan := .moving } ∧ rdy.retrains = false ∧ Requester.fn ⟨0, 0⟩ ≠ .keeper := by decide +kernel

/-- Cluster 0 frozen, with an image at page 0 whose bytes stand there, or do not. -/
def scanned0 (i : ScanImg) (bytes : List Byte) : State :=
  { inSec rdy with
    cls := [(0, { scan := .frozen })], scanImgs := [(0, i)], hbm := { mem := memWrite [] 0 bytes }
    ctxs := [(5, { sector := 0, port := 0, fn := 0, program := true, images := [(1, { crc := 0, store := 1, secs := [] })] })] }
/-- What SCAN_IN finds at the page. -/
def found0 (s : State) : State := let a := s.scanCtl 0 0; a.setCl 0 { a.cl 0 with scan := .moving, pendingOp := 3 }

/-- An image of cluster 1 put into cluster 0 of the same sector; one whose bytes have changed; one of no sector and one of another
context; and the image that one without program parts names. -/
theorem witness_ScanOperations_in :
    (let i := scan0 1 5
     let s := scanned0 i i.bytes
     ((s.scanCtl 0 0).cl 0).scan = .frozen ∧ ((found0 s).scanAt 0 0).2 = some i ∧ i.crcBad = false
       ∧ ((found0 s).sectorOf i.cluster).isSome = true ∧ (found0 s).sectorOf i.cluster = (found0 s).sectorOf 0 ∧ i.context = 5)
    ∧ (((found0 (scanned0 (scan0 1 5) [])).scanAt 0 0).2 = some { scan0 1 5 with crcBad := true })
    ∧ ((found0 rdy).scanAt 0 0).2 = none
    ∧ (∀ i ∈ [scan0 2 5, scan0 1 6], ((found0 (scanned0 i i.bytes)).scanAt 0 0).2 = some i
        ∧ (((found0 (scanned0 i i.bytes)).sectorOf i.cluster).isSome = false ∨ i.context ≠ 5))
    ∧ (scan0 1 5 true).prog = true
    ∧ (let y : Ctx := { sector := 0, port := 0, fn := 0, images := [(1, { crc := 0, store := 1, secs := [] })] }
       (y.imageWith 1 (scan0 1 5).imageCrc).isSome = true) := by decide +kernel

/-! ### Registers, rings and commands -/

/-- A command entry: type, context, the field at bit 128 and the rest, with sequence 0. -/
def ent (type ctx w : Nat) (rest : Nat := 0) : BitVec 512 := BitVec.ofNat 512 (type + ctx * 2 ^ 16 + w * 2 ^ 128 + rest)

/-- Ring 15 of the PF of port 0 with fetched commands, and context 5 bound to that function. -/
def rung (cmds : List Cmd) (k : Ctx := { sector := 0, port := 0, fn := 0 }) : State :=
  { inSec rdy with fns := [(0, { rings := [(15, { enable := true, size := 1, t := 16, f := 1, cmds := cmds })] })], ports := [(0, { cxl := true })], ctxs := [(5, k)] }

theorem witness_AccessesCounted :
    let h : Held := { who := .keeper, addr := .mgmt 0, v := 0, write := false, since := 7 }
    (∀ w ∈ [false, true], ({ rdy with held := [{ h with write := w }] } : State).held[0]? = some { h with write := w })
      ∧ (({ rdy with vcus := [(65535 - 12, { flits := { signals := 1 } })] } : State).vcu (vcuGid ⟨2047, 3⟩)).flits.signals ≠ 0
      ∧ (rdy.vcu (vcuGid ⟨2047, 3⟩)).flits.signals = 0
      ∧ (({ rdy with hbm := { ctrls := [(19, { perfRd := { signals := 1 } })] } } : State).ctrl 19).perfRd.signals ≠ 0
      ∧ rdy.enumerated .keeper = true ∧ rdy.refused .keeper = none
      ∧ (let s : State := { rdy with ports := [(7, { cxl := true })], fns := [(1023, { tsp := true })] }
         s.enumerated (.fn ⟨7, 127⟩) = true ∧ s.refused (.fn ⟨7, 127⟩) = some 7)
      ∧ ({ count := 2 ^ 48 - 1 } : Perf).count < 2 ^ 48 ∧ (2 ^ 48 - 1) + 1 ≤ 2 ^ 48 := by decide +kernel
/-- The bounds of the cap, of the step and of the read pointer, and the injections' kinds. -/
theorem witness_KeeperRegisterWrites :
    rdy.phase = .ready ∧ (100 ≤ (100 : Word).toNat % 1024 ∧ (100 : Word).toNat % 1024 ≤ 680 ∧ (100 : Word).toNat / 1024 % 8 ≤ 4)
    ∧ (100 ≤ (4776 : Word).toNat % 1024 ∧ (4776 : Word).toNat % 1024 = 680 ∧ (4776 : Word).toNat / 1024 % 8 = 4)
    ∧ (let s : State := { rdy with err := { wr := 65536 } }
       (0 : Word).toNat ≤ s.err.wr ∧ s.err.wr ≤ (0 : Word).toNat + 65536 ∧ s.err.wr < (65537 : Word).toNat)
    ∧ rdy.sec.unlocked = false ∧ ({ rdy with sec := { unlocked := true } } : State).sec.unlocked = true
    ∧ (0x10000 : Word).toNat / 2 ^ 16 % 16 = 1 ∧ (0x4FFFF : Word).toNat / 2 ^ 16 % 16 = 4
    ∧ 128 ≤ 128 ∧ (([(3, 100)] : List (Nat × Nat)).foldl (fun a e => if e.1 = 3 then a else a + e.2) 0) + 128 ≤ 128
    ∧ 128 < (([(4, 100)] : List (Nat × Nat)).foldl (fun a e => if e.1 = 3 then a else a + e.2) 0) + 29 ∧ 128 < 129 := by decide
theorem witness_ClusterRegisterWrites : rdy.phase = .ready ∧ (∀ c : Fin 2048, (rdy.cl c.val).scan = .running ∧ (rdy.cl c.val).loading = false ∧ (rdy.cl c.val).retired = false
      ∧ rdy.swapping c.val = false) ∧ (List.replicate 7 (3 : Word)).length = 7 := ⟨rfl, fun _ => ⟨rfl, rfl, rfl, rfl⟩, rfl⟩
theorem witness_RingRegisters :
    let x : Ring := { enable := true, size := 1, d := 3 }
    let s : State := { rdy with fns := [(1023, { rings := [(15, x)] })], ports := [(7, { cxl := true, cacheEn := true })] }
    (s.port (7 : Fin 8).val).cxl = true ∧ s.refused (.fn ⟨7, 127⟩) = none ∧ s.phase ≠ .off ∧ s.ring (fnKey ⟨7, 127⟩) 15 = x
      ∧ (x.t < (19 : Word).toNat ∧ (19 : Word).toNat ≤ x.d + ringEntries x.size) ∧ (x.d + ringEntries x.size < (20 : Word).toNat ∧ x.t < (20 : Word).toNat)
      ∧ (x.h < (3 : Word).toNat ∧ (3 : Word).toNat ≤ x.d) ∧ (s.ring (fnKey ⟨7, 127⟩) 14).enable = false
      ∧ (0 : Word).toNat ≤ x.t ∧ (0 : Word).toNat ≤ x.h ∧ x.d < (4 : Word).toNat
      ∧ (List.replicate 16 (19 : Word)).length = 16 ∧ (s.port (7 : Fin 8).val).cacheEn = true ∧ (s.port 6).cacheEn = false := by decide +kernel
/-- The sequence of entry 0 is 0, so it is F only where F is 0. -/
theorem witness_CommandFetchChecksSequence :
    let s : State := { rdy with fns := [(0, { rings := [(15, { enable := true, size := 1, t := 16 })] })], ports := [(0, { cxl := true })] }
    let t : State := { rdy with fns := [(0, { rings := [(15, { enable := true, size := 1, t := 16, f := 15 })] })], ports := [(0, { cxl := true })] }
    s.mayFetch 0 15 = true ∧ t.mayFetch 0 15 = true ∧ (ent 7 0 0).toNat / 2 ^ 32 % 2 ^ 64 = (s.ring 0 15).f % 2 ^ 64
      ∧ (ent 7 0 0).toNat / 2 ^ 32 % 2 ^ 64 ≠ (t.ring 0 15).f % 2 ^ 64 ∧ ({ entry := ent 7 0 0, seq := 0 } : Cmd).malformed = false
      ∧ ({ entry := ent 9 0 0, seq := 0 } : Cmd).malformed = true := by decide +kernel
theorem witness_QueryAndFence :
    (∀ w ∈ [0, 1, 2, 3, 4], let c : Cmd := { entry := ent 8 5 w, seq := 0 }
      (rung [c]).phase = .ready ∧ (rung [c]).front 0 15 8 = some c ∧ c.what = w ∧ (rung [c]).boundCtx 0 c = some { sector := 0, port := 0, fn := 0 })
    ∧ (let s : State := { rdy with fns := [(0, { rings := [(15, { enable := true, size := 1, t := 16 })] })], ports := [(0, { cxl := true })] }
       s.mayFetch 0 15 = true ∧ (ent 7 0 0).toNat % 256 = 7 ∧ (ent 7 0 0).toNat / 2 ^ 32 % 2 ^ 64 = (s.ring 0 15).f % 2 ^ 64
         ∧ ({ entry := ent 7 0 0, seq := 0 } : Cmd).malformed = false)
    ∧ (let c : Cmd := { entry := ent 7 0 0, seq := 1, wait := [(15, 1)] }
       let d : Cmd := { entry := ent 7 0 0, seq := 0, done := true }
       (rung [d, c]).front 0 15 7 = some c ∧ ∀ e ∈ c.wait, ∀ d' ∈ ((rung [d, c]).ring 0 e.1).cmds, d'.seq < e.2 → d'.done = true)
    ∧ (let c : Cmd := { entry := ent 7 0 0, seq := 0, wait := [(14, 1)] }
       let d : Cmd := { entry := ent 7 0 0, seq := 0 }
       let s : State := { rdy with fns := [(0, { rings := [(14, { cmds := [d] }), (15, { cmds := [c] })] })] }
       s.phase = .ready ∧ s.front 0 15 7 = some c ∧ ∃ e ∈ c.wait, ∃ d' ∈ (s.ring 0 e.1).cmds, d'.seq < e.2 ∧ d'.done = false) := by decide +kernel
theorem witness_StepAndBind :
    (let c : Cmd := { entry := ent 1 5 0, seq := 0 }
     ∀ k ∈ [({ sector := 0, port := 0, fn := 0, state := .failed } : Ctx), { sector := 0, port := 0, fn := 0 }, { sector := 0, port := 0, fn := 0, program := true }],
       (rung [c] k).phase = .ready ∧ (rung [c] k).front 0 15 1 = some c ∧ (rung [c] k).boundCtx 0 c = some k ∧ (rung [c] k).payloadBad k c.qaddr = false
         ∧ c.started = false ∧ ((rung [c] k).takeIn 5 k).isSome = true)
    ∧ (let b : Cmd := { entry := ent 1 6 0, seq := 0 }
       (rung [b]).front 0 15 1 = some b ∧ (rung [b]).boundCtx 0 b = none ∧ b.started = false)
    ∧ (∀ q ∈ [19, 2 * 32 + 20], let b : Cmd := { entry := ent 1 5 q, seq := 0 }
       (rung [b]).front 0 15 1 = some b ∧ (rung [b]).boundCtx 0 b = some { sector := 0, port := 0, fn := 0 }
         ∧ (rung [b]).payloadBad { sector := 0, port := 0, fn := 0 } b.qaddr = true)
    ∧ (let c : Cmd := { entry := ent 3 5 0 (128 * 2 ^ 208 + 2 ^ 192), seq := 0 }
       ∀ st ∈ [CtxState.idle, .running, .failed],
         let k : Ctx := { sector := 0, port := 0, fn := 0, state := st }
         let s : State := { rung [c] k with sectors := [(0, { sec0 with granules := [0, 1], sysg := 0 })], hbm := { granules := [(0, { sector := some 0 })] } }
         s.front 0 15 3 = some c ∧ s.boundCtx 0 c = some k ∧ (s.sector 0).isSome = true ∧ fld c.entry.toNat 191 128 % 4096 = 0
           ∧ s.rootOk 0 (fld c.entry.toNat 191 128) 4096 = true ∧ k.tearing = false ∧ k.begun = false ∧ s.residents 0 < 64)
    ∧ (∀ w ∈ [1, 4096], let c : Cmd := { entry := ent 3 5 w (128 * 2 ^ 208 + 2 ^ 192), seq := 0 }
       (rung [c]).front 0 15 3 = some c ∧ (rung [c]).boundCtx 0 c = some { sector := 0, port := 0, fn := 0 }
         ∧ (fld c.entry.toNat 191 128 % 4096 ≠ 0 ∨ (rung [c]).rootOk 0 (fld c.entry.toNat 191 128) 4096 = false)) := by decide +kernel
theorem witness_LoadAndCopy :
    (∀ w ∈ [0, 2 ^ 10], let c : Cmd := { entry := ent 2 5 0 (2 ^ 201 + 2 ^ 207 + w), seq := 0 }
      (rung [c]).front 0 15 2 = some c ∧ c.started = false ∧ c.entry.getLsbD 10 = decide (w ≠ 0))
    ∧ (∀ e ∈ [4, 5, 6], let c : Cmd := { entry := ent e 5 0 (2 ^ 256), seq := 0, started := true }
      let b : Cmd := { entry := ent e 6 0, seq := 0, started := true }
      let d : Cmd := { entry := ent e 5 0, seq := 0, started := true }
      (rung [b]).front 0 15 e = some b ∧ (rung [b]).boundCtx 0 b = none ∧ (rung [c]).front 0 15 e = some c
        ∧ (rung [c]).boundCtx 0 c = some { sector := 0, port := 0, fn := 0 } ∧ c.pos < c.len ∧ (rung [d]).front 0 15 e = some d ∧ d.len ≤ d.pos) := by decide +kernel
/-- Device memory with page tables at 0, 4,096 and 8,192: 2 MiB of the context lie at 0x200000, and its next 2 MiB in host memory. -/
def tables : Mem := memWrite (memWrite (memWrite [] 0x2000 (toBytes 8 (0x200000 + 0x33) ++ toBytes 8 (0x200000 + 0x17))) 0x1000 (toBytes 8 0x2001)) 0 (toBytes 8 0x1001)
/-- Context 5 with those tables, its clusters, a valid PASID and a translation of its host page. -/
def mapped (cmds : List Cmd) (mem : Mem) (fog : List Nat := []) : State :=
  { rung cmds { sector := 0, port := 0, fn := 0, pasidV := true, foot := some sec0.region } with
    sectors := [(0, { sec0 with granules := [0, 1] })], hbm := { granules := [(0, { sector := some 0 })], mem := mem, fogLines := fog }
    atc := [{ port := 0, pasid := 0, iova := 0x200000, addr := 0x9000, w := true }] }
def ctx0 : Ctx := { sector := 0, port := 0, fn := 0, pasidV := true, foot := some sec0.region }

def hbmOf (x : Side2) : Option (List (Nat × Nat)) := match x with | .hbm l => some l | _ => none
def hostOf (x : Side2) : Option (List (Nat × Nat)) := match x with | .host l => some l | _ => none

/-- The three pairs of sides, each with its lines to be read and written at once; and a row whose line a host holds. -/
theorem witness_LoadAndCopy_rows :
    (∀ e ∈ [(0, 64, false, false), (0, 0x200000, true, false), (0x200000, 64, false, true)],
      let s := mapped [] tables
      let src := copyPieces e.1 3 64
      let dst := copyPieces e.2.1 3 64
      let z := (s.rowSides 5 ctx0 e.2.2.1 e.2.2.2 src dst).2
      let d := s.directAccess (copyUnit 0 15) ((src ++ dst).flatMap (fun e => s.tableLines ctx0 e.1) ++ z.1.lines) z.2.lines
      let y := (d.1.rowSides 5 ctx0 e.2.2.1 e.2.2.2 src dst).2
      d.2 = true ∧ (if e.2.2.2 then hostOf y.1 = some [(0x9000, 64)] else hbmOf y.1 = some [(0x200000, 64)])
        ∧ (if e.2.2.1 then hostOf y.2 = some [(0x9000, 64)] else hbmOf y.2 = some [(0x200040, 64)]))
    ∧ (let s : State := { mapped [] tables with ports := [(7, { filter := [0x8001] })] }
       (s.directAccess (copyUnit 0 15) [0x8000] [0x8001]).2 = false) := by decide +kernel
/-- A row whose source is fogged, and copies that start and that lie outside. -/
theorem witness_LoadAndCopy_starts :
    (((mapped [] tables [0x8000]).readSide { ctx := some 5 } [(0x200000, 64)]).2.2.any id = true
      ∧ ((mapped [] tables).readSide { ctx := some 5 } [(0x200000, 64)]).2.2.any id = false)
    ∧ (∀ e ∈ [(4, 0, 64, false, false), (5, 0, 0x200000, true, false), (6, 0x200000, 64, false, true)],
        let c : Cmd := { entry := ent e.1 5 e.2.1 (e.2.2.1 * 2 ^ 192 + 64 * 2 ^ 256), seq := 0 }
        let s := mapped [c] tables
        s.front 0 15 e.1 = some c ∧ s.boundCtx 0 c = some ctx0 ∧ c.started = false ∧ c.len ≠ 0
          ∧ s.firstOutside ctx0 c.src false e.2.2.2.2 = false ∧ s.firstOutside ctx0 c.dst true e.2.2.2.1 = false
          ∧ s.firstOutside ctx0 c.src false (!e.2.2.2.2) = true) := by decide +kernel

/-- The words of an image without sections, its CRC worked out, at VA 64 of context 5, and a set of four of it at VA 0. -/
def set0 : Mem := memWrite (memWrite tables 0x200000 ((List.replicate 4 (toBytes 8 64)).flatten))
  0x200040 (toBytes 64 (0x4B524F56 + 64 * 2 ^ 32 + 2 * 2 ^ 80 + 0x23FACC4 * 2 ^ 96))
def load0 (w : Nat) : Cmd := { entry := ent 2 5 0 (2 ^ 201 + 2 ^ 207 + w), seq := 0 }

/-- The state once the set's lines may be read, and whether they may. -/
def read0 (s : State) : State × Bool := s.directAccess (copyUnit 0 15) (s.setLines ctx0 sec0.region 0) []
def setOk (x : LoadSet) : Bool := match x with | .ok l => l.map (·.1) == [0, 1, 64, 65] | _ => false
def setRejected (x : LoadSet) : Bool := match x with | .reject => true | _ => false

theorem witness_LoadAndCopy_set :
    (∀ w ∈ [0, 2 ^ 10], (load0 w).ctxN = 5 ∧ (load0 w).region = sec0.region ∧ (load0 w).entry.getLsbD 10 = decide (w ≠ 0))
      ∧ (mapped [load0 0] set0).boundCtx 0 (load0 0) = some ctx0 ∧ ((mapped [load0 0] set0).sector 0).isSome = true ∧ sec0.holds sec0.region = true
      ∧ (mapped [load0 0] set0).firstOutside ctx0 0 false false = false ∧ ctx0.state = .idle ∧ (mapped [load0 0] set0).keeperUp = true
      ∧ sec0.res = false ∧ ctx0.foot = some sec0.region ∧ (read0 (mapped [load0 0] set0)).2 = true
      ∧ (read0 ({ mapped [load0 0] set0 with ports := [(7, { filter := [0x8001] })] })).2 = false := by decide +kernel
theorem witness_LoadAndCopy_verified : setOk ((read0 (mapped [load0 0] set0)).1.loadSet ctx0 5 sec0 sec0.region 0 0).2 = true := by decide +kernel
theorem witness_LoadAndCopy_rejected : (read0 (mapped [load0 0] set0 [0x8000])).2 = true
    ∧ setRejected ((read0 (mapped [load0 0] set0 [0x8000])).1.loadSet ctx0 5 sec0 sec0.region 0 0).2 = true := by decide +kernel

theorem witness_CompletionsAreWritten :
    (let c : Cmd := { entry := ent 7 0 0, seq := 0, done := true }
     (rung [c]).phase = .ready ∧ ((rung [c]).ring 0 15).cmds = c :: [] ∧ ((rung [c]).ring 0 15).stopped = false ∧ c.done = true ∧ c.heldSince = none ∧ c.status = stOK)
    ∧ (let c : Cmd := { entry := ent 7 0 0, seq := 0, done := true, heldSince := some 0 }
       ((rung [c]).ring 0 15).cmds = c :: [] ∧ c.heldSince = some 0)
    ∧ (let s : State := { rdy with fns := [(0, { rings := [(15, { coalSince := some 9, intEn := true })] })] }
       (s.ring 0 15).coalSince = some 9 ∧ (s.ring 0 15).intEn = true)
    ∧ rdy.err.collector ++ rdy.err.held = [] ∧ ((rung []).ring 0 15).intEn = false ∧ ringEntries ((rung []).ring 0 15).size ≠ 0 ∧ ({ intEn := true, coalN := 2, unsig := 1 } : Ring).intEn = true
    ∧ 2 ≤ 1 + 1 := by decide +kernel

/-! ### Contexts, errors, resets and audit -/

/-- Context 5 of sector 0 owns the four clusters of its footprint. -/
def placed (k : Ctx) : State := { inSec rdy with ctxs := [(5, k)], cls := [(0, { owner := some 5 }), (1, { owner := some 5 }), (64, { owner := some 5 }), (65, { owner := some 5 })] }

theorem witness_StepsRun :
    rdy.phase = .ready ∧ (inSec rdy).sector 0 = some sec0 ∧ ((inSec rdy).preemptAll 0).startsHeld sec0 = false
    ∧ (({ inSec rdy with pwr := { pausedCool := true } } : State).preemptAll 0).startsHeld sec0 = true
    ∧ (∀ begun ∈ [true, false],
      let c : Cmd := { entry := ent 1 5 0, seq := 0, started := true }
      let k : Ctx := { sector := 0, port := 0, fn := 0, state := .waiting, granted := true, begun := begun, foot := some sec0.region, program := true, steps := [{ fn := 0, ring := 15 }] }
      let s : State := { placed k with fns := (rung [c]).fns }
      s.ctx 5 = some k ∧ k.doubt = false ∧ s.drainDue k.wantClusters = false ∧ k.steps.head? = some { fn := 0, ring := 15 } ∧ (∀ c ∈ k.wantClusters, (s.cl c).scanned = false)
        ∧ (∀ c ∈ k.wantClusters, s.ownerOf c = some 5) ∧ s.kpr.restarting = false
        ∧ s.front 0 15 1 = some c ∧ (match s.deliverPayload 5 c with | .yes _ => true | _ => false) = true)
    ∧ (let k : Ctx := { sector := 0, port := 0, fn := 0, state := .running, foot := some sec0.region }
       (placed k).ctx 5 = some k ∧ k.doubt = false ∧ k.clusters.all (placed k).clusterDone = true ∧ (placed k).sector k.sector = some sec0 ∧ sec0.limit ≠ 0)
    ∧ (let k : Ctx := { sector := 0, port := 0, fn := 0, state := .waiting, doubt := true, foot := some sec0.region }
       (placed k).ctx 5 = some k ∧ k.clusters ≠ [] ∧ ∀ c ∈ k.clusters, ((placed k).cl c).scanned = false)
    ∧ (let k : Ctx := { sector := 0, port := 0, fn := 0, state := .failed, tearing := true, foot := some sec0.region }
       (placed k).ctx 5 = some k ∧ k.clusters.any (placed k).swapping = false) := by
  decide +kernel
/-- A payload for a queue that is closed, a step that is a LOAD_PROGRAM, and a footprint that nobody, and that a context out of its step, holds. -/
theorem witness_StepsRun_other :
    (let c : Cmd := { entry := ent 1 5 (20 + 63 * 2 ^ 16) (8 * 2 ^ 160), seq := 0, started := true }
     let k : Ctx := { sector := 0, port := 0, fn := 0, state := .waiting, granted := true, foot := some sec0.region, program := true, steps := [{ fn := 0, ring := 15 }] }
     let s : State := { placed k with fns := (rung [c]).fns }
     s.front 0 15 1 = some c ∧ (match s.deliverPayload 5 c with | .refused st => st == stQueueClosed | _ => false) = true)
    ∧ (let l : LoadReq := ⟨sec0.region, 0, true⟩
       let k : Ctx := { sector := 0, port := 0, fn := 0, state := .waiting, granted := true, steps := [{ fn := 0, ring := 15, load := some l }] }
       let s : State := { inSec rdy with ctxs := [(5, k)] }
       s.ctx 5 = some k ∧ k.steps.head? = some { fn := 0, ring := 15, load := some l } ∧ (∀ c ∈ k.wantClusters, (s.cl c).scanned = false)
         ∧ k.doubt = false ∧ s.kpr.restarting = false ∧ s.drainDue k.wantClusters = false ∧ (∀ c ∈ k.wantClusters, s.ownerOf c = some 5 ∨ s.ownerOf c = none) ∧ k.wantClusters = [0, 1, 64, 65])
    ∧ (let k : Ctx := { sector := 0, port := 0, fn := 0, state := .waiting, granted := true, foot := some sec0.region }
       let z : Ctx := { sector := 0, port := 0, fn := 1, foot := some sec0.region }
       let s : State := { inSec rdy with ctxs := [(5, k), (6, z)], cls := [(0, { owner := some 6 }), (65, { owner := some 5 })] }
       s.ctx 5 = some k ∧ k.wantClusters.filter (fun c => s.ownerOf c != some 5) = [0, 1, 64] ∧ s.ownerOf 0 = some 6 ∧ s.ctx 6 = some z
         ∧ z.holdsFoot = false ∧ s.sector z.sector = some sec0 ∧ sec0.res = false ∧ s.retrains = false ∧ s.kpr.restarting = false
         ∧ ∀ c ∈ k.wantClusters, (s.cl c).scanned = false) := by
  decide +kernel
theorem witness_RecordsAndCoalescing :
    let r : ErrRec := { cls := 0, sev := 1, cause := 1, unit := 8 }
    let c : CorrRun := { start := 0, count := 1, latest := r }
    ({ rdy with err := { collector := [r], held := [r] } } : State).err.collector = r :: [] ∧ rdy.phase = .ready ∧ rdy.err.coalesce = [] ∧ rdy.err.collector.length < 1024 ∧ r.rep = 1
      ∧ ({ rdy with err := { coalesce := [c] } } : State).err.coalesce = [c] ∧ c.about r.unit r.cls 1 = true
      ∧ ({ rdy with time := 1000000000 } : State).time ≤ c.start + 1000000000 ∧ 0 < c.count := by decide +kernel
theorem witness_DeviceResetRuns : (rdy.phase = .ready ∧ rdy.trigger = none)
    ∧ (({ rdy with phase := .resetting, trigger := some 9 } : State).phase = .resetting ∧ ({ rdy with phase := .resetting, trigger := some 9 } : State).trigger = some 9)
    ∧ (9 : Fin 10).val ≠ 0
    ∧ (∀ n ∈ [2, 3], ((List.replicate n 0).filter (fun t => decide (rdy.triggerAt ≤ t + 600000000000))).length = n) := by decide
theorem witness_AuditsDecide :
    (let s : State := { rdy with aud := { reports := [12] } }
     s.phase = .ready ∧ s.kpr.restarting = false ∧ 12 ∈ s.aud.reports ∧ tabFind s.aud.events (s.physUnit 12) = none)
    ∧ (∀ t ∈ [86400000000000, 86400000000001],
       let s : State := { rdy with time := t, aud := { reports := [12], events := [(rdy.physUnit 12, 0)] } }
       12 ∈ s.aud.reports ∧ tabFind s.aud.events (s.physUnit 12) = some 0 ∧ s.time = t)
    ∧ (let x : Sample := { unit := 12, time := 0, sector := 0 }
       let y : Sample := { x with mismatch := true, second := 14 }
       let s : State := { rdy with aud := { samples := [y, x] } }
       s.aud.samples[1]? = some x ∧ x.mismatch = false ∧ ∀ y ∈ s.aud.samples.take 1, y.partner = x.partner → y.mismatch = true)
    ∧ (let x : Sample := { unit := 12, time := 0, sector := 0, second := 13, mismatch := true }
       ({ rdy with aud := { samples := [x] } } : State).aud.samples[0]? = some x ∧ x.mismatch = true ∧ x.second ≠ 0xFFFFFF) := by decide +kernel

/-! ### Keeper and transactions -/

theorem witness_Beacon : rdy.phase = .ready ∧ rdy.trigger = none ∧ rdy.kpr.beaconDead = false ∧ rdy.kpr.restarting = false ∧ (1 : Fin 8).val ≠ 0 := by decide
theorem witness_Firmware :
    (1 : Fin 2).val ≠ rdy.flash.inForce ∧ rdy.mayManage (.fn ⟨0, 0⟩) = true ∧ (1 : Word).getLsbD 0 = true ∧ rdy.txn.state = .idle ∧ rdy.kpr.swapQ = []
      ∧ rdy.kpr.retrainStack = none ∧ rdy.kpr.failing = false ∧ rdy.kpr.trial = false
    ∧ ({ rdy with kpr := { swapQ := [0] } } : State).kpr.swapQ ≠ [] ∧ ({ rdy with txn := { state := .opened } } : State).txn.state ≠ .idle
    ∧ (({ rdy with kpr := { restarting := true } } : State).kpr.restarting = true)
    ∧ (({ rdy with kpr := { trial := true } } : State).kpr.trial = true ∧ ({ rdy with kpr := { trial := true } } : State).kpr.restarting = false) := by decide +kernel
/-- A commit whose entry is a write of the cap, and one whose entry names no register. -/
theorem witness_Transactions :
    rdy.mayManage .keeper = true ∧ rdy.txn.state = .idle
    ∧ (let s : State := { rdy with txn := { state := .opened, staged := [.write 0x20008 680] } }
       s.txn.state = .opened ∧ s.kpr.restarting = false ∧ s.checkItems (itemsOf s.txn.staged) = none ∧ s.txn.staged ≠ [] ∧ s.commitWaits = false
         ∧ s.txn.staged = [((0x20008 : Nat), (680 : Word))].map (fun e => TxnEntry.write e.1 e.2)
         ∧ ({ s with pwr := { inDoubt := true } } : State).commitWaits = true)
    ∧ ((∀ n ∈ [1023, 1024], (List.replicate n (TxnEntry.op 0)).length = n) ∧ ({ rdy with txn := { state := .opened } } : State).txn.staged = [])
    ∧ (let s : State := { rdy with txn := { state := .opened, staged := [.write 0x60000 0] } }
       s.checkItems (itemsOf s.txn.staged) = some 0) := by decide +kernel
/-- The operations with the fields of their words: a sector of one quad with two granules, its release, a context, its end, a cluster, a stack,
a pseudo-channel and a stack again, and the device reset. -/
theorem witness_Operations_head :
    (∀ n ∈ [1, 2, 3, 4, 5, 6, 7, 8, 9], ({ rdy with txn := { state := .committing, ops := [[BitVec.ofNat 64 n]] } } : State).headOp n = some [n])
    ∧ rdy.kpr.retrainStack = none ∧ rdy.sector (fld 2 17 12) = none ∧ (inSec rdy).sector (fld 2 17 12) = some sec0 ∧ ((inSec rdy).hostsLetGo sec0).2 = true
    ∧ (let s : State := { inSec rdy with ports := [(7, { cxl := true, hdmMap := [(0, 3)], filter := [3 * 2 ^ 24] })] }
       (s.hostsLetGo { sec0 with granules := [3] }).2 = false) := by decide +kernel
theorem witness_Operations_apply :
    (∀ ws ∈ [[0x102], [0x103 + 6 * 2 ^ 28], [0x104 + 5 * 2 ^ 12], [0x107 + 19 * 2 ^ 12], [0x108 + 19 * 2 ^ 12]], ((placed { sector := 0, port := 0, fn := 0 }).opApply ws).isSome = true)
    ∧ (rdy.opApply [0x201 + 2 ^ 27 + 2 ^ 33 + 2 ^ 38 + 2 * 2 ^ 46, 1 + 4 * 2 ^ 32 + 16 * 2 ^ 57]).isSome = true := by decide +kernel
theorem witness_SwapsRetirements :
    (let s : State := { rdy with kpr := { swapQ := [2047] } }
     s.phase = .ready ∧ s.kpr.restarting = false ∧ s.swapping 2047 = true ∧ (s.cl 2047).scan = .running ∧ (s.cl 2047).scanned = false
       ∧ (s.cl 2047).loading = false ∧ s.underWay 2047 = false)
    ∧ (let s : State := { rdy with kpr := { retrainStack := some 19 } }
       (s.ctrl 19).retired = false ∧ s.kpr.retrainStack = some 19 ∧ s.headOp 6 = none
         ∧ (({ s.setCtrl 19 { s.ctrl 19 with retraining := false, trained := false } with kpr := { s.kpr with retrainStack := none } } : State).retireOrFail
             19 none).headOp 6 = none)
    ∧ (let s : State := { rdy with hbm := { failing := [(19, none)] } }
       s.hbm.failing = (19, none) :: [] ∧ (s.retirePart 19 none).isSome = true) := by decide +kernel
/-- A swap for a cluster of whose die no lightship is left leaves no operation of a commit in front, or the one that asked for it, or another's. -/
theorem witness_Swaps_noOperation :
    let s : State := { rdy with kpr := { swapQ := [2047] }, flash := { failed := upto (7 * 272) 272 } }
    (s.swapNow 2047).headOp 5 = none
    ∧ ∀ c ∈ [2047, 5], (({ s with txn := { state := .committing, ops := [[BitVec.ofNat 64 (5 + c * 2 ^ 12)]] } } : State).swapNow 2047).headOp 5
        = some [5 + c * 2 ^ 12] ∧ fld (5 + c * 2 ^ 12) 22 12 = c := by
  decide +kernel
/-- What the operation words of a context's creation come to, and a sector to create it in. -/
theorem witness_CreateContext : ((inSec rdy).sector 0).isSome = true ∧ ((inSec rdy).createContext 0 0 0 6).isSome = true ∧ (inSec rdy).residents 0 < 64 := by
  decide +kernel

/-! ### Memory units, external memory and the ports -/

theorem witness_MemoryUnitEvents :
    (let s : State := { rdy with mus := [(0, { downReq := 0xFF, waking := 0 })] }
     s.phase = .ready ∧ (s.mu 0).mayPowerDown 0 = true ∧ (s.mu 0).mayPowerDown 7 = true ∧ (s.mu 0).scrubInt ≠ 0
       ∧ (s.mu 0).nextPowered (s.mu 0).scrubPos = some 0)
    ∧ (({ scrubPos := 49151 } : Mu).nextPowered 49151 = some 49151 ∧ ({ waking := 0x80 } : Mu).waking.getLsbD 7 = true)
    ∧ (∀ target ∈ [0, 1],
      let q : ExtReq := { id := 1, va := 0, len := 64, sent := true, answered := target == 0, target := target }
      let s := tr 0 { run (ti 1 0) with reqs := [q] }
      s.reqWhere 0 0 (fun q => !q.write && q.sent && !q.done && (q.answered || q.target == 1)) = some q ∧ q.target = target)
    ∧ (let q : ExtReq := { id := 1, va := 0, len := 64, write := true, sent := true, answered := true }
       let s := tr 0 { run (ti 1 0) with reqs := [q] }
       (∀ z ∈ (s.rt 0).inbox, z.isWriteAck 0 = false) ∧ s.reqWhere 0 0 (fun q => q.write && q.answered && !q.done) = some q)
    ∧ (let s : State := { rdy with rts := [(0, { inbox := [pkt (.message msg0), { pkt (.writeAck 1 stOK) with dest := 0 }] })] }
       (s.rt 0).inbox = [pkt (.message msg0)] ++ { pkt (.writeAck 1 stOK) with dest := 0 } :: [] ∧ (pkt (.message msg0)).isWriteAck 0 = false)
    ∧ (let p : Packet := { dest := 0, cls := 1, src := 1, ctx := 5, body := .windowWrite 15 1 63 1 [9] [] false 7 }
       let w : Win := { base := 49151, length := 1, writer := 5, rights := 2, opened := true, epoch := 1 }
       let s : State := { rdy with rts := [(0, { inbox := [pkt (.message msg0), p] })], mus := [(0, { wins := [(15, w)] })] }
       s.phase = .ready ∧ (s.mu 0).zeroizing = false ∧ s.logWaits 0 = false ∧ (s.mu 0).accepted = [] ∧ (s.rt 0).inbox = [pkt (.message msg0)] ++ p :: []
         ∧ (pkt (.message msg0)).isWindowWrite 0 = false ∧ p.dest = 0
         ∧ ({ accepted := [win0], powered := 0xFE } : Mu).asleep win0.addr win0.bytes.length ≠ 0
         ∧ w.opened = true ∧ w.epoch = 1 ∧ w.writer = p.ctx ∧ bitOf w.rights 1 = true ∧ 63 + [(9 : Byte)].length ≤ w.length * 64
         ∧ (s.mu 0).asleep (w.base * 64 + 63) 1 = 0 ∧ ({ powered := 0x7F } : Mu).asleep (w.base * 64 + 63) 1 ≠ 0
         ∧ ({ w with opened := false } : Win).opened = false ∧ ({ w with epoch := 2 } : Win).epoch ≠ 1
         ∧ ({ w with writer := 6 } : Win).writer ≠ p.ctx ∧ bitOf ({ w with rights := 1 } : Win).rights 1 = false
         ∧ ({ w with length := 0 } : Win).length * 64 < 63 + 1)
    ∧ (({ accepted := [win0] } : Mu).accepted = win0 :: [] ∧ ({ accepted := [win0] } : Mu).asleep win0.addr win0.bytes.length = 0)
    ∧ Memory.wf [(0x60000, 1)] = true ∧ groupOf 0x5FFFF = 0 ∧ groupOf 0x60000 = 1 := by decide +kernel
theorem witness_ExternalMemoryServes :
    (∀ w ∈ [false, true],
      let h : HbmReq := { unit := 0, req := 1, addr := 0, len := 64, write := w }
      let s : State := { rdy with hbm := { ctrls := [(0, { queue := [h] })] } }
      s.serves 0 = true ∧ (s.ctrl 0).queue = h :: [] ∧ h.write = w ∧ h.hostPort = none ∧ (s.mayAccess (ctrlWho 0) (linesOf h.addr h.len) []).2 = true
        ∧ (s.mayAccess (ctrlWho 0) [] (linesOf h.addr h.len)).2 = true ∧ s.snoops = [] ∧ (∀ p < 8, (s.port p).filter = [])
        ∧ (({ s with ports := [(7, { filter := [0] })] } : State).mayAccess (ctrlWho 0) (linesOf h.addr h.len) []).2 = false
        ∧ ({ h with unit := hostUnit 7 } : HbmReq).hostPort = some 7)
    ∧ (rdy.phase = .ready ∧ (rdy.ctrl 19).scrubInt ≠ 0 ∧ (rdy.ctrl 19).retraining = false ∧ rdy.nextLine 19 (rdy.ctrl 19).scrubPos = some (19 * 64))
    ∧ (let q : PageReq := { fn := 1023, ctx := 5, unit := 0, req := 1, va := 0, sentAt := 0 }
       ({ rdy with pageReqs := [q] } : State).pageOf (fnKey ⟨7, 127⟩) 0 = some (0, q))
    ∧ rdy.tus = []
    ∧ (let r : Run := { run (ti 1 0) with reqs := [{ id := 1, va := 0, len := 64, sent := true, target := 1, iova := 0x200040 }] }
       let s : State := { tr 0 r with ctxs := [(5, { sector := 0, port := 7, fn := 0 })] }
       (∃ e ∈ s.tus, ∃ r ∈ e.2.running, s.usesPage 7 0x200000 4096 r = true) ∧ ∀ e ∈ s.tus, ∀ r ∈ e.2.running, s.usesPage 7 0x201000 4096 r = false) := by
  decide +kernel
theorem witness_HostMemoryAccesses :
    (let s : State := { rdy with ports := [(7, { cxl := true, memEn := true, hdmMap := [(0, 717)] })], hbm := { granules := [(717, { sector := some 0 })] } }
     let v := s.port 7
     v.cxl = true ∧ v.memEn = true ∧ s.memRefused 7 = false ∧ s.inReset = false ∧ v.hdm (2 ^ 30) = none
       ∧ v.hdm (2 ^ 30 - 64) = some (717 * 2 ^ 30 + 2 ^ 30 - 64) ∧ s.serves (s.stackOf (717 * 2 ^ 30 + 2 ^ 30 - 64)) = true ∧ v.filter.length < 262144
       ∧ s.hostWaits (717 * 2 ^ 30 + 2 ^ 30 - 64) = false ∧ s.hbm.errs = []
       ∧ ({ s with hbm := { granules := [(717, { sector := some 0 })], ctrls := (upto 0 20).map (fun n => (n, { retraining := true })) } } : State).hostWaits
           (717 * 2 ^ 30) = true
       ∧ (∀ i < 64, (List.replicate 64 true).getD i false = true) ∧ Memory.wf s.hbm.mem = true ∧ (s.addrSector (717 * 2 ^ 30)).isSome = true)
    ∧ (let x : Snoop := { port := 7, line := 717 * 2 ^ 24, inv := true, sentAt := 0 }
       ({ rdy with snoops := [x] } : State).snoops.find? (fun x => x.port == (7 : Fin 8).val && x.line == 717 * 2 ^ 24 && !x.answered) = some x
         ∧ ((inSec { rdy with hbm := { granules := [(717, { sector := some 0 })] } }).addrSector (717 * 2 ^ 24 * 64)).isSome = true
         ∧ (rdy.addrSector (717 * 2 ^ 24 * 64)).isSome = false) := by decide +kernel
theorem witness_PortEvents :
    rdy.phase = .ready ∧ (3 : Fin 4).val ≠ 0 ∧ (0 : Fin 4).val = 0 ∧ 10 ≤ 10 ∧ 10 < 11 ∧ (127 : Fin 128).val ≠ 0 ∧ rdy.ctxs = []
    ∧ rdy.sec.sessions.any (fun x => x.id == 3 && x.path == .doe 7) = false
    ∧ (({ rdy with ports := [(7, { ideSecure := true })] } : State).port 7).ideSecure = true
    ∧ ({ rdy with sec := { sessions := [{ id := 3, path := .doe 7 }] } } : State).sec.sessions.any (fun x => x.id == 3 && x.path == .doe 7) = true := by decide +kernel

/-! ### Security, boot, power and cooling -/

theorem witness_SessionsKeysAndGrants :
    (let s : State := { rdy with ports := [(0, { cxl := true })], sec := { i3cAddr := some 9, sessions := [{ id := 0, path := .i3c }, { id := 1, path := .doe 0 }, { id := 2, path := .doe 0 }, { id := 3, path := .doe 0 }] } }
     s.pathUp (.doe 0) = true ∧ (s.sec.sessions.filter (fun x => x.path == .doe 0)).length < 4
       ∧ s.pathUp .i3c = true ∧ (s.sec.sessions.filter (fun x => x.path == .i3c)).length < 2)
    ∧ (let s : State := { rdy with sec := { i3cAddr := some 9, sessions := [{ id := 0, path := .i3c }, { id := 1, path := .i3c }] } }
       s.pathUp .i3c = true ∧ 2 ≤ (s.sec.sessions.filter (fun x => x.path == .i3c)).length)
    ∧ ((1 ≤ 6 ∧ 6 ≤ 6) ∧ (64 ≤ 127 ∧ 127 < 128) ∧ ¬ ((1 ≤ 7 ∧ 7 ≤ 6) ∨ (64 ≤ 7 ∧ 7 < 128)))
    ∧ (let x : Sector := { sec0 with keyed := true, keySes := some 4 }
       let s : State := { rdy with sectors := [(0, x)], sec := { sessions := [{ id := 3, path := .i3c }] } }
       s.hasSession 3 = true ∧ s.sector 0 = some x ∧ x.keyed = true ∧ x.keySes ≠ some 3 ∧ s.keyedBy 3 5 = false ∧ { recv := 5, admitted := 5, ses := 3 } ∉ s.sec.grants)
    ∧ (let k : Ctx := { sector := 0, port := 0, fn := 0 }
       let x : Sector := { sec0 with keyed := true, keySes := some 3 }
       let s : State := { rdy with sectors := [(0, x)], ctxs := [(5, k)], sec := { sessions := [{ id := 3, path := .i3c }], grants := [{ recv := 5, admitted := 5, ses := 3 }] } }
       s.hasSession 3 = true ∧ s.sector 0 = some x ∧ x.keySes = some 3 ∧ (s.ctxsOf 0).any (fun e => e.2.state == .running || e.2.state == .waiting) = false
         ∧ s.keyedBy 3 5 = true ∧ (s.ctx 5).isSome = true ∧ { recv := 5, admitted := 5, ses := 3 } ∈ s.sec.grants)
    ∧ sec0.keyed = false := by decide +kernel

/-- A device with a nonce and a session over I3C. -/
def asked : State := { rdy with sec := { i3cAddr := some 9, nonce := some 7, sessions := [{ id := 0, path := .i3c }] } }
def token0 : Token := { magic := 0x4B444247, dev := 0, nonce := 7, ttl := 86400, perms := 7, sig := 0 }

/-- A token with the wrong magic number is refused; one whose fields are right is accepted where its signature is good. -/
theorem witness_DebugUnlock :
    (asked.phase = .ready ∧ asked.pathUp .i3c = true ∧ asked.sec.sessions.any (fun x => x.path == .i3c) = true ∧ asked.sec.unlocked = false
      ∧ asked.sectors = [] ∧ asked.tokenOk { token0 with magic := 0 } = false)
    ∧ (Config.rsaGood (tokenBytes token0) 0 = true → asked.tokenOk token0 = true)
    ∧ (({ rdy with sec := { unlocked := true } } : State).sec.unlocked = true ∧ (1 : Word).getLsbD 0 = true
      ∧ reaches .keeper 0x30020 = true ∧ rdy.classOf .keeper none = .keeper ∧ reaches (.fn ⟨1, 0⟩) 0x30020 = true
      ∧ ({ rdy with kpr := { mgmt := 1 } } : State).classOf (.fn ⟨1, 0⟩) none = .other ∧ reaches .keeper 0x30028 = true) :=
  ⟨by decide +kernel, fun h => by simp [State.tokenOk, asked, token0, rdy, State.reset]; exact h, by decide⟩
theorem witness_BootAndRecovery :
    (State.reset.phase = .booting ∧ State.reset.pins.rails = true ∧ State.reset.flash.selected = some State.reset.flash.inForce
      ∧ State.reset.flash.trialSlot = none ∧ State.reset.flash.stacksRetired = [] ∧ State.reset.flash.pcRetired = [] ∧ State.reset.flash.failed = []
      ∧ State.reset.flash.shipFailed = [])
    ∧ ({ slotA := {} } : Flash).selected = none
    ∧ (let s : State := { State.reset with phase := .recovery, flash := { floor := 5 } }
       s.phase = .recovery ∧ s.flash.floor ≤ ({ version := 0, svn := 5, bytes := [], sig := 0 } : FwImage).svn.toNat) := by decide +kernel
theorem witness_PowerAndResetPins :
    State.reset.pins.inputOn = true
    ∧ (let s : State := { State.reset with phase := .off, pins := { rails := false } }
       s.pins.inputOn = true ∧ s.pins.thermtrip = false ∧ s.phase = .off)
    ∧ (let s : State := { State.reset with phase := .off, pins := { inputOn := false, rails := false } }
       s.pins.inputOn = false ∧ s.pins.pwren = true ∧ s.pins.thermtrip = false ∧ s.phase = .off)
    ∧ State.reset.phase ≠ .off ∧ 10 ≤ 10 := by decide
theorem witness_SupplyPowerAndCooling :
    rdy.phase = .ready ∧ rdy.pwr.inWarn = false ∧ rdy.pwr.inDoubt = false ∧ rdy.ctxs = [] ∧ rdy.trigger = none ∧ rdy.txn.state = .idle
      ∧ ({ rdy with pwr := { inWarn := true } } : State).pwr.inWarn = true ∧ ({ rdy with pwr := { inDoubt := true } } : State).pwr.inDoubt = true
      ∧ ({ rdy with pwr := { change := some (4, 0) } } : State).pwr.change = some (4, 0) ∧ 7500 < 7501 ∧ (420 : Int) ≤ 420
      ∧ rdy.pins.coolFault = false ∧ rdy.pins.leak = false ∧ (rdy.die 7).railWarn = false ∧ (rdy.die 7).railDoubt = false
      ∧ (let s : State := { rdy with pwr := { dies := [(7, { railWarn := true, railDoubt := true })] } }
         (s.die 7).railWarn = true ∧ (s.die 7).railDoubt = true)
      ∧ (400 : Int) ≤ 400 ∧ rdy.pwr.change = none ∧ rdy.stepWanted = rdy.pwr.step
      ∧ ({ rdy with pwr := { supplyStep := 4 } } : State).stepWanted ≠ rdy.pwr.step := by decide

end Sys2Proof.Tests
end

section
/-!
PROOFS. The state after reset (R7), and the accesses and counters that the Keeper counts (R5, R146, R536, R544, R546).
-/

namespace Sys2Proof.Machine

/-! ### The state after reset -/

@[simp] theorem State.reset_scu (g : Nat) : State.reset.scu g = {} := rfl
@[simp] theorem State.reset_mu (g : Nat) : State.reset.mu g = {} := rfl

/-- External memory, the scratchpads and the contexts' save areas list no cell after reset. -/
theorem State.reset_memOk : State.reset.memOk := by
  refine ⟨rfl, fun e he => ?_, fun x hx => ?_⟩
  · exact absurd he List.not_mem_nil
  · exact absurd hx List.not_mem_nil

/-- A scalar unit that lists no register holds zero in each of them, g0 included. -/
@[simp] theorem Scu.reg_default (r : Nat) : ({} : Scu).reg r = {} := by
  unfold Scu.reg
  split
  · rfl
  · rfl

@[simp] theorem Scu.pred_default (r : Nat) : ({} : Scu).pred r = {} := rfl

/-- Settles O5: every table and memory is empty after reset, so a read of one gives its default, and the defaults are the
values of the Reset columns. -/
theorem resetState : Obligations.ResetState := by
  have hreg : ∀ g r, (State.reset.scu g).reg r = {} := fun g r => by rw [State.reset_scu, Scu.reg_default]
  have hpred : ∀ g r, (State.reset.scu g).pred r = {} := fun g r => by rw [State.reset_scu, Scu.pred_default]
  have hmu : ∀ g a, memGet (State.reset.mu g).mem a = 0 := fun g a => by rw [State.reset_mu]; rfl
  exact ⟨State.reset_memOk, rfl, rfl, rfl, hreg, hpred, hmu, fun _ => rfl, fun _ => ⟨rfl, rfl⟩, fun _ => rfl, rfl, fun _ => rfl,
    rfl, rfl, rfl, rfl, rfl, rfl, rfl⟩

/-! ### Refused and abandoned accesses -/

theorem exec_registerAccessMisaligned_refused (r : Requester) (a : RegAddr) (size p : Nat) (w : Bool) (s : State)
    (he : s.enumerated r = true) (h : s.refused r = some p) :
    exec (.registerAccessMisaligned r a size w) s = .next (s.emit (.unsupported p)) := by
  simp [exec, execRegisterAccessMisaligned, he, h]

theorem exec_registerAccessMisaligned_bad (r : Requester) (a : RegAddr) (size : Nat) (w : Bool) (s : State)
    (he : s.enumerated r = true) (h : s.refused r = none) :
    exec (.registerAccessMisaligned r a size w) s
      = .next (if w then s.badAccess r a.offset else (s.badAccess r a.offset).emit (.readReply r 0)) := by
  simp [exec, execRegisterAccessMisaligned, he, h]

theorem exec_heldAccessTimeout (n : Nat) (h : Held) (s : State) (hn : s.held[n]? = some h) :
    exec (.heldAccessTimeout n) s
      = .next (let e := s.advanceTo (h.since + 5000000)
               let d : State := { e with held := e.held.eraseIdx n, kpr := { e.kpr with timeouts := min (e.kpr.timeouts + 1) 0xFFFFFFFF } }
               if h.write then d else d.emit (.readReply h.who (BitVec.allOnes 64))) := by
  simp only [exec, execHeldAccessTimeout, hn, listDel, sat32]

/-! ### Wraps of performance counters -/

theorem perfAdd_noWrap (p : Perf) (n : Nat) (h : p.count + n < 2 ^ 48) : perfAdd p n = { p with count := p.count + n } := by
  have hle : decide (2 ^ 48 ≤ p.count + n) = false := decide_eq_false (Nat.not_le.2 h)
  simp only [perfAdd, Nat.mod_eq_of_lt h, Nat.div_eq_of_lt h, hle, Bool.or_false, Nat.add_zero]

/-- From a count below 2^48, no more than 2^48 events wrap the counter once at most. -/
theorem perfAdd_wrap (p : Perf) (n : Nat) (hp : p.count < 2 ^ 48) (hn : n ≤ 2 ^ 48) (h : 2 ^ 48 ≤ p.count + n) :
    perfAdd p n = { p with count := p.count + n - 2 ^ 48, ovf := true, signals := p.signals + 1 } := by
  have hmod : (p.count + n) % 2 ^ 48 = p.count + n - 2 ^ 48 := by omega
  have hdiv : (p.count + n) / 2 ^ 48 = 1 := by omega
  simp only [perfAdd, hmod, hdiv, h, decide_true, Bool.or_true]

theorem Perf.taken_some (p : Perf) (h : p.signals ≠ 0) : p.taken = some { p with signals := p.signals - 1 } := if_neg h

theorem Perf.taken_none (p : Perf) (h : p.signals = 0) : p.taken = none := if_pos h

/-- The Keeper's count of the wraps of the counter at a management offset (R532). -/
def State.countWrap (s : State) (off : Nat) : State :=
  { s with kpr := { s.kpr with wraps := tabSet s.kpr.wraps off (tabGet 0 s.kpr.wraps off + 1) } }

theorem exec_perfCounterWrap_counted (off : Nat) (s t : State) (hp : isPerf off = true) (hw : s.wrapped off = some t) :
    exec (.perfCounterWrap off) s = .next (t.countWrap off) := by
  simp [exec, execPerfCounterWrap, hp, hw, State.countWrap]

theorem exec_perfCounterWrap_noSignal (off : Nat) (s : State) (hw : s.wrapped off = none) :
    exec (.perfCounterWrap off) s = .next s := by
  simp [exec, execPerfCounterWrap, hw]

/-- The management offset of register `o` of local unit `u` of cluster `c`. -/
def windowReg (c u o : Nat) : Nat := 0x4000000 + c * 0x8000 + u * 0x400 + o

/-- The cluster, the unit and the register that such an offset names. -/
theorem windowReg_fields (c : Fin 2048) (u o : Nat) (hu : u < 32) (ho : o < 0x400) :
    0x4000000 ≤ windowReg c.val u o ∧ windowReg c.val u o < 0x8000000 ∧ (windowReg c.val u o - 0x4000000) / 0x8000 = c.val
      ∧ windowReg c.val u o % 0x8000 / 0x400 = u ∧ windowReg c.val u o % 0x400 = o := by
  have hc := c.isLt
  unfold windowReg
  omega

/-- The offset of a matrix unit's busy counter. -/
def mcuBusyReg (u : McuId) : Nat := windowReg u.cluster.val (12 + u.k.val) 0x30

theorem isPerf_mcuBusy (u : McuId) : isPerf (mcuBusyReg u) = true := by
  have hk := u.k.isLt
  obtain ⟨hlo, hhi, -, hu, ho⟩ := windowReg_fields u.cluster (12 + u.k.val) 0x30 (by omega) (by omega)
  have hmcu : 12 + u.k.val < 16 := by omega
  simp [isPerf, mcuBusyReg, hlo, hhi, hu, ho, hmcu]

/-- It counts array cycles, so its wrap only sets `ovf` (log 54). -/
theorem wrapped_mcuBusy (u : McuId) (s : State) :
    s.wrapped (mcuBusyReg u)
      = some (s.setMcu (mcuGid u) { s.mcu (mcuGid u) with busy := { (s.mcu (mcuGid u)).busy with ovf := true } }) := by
  have hk := u.k.isLt
  obtain ⟨hlo, -, hc, hu, ho⟩ := windowReg_fields u.cluster (12 + u.k.val) 0x30 (by omega) (by omega)
  have hmcu : 12 + u.k.val < 16 := by omega
  have hcyc : isCycles (mcuBusyReg u) = true := by simp [isCycles, mcuBusyReg, hu, hmcu]
  have hwin : ¬ mcuBusyReg u < 0x4000000 := Nat.not_lt.2 hlo
  unfold State.wrapped
  rw [if_neg hwin, if_pos hcyc]
  simp [State.wrapCycles, mcuBusyReg, mcuGid, hc, hu, ho, hmcu]

/-- The offset of a vector unit's counter of flits. -/
def vcuFlitsReg (w : VcuId) : Nat := windowReg w.cluster.val (16 + w.k.val) 0x30

theorem isPerf_vcuFlits (w : VcuId) : isPerf (vcuFlitsReg w) = true := by
  have hk := w.k.isLt
  obtain ⟨hlo, hhi, -, hu, ho⟩ := windowReg_fields w.cluster (16 + w.k.val) 0x30 (by omega) (by omega)
  have hvcu : 16 + w.k.val < 20 := by omega
  simp [isPerf, vcuFlitsReg, hlo, hhi, hu, ho, hvcu]

/-- It has wrapped when the Keeper takes a signal that it has sent. -/
theorem wrapped_vcuFlits (w : VcuId) (s : State) :
    s.wrapped (vcuFlitsReg w)
      = (s.vcu (vcuGid w)).flits.taken.map (fun p => s.setVcu (vcuGid w) { s.vcu (vcuGid w) with flits := p }) := by
  have hk := w.k.isLt
  obtain ⟨hlo, -, hc, hu, ho⟩ := windowReg_fields w.cluster (16 + w.k.val) 0x30 (by omega) (by omega)
  have hvcu : 16 + w.k.val < 20 := by omega
  have hscu : ¬ 20 ≤ 16 + w.k.val := by omega
  have hcyc : ¬ isCycles (vcuFlitsReg w) = true := by simp [isCycles, vcuFlitsReg, hu, ho, hscu]
  have hwin : ¬ vcuFlitsReg w < 0x4000000 := Nat.not_lt.2 hlo
  unfold State.wrapped
  rw [if_neg hwin, if_neg hcyc]
  simp [State.takeSignal, vcuFlitsReg, vcuGid, hc, hu, hvcu]

/-- The offset of a memory controller's counter of reads. -/
def ctrlReadsReg (n : Nat) : Nat := 0x200000 + n * 0x10000 + 0x38

/-- The controller and the register that such an offset names. -/
theorem ctrlReadsReg_fields (n : Fin 20) :
    0x200000 ≤ ctrlReadsReg n.val ∧ ctrlReadsReg n.val < 0x340000 ∧ (ctrlReadsReg n.val - 0x200000) / 0x10000 = n.val
      ∧ ctrlReadsReg n.val % 0x10000 = 0x38 := by
  have hn := n.isLt
  unfold ctrlReadsReg
  omega

theorem isPerf_ctrlReads (n : Fin 20) : isPerf (ctrlReadsReg n.val) = true := by
  obtain ⟨hlo, hhi, -, ho⟩ := ctrlReadsReg_fields n
  have hglobal : ¬ 0x4000000 ≤ ctrlReadsReg n.val := by omega
  simp [isPerf, hglobal, hlo, hhi, ho]

/-- It too has wrapped when the Keeper takes a signal that it has sent. -/
theorem wrapped_ctrlReads (n : Fin 20) (s : State) :
    s.wrapped (ctrlReadsReg n.val)
      = (s.ctrl n.val).perfRd.taken.map (fun p => s.setCtrl n.val { s.ctrl n.val with perfRd := p }) := by
  obtain ⟨-, hhi, hn, ho⟩ := ctrlReadsReg_fields n
  have hglobal : ctrlReadsReg n.val < 0x4000000 := by omega
  unfold State.wrapped
  rw [if_pos hglobal]
  simp [Ctrl.takeSignal, hn, ho, Function.comp_def]

/-- Settles O36: a misaligned access by the frame of `badAccess`, a wrap by what each kind of counter answers to it. -/
theorem accessesCounted : Obligations.AccessesCounted := by
  refine ⟨fun r a size s he => ⟨fun hr => ?_, fun p w hr => exec_registerAccessMisaligned_refused r a size p w s he hr⟩,
    fun n h u w k s ended hend => ?_, fun p n hp hn => ⟨perfAdd_noWrap p n, perfAdd_wrap p n hp hn⟩⟩
  · obtain ⟨hbad, hout, hregs⟩ := badAccess_frame s r a.offset
    refine ⟨⟨_, exec_registerAccessMisaligned_bad r a size true s he hr, hbad, hout, hregs⟩,
      ⟨_, exec_registerAccessMisaligned_bad r a size false s he hr, hbad, ?_⟩⟩
    exact congrArg (· ++ [OutItem.readReply r 0]) hout
  · subst hend
    refine ⟨fun hn => exec_heldAccessTimeout n h s hn, ?_, fun hs => ?_, fun hs => ?_, fun hs => ?_⟩
    · exact exec_perfCounterWrap_counted _ s _ (isPerf_mcuBusy u) (wrapped_mcuBusy u s)
    · have hw := wrapped_vcuFlits w s
      rw [Perf.taken_some _ hs] at hw
      exact exec_perfCounterWrap_counted _ s _ (isPerf_vcuFlits w) hw
    · have hw := wrapped_vcuFlits w s
      rw [Perf.taken_none _ hs] at hw
      exact exec_perfCounterWrap_noSignal _ s hw
    · have hw := wrapped_ctrlReads k s
      rw [Perf.taken_some _ hs] at hw
      exact exec_perfCounterWrap_counted _ s _ (isPerf_ctrlReads k) hw

end Sys2Proof.Machine
end

section
/-!
PROOFS. The global unit ID and where the model writes it (R30, R194, R297).
-/

namespace Sys2Proof.Machine

/-! ### The fields of a global unit ID -/

theorem gidOf_lt (c : Fin 2048) (i : Fin 32) : gidOf c.val i.val < 2 ^ 16 := by
  have hc := c.isLt
  have hi := i.isLt
  unfold gidOf
  omega

theorem clusterOf_gidOf (c : Nat) (i : Fin 32) : clusterOf (gidOf c i.val) = c := by
  have hi := i.isLt
  unfold clusterOf gidOf
  omega

theorem localOf_gidOf (c : Nat) (i : Fin 32) : localOf (gidOf c i.val) = i.val := by
  have hi := i.isLt
  unfold localOf gidOf
  omega

/-- Bits `hi` to `lo` by division. -/
theorem fld_eq_div_mod (x hi lo : Nat) : fld x hi lo = x / 2 ^ lo % 2 ^ (hi + 1 - lo) := by
  rw [fld, Nat.shiftRight_eq_div_pow]

/-- Below 2^16, nothing lies above bit 15, so bits [15:5] are the whole quotient by 32. -/
theorem fld_cluster (g : Nat) (hg : g < 2 ^ 16) : fld g 15 5 = clusterOf g := by
  have hq : g / 2 ^ 5 < 2 ^ (15 + 1 - 5) := by omega
  exact (fld_eq_div_mod g 15 5).trans (Nat.mod_eq_of_lt hq)

theorem fld_local (g : Nat) : fld g 4 0 = localOf g := rfl

/-! ### Where a unit is named -/

/-- Bits [31:16] of a ring record's header hold the low 16 bits of the sender (R194): the length lies below them, and
every other field is a multiple of 2^32. -/
theorem fld_ringHeader_sender (len g ctx seq tag : Nat) (pad fog comb : Bool) :
    fld (ringHeader len g ctx seq tag pad fog comb) 31 16 = g % 2 ^ 16 := by
  rw [fld_eq_div_mod, ringHeader]
  omega

@[simp] theorem State.aboutUnit_unit (s : State) (g : Nat) (e : ErrRec) : (s.aboutUnit g e).unit = g := rfl

@[simp] theorem qsendMsg_sender (g : Nat) (r : Run) (bytes : List Byte) (fog : Bool) : (qsendMsg g r bytes fog).sender = g := rfl

@[simp] theorem State.special_unit (s : State) (g : Nat) : s.special g 2 = g := rfl

/-- Settles O9: the two fields are the quotient and the remainder by 32 of an ID below 2^16, and a record, a message, the
header of its record in a ring and special register 2 carry that ID whole. -/
theorem globalUnitId : Obligations.GlobalUnitId := by
  refine ⟨fun c i => ?_, fun m u v k => ⟨rfl, rfl, rfl, rfl⟩, fun c i len ctx seq tag pad fog comb r bytes e s => ?_⟩
  · have hcluster := clusterOf_gidOf c.val i
    have hlocal := localOf_gidOf c.val i
    have hlt := gidOf_lt c i
    exact ⟨rfl, hlt, (fld_cluster _ hlt).trans hcluster, (fld_local _).trans hlocal, hcluster, hlocal⟩
  · have hheader := (fld_ringHeader_sender len (gidOf c.val i.val) ctx seq tag pad fog comb).trans
      (Nat.mod_eq_of_lt (gidOf_lt c i))
    exact ⟨s.aboutUnit_unit _ e, qsendMsg_sender _ r bytes fog, hheader, s.special_unit _⟩

end Sys2Proof.Machine
end

section
/-!
PROOFS. Conversion to an integer format (R68, R69, R72).
-/

namespace Sys2Proof.Machine

/-! ### The integer formats -/

theorem fmtInt_iff (f : Nat) : fmtInt f = true ↔ f = 0x08 ∨ f = 0x09 ∨ f = 0x0A ∨ f = 0x0B ∨ f = 0x0C := by
  simp [fmtInt, or_assoc]

/-- An integer format has no NaN, and R69 gives 0 for it. -/
theorem nanBits_of_fmtInt {f : Nat} (hf : fmtInt f = true) : nanBits f = 0 := by
  obtain rfl | rfl | rfl | rfl | rfl := (fmtInt_iff f).mp hf <;> rfl

/-- The range of a format is not empty: it holds 0 in the signed formats and in the unsigned one. -/
theorem intBounds_fst_le_snd (f : Nat) : (intBounds f).1 ≤ (intBounds f).2 := by
  have hpos : 0 < 2 ^ (fmtBits f - 1) := Nat.two_pow_pos _
  unfold intBounds
  split
  · decide
  · dsimp only
    omega

/-! ### The converter on each kind of value -/

@[simp] theorem convert_nan (f mode : Nat) : convert f mode .nan = (nanBits f, false) := rfl

theorem convert_inf_of_fmtInt {f : Nat} (hf : fmtInt f = true) (mode : Nat) (neg : Bool) :
    convert f mode (.inf neg) = (wrapInt (if neg then (intBounds f).1 else (intBounds f).2) (fmtBits f), false) :=
  if_pos hf

/-- The integer a finite value rounds to, before saturation (R64). -/
def intRound (mode : Nat) (neg : Bool) (m : Nat) (e : Int) : Int :=
  if neg then -(roundTo (decide (mode = 1)) m e 0 : Int) else (roundTo (decide (mode = 1)) m e 0 : Int)

theorem convert_fin_of_fmtInt {f : Nat} (hf : fmtInt f = true) (mode : Nat) (neg : Bool) (m : Nat) (e : Int) :
    convert f mode (.fin neg m e) =
      if intRound mode neg m e < (intBounds f).1 then (wrapInt (intBounds f).1 (fmtBits f), true)
      else if (intBounds f).2 < intRound mode neg m e then (wrapInt (intBounds f).2 (fmtBits f), true)
      else (wrapInt (intRound mode neg m e) (fmtBits f), false) :=
  if_pos hf

/-- Below the range, above it and inside it, the code is that of the nearest integer of the range, and the saturation flag
says that the integer lay outside (R72). -/
theorem convert_fin_saturates {f : Nat} (hf : fmtInt f = true) (mode : Nat) (neg : Bool) (m : Nat) (e : Int) :
    convert f mode (.fin neg m e) =
      (wrapInt (max (intBounds f).1 (min (intBounds f).2 (intRound mode neg m e))) (fmtBits f),
        decide (intRound mode neg m e < (intBounds f).1 ∨ (intBounds f).2 < intRound mode neg m e)) := by
  have hle := intBounds_fst_le_snd f
  rw [convert_fin_of_fmtInt hf]
  generalize intRound mode neg m e = q
  split
  case isTrue hlow =>
    have hmin : min (intBounds f).2 q = q := min_eq_right (hlow.le.trans hle)
    rw [hmin, max_eq_left hlow.le, decide_eq_true (Or.inl hlow)]
  case isFalse hlow =>
    split
    case isTrue hhigh => rw [min_eq_left hhigh.le, max_eq_right hle, decide_eq_true (Or.inr hhigh)]
    case isFalse hhigh =>
      rw [min_eq_right (not_lt.mp hhigh), max_eq_right (not_lt.mp hlow), decide_eq_false (not_or.mpr ⟨hlow, hhigh⟩)]

/-- Settles O27: the NaN code of an integer format is 0, an infinity takes the bound of its sign, and a finite value is
rounded and then clamped between the bounds. -/
theorem integerConversionSaturates : Obligations.IntegerConversionSaturates := by
  intro f mode hf
  refine ⟨?_, ?_, ?_, fun neg m e => convert_fin_saturates hf mode neg m e⟩
  · rw [convert_nan, nanBits_of_fmtInt hf]
  · rw [convert_inf_of_fmtInt hf, if_pos rfl]
  · rw [convert_inf_of_fmtInt hf, if_neg Bool.false_ne_true]

end Sys2Proof.Machine
end

section
/-!
PROOFS. The slot and window instructions of a memory unit (R101, R104, R105, R107, R108).
-/

namespace Sys2Proof.Machine

/-! ### Each instruction at issue -/

theorem slotDefIssue_of_ok {s : State} {g : Nat} {h : Issued} (hc : s.issueCheck g h = none)
    (hlen : recFld (s.recordOf g h.i) 27 14 ≠ 0) (hreaders : recFld (s.recordOf g h.i) 31 28 ≠ 0)
    (hzero : recFld (s.recordOf g h.i) 255 32 = 0) (hempty : ((s.mu g).slot h.i.num).state = .empty) :
    slotDefIssue s g h = (s.setMu g ((s.mu g).setSlot h.i.num
      { base := recFld (s.recordOf g h.i) 13 0, length := recFld (s.recordOf g h.i) 27 14
        readers := recFld (s.recordOf g h.i) 31 28, gen := ((s.mu g).slot h.i.num).gen + 1 })).headDone g h := by
  have hgood : ¬ (recFld (s.recordOf g h.i) 27 14 = 0 ∨ recFld (s.recordOf g h.i) 31 28 = 0 ∨ recFld (s.recordOf g h.i) 255 32 ≠ 0
      ∨ ((s.mu g).slot h.i.num).state ≠ .empty) := by
    rintro (hl | hr | hz | he)
    · exact hlen hl
    · exact hreaders hr
    · exact hz hzero
    · exact he hempty
  unfold slotDefIssue
  rw [hc]
  exact if_neg hgood

theorem slotClrIssue_of_ok {s : State} {g : Nat} {h : Issued} (hc : s.issueCheck g h = none) :
    slotClrIssue s g h = (s.setMu g ((s.mu g).setSlot h.i.num
      { (s.mu g).slot h.i.num with state := .empty, started := 0, completed := 0, gen := ((s.mu g).slot h.i.num).gen + 1 })).headDone g h := by
  unfold slotClrIssue
  rw [hc]

section WinOpen
variable {s : State} {g : Nat} {h : Issued} (hc : s.issueCheck g h = none)
  (hlen : recFld (s.recordOf g h.i) 31 16 ≠ 0) (hzero : recFld (s.recordOf g h.i) 255 47 = 0)
  (hrange : (s.mu g).rangeOk (recFld (s.recordOf g h.i) 15 0 * 64) (recFld (s.recordOf g h.i) 31 16 * 64) = true)
include hc hlen hzero hrange

/-- A WIN.OPEN whose record is good waits with its window closed while an accepted write is to be performed (R105). -/
theorem winOpenIssue_of_busy (hb : (s.mu g).winBusy h.i.num = true) :
    winOpenIssue s g h = s.setMu g ((s.mu g).closeWin h.i.num) := by
  unfold winOpenIssue
  simp only [hc, hlen, hzero, hrange, hb, ne_eq, not_true_eq_false, if_false, decide_false, Bool.not_true, Bool.or_false, Bool.false_eq_true, if_true]

theorem winOpenIssue_of_idle (hb : (s.mu g).winBusy h.i.num = false) :
    winOpenIssue s g h =
      (let u := s.mu g
       let p := s.recordOf g h.i
       let w : Win := { base := recFld p 15 0, length := recFld p 31 16, writer := recFld p 43 32, rights := recFld p 46 44, opened := true,
                        epoch := ((u.win h.i.num).epoch + 1) % 65536 }
       (s.setMu g { u.setWin h.i.num w with
         downReq := u.downReq &&& ~~~ (u.downReq &&& u.powered &&& w.groups)
         cancelled := u.cancelled ||| (u.downReq &&& u.powered &&& w.groups) }).headDone g h) := by
  unfold winOpenIssue
  simp only [hc, hlen, hzero, hrange, hb, ne_eq, not_true_eq_false, if_false, decide_false, Bool.not_true, Bool.or_false, Bool.false_eq_true]

end WinOpen

theorem winCloseIssue_of_busy {s : State} {g : Nat} {h : Issued} (hc : s.issueCheck g h = none)
    (hb : (s.mu g).winBusy h.i.num = true) : winCloseIssue s g h = s.setMu g ((s.mu g).closeWin h.i.num) := by
  unfold winCloseIssue
  simp only [hc, hb, if_true]

theorem winCloseIssue_of_idle {s : State} {g : Nat} {h : Issued} (hc : s.issueCheck g h = none)
    (hb : (s.mu g).winBusy h.i.num = false) :
    winCloseIssue s g h = (s.setMu g ((s.mu g).closeWin h.i.num)).headDone g h := by
  unfold winCloseIssue
  simp only [hc, hb, if_false, Bool.false_eq_true]

theorem State.headReady.check {s : State} {g op : Nat} {h : Issued} (hr : s.headReady g op h) : s.issueCheck g h = none := by
  obtain ⟨-, -, -, -, -, -, hcheck⟩ := hr
  exact hcheck

/-- With the head ready, a command is what its issue makes of the head. -/
theorem tensorCmd_issues {s t : State} {g op : Nat} {h : Issued} {issue : State → Nat → Issued → State} {adv : State → Run → Option State}
    (hr : s.headReady g op h) (hi : issue s g h = t) : tensorCmd s g (· == op) (fun s h => issue s g h) adv = .next t :=
  (tensorCmd_issue s g op h _ adv hr).trans (congrArg _ hi)

theorem exec_slotDef (m : MuId) (s : State) :
    exec (.slotDef m) s = tensorCmd s (muGid m) (· == 0x05) (fun s h => slotDefIssue s (muGid m) h) (fun _ _ => none) := rfl

theorem exec_slotClr (m : MuId) (s : State) :
    exec (.slotClr m) s = tensorCmd s (muGid m) (· == 0x06) (fun s h => slotClrIssue s (muGid m) h) (fun _ _ => none) := rfl

theorem exec_winOpen (m : MuId) (s : State) :
    exec (.winOpen m) s = tensorCmd s (muGid m) (· == 0x07) (fun s h => winOpenIssue s (muGid m) h) (fun _ _ => none) := rfl

theorem exec_winClose (m : MuId) (s : State) :
    exec (.winClose m) s = tensorCmd s (muGid m) (· == 0x08) (fun s h => winCloseIssue s (muGid m) h) (fun _ _ => none) := rfl

/-- Settles O20: a head that is ready issues, and each issue has the case of its record and its window. -/
theorem slotAndWindowInstructions : Obligations.SlotAndWindowInstructions := by
  intro m h s g u p k
  refine ⟨fun hr hlen hreaders hzero hempty => ?_, fun hr => ?_, fun hr hlen hzero hrange hb => ?_, fun hr hb => ?_,
    fun e he hr hb hrec => ?_⟩
  · exact (exec_slotDef m s).trans (tensorCmd_issues hr (slotDefIssue_of_ok hr.check hlen hreaders hzero hempty))
  · exact (exec_slotClr m s).trans (tensorCmd_issues hr (slotClrIssue_of_ok hr.check))
  · exact (exec_winOpen m s).trans (tensorCmd_issues hr (winOpenIssue_of_idle hr.check hlen hzero hrange hb))
  · exact (exec_winClose m s).trans (tensorCmd_issues hr (winCloseIssue_of_idle hr.check hb))
  · simp only [List.mem_cons, List.not_mem_nil, or_false] at he
    obtain rfl | rfl := he
    · obtain ⟨hlen, hzero, hrange⟩ := hrec rfl
      exact (exec_winOpen m s).trans (tensorCmd_issues hr (winOpenIssue_of_busy hr.check hlen hzero hrange hb))
    · exact (exec_winClose m s).trans (tensorCmd_issues hr (winCloseIssue_of_busy hr.check hb))

end Sys2Proof.Machine
end

section
/-!
PROOFS. The life of a slot, its grant, and the completion of an instruction (R102, R103, R184, R286).
-/

namespace Sys2Proof.Machine

/-! ### A slot -/

theorem Slot.mayStart_write (x : Slot) : x.mayStart true = true ↔ x.state = .empty := by
  simp [Slot.mayStart]

theorem Slot.mayStart_read (x : Slot) :
    x.mayStart false = true ↔ x.state = .full ∨ (x.state = .draining ∧ x.started < x.readers) := by
  simp [Slot.mayStart]

theorem Slot.start_read_of_full {x : Slot} (h : x.state = .full) :
    x.start false = { x with state := .draining, started := 1, completed := 0 } := by
  simp [Slot.start, h]

theorem Slot.start_read_of_draining {x : Slot} (h : x.state = .draining) :
    x.start false = { x with started := x.started + 1 } := by
  simp [Slot.start, h]

theorem Slot.finish_read_last {x : Slot} (h : x.completed + 1 = x.readers) :
    x.finish false = { x with state := .empty, started := 0, completed := 0 } := by
  simp [Slot.finish, h]

theorem Slot.finish_read_before_last {x : Slot} (h : x.completed + 1 < x.readers) :
    x.finish false = { x with completed := x.completed + 1 } := by
  have hne : x.completed + 1 ≠ x.readers := Nat.ne_of_lt h
  simp [Slot.finish, hne]

/-! ### A grant and a completion -/

theorem exec_slotGrant_granted {m : MuId} {slot : Fin 256} {e : Nat × Nat × Bool} {r : Run} {s : State}
    (hacts : s.acts (muGid m) = true) (hstop : (s.tu (muGid m)).stopped = false)
    (hq : (s.mu (muGid m)).slotQ.find? (fun e => e.1 == slot.val && ((s.mu (muGid m)).slot slot.val).mayStart e.2.2) = some e)
    (hrun : (s.tu (muGid m)).running.find? (fun r => r.id == e.2.1) = some r) :
    exec (.slotGrant m slot) s = .next ((s.grantSlot (muGid m) slot.val e.2.2 r).progress m.cluster.val) := by
  simp [exec, execSlotGrant, hacts, hstop, hq, hrun]

/-- A unit's one instruction is among those it holds, unless it is a CHAIN; so is it in a VCU, which looks at the first. -/
theorem Tu.holds_singleton {t : Tu} {r : Run} (h : t.running = [r]) (hop : r.iss.i.op ≠ 0x60) : t.holds = [r] := by
  simp [Tu.holds, h, hop]

theorem State.complete_unchained {s : State} {g : Nat} {r : Run} (h : r.iss.chain = none) :
    s.complete g r = ((s.dropRun g r.id).postTag g r.iss r.status).progress (clusterOf g) := by
  simp [State.complete, h]

theorem exec_instructionComplete_single {u : TuId} {r : Run} {s : State} (hacts : s.acts (tuGid u) = true)
    (hrun : (s.tu (tuGid u)).running = [r]) (hop : r.iss.i.op ≠ 0x60) (hmay : s.mayComplete (tuGid u) r = true) :
    exec (.instructionComplete u) s = .next (s.complete (tuGid u) r) := by
  have hholds : (if unitClass u.idx.val = 2 then [r].take 1 else [r]) = [r] := ite_self _
  simp only [exec, execInstructionComplete, hacts, Tu.holds_singleton hrun hop, hholds, List.find?_cons_of_pos hmay, Bool.not_true,
    Bool.false_eq_true, if_false]

/-- Settles O21: each step of a slot by its state and counts; the first waiter that may start is granted; a unit's only
instruction is the first that meets its condition. -/
theorem slotsGrantAndComplete : Obligations.SlotsGrantAndComplete := by
  refine ⟨fun x => ⟨x.mayStart_write, rfl, rfl, x.mayStart_read, fun h => ?_, fun h => ?_, fun h => ?_, fun h => ?_⟩,
    fun m u slot e r s => ⟨exec_slotGrant_granted, fun hacts hrun hmay hchain hop => ?_⟩⟩
  · rw [Slot.start_read_of_full h]
    exact ⟨rfl, rfl, rfl⟩
  · rw [Slot.start_read_of_draining h]
    exact ⟨h, rfl⟩
  · rw [Slot.finish_read_last h]
  · rw [Slot.finish_read_before_last h]
    exact ⟨rfl, rfl⟩
  · rw [exec_instructionComplete_single hacts hrun hop hmay, State.complete_unchained hchain, clusterOf_tuGid]

end Sys2Proof.Machine
end

section
/-!
PROOFS. The issue of the data movement instructions of a memory unit (R83, R86, R270, R281).
-/

namespace Sys2Proof.Machine

/-! ### The state after an issue -/

/-- What a data movement instruction is once it is in progress: its record, its descriptors as they stand, its generators. -/
def State.moveRun (s : State) (g : Nat) (h : Issued) (gens : List Nat) : Run :=
  { iss := h, prm := s.recordOf g h.i, latch := (s.mu g).latchOf h.i, gens := gens
    slotBase := ((s.mu g).slotRange h.i.num).1, slotLen := ((s.mu g).slotRange h.i.num).2 }

/-- The transfer engine of a memory unit begins. -/
def State.startXf (s : State) (g : Nat) : State :=
  s.setMu g { s.mu g with xf := { (s.mu g).xf with active := true, faultWait := false, delivered := [] } }

theorem moveIssue_of_ok {s : State} {g : Nat} {h : Issued} {gens : List Nat} (hc : s.issueCheck g h = none) (hm : s.moveBad g h = none)
    (hg : s.freeGens g (muNeeds h.i).reads (muNeeds h.i).writes = some gens) (hx : s.xposeTaken g = false)
    (ha : (s.mu g).xf.active = false) :
    moveIssue s g h
      = if h.i.op = 0x04 then (s.beginRun g (s.moveRun g h gens)).startXf g else s.beginRun g (s.moveRun g h gens) := by
  unfold moveIssue
  simp only [hc, hm, hg, hx, ha, Bool.and_false, Bool.false_eq_true, if_false]
  rfl

/-- A head whose opcode is one of those that wait for generators is issued by GENERATOR_ACQUIRE. -/
theorem exec_generatorAcquire_moves {m : MuId} {s : State} {op : Nat} {h : Issued} (hr : s.headReady (muGid m) op h)
    (hop : op ∈ [0x01, 0x02, 0x03, 0x09, 0x0A]) : exec (.generatorAcquire m) s = .next (moveIssue s (muGid m) h) := by
  obtain ⟨hacts, hstop, -, hhead, hheld, rfl, -⟩ := hr
  obtain ⟨l, hl⟩ := List.head?_eq_some_iff.1 hhead
  have hops : (h.i.op == 0x01 || h.i.op == 0x02 || h.i.op == 0x03 || h.i.op == 0x09 || h.i.op == 0x0A || h.i.op == 0x50) = true := by
    simp only [List.mem_cons, List.not_mem_nil, or_false] at hop
    simp only [Bool.or_eq_true, beq_iff_eq]
    tauto
  have hsend : h.i.op ≠ 0x50 := by
    intro he
    rw [he] at hop
    exact absurd hop (by decide)
  simp only [exec, execGeneratorAcquire, issueHead, hacts, hstop, hl, hheld, hops, if_neg hsend, Bool.not_true, Bool.or_self,
    Bool.false_eq_true, if_false, if_true]

theorem exec_ldW (m : MuId) (s : State) :
    exec (.ldW m) s = tensorCmd s (muGid m) (· == 0x01) (fun s h => moveIssue s (muGid m) h) (fun s r => moveAdvance s (muGid m) r) := rfl
theorem exec_stW (m : MuId) (s : State) :
    exec (.stW m) s = tensorCmd s (muGid m) (· == 0x02) (fun s h => moveIssue s (muGid m) h) (fun s r => stwAdvance s (muGid m) r) := rfl
theorem exec_pf (m : MuId) (s : State) :
    exec (.pf m) s = tensorCmd s (muGid m) (· == 0x03) (fun s h => moveIssue s (muGid m) h) (fun s r => pfAdvance s (muGid m) r) := rfl
theorem exec_xfer (m : MuId) (s : State) :
    exec (.xfer m) s = tensorCmd s (muGid m) (· == 0x04) (fun s h => moveIssue s (muGid m) h) (fun s r => xferAdvance s (muGid m) r) := rfl
theorem exec_importMu (m : MuId) (s : State) :
    exec (.importMu m) s = tensorCmd s (muGid m) (· == 0x09) (fun s h => moveIssue s (muGid m) h) (fun s r => moveAdvance s (muGid m) r) := rfl
theorem exec_contrib (m : MuId) (s : State) :
    exec (.contrib m) s = tensorCmd s (muGid m) (· == 0x0A) (fun s h => moveIssue s (muGid m) h) (fun s r => contribAdvance s (muGid m) r) := rfl

/-- The commands that issue a data movement instruction of an opcode. -/
def moveCommands (m : MuId) : List (Nat × Instr) :=
  [(0x01, .ldW m), (0x02, .stW m), (0x03, .pf m), (0x09, .importMu m), (0x0A, .contrib m), (0x04, .xfer m),
    (0x01, .generatorAcquire m), (0x02, .generatorAcquire m), (0x03, .generatorAcquire m), (0x09, .generatorAcquire m),
    (0x0A, .generatorAcquire m)]

theorem exec_moveCommand {m : MuId} {s : State} {h : Issued} {e : Nat × Instr} (he : e ∈ moveCommands m)
    (hr : s.headReady (muGid m) e.1 h) : exec e.2 s = .next (moveIssue s (muGid m) h) := by
  simp only [moveCommands, List.mem_cons, List.not_mem_nil, or_false] at he
  obtain rfl | rfl | rfl | rfl | rfl | rfl | he := he
  · exact (exec_ldW m s).trans (tensorCmd_issues hr rfl)
  · exact (exec_stW m s).trans (tensorCmd_issues hr rfl)
  · exact (exec_pf m s).trans (tensorCmd_issues hr rfl)
  · exact (exec_importMu m s).trans (tensorCmd_issues hr rfl)
  · exact (exec_contrib m s).trans (tensorCmd_issues hr rfl)
  · exact (exec_xfer m s).trans (tensorCmd_issues hr rfl)
  · obtain rfl | rfl | rfl | rfl | rfl := he
    all_goals exact exec_generatorAcquire_moves hr (by simp)

/-! ### What an issue changes -/

theorem State.beginRun_tu (s : State) (g : Nat) (r : Run) (g' : Nat) :
    (s.beginRun g r).tu g' = if g' = g then
      { s.tu g with iq := (s.tu g).iq.drop 1, running := (s.tu g).running ++ [{ r with id := (s.tu g).nextId }], nextId := (s.tu g).nextId + 1 }
      else s.tu g' := by
  simp [State.beginRun]

@[simp] theorem State.beginRun_mu (s : State) (g : Nat) (r : Run) (g' : Nat) : (s.beginRun g r).mu g' = s.mu g' := by
  simp [State.beginRun]

@[simp] theorem State.startXf_tu (s : State) (g g' : Nat) : (s.startXf g).tu g' = s.tu g' := by
  simp [State.startXf]

theorem State.startXf_mu (s : State) (g g' : Nat) :
    (s.startXf g).mu g' = if g' = g then
      { s.mu g with xf := { (s.mu g).xf with active := true, faultWait := false, delivered := [] } } else s.mu g' := by
  simp [State.startXf]

/-- Starting the transfer engine changes no byte. -/
@[simp] theorem State.startXf_mem (s : State) (g g' : Nat) : ((s.startXf g).mu g').mem = (s.mu g').mem := by
  rw [State.startXf_mu]
  split
  · subst_vars; rfl
  · rfl

/-- The tensor units and the bytes after an issue are those after the run has begun; the engine is active for an XFER only. -/
theorem moveIssued_frame (s : State) (g op : Nat) (r : Run) (ha : (s.mu g).xf.active = false) :
    let t := if op = 0x04 then (s.beginRun g r).startXf g else s.beginRun g r
    (∀ g', t.tu g' = (s.beginRun g r).tu g') ∧ ((t.mu g).xf.active = true ↔ op = 0x04) ∧ ∀ g', (t.mu g').mem = (s.mu g').mem := by
  dsimp only
  split
  case isTrue hop =>
    refine ⟨fun g' => State.startXf_tu _ g g', ?_, fun g' => ?_⟩
    · simp [State.startXf_mu, hop]
    · rw [State.startXf_mem, State.beginRun_mu]
  case isFalse hop =>
    refine ⟨fun _ => rfl, ?_, fun g' => ?_⟩
    · simp [ha, hop]
    · rw [State.beginRun_mu]

/-- Settles O22: every one of these commands issues the head, which begins its run. -/
theorem movementInstructionsIssue : Obligations.MovementInstructionsIssue := by
  intro m h gens s g e he hr hm hg hx ha
  have hop : h.i.op = e.1 := by
    obtain ⟨-, -, -, -, -, hop, -⟩ := hr
    exact hop
  obtain ⟨htu, hactive, hmem⟩ := moveIssued_frame s g h.i.op (s.moveRun g h gens) ha
  refine ⟨_, (exec_moveCommand he hr).trans (congrArg _ (moveIssue_of_ok hr.check hm hg hx ha)), ?_, ?_, ?_, fun g' a => ?_, fun g' hne => ?_⟩
  · rw [htu, State.beginRun_tu, if_pos rfl]
  · rw [htu, State.beginRun_tu, if_pos rfl]
    rfl
  · rw [hactive, hop]
  · rw [hmem]
  · rw [htu, State.beginRun_tu, if_neg hne]

end Sys2Proof.Machine
end

section
/-!
PROOFS. The data movement instructions in turn (R87, R88, R281, R349).
-/

namespace Sys2Proof.Machine

/-! ### The run in turn -/

theorem State.inTurn.op_eq {s : State} {g op : Nat} {r : Run} (hr : s.inTurn g op r) : r.iss.i.op = op := by
  obtain ⟨-, -, hrun, -⟩ := hr
  have hmem : r ∈ (s.tu g).running.filter (fun x => x.iss.i.op == op && !x.finished) := hrun ▸ List.mem_singleton_self r
  have hprop := (List.mem_filter.1 hmem).2
  simp only [Bool.and_eq_true, beq_iff_eq] at hprop
  exact hprop.1

/-- In turn, a command takes the run as far as its advance does. -/
theorem tensorCmd_advances {s t : State} {g op : Nat} {r : Run} {issue : State → Issued → State} {adv : State → Nat → Run → Option State}
    (hr : s.inTurn g op r) (ha : adv s g r = some t) :
    tensorCmd s g (· == op) issue (fun s r => adv s g r) = .next (t.progress (clusterOf g)) :=
  tensorCmd_advance s t g op r issue _ hr ha

/-- A run that names no slot, or holds the one it names, does not wait for one. -/
theorem Run.slotNum_or_granted {r : Run} (h : r.iss.i.slot = false ∨ r.slotGranted = true) : r.slotNum = none ∨ r.slotGranted = true := by
  refine h.imp_left fun hs => ?_
  unfold Run.slotNum
  rw [hs]
  rfl

/-! ### LD.W and IMPORT -/

/-- The slot that LD.W reads through; IMPORT has none. -/
def Run.moveSlot (r : Run) : Option Nat := if r.iss.i.op = 0x01 then r.slotNum else none

section Move
variable {s : State} {g : Nat} {r : Run} (hslot : r.moveSlot = none ∨ r.slotGranted = true) (hcount : r.iss.i.count ≠ 0) (hphase : r.phase = 2)
include hslot hcount hphase

theorem moveAdvance_stream (hdc : r.iss.i.dc = 0xFFFF) :
    moveAdvance s g r = some ((s.deliver g r (tensorFlits (r.desc r.iss.i.da).bits
      (splitRuns (r.desc r.iss.i.da) (r.els.getD 0 [])) (r.came.getD 0 []))).endRun g r r.moveSlot false) := by
  unfold moveAdvance Run.moveSlot
  unfold Run.moveSlot at hslot
  have hmem : (r.iss.i.dc != 0xFFFF) = false := by simp [hdc]
  obtain hnone | hgranted := hslot
  · simp only [hnone, if_neg hcount, hphase, hmem, Bool.not_false, if_true]
  · simp only [hgranted, if_neg hcount, hphase, hmem, Bool.not_false, if_true]
    cases (if r.iss.i.op = 0x01 then r.slotNum else none) <;> rfl

/-- The scratchpad walks of C, awake, take the elements read. -/
theorem moveAdvance_scratch (hdc : r.iss.i.dc ≠ 0xFFFF) (hext : (r.legs r.iss.i.dc r.sideC true).any (·.ext) = false)
    (hwake : s.wakeLegs g (r.legs r.iss.i.dc r.sideC true) = none) :
    moveAdvance s g r =
      (let legsC := r.legs r.iss.i.dc r.sideC true
       some ((((legsC.zip r.els).zip (upto 0 legsC.length)).foldl (fun s ((l, xs), k) =>
         s.writeWalk g l.d l.base (splitRuns l.d xs) (r.came.getD k [])) s).endRun g r r.moveSlot false)) := by
  unfold moveAdvance Run.moveSlot
  unfold Run.moveSlot at hslot
  have hmem : (r.iss.i.dc != 0xFFFF) = true := by simp [hdc]
  obtain hnone | hgranted := hslot
  · simp only [hnone, if_neg hcount, hphase, hmem, hext, hwake, Bool.not_true, Bool.false_eq_true, if_false, if_true]
  · simp only [hgranted, if_neg hcount, hphase, hmem, hext, hwake, Bool.not_true, Bool.false_eq_true, if_false, if_true]
    cases (if r.iss.i.op = 0x01 then r.slotNum else none) <;> rfl

end Move

/-! ### ST.W, PF and XFER -/

theorem stwAdvance_scratch {s : State} {g : Nat} {r : Run} (hslot : r.slotNum = none ∨ r.slotGranted = true) (hcount : r.iss.i.count ≠ 0)
    (hphase : r.phase = 2) (hext : (r.legs r.iss.i.dc r.sideC false).any (·.ext) = false)
    (hwake : s.wakeLegs g (r.legs r.iss.i.dc r.sideC false) = none) :
    stwAdvance s g r = some ((((r.legs r.iss.i.dc r.sideC false).zip r.els).foldl (fun s (l, xs) =>
      s.writeWalk g l.d l.base (splitRuns l.d xs) (r.came.getD 0 [])) s).endRun g r r.slotNum true) := by
  unfold stwAdvance
  obtain hnone | hgranted := hslot
  · simp only [hnone, if_neg hcount, hphase, hext, hwake, Bool.false_eq_true, if_false]
  · simp only [hgranted, if_neg hcount, hphase, hext, hwake, Bool.false_eq_true, if_false]
    cases r.slotNum <;> rfl

theorem pfAdvance_end {s : State} {g : Nat} {r : Run} (hphase : r.phase = 1)
    (hpush : s.pushRun g r .plain (r.desc r.iss.i.da).limit = none) (hdone : r.reqs.all (·.done) = true) :
    pfAdvance s g r = some (s.endRun g r none false) := by
  unfold pfAdvance
  simp only [hphase, hpush, hdone, if_true]

theorem xferAdvance_end {s : State} {g : Nat} {r : Run} (hslot : r.slotNum = none ∨ r.slotGranted = true) (hcount : r.iss.i.count ≠ 0)
    (hphase : r.phase = 1) (hreqs : r.reqs = []) (hrows : r.xferRows.length ≤ (s.mu g).xf.watermark) :
    xferAdvance s g r = some (s.xferEnd g r r.slotNum) := by
  have hstarted : ¬ (1 = 0) := by decide
  unfold xferAdvance
  obtain hnone | hgranted := hslot
  · simp only [hnone, if_neg hcount, hphase, hreqs, List.foldl_nil, List.find?_nil, if_pos hrows, if_neg hstarted]
  · simp only [hgranted, if_neg hcount, hphase, hreqs, List.foldl_nil, List.find?_nil, if_pos hrows, if_neg hstarted]
    cases r.slotNum <;> rfl

theorem State.xferEnd_of_count {s : State} {g : Nat} {r : Run} {slot : Option Nat} (hcount : r.iss.i.count ≠ 0) :
    s.xferEnd g r slot =
      (let u := (s.xferChecks g r).endRun g r slot true
       if r.iss.i.count ≤ r.run + 1 then u.setMu g { u.mu g with xf := { (u.mu g).xf with active := false } } else u) := by
  unfold State.xferEnd
  rw [if_neg hcount]

/-- Settles O23: each run in turn is at the phase of its last step, whose case of its advance applies. -/
theorem movementInstructionsCarryOut : Obligations.MovementInstructionsCarryOut := by
  intro m r s g c legsC d written hcount
  have hc : clusterOf g = c := clusterOf_muGid m
  refine ⟨fun hr hslot hphase hdc => ?_, fun e he hr hslot hphase hdc hext hwake => ?_, fun hr hslot hphase hext hwake => ?_,
    fun hr hphase hpush hdone => ?_, fun hr hslot hphase hreqs hrows => ?_⟩
  · have hmove : r.moveSlot = r.slotNum := if_pos hr.op_eq
    have hadv := moveAdvance_stream (s := s) (g := g) (hmove ▸ Run.slotNum_or_granted hslot) hcount hphase hdc
    rw [exec_ldW, tensorCmd_advances hr hadv, hc, hmove]
  · have hne : (r.iss.i.op != 0x02) = true := by
      simp only [List.mem_cons, List.not_mem_nil, or_false] at he
      rw [hr.op_eq]
      obtain rfl | rfl := he <;> rfl
    have hlegs : legsC = r.legs r.iss.i.dc r.sideC true := congrArg (r.legs r.iss.i.dc r.sideC) hne
    simp only [List.mem_cons, List.not_mem_nil, or_false] at he
    obtain rfl | rfl := he
    · have hmove : r.moveSlot = r.slotNum := if_pos hr.op_eq
      have hadv := moveAdvance_scratch (s := s) (g := g) (hmove ▸ Run.slotNum_or_granted (hslot rfl)) hcount hphase hdc (hlegs ▸ hext) (hlegs ▸ hwake)
      rw [exec_ldW, tensorCmd_advances hr hadv, hc, hmove]
      simp only [written, hlegs]
    · have hmove : r.moveSlot = none := if_neg (by simp [hr.op_eq])
      have hadv := moveAdvance_scratch (s := s) (g := g) (.inl hmove) hcount hphase hdc (hlegs ▸ hext) (hlegs ▸ hwake)
      rw [exec_importMu, tensorCmd_advances hr hadv, hc, hmove]
      simp only [written, hlegs]
  · have hlegs : legsC = r.legs r.iss.i.dc r.sideC false := congrArg (r.legs r.iss.i.dc r.sideC) (by rw [hr.op_eq]; rfl)
    have hadv := stwAdvance_scratch (s := s) (g := g) (Run.slotNum_or_granted hslot) hcount hphase (hlegs ▸ hext) (hlegs ▸ hwake)
    rw [exec_stW, tensorCmd_advances hr hadv, hc, hlegs]
  · rw [exec_pf, tensorCmd_advances hr (pfAdvance_end hphase hpush hdone), hc]
  · rw [exec_xfer, tensorCmd_advances hr (xferAdvance_end (Run.slotNum_or_granted hslot) hcount hphase hreqs hrows), hc,
      State.xferEnd_of_count hcount]

end Sys2Proof.Machine
end

section
/-!
PROOFS. Register writes in a cluster's window (R84, R108, R113, R145, R174, R210).
-/

namespace Sys2Proof.Machine

/-! ### The Keeper's write of a unit's register -/

/-- A cluster whose window takes register writes: it runs, loads nothing, is in use and is not being swapped. -/
def State.takesWrites (s : State) (c : Nat) : Prop :=
  (s.cl c).scan = .running ∧ (s.cl c).loading = false ∧ (s.cl c).retired = false ∧ s.swapping c = false

section Window
variable {s : State} (hp : s.phase = .ready)
include hp

/-- The write of a register of a cluster that takes writes goes to the cluster's window. -/
theorem regWrite_takesWrites {c : Fin 2048} (hc : s.takesWrites c.val) {u o : Nat} (hu : u < 26) (ho : o < 0x400) (v : Word) :
    s.regWrite .keeper (unitReg (gidOf c.val u) o) v = s.writeCluster c.val (u * 0x400 + o) .keeper v := by
  obtain ⟨hscan, hload, -, hswap⟩ := hc
  exact regWrite_unit s c u o v (by rw [hp]; decide) hu ho hscan hload hswap

theorem regWrite_mu {m : MuId} (hc : s.takesWrites m.cluster.val) {o : Nat} (ho : o < 0x400) (h8 : o % 8 = 0) (v : Word) :
    s.regWrite .keeper (unitReg (muGid m) o) v = s.setMu (muGid m) ((s.mu (muGid m)).regWrite .keeper .keeper o v) := by
  have hm := m.idx.isLt
  obtain ⟨hmu, -⟩ := writeCluster_unit s m.cluster.val m.idx.val o v ho h8 hc.2.2.1
  exact (regWrite_takesWrites hp hc (by omega) ho v).trans (hmu hm)

theorem regWrite_mcu {u : McuId} (hc : s.takesWrites u.cluster.val) {o : Nat} (ho : o < 0x400) (h8 : o % 8 = 0) (v : Word) :
    s.regWrite .keeper (unitReg (mcuGid u) o) v = s.setMcu (mcuGid u) ((s.mcu (mcuGid u)).regWrite o v) := by
  have hk := u.k.isLt
  obtain ⟨-, hmcu, -⟩ := writeCluster_unit s u.cluster.val (12 + u.k.val) o v ho h8 hc.2.2.1
  exact (regWrite_takesWrites hp hc (by omega) ho v).trans (hmcu (by omega) (by omega))

theorem regWrite_vcu {u : VcuId} (hc : s.takesWrites u.cluster.val) {o : Nat} (ho : o < 0x400) (h8 : o % 8 = 0) (v : Word) :
    s.regWrite .keeper (unitReg (vcuGid u) o) v = s.setVcu (vcuGid u) ((s.vcu (vcuGid u)).regWrite o v) := by
  have hk := u.k.isLt
  obtain ⟨-, -, hvcu, -⟩ := writeCluster_unit s u.cluster.val (16 + u.k.val) o v ho h8 hc.2.2.1
  exact (regWrite_takesWrites hp hc (by omega) ho v).trans (hvcu (by omega) (by omega))

theorem regWrite_scu {u : ScuId} (hc : s.takesWrites u.cluster.val) {o : Nat} (ho : o < 0x400) (h8 : o % 8 = 0) (v : Word) :
    s.regWrite .keeper (unitReg (scuGid u) o) v = s.writeScu (scuGid u) .keeper .keeper o v := by
  have hk := u.k.isLt
  obtain ⟨-, -, -, hscu⟩ := writeCluster_unit s u.cluster.val (20 + u.k.val) o v ho h8 hc.2.2.1
  exact (regWrite_takesWrites hp hc (by omega) ho v).trans (hscu (by omega) (by omega))

end Window

/-! ### The registers of a memory unit -/

theorem Mu.regWrite_bgCtl (m : Mu) (v : Word) : m.regWrite .keeper .keeper 0x008 v = { m with downReq := v.setWidth 8 } := rfl

theorem Mu.regWrite_dtSel (m : Mu) (v : Word) : m.regWrite .keeper .keeper 0x038 v = m.selectDesc .keeper v := rfl

theorem Mu.regWrite_dtWord7 (m : Mu) (v : Word) : m.regWrite .keeper .keeper 0x078 v = m.replaceDesc .keeper v := rfl

theorem Mu.regWrite_dtWord (m : Mu) (j : Fin 7) (v : Word) :
    m.regWrite .keeper .keeper (0x040 + 8 * j.val) v = m.stageDesc .keeper j.val v := by
  have hj := j.isLt
  have hword : (0x040 + 8 * j.val) / 8 % 8 = j.val := by omega
  unfold Mu.regWrite
  dsimp only
  rw [if_neg (by omega), if_neg (by omega), if_neg (by omega), if_neg (by omega), if_neg (by omega), if_pos (by omega), hword]
  rfl

/-! ### Selection and staging of a descriptor (R113) -/

/-- The entry found for a requester is the requester's own. -/
@[simp] theorem selOf_who (l : List ReqSel) (r : Requester) : (selOf l r).who = r := by
  unfold selOf
  split
  next e he => simpa using List.find?_some he
  next => rfl

@[simp] theorem selOf_selPut_same (l : List ReqSel) (e : ReqSel) : selOf (selPut l e) e.who = e := by
  simp [selOf, selPut]

theorem Mu.selectDesc_sel (m : Mu) (r : Requester) (i : Fin 1024) :
    (selOf (m.selectDesc r (BitVec.ofNat 64 i.val)).dtSel r).sel = i.val := by
  have hi := i.isLt
  have hfld : fld (BitVec.ofNat 64 i.val).toNat 9 0 = i.val := by
    rw [fld_eq_div_mod, BitVec.toNat_ofNat]
    omega
  unfold Mu.selectDesc
  rw [hfld]
  exact congrArg ReqSel.sel (selOf_selPut_same m.dtSel { who := r, sel := i.val, stage := _ })

theorem Mu.stageDesc_selOf (m : Mu) (r : Requester) (k : Nat) (v : Word) :
    selOf (m.stageDesc r k v).dtSel r = { selOf m.dtSel r with
      stage := (upto 0 7).map (fun i => if i = k then v else (selOf m.dtSel r).stage.getD i 0) } := by
  have hsame := selOf_selPut_same m.dtSel { selOf m.dtSel r with
    stage := (upto 0 7).map (fun i => if i = k then v else (selOf m.dtSel r).stage.getD i 0) }
  rwa [show ({ selOf m.dtSel r with stage := (upto 0 7).map (fun i => if i = k then v else (selOf m.dtSel r).stage.getD i 0) } : ReqSel).who
    = r from selOf_who _ _] at hsame

/-- Words 0 to 6 of an entry staged one after another. -/
def Mu.stageAll (m : Mu) (r : Requester) (ws : List Word) : Mu := (upto 0 7).foldl (fun (x : Mu) k => x.stageDesc r k (ws.getD k 0)) m

theorem Mu.stageDesc_desc (m : Mu) (r : Requester) (k : Nat) (v : Word) : (m.stageDesc r k v).desc = m.desc := rfl

/-- Staging changes no descriptor and no selection. -/
theorem Mu.stageAll_desc (m : Mu) (r : Requester) (ws : List Word) : (m.stageAll r ws).desc = m.desc := by
  simp only [Mu.stageAll, upto, List.foldl_cons, List.foldl_nil, Mu.stageDesc_desc]

theorem Mu.stageAll_sel (m : Mu) (r : Requester) (ws : List Word) :
    (selOf (m.stageAll r ws).dtSel r).sel = (selOf m.dtSel r).sel := by
  simp only [Mu.stageAll, upto, List.foldl_cons, List.foldl_nil, Mu.stageDesc_selOf]

/-- The words staged are the words given. -/
theorem Mu.stageAll_stage (m : Mu) (r : Requester) (ws : List Word) :
    (selOf (m.stageAll r ws).dtSel r).stage = (upto 0 7).map (fun k => ws.getD k 0) := by
  simp [Mu.stageAll, upto, Mu.stageDesc_selOf]

/-! ### The entry replaced by word 7 -/

/-- A descriptor of eight words, the lowest first. -/
def descOfWords (l : List Word) (v : Word) : BitVec 512 :=
  BitVec.ofNat 512 (((upto 0 7).foldl (fun a k => a + (l.getD k 0).toNat * 2 ^ (64 * k)) 0) + v.toNat * 2 ^ 448)

/-- The number whose digits to the base 2^64 are these words, the lowest first. -/
def wordsNat : List Word → Nat
  | [] => 0
  | w :: l => w.toNat + 2 ^ 64 * wordsNat l

theorem wordsNat_lt (l : List Word) : wordsNat l < 2 ^ (64 * l.length) := by
  induction l with
  | nil => exact Nat.one_pos
  | cons w l ih =>
    have hw := w.isLt
    rw [wordsNat, List.length_cons, Nat.mul_succ, Nat.pow_add, Nat.mul_comm _ (2 ^ 64)]
    omega

theorem fld_wordsNat (l : List Word) : ∀ k, fld (wordsNat l) (64 * k + 63) (64 * k) = (l.getD k 0).toNat := by
  have hdigit : ∀ x k, fld x (64 * k + 63) (64 * k) = x / 2 ^ (64 * k) % 2 ^ 64 := fun x k => by
    rw [fld_eq_div_mod, show 64 * k + 63 + 1 - 64 * k = 64 by omega]
  induction l with
  | nil => intro k; rw [hdigit, wordsNat, Nat.zero_div]; rfl
  | cons w l ih =>
    intro k
    have hw := w.isLt
    rw [hdigit, wordsNat]
    cases k with
    | zero =>
      rw [Nat.mul_zero, Nat.pow_zero, Nat.div_one, Nat.add_mul_mod_self_left, Nat.mod_eq_of_lt hw]
      rfl
    | succ k =>
      have hshift : (w.toNat + 2 ^ 64 * wordsNat l) / 2 ^ 64 = wordsNat l := by omega
      rw [Nat.mul_succ, Nat.pow_add, Nat.mul_comm (2 ^ (64 * k)), ← Nat.div_div_eq_div_mul, hshift, ← hdigit, ih]
      rfl

theorem wordsNat_concat (l : List Word) (v : Word) : wordsNat (l ++ [v]) = wordsNat l + v.toNat * 2 ^ (64 * l.length) := by
  induction l with
  | nil => simp [wordsNat]
  | cons w l ih =>
    rw [List.cons_append, wordsNat, wordsNat, ih, List.length_cons, Nat.mul_succ, Nat.pow_add]
    ring

/-- Words added at their places, from word `a` on. -/
theorem foldl_place_words (f : Nat → Word) (n : Nat) : ∀ a x : Nat,
    (upto a n).foldl (fun y k => y + (f k).toNat * 2 ^ (64 * k)) x = x + 2 ^ (64 * a) * wordsNat ((upto a n).map f) := by
  induction n with
  | zero => exact fun a x => rfl
  | succ n ih =>
    intro a x
    rw [upto, List.foldl_cons, ih, List.map_cons, wordsNat, Nat.mul_succ, Nat.pow_add]
    ring

/-- Eight words fill 512 bits, so none is lost. -/
theorem toNat_descOfWords (l : List Word) (v : Word) :
    (descOfWords l v).toNat = wordsNat ((upto 0 7).map (fun k => l.getD k 0) ++ [v]) := by
  have hlow := foldl_place_words (fun k => l.getD k 0) 7 0 0
  have hlen : ((upto 0 7).map (fun k => l.getD k 0)).length = 7 := rfl
  have hlt := wordsNat_lt ((upto 0 7).map (fun k => l.getD k 0) ++ [v])
  rw [List.length_append, hlen] at hlt
  rw [wordsNat_concat, hlen] at hlt ⊢
  rw [Nat.mul_zero, Nat.pow_zero, Nat.one_mul, Nat.zero_add] at hlow
  rw [descOfWords, BitVec.toNat_ofNat, hlow]
  exact Nat.mod_eq_of_lt hlt

theorem fld_descOfWords (l : List Word) (v : Word) (k : Nat) :
    fld (descOfWords l v).toNat (64 * k + 63) (64 * k) = (((upto 0 7).map (fun k => l.getD k 0) ++ [v]).getD k 0).toNat := by
  rw [toNat_descOfWords, fld_wordsNat]

theorem tabGet_tabDel {α : Type} (d : α) (t : Tab α) (i j : Nat) : tabGet d (tabDel t i) j = if j = i then d else tabGet d t j := by
  simp only [tabGet_of_tabFind, tabFind_tabDel]
  split
  · rfl
  · rfl

/-- An entry is listed when it is not zero, and reads as what was written either way. -/
theorem Mu.replaceDesc_desc (m : Mu) (r : Requester) (v : Word) (n : Nat) :
    tabGet 0 (m.replaceDesc r v).desc n =
      if n = (selOf m.dtSel r).sel then descOfWords (selOf m.dtSel r).stage v else tabGet 0 m.desc n := by
  have hentry : (m.replaceDesc r v).desc = if descOfWords (selOf m.dtSel r).stage v = 0 then tabDel m.desc (selOf m.dtSel r).sel
      else tabSet m.desc (selOf m.dtSel r).sel (descOfWords (selOf m.dtSel r).stage v) := rfl
  rw [hentry]
  split
  case isTrue hzero => rw [tabGet_tabDel, hzero]
  case isFalse => rw [tabGet_tabSet]

/-! ### The flags of a vector unit -/

theorem Vcu.clearFlags_flags (m : Vcu) (v : Word) :
    m.clearFlags v = { m with
      nan := m.nan && !v.getLsbD 0, sat := m.sat && !v.getLsbD 1, div0 := m.div0 && !v.getLsbD 2, oob := m.oob && !v.getLsbD 3
      firstTag := (m.clearFlags v).firstTag } := by
  unfold Vcu.clearFlags
  dsimp only
  split
  · rfl
  · rfl

theorem Vcu.clearFlags_firstTag (m : Vcu) (v : Word) :
    (m.clearFlags v).firstTag = if (m.clearFlags v).nan = true ∨ (m.clearFlags v).sat = true ∨ (m.clearFlags v).div0 = true
      ∨ (m.clearFlags v).oob = true then m.firstTag else 0 := by
  rw [Vcu.clearFlags_flags m v]
  unfold Vcu.clearFlags
  simp only [Bool.or_eq_true, or_assoc]
  split
  · rfl
  · rfl

/-- Settles O38: each command is the write of its register in the window of its cluster; a staged entry is the eight words; a flag
stays unless its bit is a one. -/
theorem clusterRegisterWrites : Obligations.ClusterRegisterWrites := by
  refine ⟨fun m u k w j v s hp hrun => ?_, fun m r i ws v _ => ?_, fun m v => ?_⟩
  · have hm : s.takesWrites m.cluster.val := hrun _ (.inl rfl)
    have hu : s.takesWrites u.cluster.val := hrun _ (.inr (.inl rfl))
    have hk : s.takesWrites k.cluster.val := hrun _ (.inr (.inr (.inl rfl)))
    have hw : s.takesWrites w.cluster.val := hrun _ (.inr (.inr (.inr rfl)))
    have hj := j.isLt
    have hstage := regWrite_mu hp hm (o := 0x040 + 8 * j.val) (by omega) (by omega) v
    rw [Mu.regWrite_dtWord] at hstage
    exact ⟨congrArg _ (regWrite_mu hp hm (by decide) rfl v), congrArg Host.Outcome.next hstage,
      congrArg _ (regWrite_mu hp hm (by decide) rfl v), congrArg _ (regWrite_mu hp hm (by decide) rfl v),
      congrArg _ (regWrite_scu hp hu (by decide) rfl v), congrArg _ (regWrite_mcu hp hk (by decide) rfl v),
      congrArg _ (regWrite_vcu hp hw (by decide) rfl v)⟩
  · intro a b
    have hsel : (selOf (a.stageAll r ws).dtSel r).sel = i.val := (a.stageAll_sel r ws).trans (m.selectDesc_sel r i)
    have hdesc : ∀ n, tabGet 0 b.desc n
        = if n = i.val then descOfWords ((upto 0 7).map (fun k => ws.getD k 0)) v else tabGet 0 m.desc n := fun n => by
      have hb := (a.stageAll r ws).replaceDesc_desc r v n
      rwa [hsel, Mu.stageAll_stage, Mu.stageAll_desc] at hb
    have hfld := fld_descOfWords ((upto 0 7).map (fun k => ws.getD k 0)) v
    refine ⟨fun k hk => ?_, ?_, fun n hn => ?_⟩
    · rw [hdesc, if_pos rfl, hfld]
      interval_cases k
      all_goals rfl
    · rw [hdesc, if_pos rfl]
      exact hfld 7
    · rw [hdesc, if_neg hn]
  · have hflags := m.clearFlags_flags v
    exact ⟨by rw [hflags], by rw [hflags], by rw [hflags], by rw [hflags], m.clearFlags_firstTag v, by rw [hflags], by rw [hflags], by rw [hflags]⟩

end Sys2Proof.Machine
end

section
/-!
PROOFS. The events of a memory unit (R87, R97, R106 to R109).
-/

namespace Sys2Proof.Machine

/-! ### Bank groups -/

/-- Bank group `b` is the 384 KiB from its base. -/
theorem groupOf_eq_iff (a b : Nat) : groupOf a = b ↔ b * 0x60000 ≤ a ∧ a < b * 0x60000 + 0x60000 := by
  unfold groupOf
  omega

/-- A byte in the group reads as zero after the loss, one outside it stays. -/
theorem Mu.loseGroup_memGet {m : Mu} (h : Memory.wf m.mem = true) (b a : Nat) :
    memGet (m.loseGroup b).mem a = if groupOf a = b then 0 else memGet m.mem a := by
  have hzero : memGet (m.loseGroup b).mem a
      = if (! (decide (b * 0x60000 ≤ a) && decide (a < b * 0x60000 + 0x60000))) = true then memGet m.mem a else 0 :=
    memGet_filter (fun x => ! (decide (b * 0x60000 ≤ x) && decide (x < b * 0x60000 + 0x60000))) m.mem a h
  rw [hzero]
  by_cases hg : groupOf a = b
  · obtain ⟨hlo, hhi⟩ := (groupOf_eq_iff a b).1 hg
    simp [hg, hlo, hhi]
  · have hout : ¬ (b * 0x60000 ≤ a ∧ a < b * 0x60000 + 0x60000) := fun hin => hg ((groupOf_eq_iff a b).2 hin)
    rw [if_neg hg, if_pos]
    simp only [Bool.not_eq_true', Bool.and_eq_false_iff, decide_eq_false_iff_not]
    omega

/-- What passes the filter of the loss lies outside the group. -/
theorem groupOf_ne_of_kept {a b : Nat} (h : (! (decide (b * 0x60000 ≤ a) && decide (a < b * 0x60000 + 0x60000))) = true) : groupOf a ≠ b := by
  intro hg
  obtain ⟨hlo, hhi⟩ := (groupOf_eq_iff a b).1 hg
  simp [hlo, hhi] at h

theorem Mu.loseGroup_fog {m : Mu} {b g : Nat} (h : g ∈ (m.loseGroup b).fog) : groupOf (g * 64) ≠ b := by
  obtain ⟨-, hout⟩ := List.mem_filter.1 h
  exact groupOf_ne_of_kept hout

theorem Mu.loseGroup_checks {m : Mu} {b : Nat} {e : Nat × Check} (h : e ∈ (m.loseGroup b).checks) : groupOf (e.1 * 4096) ≠ b := by
  obtain ⟨-, hout⟩ := List.mem_filter.1 h
  exact groupOf_ne_of_kept hout

theorem exec_bankGroupPowerDown_may {m : MuId} {b : Fin 8} {s : State} (hp : s.phase = .ready)
    (h : (s.mu (muGid m)).mayPowerDown b.val = true) :
    exec (.bankGroupPowerDown m b) s = .next (s.setMu (muGid m)
      { (s.mu (muGid m)).loseGroup b.val with powered := (s.mu (muGid m)).powered &&& ~~~ (1#8 <<< b.val) }) :=
  if_pos ⟨hp, h⟩

theorem exec_bankGroupWake_waking {m : MuId} {b : Fin 8} {s : State} (h : (s.mu (muGid m)).waking.getLsbD b.val = true) :
    exec (.bankGroupWake m b) s = .next (s.setMu (muGid m) ((s.mu (muGid m)).wakeNow (1#8 <<< b.val))) :=
  if_pos h

/-! ### Read data and acknowledgements -/

/-- The read that an answer is for: on its way, not done, and answered by its controller or asked of a host. -/
def ExtReq.comes (q : ExtReq) : Bool := !q.write && q.sent && !q.done && (q.answered || q.target == 1)

section ReadData
variable {m : MuId} {n : Nat} {host : List Byte} {poison : List Bool} {q : ExtReq} {s : State}
  (hq : s.reqWhere (muGid m) n ExtReq.comes = some q)
include hq

theorem exec_externalReadData_controller (ht : q.target ≠ 1) :
    exec (.externalReadData m n host poison) s
      = .next ((s.progress m.cluster.val).modReq (muGid m) q.id (fun q => { q with done := true })) := by
  unfold ExtReq.comes at hq
  simp only [exec, execExternalReadData, hq, if_neg ht]

theorem exec_externalReadData_host (ht : q.target = 1) :
    exec (.externalReadData m n host poison) s = .next ((s.progress m.cluster.val).modReq (muGid m) q.id (fun q => { q with
      done := true, data := (host ++ List.replicate q.len 0).take q.len, fog := lineFog q.addr q.len poison })) := by
  unfold ExtReq.comes at hq
  simp only [exec, execExternalReadData, hq, if_pos ht]

end ReadData

theorem Packet.isWriteAck_of_body {p : Packet} {g req st : Nat} (hd : p.dest = g) (hb : p.body = .writeAck req st) : p.isWriteAck g = true := by
  simp [Packet.isWriteAck, hd, hb]

theorem exec_writeAcknowledgement_packet {m : MuId} {s : State} {x y : List Packet} {p : Packet} {req st : Nat}
    (hin : (s.rt m.cluster.val).inbox = x ++ p :: y) (hx : ∀ z ∈ x, z.isWriteAck (muGid m) = false) (hd : p.dest = muGid m)
    (hb : p.body = .writeAck req st) :
    exec (.writeAcknowledgement m) s
      = .next (((s.setRt m.cluster.val { s.rt m.cluster.val with inbox := x ++ y }).modReq (muGid m) req
          (fun q => { q with done := true, status := st })).progress m.cluster.val) := by
  have htake := s.takeInbox_split m.cluster.val (·.isWriteAck (muGid m)) x y p hin hx (Packet.isWriteAck_of_body hd hb)
  simp only [exec, execWriteAcknowledgement, htake, hb]

theorem exec_writeAcknowledgement_answered {m : MuId} {s : State} {q : ExtReq}
    (hx : ∀ z ∈ (s.rt m.cluster.val).inbox, z.isWriteAck (muGid m) = false)
    (hq : s.reqWhere (muGid m) 0 (fun q => q.write && q.answered && !q.done) = some q) :
    exec (.writeAcknowledgement m) s
      = .next ((s.modReq (muGid m) q.id (fun q => { q with done := true })).progress m.cluster.val) := by
  have htake := s.takeInbox_none m.cluster.val (·.isWriteAck (muGid m)) hx
  simp only [exec, execWriteAcknowledgement, htake, hq]

/-! ### The scrub -/

/-- A read through the codes changes no byte of any scratchpad. -/
theorem State.touchRead_mem (s : State) (g off n g' : Nat) : ((s.touchRead g off n).mu g').mem = (s.mu g').mem := by
  obtain ⟨m, k, e, i, p, t, a, o, h, hmem, -⟩ := s.touchRead_eq g off n
  rw [h, State.mu, tabGet_tabSet]
  split
  · subst_vars
    exact hmem
  · rfl

theorem exec_muScrubRead_next {m : MuId} {s : State} {j : Nat} (hp : s.phase = .ready) (hint : (s.mu (muGid m)).scrubInt ≠ 0)
    (hj : (s.mu (muGid m)).nextPowered (s.mu (muGid m)).scrubPos = some j) :
    exec (.muScrubRead m) s =
      (let u := (s.touchRead (muGid m) (j * 64) 64).mu (muGid m)
       .next (((s.touchRead (muGid m) (j * 64) 64).progress m.cluster.val).setMu (muGid m) { u with
         scrubPos := (j + 1) % 49152
         scrubPasses := if (decide (j < u.scrubPos) || (j + 1) % 49152 == 0) = true then sat32 u.scrubPasses 1 else u.scrubPasses })) := by
  have hrun : (s.phase ≠ .ready || (s.mu (muGid m)).scrubInt == 0) = false := by simp [hp, hint]
  simp only [exec, execMuScrubRead, hrun, hj, Bool.false_eq_true, if_false, State.progress_frame]

/-! ### Window writes -/

theorem Packet.isWindowWrite_of_body {p : Packet} {g k ep off right req : Nat} {bytes keep : List Byte} {fog : Bool} (hd : p.dest = g)
    (hb : p.body = .windowWrite k ep off right bytes keep fog req) : p.isWindowWrite g = true := by
  simp [Packet.isWindowWrite, hd, hb]

theorem Win.check_done {w : Win} {ep off n ctx right : Nat} (ho : w.opened = true) (he : w.epoch = ep) (hw : w.writer = ctx)
    (hr : bitOf w.rights right = true) (hl : off + n ≤ w.length * 64) : w.check ep off n ctx right = .done := by
  have hlen : ¬ w.length * 64 < off + n := Nat.not_lt.2 hl
  simp [Win.check, ho, he, hw, hr, hlen]

theorem Win.check_refused {w : Win} {ep off n ctx right : Nat} (h : w.opened = false ∨ w.epoch ≠ ep) : w.check ep off n ctx right = .refused := by
  unfold Win.check
  cases ho : w.opened with
  | false => rfl
  | true =>
    have he : ep ≠ w.epoch := by
      obtain h | h := h
      · rw [ho] at h
        exact absurd h (by decide)
      · exact h.symm
    simp [he]

theorem Win.check_writerFails {w : Win} {ep off n ctx right : Nat} (ho : w.opened = true) (he : w.epoch = ep)
    (h : w.writer ≠ ctx ∨ bitOf w.rights right = false ∨ w.length * 64 < off + n) : w.check ep off n ctx right = .writerFails := by
  by_cases hw : ctx = w.writer
  · obtain h | h | h := h
    · exact absurd hw.symm h
    · simp [Win.check, ho, he, hw, h]
    · simp [Win.check, ho, he, hw, h]
  · simp [Win.check, ho, he, hw]

/-- A memory unit that looks at window writes: the device is in service, the unit is not being zeroized and waits for no record. -/
def State.windowsRun (s : State) (g : Nat) : Prop := s.phase = .ready ∧ (s.mu g).zeroizing = false ∧ s.logWaits g = false

theorem State.windowsRun.guard {s : State} {g : Nat} (h : s.windowsRun g) :
    (s.phase ≠ .ready || (s.mu g).zeroizing || s.logWaits g) = false := by
  obtain ⟨hp, hz, hl⟩ := h
  simp [hp, hz, hl]

theorem Mu.acceptedReady_none {u : Mu} (h : ∀ z l, u.accepted = z :: l → u.asleep z.addr z.bytes.length ≠ 0) : u.acceptedReady = none := by
  unfold Mu.acceptedReady
  cases ha : u.accepted with
  | nil => rfl
  | cons z l => simpa [Option.filter] using h z l ha

theorem exec_windowWrite_accepted {m : MuId} {s : State} {z : WinWrite} {l : List WinWrite} (hrun : s.windowsRun (muGid m))
    (ha : (s.mu (muGid m)).accepted = z :: l) (hz : (s.mu (muGid m)).asleep z.addr z.bytes.length = 0) :
    exec (.windowWrite m) s = .next ((((s.setMu (muGid m) { s.mu (muGid m) with accepted := l }).performWin (muGid m) z).reply
      m.cluster.val (muGid m) z.src z.ctx (.writeAck z.req stOK)).progress m.cluster.val) := by
  have hready : (s.mu (muGid m)).acceptedReady = some z := by simp [Mu.acceptedReady, ha, hz]
  simp only [exec, execWindowWrite, hrun.guard, hready, State.performAccepted, ha, List.drop_succ_cons, List.drop_zero, clusterOf_muGid,
    Bool.false_eq_true, if_false]

section Window
variable {s : State} {g ep right : Nat} {z : WinWrite}

theorem State.windowWrite_done (hc : ((s.mu g).win z.win).check ep z.addr z.bytes.length z.ctx right = .done)
    (ha : (s.mu g).accepted = []) (hz : (s.mu g).asleep (((s.mu g).win z.win).base * 64 + z.addr) z.bytes.length = 0) :
    s.windowWrite g ep right z = (s.performWin g { z with addr := ((s.mu g).win z.win).base * 64 + z.addr }, .done) := by
  simp only [State.windowWrite, hc, ha, hz, List.isEmpty_nil, Bool.true_and, beq_self_eq_true, if_true]

theorem State.windowWrite_accepted (hc : ((s.mu g).win z.win).check ep z.addr z.bytes.length z.ctx right = .done)
    (h : (s.mu g).accepted ≠ [] ∨ (s.mu g).asleep (((s.mu g).win z.win).base * 64 + z.addr) z.bytes.length ≠ 0) :
    s.windowWrite g ep right z =
      (let a := { z with addr := ((s.mu g).win z.win).base * 64 + z.addr }
       (s.setMu g { (s.mu g).wake a.addr a.bytes.length with accepted := (s.mu g).accepted ++ [a] }, .accepted)) := by
  have hwait : ((s.mu g).accepted.isEmpty && (s.mu g).asleep (((s.mu g).win z.win).base * 64 + z.addr) z.bytes.length == 0) = false := by
    obtain h | h := h
    · simp [h]
    · simpa using fun _ => h
  simp only [State.windowWrite, hc, hwait, Bool.false_eq_true, if_false]

/-- A write that breaks a check is dropped and counted. -/
theorem State.windowWrite_dropped {o : WinOut} (hc : ((s.mu g).win z.win).check ep z.addr z.bytes.length z.ctx right = o) (ho : o ≠ .done) :
    s.windowWrite g ep right z = (s.setMu g { s.mu g with winDrop := min ((s.mu g).winDrop + 1) 0xFFFFFFFF }, o) := by
  unfold State.windowWrite
  dsimp only
  rw [hc]
  cases o with
  | done => exact absurd rfl ho
  | accepted => rfl
  | refused => rfl
  | writerFails => rfl

end Window

/-- What an answer of a window makes of the packet `p` that asked for the write, and of its request `req`. -/
def State.windowAnswer (g c : Nat) (p : Packet) (req : Nat) : State × WinOut → State
  | (t, .done) => (t.reply c g p.src p.ctx (.writeAck req stOK)).progress c
  | (t, .accepted) => t
  | (t, .refused) => t.reply c g p.src p.ctx (.writeAck req stWindowClosed)
  | (t, .writerFails) => t.failCtx p.ctx stContextFault p.sent

section Arrival
variable {m : MuId} {s : State} {x y : List Packet} {p : Packet} {k ep off right req : Nat} {bytes keep : List Byte} {fog : Bool}
  (hrun : s.windowsRun (muGid m)) (hacc : ∀ z l, (s.mu (muGid m)).accepted = z :: l → (s.mu (muGid m)).asleep z.addr z.bytes.length ≠ 0)
  (hin : (s.rt m.cluster.val).inbox = x ++ p :: y) (hx : ∀ z ∈ x, z.isWindowWrite (muGid m) = false) (hd : p.dest = muGid m)
  (hb : p.body = .windowWrite k ep off right bytes keep fog req)
include hrun hacc hin hx hd hb

/-- With no accepted write ready, the first window write of the box is put to its window, and the answer is the window's. -/
theorem exec_windowWrite_arrival :
    exec (.windowWrite m) s = .next (State.windowAnswer (muGid m) m.cluster.val p req
      ((s.setRt m.cluster.val { s.rt m.cluster.val with inbox := x ++ y }).windowWrite (muGid m) ep right
        { win := k, addr := off, bytes := bytes, keep := keep, fog := fog, src := p.src, ctx := p.ctx, req := req })) := by
  have htake := s.takeInbox_split m.cluster.val (·.isWindowWrite (muGid m)) x y p hin hx (Packet.isWindowWrite_of_body hd hb)
  simp only [exec, execWindowWrite, hrun.guard, Mu.acceptedReady_none hacc, htake, hb, Bool.false_eq_true, if_false]
  generalize State.windowWrite _ _ _ _ _ = answer
  obtain ⟨t, o⟩ := answer
  cases o with
  | done => rfl
  | accepted => rfl
  | refused => rfl
  | writerFails => rfl

theorem exec_windowWrite_performed (hc : ((s.mu (muGid m)).win k).check ep off bytes.length p.ctx right = .done)
    (ha : (s.mu (muGid m)).accepted = [])
    (hz : (s.mu (muGid m)).asleep (((s.mu (muGid m)).win k).base * 64 + off) bytes.length = 0) :
    exec (.windowWrite m) s = .next ((((s.setRt m.cluster.val { s.rt m.cluster.val with inbox := x ++ y }).performWin (muGid m)
      { win := k, addr := ((s.mu (muGid m)).win k).base * 64 + off, bytes := bytes, keep := keep, fog := fog, src := p.src, ctx := p.ctx, req := req }).reply
        m.cluster.val (muGid m) p.src p.ctx (.writeAck req stOK)).progress m.cluster.val) := by
  have hw := State.windowWrite_done (s := s.setRt m.cluster.val { s.rt m.cluster.val with inbox := x ++ y }) (g := muGid m)
    (z := { win := k, addr := off, bytes := bytes, keep := keep, fog := fog, src := p.src, ctx := p.ctx, req := req }) hc ha hz
  rw [exec_windowWrite_arrival hrun hacc hin hx hd hb, hw]
  rfl

theorem exec_windowWrite_waits (hc : ((s.mu (muGid m)).win k).check ep off bytes.length p.ctx right = .done)
    (h : (s.mu (muGid m)).accepted ≠ [] ∨ (s.mu (muGid m)).asleep (((s.mu (muGid m)).win k).base * 64 + off) bytes.length ≠ 0) :
    exec (.windowWrite m) s = .next ((s.setRt m.cluster.val { s.rt m.cluster.val with inbox := x ++ y }).setMu (muGid m)
      { (s.mu (muGid m)).wake (((s.mu (muGid m)).win k).base * 64 + off) bytes.length with
        accepted := (s.mu (muGid m)).accepted ++
          [{ win := k, addr := ((s.mu (muGid m)).win k).base * 64 + off, bytes := bytes, keep := keep, fog := fog, src := p.src, ctx := p.ctx, req := req }] }) := by
  have hw := State.windowWrite_accepted (s := s.setRt m.cluster.val { s.rt m.cluster.val with inbox := x ++ y }) (g := muGid m)
    (z := { win := k, addr := off, bytes := bytes, keep := keep, fog := fog, src := p.src, ctx := p.ctx, req := req }) hc h
  rw [exec_windowWrite_arrival hrun hacc hin hx hd hb, hw]
  rfl

theorem exec_windowWrite_dropped {o : WinOut} (hc : ((s.mu (muGid m)).win k).check ep off bytes.length p.ctx right = o) (ho : o ≠ .done) :
    exec (.windowWrite m) s = .next (State.windowAnswer (muGid m) m.cluster.val p req
      ((s.setRt m.cluster.val { s.rt m.cluster.val with inbox := x ++ y }).setMu (muGid m)
        { s.mu (muGid m) with winDrop := min ((s.mu (muGid m)).winDrop + 1) 0xFFFFFFFF }, o)) := by
  have hw := State.windowWrite_dropped (s := s.setRt m.cluster.val { s.rt m.cluster.val with inbox := x ++ y }) (g := muGid m)
    (z := { win := k, addr := off, bytes := bytes, keep := keep, fog := fog, src := p.src, ctx := p.ctx, req := req }) hc ho
  rw [exec_windowWrite_arrival hrun hacc hin hx hd hb, hw]
  rfl

end Arrival

/-- Settles O52: each event by its own lemma; a window write by what its window's check answers. -/
theorem memoryUnitEvents : Obligations.MemoryUnitEvents := by
  refine ⟨fun m b n host poison q p x y j s => ?_, fun m b a hwf => ?_⟩
  · intro g u r a
    refine ⟨exec_bankGroupPowerDown_may, exec_bankGroupWake_waking, exec_externalReadData_controller, exec_externalReadData_host,
      fun req st => exec_writeAcknowledgement_packet, exec_writeAcknowledgement_answered, fun hp hint hj => ?_,
      fun hp hz hl hacc hin hx hd k ep off right bytes keep fog req hb => ?_,
      fun hp hz hl z l => exec_windowWrite_accepted ⟨hp, hz, hl⟩⟩
    · refine ⟨_, exec_muScrubRead_next hp hint hj, ?_, fun g' i => ?_⟩
      · rw [State.setMu_mu, if_pos rfl]
      · rw [State.setMu_mu]
        split
        · subst_vars
          exact congrArg (memGet · i) (s.touchRead_mem g (j * 64) 64 g)
        · simp only [State.progress_frame]
          exact congrArg (memGet · i) (s.touchRead_mem g (j * 64) 64 g')
    · have hrun : s.windowsRun g := ⟨hp, hz, hl⟩
      intro w z dropped
      refine ⟨fun ho he hw hr hlen => ?_, fun h => ?_, fun ho he h => ?_⟩
      · have hcheck : w.check ep off bytes.length p.ctx right = .done := Win.check_done ho he hw hr hlen
        exact ⟨exec_windowWrite_performed hrun hacc hin hx hd hb hcheck, exec_windowWrite_waits hrun hacc hin hx hd hb hcheck⟩
      · exact exec_windowWrite_dropped hrun hacc hin hx hd hb (Win.check_refused h) (by decide)
      · exact exec_windowWrite_dropped hrun hacc hin hx hd hb (Win.check_writerFails ho he h) (by decide)
  · have hget := fun i => m.loseGroup_memGet hwf b.val i
    exact ⟨fun h => by rw [hget, if_pos h], fun h => by rw [hget, if_neg h], fun g => Mu.loseGroup_fog, fun e => Mu.loseGroup_checks⟩

end Sys2Proof.Machine
end

section
/-!
PROOFS. The addressed memories stay canonical (R74, R329, R419): what it means for each kind of answer, and the operations that
replace one part of the state.
-/

namespace Sys2Proof.Machine

/-! ### Canonical memories in the parts of the state and in the answers of operations -/

/-- The scratchpads in a scan image are canonical. -/
def ScanImg.memOk (i : ScanImg) : Prop := ∀ e ∈ i.mus, Memory.wf e.2.mem = true

/-- The scratchpads in a context's save area are canonical. -/
def Ctx.memOk (x : Ctx) : Prop := (∀ e ∈ x.savedMem, Memory.wf e.2.mem = true) ∧ ∀ i ∈ x.scans, i.2.memOk

theorem State.memOk_iff (s : State) : s.memOk ↔ Memory.wf s.hbm.mem = true ∧ (∀ e ∈ s.mus, Memory.wf e.2.mem = true) ∧ ∀ x ∈ s.ctxs, x.2.memOk :=
  Iff.rfl

/-- A state that an operation may answer is canonical. -/
def optOk : Option State → Prop
  | none => True
  | some t => t.memOk

/-- The state that a command answers is canonical. -/
def Res.memOk : Res → Prop
  | .next t => t.memOk
  | .fault _ => True
  | .refused _ => True

/-- The states in the answers to requests, quanta and payloads are canonical. -/
def Sent.memOk : Sent → Prop
  | .ok t _ => t.memOk
  | .fail t => t.memOk
  | .fault t _ => t.memOk
  | .wait t => t.memOk

def Push.memOk : Push → Prop
  | .ok t _ => t.memOk
  | .fail t => t.memOk
  | .fault t _ _ _ => t.memOk

def QStep.memOk : QStep → Prop
  | .wait => True
  | .woke t => t.memOk
  | .did t => t.memOk

def Delivered.memOk : Delivered → Prop
  | .yes t => t.memOk
  | .refused _ => True
  | .waits t => t.memOk
  | .failed t => t.memOk

/-- So are those that the effect of a scalar instruction answers. -/
def SOut.memOk : SOut → Prop
  | .retire t _ => t.memOk
  | .halted t => t.memOk
  | .block t _ => t.memOk
  | .fault _ _ => True
  | .faultAt t _ _ => t.memOk

/-- A context that saved nothing. -/
theorem Ctx.memOk_of_nil {c : Ctx} (hm : c.savedMem = []) (hs : c.scans = []) : c.memOk := by
  rw [Ctx.memOk, hm, hs]
  exact ⟨List.forall_mem_nil _, List.forall_mem_nil _⟩

/-! An answer that is known by an equation. -/

theorem optOk.of_eq {o : Option State} {t : State} (h : optOk o) (e : o = some t) : t.memOk := by
  rw [e] at h
  exact h
theorem memOk_of_fst {α : Type} {p : State × α} {t : State} {a : α} (h : p.1.memOk) (e : p = (t, a)) : t.memOk := by
  rw [e] at h
  exact h
theorem optOk_map {α : Type} {o : Option α} {f : α → State} (h : ∀ a, o = some a → (f a).memOk) : optOk (o.map f) := by
  cases o with
  | none => trivial
  | some a => exact h a rfl
theorem optOk_bind {α : Type} {o : Option α} {f : α → Option State} (h : ∀ a, o = some a → optOk (f a)) : optOk (o.bind f) := by
  cases o with
  | none => trivial
  | some a => exact h a rfl
theorem optOk.getD {o : Option State} {t : State} (h : optOk o) (ht : t.memOk) : (o.getD t).memOk := by
  cases o with
  | none => exact ht
  | some _ => exact h
theorem SOut.memOk.of_eq {a b : SOut} (h : a.memOk) (e : a = b) : b.memOk := e ▸ h
theorem Sent.memOk.of_eq {a b : Sent} (h : a.memOk) (e : a = b) : b.memOk := e ▸ h
theorem Push.memOk.of_eq {a b : Push} (h : a.memOk) (e : a = b) : b.memOk := e ▸ h
theorem QStep.memOk.of_eq {a b : QStep} (h : a.memOk) (e : a = b) : b.memOk := e ▸ h
theorem Delivered.memOk.of_eq {a b : Delivered} (h : a.memOk) (e : a = b) : b.memOk := e ▸ h

/-! ### What a table lists, and the default of what it does not list -/

theorem wf_tabGet_mus {t : Tab Mu} (h : ∀ e ∈ t, Memory.wf e.2.mem = true) (i : Nat) : Memory.wf (tabGet {} t i).mem = true := by
  induction t with
  | nil => rfl
  | cons e t ih =>
    simp only [tabGet]
    split
    · exact h e List.mem_cons_self
    · exact ih fun e he => h e (List.mem_cons_of_mem _ he)

theorem tabFind_all {α : Type} {P : α → Prop} {t : Tab α} (h : ∀ e ∈ t, P e.2) {i : Nat} {v : α} (hv : tabFind t i = some v) : P v := by
  induction t with
  | nil => exact absurd hv (by simp [tabFind])
  | cons e t ih =>
    simp only [tabFind] at hv
    split at hv
    · exact Option.some.inj hv ▸ h e List.mem_cons_self
    · exact ih (fun e he => h e (List.mem_cons_of_mem _ he)) hv

theorem tabDel_all {α : Type} {P : α → Prop} {t : Tab α} (h : ∀ e ∈ t, P e.2) (i : Nat) : ∀ e ∈ tabDel t i, P e.2 :=
  fun e he => h e (List.mem_of_mem_filter he)

theorem tabMap_all {α : Type} {P Q : α → Prop} {t : Tab α} {f : Nat → α → α} (h : ∀ e ∈ t, P e.2) (hf : ∀ i v, P v → Q (f i v)) :
    ∀ e ∈ tabMap t f, Q e.2 := by
  intro e he
  obtain ⟨e', he', rfl⟩ := List.mem_map.1 he
  exact hf _ _ (h e' he')

theorem filter_all {α : Type} {P : α → Prop} {t : List α} (h : ∀ e ∈ t, P e) (f : α → Bool) : ∀ e ∈ t.filter f, P e :=
  fun e he => h e (List.mem_of_mem_filter he)

/-! ### What the functions of a memory unit keep -/

theorem Mu.replaceDesc_mem (m : Mu) (r : Requester) (v : Word) : (m.replaceDesc r v).mem = m.mem := by
  unfold Mu.replaceDesc
  rfl

section MuKeeps
variable {m : Mu}

theorem Mu.wf_selectDesc {r v} (h : Memory.wf m.mem = true) : Memory.wf (m.selectDesc r v).mem = true := h

theorem Mu.wf_stageDesc {r k v} (h : Memory.wf m.mem = true) : Memory.wf (m.stageDesc r k v).mem = true := h

theorem Mu.wf_replaceDesc {r v} (h : Memory.wf m.mem = true) : Memory.wf (m.replaceDesc r v).mem = true := by
  rw [Mu.replaceDesc_mem]
  exact h

theorem Mu.wf_regWrite {k r o v} (h : Memory.wf m.mem = true) : Memory.wf (m.regWrite k r o v).mem = true := by
  unfold Mu.regWrite
  extract_lets own
  split
  · split <;> exact h
  · split
    · exact h
    · split
      · exact h
      · split
        · split <;> exact h
        · split
          · exact Mu.wf_selectDesc h
          · split
            · split
              · exact Mu.wf_stageDesc h
              · exact h
            · split
              · split
                · exact Mu.wf_replaceDesc h
                · exact h
              · split
                · exact h
                · split <;> exact h

theorem Mu.wf_uncheck {off n} (h : Memory.wf m.mem = true) : Memory.wf (m.uncheck off n).mem = true := by
  unfold Mu.uncheck
  split <;> exact h

theorem Mu.wf_loseGroup {g} (h : Memory.wf m.mem = true) : Memory.wf (m.loseGroup g).mem = true := memZero_wf _ _ _ h

theorem Mu.wf_wakeNow {z} (h : Memory.wf m.mem = true) : Memory.wf (m.wakeNow z).mem = true := by
  unfold Mu.wakeNow
  extract_lets m'
  have hm' : Memory.wf m'.mem = true := by
    refine List.foldlRecOn (motive := fun v : Mu => Memory.wf v.mem = true) _ _ h fun v hv g _ => ?_
    split
    · exact Mu.wf_loseGroup hv
    · exact hv
  exact hm'

theorem Mu.wf_zeroize (h : Memory.wf m.mem = true) : Memory.wf m.zeroize.mem = true := filter_wf _ _ h

theorem Mu.wf_putScratch {l} (h : Memory.wf m.mem = true) : Memory.wf (m.putScratch l).mem = true := by
  unfold Mu.putScratch
  exact List.foldlRecOn (motive := fun a => Memory.wf a = true) l.mem _ (Mu.wf_wakeNow h) fun a ha b _ => memSet_wf a b.1 b.2 ha

end MuKeeps

/-- What an MU holds of the scratchpad that a context copies (R419) is canonical with the scratchpad. -/
theorem Mu.wf_scratch {m : Mu} (h : Memory.wf m.mem = true) : Memory.wf m.scratch.mem = true := filter_wf _ _ h

/-! ### What contexts and scan images keep -/

theorem ScanImg.memOk.withoutGroup {i : ScanImg} {g} (h : i.memOk) : (i.withoutGroup g).memOk := h

theorem Ctx.memOk.withoutGroup {x : Ctx} {g} (h : x.memOk) : Ctx.memOk { x with scans := tabMap x.scans fun _ i => i.withoutGroup g } := by
  obtain ⟨hmem, hscans⟩ := h
  exact ⟨hmem, tabMap_all (P := ScanImg.memOk) hscans fun _ _ hi => hi.withoutGroup⟩

theorem ScanImg.memOk_takeScan {s : State} {c prog buf} : (s.takeScan c prog buf).memOk :=
  tabMap_all (P := fun _ => True) (Q := fun m : Mu => Memory.wf m.mem = true) (f := fun _ m => m.scanned) (fun _ _ => trivial) fun _ _ _ => rfl

theorem Ctx.memOk.setScan {k : Ctx} {c : Nat} {i : ScanImg} (h : k.memOk) (hi : i.memOk) : Ctx.memOk { k with scans := tabSet k.scans c i } := by
  obtain ⟨hmem, hscans⟩ := h
  exact ⟨hmem, tabSet_all ScanImg.memOk k.scans c i hscans hi⟩

theorem Ctx.memOk.saveMem {k : Ctx} {l : Tab SavedMu} (h : k.memOk) (hl : ∀ e ∈ l, Memory.wf e.2.mem = true) :
    Ctx.memOk { k with savedMem := l.foldl (fun t e => tabSet t e.1 e.2) k.savedMem } := by
  obtain ⟨hmem, hscans⟩ := h
  refine ⟨?_, hscans⟩
  refine List.foldlRecOn (motive := fun t : Tab SavedMu => ∀ e ∈ t, Memory.wf e.2.mem = true) l _ hmem fun t ht e he => ?_
  exact tabSet_all (fun v : SavedMu => Memory.wf v.mem = true) t e.1 e.2 ht (hl e he)

/-- A context that gives up scan images, or all it saved of the scratchpads. -/
theorem Ctx.memOk.dropScans {k : Ctx} {f l} (h : k.memOk) : Ctx.memOk { k with savedSpill := l, scans := k.scans.filter f } := by
  obtain ⟨hmem, hscans⟩ := h
  exact ⟨hmem, filter_all hscans f⟩

theorem Ctx.memOk.keepScans {k : Ctx} {f l} (h : k.memOk) : Ctx.memOk { k with savedSpill := l, scans := k.scans.filter f, savedMem := [] } := by
  obtain ⟨-, hscans⟩ := h
  exact ⟨List.forall_mem_nil _, filter_all hscans f⟩

theorem Ctx.memOk.charge {x : Ctx} {e} (h : x.memOk) : (x.charge e).memOk := h

theorem Ctx.memOk.chargeSwitch {x : Ctx} {t} (h : x.memOk) : (x.chargeSwitch t).memOk := h

theorem Ctx.memOk.bindTo {x : Ctx} {b} (h : x.memOk) : (x.bindTo b).memOk := h

theorem Ctx.memOk.unload {x : Ctx} (_ : x.memOk) : x.unload.memOk := by
  unfold Ctx.unload
  extract_lets y
  have hy : y.memOk := Ctx.memOk_of_nil rfl rfl
  split
  · exact hy
  · exact hy
  · exact hy

theorem Ctx.memOk_afterReset {x : Ctx} : x.afterReset.memOk := by
  unfold Ctx.afterReset
  exact Ctx.memOk_of_nil rfl rfl

section Keeps
variable {s : State}

theorem State.memOk.mu (h : s.memOk) (g : Nat) : Memory.wf (s.mu g).mem = true := by
  obtain ⟨-, hmus, -⟩ := h
  exact wf_tabGet_mus hmus g

theorem State.memOk.hbm (h : s.memOk) : Memory.wf s.hbm.mem = true := by
  obtain ⟨hhbm, -⟩ := h
  exact hhbm

theorem State.memOk.ctx {x : Nat} {c : Ctx} (h : s.memOk) (e : s.ctx x = some c) : c.memOk := by
  obtain ⟨-, -, hctxs⟩ := h
  exact tabFind_all hctxs e

/-! ### Replacing one part of the state -/

/-- Parts that hold no addressed memory may change freely. The record is written out, so that the rule meets every `{ s with … }`. -/
theorem State.memOk.update {pending time phase trigger triggerAt pins tus mcus vcus scus sws rts cls mesh groups pmFlush sfs remap placed
    quadBad pageReqs atc snoops ports fns sectors err aud sec flash pwr kpr txn held scanImgs out fresh} (h : s.memOk) :
    State.memOk { pending := pending, time := time, phase := phase, trigger := trigger, triggerAt := triggerAt, pins := pins, tus := tus
                  mus := s.mus, mcus := mcus, vcus := vcus, scus := scus, sws := sws, rts := rts, cls := cls, mesh := mesh, groups := groups
                  pmFlush := pmFlush, sfs := sfs, remap := remap, placed := placed, quadBad := quadBad, hbm := s.hbm, pageReqs := pageReqs
                  atc := atc, snoops := snoops, ports := ports, fns := fns, sectors := sectors, ctxs := s.ctxs, err := err, aud := aud
                  sec := sec, flash := flash, pwr := pwr, kpr := kpr, txn := txn, held := held, scanImgs := scanImgs, out := out
                  fresh := fresh } := h

theorem State.memOk.setMu {i : Nat} {v : Mu} (h : s.memOk) (hv : Memory.wf v.mem = true) : (s.setMu i v).memOk := by
  obtain ⟨hhbm, hmus, hctxs⟩ := h
  exact ⟨hhbm, tabSet_all (fun m : Mu => Memory.wf m.mem = true) s.mus i v hmus hv, hctxs⟩

theorem State.memOk.setCtx {x : Nat} {c : Ctx} (h : s.memOk) (hc : c.memOk) : (s.setCtx x c).memOk := by
  obtain ⟨hhbm, hmus, hctxs⟩ := h
  exact ⟨hhbm, hmus, tabSet_all Ctx.memOk s.ctxs x c hctxs hc⟩

/-- A context that keeps what it saved may change otherwise. -/
theorem State.memOk.setCtx_of_eq {x : Nat} {c c' : Ctx} (h : s.memOk) (hc : c.memOk) (hm : c'.savedMem = c.savedMem) (hs : c'.scans = c.scans) :
    (s.setCtx x c').memOk :=
  h.setCtx (by rw [Ctx.memOk, hm, hs]; exact hc)

theorem State.memOk.setHbm {b : Hbm} (h : s.memOk) (hb : Memory.wf b.mem = true) : (s.setHbm b).memOk := by
  obtain ⟨-, hmus, hctxs⟩ := h
  exact ⟨hb, hmus, hctxs⟩

/-- So may the HBM beside its contents. -/
theorem State.memOk.updateHbm {hbm : Hbm} {pending time phase trigger triggerAt pins tus mcus vcus scus sws rts cls
    mesh groups pmFlush sfs remap placed quadBad pageReqs atc snoops ports fns sectors err aud sec flash pwr kpr txn held scanImgs out fresh} (h : s.memOk) (hb : Memory.wf hbm.mem = true) :
    State.memOk { pending := pending, time := time, phase := phase, trigger := trigger, triggerAt := triggerAt, pins := pins, tus := tus
                  mus := s.mus, mcus := mcus, vcus := vcus, scus := scus, sws := sws, rts := rts, cls := cls, mesh := mesh, groups := groups
                  pmFlush := pmFlush, sfs := sfs, remap := remap, placed := placed, quadBad := quadBad, hbm := hbm, pageReqs := pageReqs
                  atc := atc, snoops := snoops, ports := ports, fns := fns, sectors := sectors, ctxs := s.ctxs, err := err, aud := aud
                  sec := sec, flash := flash, pwr := pwr, kpr := kpr, txn := txn, held := held, scanImgs := scanImgs, out := out
                  fresh := fresh } := by
  obtain ⟨-, hmus, hctxs⟩ := h
  exact ⟨hb, hmus, hctxs⟩

theorem State.memOk.setTu {i v} (h : s.memOk) : (s.setTu i v).memOk := h
theorem State.memOk.setMcu {i v} (h : s.memOk) : (s.setMcu i v).memOk := h
theorem State.memOk.setVcu {i v} (h : s.memOk) : (s.setVcu i v).memOk := h
theorem State.memOk.setScu {i v} (h : s.memOk) : (s.setScu i v).memOk := h
theorem State.memOk.setSw {c v} (h : s.memOk) : (s.setSw c v).memOk := h
theorem State.memOk.setRt {c v} (h : s.memOk) : (s.setRt c v).memOk := h
theorem State.memOk.setCl {c v} (h : s.memOk) : (s.setCl c v).memOk := h
theorem State.memOk.setGrp {g v} (h : s.memOk) : (s.setGrp g v).memOk := h
theorem State.memOk.setSf {r v} (h : s.memOk) : (s.setSf r v).memOk := h
theorem State.memOk.setPort {p v} (h : s.memOk) : (s.setPort p v).memOk := h
theorem State.memOk.setFn {f v} (h : s.memOk) : (s.setFn f v).memOk := h
theorem State.memOk.setCtrl {n v} (h : s.memOk) : (s.setCtrl n v).memOk := h
theorem State.memOk.setSector {r v} (h : s.memOk) : (s.setSector r v).memOk := h
theorem State.memOk.setDie {d v} (h : s.memOk) : (s.setDie d v).memOk := h
theorem State.memOk.setRing {f r v} (h : s.memOk) : (s.setRing f r v).memOk := h
theorem State.memOk.emit {o} (h : s.memOk) : (s.emit o).memOk := h
theorem State.memOk.modErr {f} (h : s.memOk) : (s.modErr f).memOk := h
theorem State.memOk.draw (h : s.memOk) : s.draw.2.memOk := h
theorem State.memOk.draw_eq {t w} (h : s.memOk) (e : s.draw = (w, t)) : t.memOk := by
  cases e
  exact h.draw
theorem State.memOk.advance {d} (h : s.memOk) : (s.advance d).memOk := h

end Keeps

/-- A fold of steps that each keep canonical memories does. -/
theorem State.memOk.foldl {α : Type} {s : State} {f : State → α → State} {l : List α} (h : s.memOk) (hf : ∀ t a, t.memOk → (f t a).memOk) :
    (l.foldl f s).memOk := by
  induction l generalizing s with
  | nil => exact h
  | cons a l ih => exact ih (hf s a h)

/-- So does one that gathers something beside the state. -/
theorem State.memOk.foldl_fst {α β : Type} {p : State × β} {f : State × β → α → State × β} {l : List α} (h : p.1.memOk)
    (hf : ∀ q a, q.1.memOk → (f q a).1.memOk) : (l.foldl f p).1.memOk := by
  induction l generalizing p with
  | nil => exact h
  | cons a l ih => exact ih (hf p a h)

end Sys2Proof.Machine
end

section
/-!
PROOFS. The addressed memories stay canonical: progress, error records, failing contexts, resets and device time.
-/

namespace Sys2Proof.Machine

section Keeps
variable {s : State}

/-! ### Whom a cluster belongs to -/

theorem State.memOk.progress {c} (h : s.memOk) : (s.progress c).memOk := by
  unfold State.progress
  split
  · exact h.setSf
  · exact h

/-! ### Error records (R436 to R441, R459) -/

theorem State.memOk.queueSwap {c} (h : s.memOk) : (s.queueSwap c).memOk := by
  unfold State.queueSwap
  split
  · exact h
  · exact h.update

theorem State.memOk.noteUe {c} (h : s.memOk) : (s.noteUe c).memOk := by
  unfold State.noteUe
  extract_lets +onlyGivenNames l _ t
  have ht : t.memOk := h.update
  split
  · exact ht.queueSwap
  · exact ht

theorem State.memOk.noteRec {r} (h : s.memOk) : (s.noteRec r).memOk := by
  unfold State.noteRec
  split
  · exact h.noteUe
  · exact h

theorem State.memOk.recordAt {t b r} (h : s.memOk) : (s.recordAt t b r).memOk := h.draw.noteRec.modErr

theorem State.memOk.disarm (h : s.memOk) : s.disarm.memOk := h.modErr

theorem State.memOk.record {r} (h : s.memOk) : (s.record r).memOk := h.recordAt

theorem State.memOk.recordUnit {gid r} (h : s.memOk) : (s.recordUnit gid r).memOk := h.record

theorem State.memOk.endCorrRun {c} (h : s.memOk) : (s.endCorrRun c).memOk := by
  unfold State.endCorrRun
  extract_lets +onlyGivenNames t
  have ht : t.memOk := h.modErr
  split
  · exact ht
  · exact ht.recordAt

theorem State.memOk.endOldRun {r} (h : s.memOk) : (s.endOldRun r).memOk := by
  unfold State.endOldRun
  split
  · split
    · exact h.endCorrRun
    · exact h
  · exact h

theorem State.memOk.countCorr {r} (h : s.memOk) : (s.countCorr r).memOk := by
  unfold State.countCorr
  split
  · exact h.modErr
  · exact h.record.modErr

theorem State.memOk.corrected {r} (h : s.memOk) : (s.corrected r).memOk := h.endOldRun.countCorr

theorem State.memOk.failCtx {x status r} (h : s.memOk) : (s.failCtx x status r).memOk := by
  unfold State.failCtx
  split
  · exact h
  next heq =>
    extract_lets +onlyGivenNames t
    have ht : t.memOk := h.record
    split
    · exact ht
    · exact ht.setCtx_of_eq (h.ctx heq) rfl rfl

theorem State.memOk.failUnit {gid status cause op scalar} (h : s.memOk) : (s.failUnit gid status cause op scalar).memOk := by
  unfold State.failUnit
  split
  · exact h.failCtx
  · exact h

theorem State.memOk.latchReset {cause} (h : s.memOk) : (s.latchReset cause).memOk := by
  unfold State.latchReset
  split
  · exact h.update
  · exact h.update
  · exact h.modErr
  · exact h.modErr
  · exact h

theorem State.memOk.latchAs {cause why} (h : s.memOk) : (s.latchAs cause why).memOk := by
  unfold State.latchAs
  extract_lets +onlyGivenNames t
  have ht : t.memOk := h.latchReset
  split
  · exact ht.modErr
  · exact ht

theorem State.memOk.parityReset (h : s.memOk) : s.parityReset.memOk := h.latchAs

/-! ### Device time (R510) and the frames of the dies (R213) -/

theorem State.memOk.advanceTo {t} (h : s.memOk) : (s.advanceTo t).memOk := by
  unfold State.advanceTo
  split
  · exact h.advance
  · exact h

theorem State.memOk.idle (h : s.memOk) : (idle s).memOk := by
  unfold Machine.idle
  split
  · exact h.advance
  · exact h

end Keeps

end Sys2Proof.Machine
end

section
/-!
PROOFS. The addressed memories stay canonical: access to a scratchpad, message queues, the packet mesh.
-/

namespace Sys2Proof.Machine

section Keeps
variable {s : State}

theorem State.memOk.readWords {gid sel} (h : s.memOk) : (s.readWords gid sel).memOk := by
  unfold State.readWords
  extract_lets +onlyGivenNames m ce ue m' t t1 t2
  have ht : t.memOk := h.setMu (h.mu _)
  have ht1 : t1.memOk := ht.foldl fun _ _ hu => hu.corrected
  have ht2 : t2.memOk := ht1.foldl fun _ _ hu => hu.recordUnit
  split
  · exact ht2.latchReset
  · exact ht2

theorem State.memOk.touchRead {gid off n} (h : s.memOk) : (s.touchRead gid off n).memOk := by
  unfold State.touchRead
  extract_lets +onlyGivenNames t
  have ht : t.memOk := h.readWords
  split
  · exact ht.latchReset
  · exact ht

theorem State.memOk.muWrite {gid off bytes fog} (h : s.memOk) : (s.muWrite gid off bytes fog).memOk := by
  unfold State.muWrite
  extract_lets +onlyGivenNames n
  split
  · exact h
  · extract_lets +onlyGivenNames t m granules fogged fog'
    have ht : t.memOk := h.readWords
    exact ht.setMu (memWrite_wf _ _ _ (ht.mu _))

theorem State.memOk.muWritePlain {gid off bytes fog} (h : s.memOk) : (s.muWritePlain gid off bytes fog).memOk := by
  unfold State.muWritePlain
  extract_lets +onlyGivenNames t
  have ht : t.memOk := h.muWrite
  exact ht.setMu (Mu.wf_uncheck (ht.mu _))

/-! ### Rings (R193 to R197) -/

theorem State.memOk.ringPlace {mu q m} (h : s.memOk) : (s.ringPlace mu q m).1.memOk := by
  unfold State.ringPlace
  extract_lets +onlyGivenNames len hdr bytes fogs size
  split
  · exact h.muWritePlain
  · exact h.muWritePlain
  · exact h.muWritePlain.muWritePlain
  · exact h

/-! ### Combining (R205 to R207) -/

theorem State.memOk.placeResult {mu q} (h : s.memOk) : (s.placeResult mu q).1.memOk := by
  unfold State.placeResult
  split
  · exact h
  · extract_lets +onlyGivenNames m
    split
    · exact h
    · exact h
    · exact h.ringPlace

/-! ### The checks of R200 -/

theorem State.memOk.accept {scu m} (h : s.memOk) : (s.accept scu m).memOk := by
  unfold State.accept
  extract_lets +onlyGivenNames mu u q
  split
  · exact h.setScu
  · split
    next heq1 => exact (memOk_of_fst h.ringPlace heq1).setScu
  · extract_lets +onlyGivenNames accs senders fog
    split
    · exact h.setScu
    · extract_lets +onlyGivenNames r
      split
      next heq1 => exact (memOk_of_fst h.placeResult heq1).setScu
  · exact h

theorem State.memOk.failSender {m status cause} (h : s.memOk) : (s.failSender m status cause).memOk := h.failCtx

theorem State.memOk.offer {m} (h : s.memOk) : (s.offer m).1.memOk := by
  unfold State.offer
  extract_lets +onlyGivenNames u
  split
  · exact h.accept.progress
  · exact h.failSender
  · exact h

/-! ### What a sender learns (R199, R201) -/

theorem State.memOk.setSendBuf {gid l} (h : s.memOk) : (s.setSendBuf gid l).memOk := by
  unfold State.setSendBuf
  split
  · exact h.setTu
  · exact h.setScu

theorem State.memOk.sendRefused {gid e status} (h : s.memOk) : (s.sendRefused gid e status).memOk := by
  unfold State.sendRefused
  extract_lets +onlyGivenNames scu u t
  have ht : t.memOk := h.setScu
  split
  · exact ht.failSender
  · exact ht

/-! ### Addresses and issue queues shared by scalar and tensor instructions -/

theorem State.memOk.setIssueQ {c i l} (h : s.memOk) : (s.setIssueQ c i l).memOk := by
  unfold State.setIssueQ
  split
  · exact h.setSw
  · exact h.setTu

/-! ### Positions (R21, R247) -/

theorem State.memOk.setPos {k v} (h : s.memOk) : (s.setPos k v).memOk := by
  unfold State.setPos
  exact h.update

/-! ### Sending packets -/

theorem State.memOk.sendPacket {c p} (h : s.memOk) : (s.sendPacket c p).memOk := h.setRt

theorem State.memOk.breakHeader {c p} (h : s.memOk) : (s.breakHeader c p).1.memOk := by
  unfold State.breakHeader
  split
  · exact h.disarm
  · exact h

theorem State.memOk.takeInbox_eq {c f p t} (h : s.memOk) (e : s.takeInbox c f = some (p, t)) : t.memOk := by
  unfold State.takeInbox at e
  extract_lets r at e
  split at e
  · nomatch e
  · obtain ⟨q, -, hq⟩ := Option.map_eq_some_iff.1 e
    cases hq
    exact h.setRt

theorem State.memOk.beginInject {c p} (h : s.memOk) : (s.beginInject c p).memOk := by
  unfold State.beginInject
  split
  next heq => exact (memOk_of_fst h.breakHeader heq).setRt

theorem State.memOk.startInjection {c n} (h : s.memOk) : (s.startInjection c n).memOk := by
  unfold State.startInjection
  extract_lets +onlyGivenNames r
  split
  · exact h.parityReset
  · split
    · extract_lets +onlyGivenNames gid l
      split
      · exact h
      · extract_lets +onlyGivenNames p
        split
        · exact h
        · exact h.setSendBuf.beginInject.setRt
    · split
      · exact h
      · split
        · exact h.setRt.failCtx
        · split
          · exact h
          · exact h.setRt.beginInject

theorem State.memOk.continueInjection {c cls} (h : s.memOk) : (s.continueInjection c cls).memOk := by
  unfold State.continueInjection
  split
  · exact h
  · exact h.setPos.setRt

/-! ### Ejection (R31, R106, R258) -/

theorem State.memOk.reply {c from_ to_ ctx b} (h : s.memOk) : (s.reply c from_ to_ ctx b).memOk := h.sendPacket

theorem State.memOk.discard {c} (h : s.memOk) : (s.discard c).memOk := h.setRt

theorem State.memOk.noteOutcome {c queue unit status heldBack} (h : s.memOk) : (s.noteOutcome c queue unit status heldBack).memOk := by
  unfold State.noteOutcome
  extract_lets +onlyGivenNames r
  split
  · exact h
  · split
    · exact h.sendPacket
    · extract_lets +onlyGivenNames t
      have ht : t.memOk := h.setRt
      split
      · exact ht.failCtx
      · exact ht

theorem State.memOk.eject {c p} (h : s.memOk) : (s.eject c p).memOk := by
  unfold State.eject
  extract_lets +onlyGivenNames body l bad
  split
  · exact h
  · clear_value body
    split
    · split
      · split
        · exact h.discard
        · exact h.discard.reply
      · exact h.setRt
    · split
      · exact h.discard.reply
      · exact h.setRt
    · split
      · exact h.noteOutcome
      · split
        · exact h.discard.failCtx
        · exact h.setRt
    · split
      · exact h.discard.failCtx
      · exact h.setRt
    · split
      · exact h.discard.failCtx
      · exact h.setRt

theorem State.memOk.voidPackets {gone} (h : s.memOk) : (s.voidPackets gone).memOk := by
  unfold State.voidPackets
  extract_lets +onlyGivenNames mark
  exact h.update

theorem State.memOk.voidMessages {cs} (h : s.memOk) : (s.voidMessages cs).memOk := h.voidPackets

theorem State.memOk.voidShares {g} (h : s.memOk) : (s.voidShares g).memOk := h.voidPackets

theorem State.memOk.countEcc {c ce ue} (h : s.memOk) : (s.countEcc c ce ue).memOk := by
  unfold State.countEcc
  split
  · exact h
  · exact h.setRt

theorem State.memOk.eccError {c ce ue} (h : s.memOk) : (s.eccError c ce ue).memOk := by
  unfold State.eccError
  extract_lets +onlyGivenNames t t1
  have ht : t.memOk := h.countEcc
  have ht1 : t1.memOk := by
    unfold t1
    split
    · exact ht.corrected
    · exact ht
  split
  · exact ht1.recordUnit
  · exact ht1

theorem State.memOk.badHeader {c p} (h : s.memOk) : (s.badHeader c p).memOk := by
  unfold State.badHeader
  extract_lets +onlyGivenNames t
  have ht : t.memOk := by
    unfold t
    split
    · exact h.discard.countEcc
    · exact h
  split
  · exact ht.failCtx
  · exact ht.failCtx
  · exact ht.record.latchReset

theorem State.memOk.flitOut {c key f last} (h : s.memOk) : (s.flitOut c key f last).memOk := by
  unfold State.flitOut
  extract_lets +onlyGivenNames r fog t
  have ht : t.memOk := h.setRt
  split
  · exact ht.eject
  · exact ht

theorem State.memOk.passed {c cls n f} (h : s.memOk) : (s.passed c cls n f).memOk := h.eccError.setRt

theorem State.memOk.hop {px py side cls} (h : s.memOk) : (s.hop px py side cls).memOk := by
  unfold State.hop
  extract_lets +onlyGivenNames here key q
  split
  · exact h
  · extract_lets +onlyGivenNames logical
    split
    · extract_lets +onlyGivenNames drop t
      have ht : t.memOk := h.setPos
      split
      · exact ht
      · exact ht.badHeader.voidPackets
    · clear_value logical
      split
      · split
        · exact h.parityReset
        · extract_lets +onlyGivenNames outs
          split
          · exact h
          · extract_lets +onlyGivenNames _ pkt last locks links spent t t1
            have ht : t.memOk := h.setPos
            have ht1 : t1.memOk := by
              refine ht.foldl fun u _ hu => ?_
              split
              · exact hu.flitOut
              · exact hu.setPos
            exact ht1.passed
      · split
        · exact h.parityReset
        · extract_lets +onlyGivenNames outs
          split
          · exact h
          · extract_lets +onlyGivenNames _ pkt last locks links spent t t1
            have ht : t.memOk := h.setPos
            have ht1 : t1.memOk := by
              refine ht.foldl fun u _ hu => ?_
              split
              · exact hu
              · exact hu.setPos
            split
            · exact ht1.passed
            · exact ht1

theorem State.memOk.execPacketForward {h'} (h : s.memOk) : Res.memOk (execPacketForward h' s) := by
  unfold Machine.execPacketForward
  extract_lets +onlyGivenNames waits at_
  split
  · exact h
  · split
    · split
      · exact h.continueInjection
      · exact h.startInjection
    · exact h.hop

/-! ### Messages at their ends (R199 to R201) -/

theorem State.memOk.execMessageArrival {u} (h : s.memOk) : Res.memOk (execMessageArrival u s) := by
  unfold Machine.execMessageArrival
  extract_lets +onlyGivenNames g c
  split
  · exact h
  · split
    · exact h
    next heq =>
      split
      · extract_lets +onlyGivenNames l mu
        split
        · exact h.takeInbox_eq heq
        · split
          · exact h
          · split
            · exact h.setMu (h.mu _)
            · split
              next heq2 =>
                split
                · exact (memOk_of_fst (h.takeInbox_eq heq).offer heq2).reply
                · exact (memOk_of_fst (h.takeInbox_eq heq).offer heq2).reply
                · exact (memOk_of_fst (h.takeInbox_eq heq).offer heq2).reply
                · exact memOk_of_fst (h.takeInbox_eq heq).offer heq2
      · exact h

theorem State.memOk.noteRun {gid run status} (h : s.memOk) : (s.noteRun gid run status).memOk := by
  unfold State.noteRun
  split
  · exact h.setTu
  · exact h

theorem State.memOk.takeOutcome {g queue unit status heldBack} (h : s.memOk) : (s.takeOutcome g queue unit status heldBack).memOk := by
  unfold State.takeOutcome
  extract_lets +onlyGivenNames l
  split
  · exact h
  · split
    · exact h
    · split
      · exact h.setSendBuf
      · extract_lets +onlyGivenNames t
        have ht : t.memOk := h.setSendBuf
        split
        · exact ht
        · exact ht.noteRun.sendRefused

theorem State.memOk.inImage {x c} {f : State → State} (h : s.memOk) (hf : ∀ t : State, t.memOk → (f t).memOk) : (s.inImage x c f).memOk := by
  unfold State.inImage
  extract_lets +onlyGivenNames mine rest
  split
  · exact h
  next i heq =>
    extract_lets +onlyGivenNames tus scus t j t'
    have ht : t.memOk := hf _ h.update
    have ht' : t'.memOk := ht.update
    have hj : j.memOk := by
      obtain ⟨k, hk, hki⟩ := Option.bind_eq_some_iff.1 heq
      obtain ⟨-, hscans⟩ := h.ctx hk
      exact (tabFind_all (P := ScanImg.memOk) hscans hki : i.memOk)
    split
    next k hk => exact ht'.setCtx ((ht'.ctx hk).setScan hj)
    next => exact ht'

theorem State.memOk.execMessageOutcome {u} (h : s.memOk) : Res.memOk (execMessageOutcome u s) := by
  unfold Machine.execMessageOutcome
  extract_lets g c
  split
  · exact h
  · split
    · exact h
    next heq =>
      have ht := h.takeInbox_eq heq
      split
      · extract_lets f
        have hf : ∀ t : State, t.memOk → (f t).memOk := fun t ht => ht.takeOutcome
        split
        · exact hf _ ht
        · exact ht.inImage hf
      · exact ht

theorem State.memOk.execMessageReoffer {u n} (h : s.memOk) : Res.memOk (execMessageReoffer u n s) := by
  unfold Machine.execMessageReoffer
  extract_lets +onlyGivenNames g l
  split
  · exact h
  · split
    · split
      · exact h.setSendBuf
      · exact h
    · exact h

theorem State.memOk.execCombiningResultPlace {u q} (h : s.memOk) : Res.memOk (execCombiningResultPlace u q s) := by
  unfold Machine.execCombiningResultPlace
  extract_lets +onlyGivenNames g mu qu
  split
  · exact h
  · extract_lets +onlyGivenNames l
    split
    · exact h
    · split
      · exact h.setMu (h.mu _)
      · split
        next heq1 => exact (memOk_of_fst h.placeResult heq1).setScu.progress

end Keeps

end Sys2Proof.Machine
end

section
/-!
PROOFS. The addressed memories stay canonical: the audit's work in the units, device memory, translation and snoops.
-/

namespace Sys2Proof.Machine

section Keeps
variable {s : State}

theorem State.memOk.nextPartner {sec g avoid} (h : s.memOk) : (s.nextPartner sec g avoid).1.memOk := by
  unfold State.nextPartner
  split
  · exact h
  · extract_lets +onlyGivenNames base l at_ order
    split
    · exact h
    · exact h.update

theorem State.memOk.reportUnit {g} (h : s.memOk) : (s.reportUnit g).memOk := by
  unfold State.reportUnit
  exact h.update

theorem State.memOk.skipSample (h : s.memOk) : s.skipSample.memOk := by
  unfold State.skipSample
  exact h.update

theorem State.memOk.markRun {g} (h : s.memOk) : (s.markRun g).memOk := by
  unfold State.markRun
  extract_lets +onlyGivenNames c
  split
  · exact h
  · exact h.update

theorem State.memOk.eligible_snd {g gen forced fog words} (h : s.memOk) : (s.eligible g gen forced fog words).2.memOk := by
  unfold State.eligible
  extract_lets +onlyGivenNames gen' t p left sel b t1
  have ht1 : t1.memOk := by
    unfold t1
    split
    · exact h.markRun
    · exact State.memOk.update h.markRun
  split
  · exact ht1
  · split
    · exact ht1.skipSample
    · split
      · exact ht1
      next sec _ =>
        have hn := ht1.nextPartner (sec := sec) (g := g) (avoid := [])
        split
        next heq => exact (memOk_of_fst hn heq).skipSample
        next heq =>
          split
          · exact (memOk_of_fst hn heq).skipSample
          · exact (memOk_of_fst hn heq).update

theorem State.memOk.eligible_eq {g gen forced fog words w t} (h : s.memOk) (e : s.eligible g gen forced fog words = (w, t)) : t.memOk := by
  have ht := h.eligible_snd (g := g) (gen := gen) (forced := forced) (fog := fog) (words := words)
  rw [e] at ht
  exact ht

/-! ### Lines (R336 to R338, R346) -/

theorem State.memOk.rcDrop {addr n} (h : s.memOk) : (s.rcDrop addr n).memOk := by
  unfold State.rcDrop
  split
  · exact h
  · exact h.setHbm h.hbm

theorem State.memOk.countWr {l} (h : s.memOk) : (s.countWr l).memOk := h.setCtrl

theorem State.memOk.poisonLine {l} (h : s.memOk) : (s.poisonLine l).memOk := by
  unfold State.poisonLine
  exact State.memOk.countWr (State.memOk.rcDrop (h.setHbm h.hbm))

theorem State.memOk.dieRead {k} (h : s.memOk) : (s.dieRead k).memOk := by
  unfold State.dieRead
  split
  · exact h.setCtrl
  · exact h

theorem State.memOk.decodeHalf {w k} (h : s.memOk) : (s.decodeHalf w k).memOk := by
  unfold State.decodeHalf
  extract_lets +onlyGivenNames t l n c r
  have ht : t.memOk := h.dieRead
  split
  · extract_lets +onlyGivenNames _ t1
    have ht1 : t1.memOk := ht.setHbm ht.hbm
    exact ht1.setCtrl.corrected
  · split
    · extract_lets +onlyGivenNames _ t1 t2
      have ht1 : t1.memOk := by
        refine ht.setHbm ?_
        dsimp only
        exact memWrite_wf _ _ _ ht.hbm
      have ht2 : t2.memOk := ht1.setCtrl.poisonLine
      exact ht2.record
    · exact ht

theorem State.memOk.decodeLine {w l} (h : s.memOk) : (s.decodeLine w l).memOk := h.decodeHalf.decodeHalf

theorem State.memOk.readLine {w l} (h : s.memOk) : (s.readLine w l).memOk := h.decodeLine.setCtrl

theorem State.memOk.hbmRead {w addr n} (h : s.memOk) : (s.hbmRead w addr n).1.memOk := h.foldl fun _ _ ht => ht.readLine

theorem State.memOk.hbmUncheck {addr n} (h : s.memOk) : (s.hbmUncheck addr n).memOk := by
  unfold State.hbmUncheck
  split
  · exact h
  · exact h.setHbm h.hbm

theorem State.memOk.hbmWriteKeep {w addr bytes keep fog} (h : s.memOk) : (s.hbmWriteKeep w addr bytes keep fog).memOk := by
  unfold State.hbmWriteKeep
  extract_lets +onlyGivenNames n
  split
  · exact h
  · extract_lets +onlyGivenNames whole fogged t _ t1
    have ht : t.memOk := by
      refine h.foldl fun u _ hu => ?_
      extract_lets +onlyGivenNames t2
      have ht2 : t2.memOk := by
        refine State.memOk.countWr ?_
        split
        · exact hu
        · exact hu.readLine
      exact ht2.setHbm ht2.hbm
    have ht1 : t1.memOk := ht.setHbm (memWrite_wf _ _ _ ht.hbm)
    exact ht1.hbmUncheck.rcDrop

theorem State.memOk.hbmWrite {w addr bytes fog} (h : s.memOk) : (s.hbmWrite w addr bytes fog).memOk := h.hbmWriteKeep

theorem State.memOk.countGranule {g} (h : s.memOk) : (s.countGranule g).memOk := h.foldl fun _ _ ht => ht.setCtrl

theorem State.memOk.initGranule {g} (h : s.memOk) : (s.initGranule g).memOk := by
  unfold State.initGranule
  extract_lets +onlyGivenNames t lo inG
  have ht : t.memOk := h.countGranule
  exact State.memOk.rcDrop (ht.setHbm (memZero_wf _ _ _ ht.hbm))

theorem State.memOk.rcDropSector {sec} (h : s.memOk) : (s.rcDropSector sec).memOk := by
  unfold State.rcDropSector
  exact h.setHbm h.hbm

/-! ### Block checks (R98 to R100, R339, R463) -/

theorem State.memOk.crcMismatch {r want got} (h : s.memOk) : (s.crcMismatch r want got).memOk := by
  unfold State.crcMismatch
  exact State.memOk.record (h.update)

theorem State.memOk.hbmBadBlock {w cls a len want got} (h : s.memOk) : (s.hbmBadBlock w cls a len want got).memOk := by
  unfold State.hbmBadBlock
  extract_lets +onlyGivenNames _ t
  have ht : t.memOk := h.crcMismatch
  exact State.memOk.foldl (ht.setHbm ht.hbm) fun _ _ hu => hu.poisonLine

theorem State.memOk.hbmVerify {w addr n} (h : s.memOk) : (s.hbmVerify w addr n).memOk := by
  unfold State.hbmVerify
  refine h.foldl fun t _ ht => ?_
  extract_lets +onlyGivenNames a1 len
  split
  · exact ht
  · split
    · exact ht
    · split
      · exact ht.setHbm ht.hbm
      · extract_lets +onlyGivenNames got
        split
        · exact ht
        · exact ht.hbmBadBlock

theorem State.memOk.hbmStoreCheck {w addr len came} (h : s.memOk) : (s.hbmStoreCheck w addr len came).memOk := by
  unfold State.hbmStoreCheck
  split
  · exact h.setHbm h.hbm
  · extract_lets +onlyGivenNames got
    split
    · split
      · exact h.setHbm h.hbm
      · exact h.hbmBadBlock
    · exact h.setHbm h.hbm

/-! ### Translation (R331 to R334) -/

theorem State.memOk.readTables {w x va} (h : s.memOk) : (s.readTables w x va).memOk := by
  unfold State.readTables
  split
  · exact h
  · exact h.foldl fun _ _ ht => ht.readLine

/-! ### The translation cache of a memory unit (R334) -/

theorem State.memOk.xlateFill {g x c va write k} (h : s.memOk) : (s.xlateFill g x c va write k).1.memOk := by
  unfold State.xlateFill
  extract_lets +onlyGivenNames o
  split
  · exact h
  · extract_lets +onlyGivenNames s'
    have hs' : s'.memOk := h.readTables
    split
    · exact hs'
    · exact hs'.setMu (hs'.mu _)

/-! ### Host translations (R351) -/

theorem State.memOk.atcAdd {e} (h : s.memOk) : (s.atcAdd e).memOk := by
  unfold State.atcAdd
  extract_lets +onlyGivenNames mine
  exact h.update

theorem State.memOk.ats {c page write} (h : s.memOk) : (s.ats c page write).1.memOk := by
  unfold State.ats
  split
  · exact h
  · extract_lets +onlyGivenNames n t
    have ht : t.memOk := State.memOk.emit (h.update)
    split
    · exact ht
    · exact ht.atcAdd

/-! ### Snoops (R405), and accesses that pass no controller's queue (R343) -/

theorem State.memOk.sendSnoops {who l inv} (h : s.memOk) : (s.sendSnoops who l inv).memOk :=
  h.foldl fun _ _ ht => State.memOk.emit (ht.setPort.update)

theorem State.memOk.mayAccess {who rd wr} (h : s.memOk) : (s.mayAccess who rd wr).1.memOk := by
  unfold State.mayAccess
  extract_lets +onlyGivenNames a b
  split
  · exact h.sendSnoops.sendSnoops
  · split
    · exact h
    · exact h.update

theorem State.memOk.directAccess {who rd wr} (h : s.memOk) : (s.directAccess who rd wr).1.memOk := by
  unfold State.directAccess
  split
  · exact h
  · exact h.mayAccess

end Keeps

end Sys2Proof.Machine
end

section
/-!
PROOFS. The addressed memories stay canonical: walks of a scratchpad and what tensor instructions have alike.
-/

namespace Sys2Proof.Machine

section Keeps
variable {s : State}

/-! ### Reading a walk of the scratchpad -/

theorem State.memOk.muBadBlock {gid cls a len want got} (h : s.memOk) : (s.muBadBlock gid cls a len want got).memOk := by
  unfold State.muBadBlock
  extract_lets +onlyGivenNames m t
  have ht : t.memOk := h.setMu (h.mu _)
  exact ht.crcMismatch

theorem State.memOk.muVerify {gid cls addr n} (h : s.memOk) : (s.muVerify gid cls addr n).memOk := by
  unfold State.muVerify
  refine h.foldl fun t _ ht => ?_
  extract_lets +onlyGivenNames m a1 len
  split
  · exact ht
  · split
    · exact ht
    · split
      · exact ht.setMu (ht.mu _)
      · extract_lets +onlyGivenNames got
        split
        · exact ht
        · exact ht.muBadBlock

theorem State.memOk.muStoreCheck {gid addr len came} (h : s.memOk) : (s.muStoreCheck gid addr len came).memOk := by
  unfold State.muStoreCheck
  extract_lets +onlyGivenNames m
  split
  · exact h.setMu (h.mu _)
  · extract_lets +onlyGivenNames got
    split
    · split
      · exact h.setMu (h.mu _)
      · exact h.muBadBlock
    · exact h.setMu (h.mu _)

theorem State.memOk.touchRuns {gid d c base rs} (h : s.memOk) : (s.touchRuns gid d c base rs).memOk := by
  unfold State.touchRuns
  refine h.foldl fun t _ ht => ?_
  extract_lets +onlyGivenNames t1
  have ht1 : t1.memOk := ht.foldl fun _ _ hu => hu.touchRead
  split
  · exact ht1.foldl fun _ _ hu => hu.touchRead
  · exact ht1

theorem State.memOk.verifyRuns {gid d rs} (h : s.memOk) : (s.verifyRuns gid d rs).memOk := by
  unfold State.verifyRuns
  split
  · exact h
  · exact h.foldl fun _ _ ht => ht.muVerify

theorem State.memOk.readRuns {gid d c ks} (h : s.memOk) : (s.readRuns gid d c ks).1.memOk := h.touchRuns.verifyRuns

theorem State.memOk.readRaw {gid d base rs} (h : s.memOk) : (s.readRaw gid d base rs).1.memOk := by
  unfold State.readRaw
  extract_lets +onlyGivenNames t t1 m
  have ht : t.memOk := h.foldl fun _ _ hu => hu.touchRead
  have ht1 : t1.memOk := by
    unfold t1
    split
    · exact ht.muVerify
    · exact ht
  exact ht1

theorem State.memOk.readPlain {gid d base} (h : s.memOk) : (s.readPlain gid d base).1.memOk := h.readRaw

/-! ### Writing a walk of the scratchpad -/

theorem State.memOk.writeRuns {gid d base runs} (h : s.memOk) : (s.writeRuns gid d base runs).memOk :=
  h.foldl fun _ _ ht => ht.foldl fun _ _ hu => hu.muWritePlain

theorem State.memOk.writeWalk {gid d base runs came} (h : s.memOk) : (s.writeWalk gid d base runs came).memOk := by
  unfold State.writeWalk
  extract_lets +onlyGivenNames t
  have ht : t.memOk := h.writeRuns
  split
  · exact ht.foldl fun _ _ hu => hu.muStoreCheck
  · exact ht

/-! ### Instructions of a unit -/

theorem State.memOk.putRun {g r} (h : s.memOk) : (s.putRun g r).memOk := h.setTu

theorem State.memOk.dropRun {g id} (h : s.memOk) : (s.dropRun g id).memOk := by
  unfold State.dropRun
  extract_lets +onlyGivenNames t t1 m
  have ht1 : t1.memOk := h.setTu
  split
  · exact ht1
  · exact ht1.setMcu

theorem State.memOk.beginRun {g r} (h : s.memOk) : (s.beginRun g r).memOk := h.setTu

theorem State.memOk.tensorFail {g iss status cause} (h : s.memOk) : (s.tensorFail g iss status cause).memOk := h.failCtx

theorem State.memOk.tensorFault {g iss status} (h : s.memOk) : (s.tensorFault g iss status).memOk := h.tensorFail

/-! ### Streams and hand-overs (R222, R227, R292) -/

theorem State.memOk.countWords {c fl} (h : s.memOk) : (s.countWords c fl).memOk := by
  unfold State.countWords
  extract_lets +onlyGivenNames n m
  split
  · exact h
  · extract_lets +onlyGivenNames w t g
    have ht : t.memOk := h.setSw
    refine ht.foldl fun u _ hu => ?_
    extract_lets +onlyGivenNames t1
    have ht1 : t1.memOk := by
      unfold t1
      split
      · exact hu.corrected
      · exact hu
    exact ht1.foldl fun _ _ hv => hv.recordUnit

theorem State.memOk.deliver {g r fl} (h : s.memOk) : (s.deliver g r fl).memOk := by
  unfold State.deliver
  extract_lets +onlyGivenNames c plain _ toChannel
  split
  · unfold toChannel
    extract_lets +onlyGivenNames t
    split
    · exact h.setTu
    · split
      · exact h.setTu
      · exact h
  · split
    · unfold toChannel
      extract_lets +onlyGivenNames t
      split
      · exact h.setTu
      · split
        · exact h.setTu
        · exact h
    · exact h.setSw
    · exact h.setTu

theorem State.memOk.deliverEmpty {g r} (h : s.memOk) : (s.deliverEmpty g r).memOk := by
  unfold State.deliverEmpty
  split
  · exact h
  · exact h.deliver

theorem State.memOk.takeSource {g r n} (h : s.memOk) : (s.takeSource g r n).memOk := by
  unfold State.takeSource
  extract_lets +onlyGivenNames t c
  split
  · exact h.countWords.setTu
  · split
    · exact h.countWords.setTu
    · split
      · exact h.countWords.setTu
      · exact h

theorem State.memOk.sideFault {g r} (h : s.memOk) : (s.sideFault g r).memOk := h.takeSource.failCtx

/-! ### The driver of a tensor command -/

theorem optOk_firstAdvance {f : Run → Option State} {l : List Run} (hf : ∀ r, optOk (f r)) : optOk (firstAdvance f l) := by
  induction l with
  | nil => trivial
  | cons r l ih =>
    unfold firstAdvance
    split
    next t heq => exact (hf r).of_eq heq
    next => exact ih

theorem State.memOk.issueHead {g : Nat} {ops : Nat → Bool} {issue : State → Issued → State} (h : s.memOk) (hi : ∀ i, (issue s i).memOk) :
    Res.memOk (issueHead s g ops issue) := by
  unfold Machine.issueHead
  extract_lets t
  split
  · split
    · exact h
    · split
      · exact hi _
      · split
        · exact h
        · exact h.tensorFault
  · exact h

theorem State.memOk.tensorCmd {g : Nat} {ops : Nat → Bool} {issue : State → Issued → State} {adv : State → Run → Option State} (h : s.memOk)
    (hi : ∀ i, (issue s i).memOk) (ha : ∀ r, optOk (adv s r)) : Res.memOk (tensorCmd s g ops issue adv) := by
  unfold Machine.tensorCmd
  extract_lets t
  split
  · exact h
  · split
    next t heq =>
      refine State.memOk.progress (optOk.of_eq (optOk_firstAdvance fun r => ?_) heq)
      split
      · exact h.sideFault
      · exact ha r
    next => exact h.issueHead hi

/-! ### Completion (R184, R286, R294) -/

theorem State.memOk.postTag {g iss status} (h : s.memOk) : (s.postTag g iss status).memOk := by
  unfold State.postTag
  split
  · exact h
  · exact h.setScu

theorem State.memOk.freeLanes {c lanes} (h : s.memOk) : (s.freeLanes c lanes).memOk := h.setSw

theorem State.memOk.headDone {g iss} (h : s.memOk) : (s.headDone g iss).memOk := h.setTu.postTag.progress

theorem State.memOk.stageDone {st status} (h : s.memOk) : (s.stageDone st status).memOk := by
  unfold State.stageDone
  split
  · exact h
  · extract_lets +onlyGivenNames r
    split
    · exact h.putRun
    · extract_lets +onlyGivenNames bad r1
      split
      · exact h.putRun
      · exact h.dropRun.freeLanes.postTag

theorem State.memOk.complete {g r} (h : s.memOk) : (s.complete g r).memOk := by
  unfold State.complete
  extract_lets +onlyGivenNames t t1
  have ht : t.memOk := h.dropRun
  have ht1 : t1.memOk := by
    unfold t1
    split
    · exact ht.stageDone
    · exact ht.postTag
  exact ht1.progress

theorem State.memOk.execInstructionComplete {u} (h : s.memOk) : Res.memOk (execInstructionComplete u s) := by
  unfold Machine.execInstructionComplete
  extract_lets +onlyGivenNames g l l1
  split
  · exact h
  · split
    · exact h.complete
    · exact h

/-! ### QSEND (R285) -/

theorem State.memOk.qsendIssue {g iss} (h : s.memOk) : (qsendIssue s g iss).memOk := by
  unfold Machine.qsendIssue
  extract_lets +onlyGivenNames i home m d p
  split
  · exact h.tensorFault
  · split
    · exact h.tensorFault
    · split
      · exact h.tensorFault
      · split
        · exact h
        · split
          · exact h
          · exact h.beginRun

theorem State.memOk.qsendAdvance {g r} (h : s.memOk) : optOk (qsendAdvance s g r) := by
  unfold Machine.qsendAdvance
  extract_lets +onlyGivenNames home d m
  split
  · trivial
  · split
    · exact h.setMu (h.mu _)
    · split
      · trivial
      · split
        next heq =>
          extract_lets +onlyGivenNames payload fog msg
          split
          · exact (memOk_of_fst h.readPlain heq).tensorFault
          · exact (memOk_of_fst h.readPlain heq).setTu.putRun

theorem State.memOk.execQsendTensor {u} (h : s.memOk) : Res.memOk (execQsendTensor u s) :=
  h.tensorCmd (fun _ => h.qsendIssue) fun _ => h.qsendAdvance

/-! ### CHAIN (R291 to R294) -/

theorem State.memOk.chainIssue {g iss} (h : s.memOk) : (chainIssue s g iss).memOk := by
  unfold Machine.chainIssue
  extract_lets +onlyGivenNames c p st
  split
  · exact h.tensorFault
  · split
    · exact h.tensorFail
    · split
      · exact h.tensorFault
      · extract_lets +onlyGivenNames w free need
        split
        · exact h
        · exact h.setSw.beginRun

theorem State.memOk.chainAdvance {g r} (h : s.memOk) : optOk (chainAdvance s g r) := by
  unfold Machine.chainAdvance
  extract_lets +onlyGivenNames c st n need idle
  split
  · trivial
  · split
    · trivial
    · split
      · exact h.tensorFail
      · exact (h.foldl fun _ _ ht => ht.setIssueQ).putRun

theorem State.memOk.execChain {u} (h : s.memOk) : Res.memOk (execChain u s) := h.tensorCmd (fun _ => h.chainIssue) fun _ => h.chainAdvance

/-! ### FENCE and DAYMARK (R289, R290) -/

theorem State.memOk.fenceIssue {g iss} (h : s.memOk) : (fenceIssue s g iss).memOk := by
  unfold Machine.fenceIssue
  split
  · exact h.tensorFault
  · split
    · exact h.headDone
    · exact h

theorem State.memOk.execFence {u} (h : s.memOk) : Res.memOk (execFence u s) := h.tensorCmd (fun _ => h.fenceIssue) fun _ => trivial

theorem State.memOk.daymarkIssue {g iss} (h : s.memOk) : (daymarkIssue s g iss).memOk := by
  unfold Machine.daymarkIssue
  extract_lets +onlyGivenNames i c e m d chans
  split
  · exact h.tensorFault
  · split
    · exact h.tensorFault
    · split
      · exact h
      · extract_lets +onlyGivenNames put token
        split
        · exact h.setTu.beginRun
        · split
          · exact h.tensorFault
          · split
            · exact h.tensorFault
            · split
              · exact h
              · split
                · exact h.setMu (h.mu _)
                · split
                  next heq3 => exact (memOk_of_fst h.readPlain heq3).setTu.beginRun

theorem State.memOk.execDaymark {u} (h : s.memOk) : Res.memOk (execDaymark u s) := h.tensorCmd (fun _ => h.daymarkIssue) fun _ => trivial

end Keeps

end Sys2Proof.Machine
end

section
/-!
PROOFS. The addressed memories stay canonical: the stream fabric and daymark epochs.
-/

namespace Sys2Proof.Machine

section Keeps
variable {s : State}

/-! ### Queues of a switch (R214, R222, R223, R240) -/

theorem State.memOk.enqueue {c q f} (h : s.memOk) : (s.enqueue c q f).memOk := by
  unfold State.enqueue
  split
  · exact h.setSw
  · exact h.setTu
  · exact h.setSw

theorem State.memOk.arrive {c q f} (h : s.memOk) : (s.arrive c q f).memOk := by
  unfold State.arrive
  extract_lets +onlyGivenNames w w1 t
  have ht : t.memOk := h.setSw
  split
  · exact ht.setSw
  · exact ht.enqueue

/-! ### Circuits (R214 to R216, R302) -/

theorem State.memOk.fabricFail {c unit status cls cause} (h : s.memOk) : (s.fabricFail c unit status cls cause).memOk := by
  unfold State.fabricFail
  split
  · exact h.failCtx
  · exact h

theorem State.memOk.stale {c unit} (h : s.memOk) : (s.stale c unit).memOk := h.setCl.fabricFail

theorem State.memOk.sideFail {c f} (h : s.memOk) : (s.sideFail c f).memOk := h.countWords.fabricFail

theorem State.memOk.leaveBuf {c buf f} (h : s.memOk) : (s.leaveBuf c buf f).memOk := h.setSw.countWords

theorem State.memOk.moveBuf {c n buf f link to_ q} (h : s.memOk) : (s.moveBuf c n buf f link to_ q).memOk := by
  unfold State.moveBuf
  split
  · exact h.setSw.sideFail
  · split
    · exact h
    · exact h.leaveBuf.setSw.arrive.progress

/-! ### Die crossings (R226) -/

theorem State.memOk.landOne {c l} (h : s.memOk) : (s.landOne c l).memOk := by
  unfold State.landOne
  extract_lets +onlyGivenNames w
  split
  · exact h.setSw.arrive.progress
  · exact h

theorem State.memOk.landAll {c} (h : s.memOk) : (s.landAll c).memOk := by
  unfold State.landAll
  refine h.foldl fun t _ ht => ?_
  extract_lets +onlyGivenNames t1
  have ht1 : t1.memOk := ht.foldl fun _ _ hu => hu.landOne
  split
  · refine ht1.foldl fun u _ hu => ?_
    split
    · exact hu.foldl fun _ _ hv => hv.landOne
    · exact hu
  · exact ht1

theorem State.memOk.crossBuf {c n buf link to_} (h : s.memOk) : (s.crossBuf c n buf link to_).memOk := by
  unfold State.crossBuf
  extract_lets +onlyGivenNames w q
  clear_value q
  split
  · split
    · exact h.landOne
    · split
      · exact h
      · extract_lets +onlyGivenNames wd sent space
        split
        · exact h.setSw.sideFail
        · split
          · exact h
          · exact h.leaveBuf.setSw.progress
  · split
    · exact h.landOne
    · split
      · exact h
      · extract_lets +onlyGivenNames wd sent space
        split
        · exact h.setSw.sideFail
        · split
          · exact h
          · exact h.leaveBuf.setSw.progress

theorem State.memOk.intoCircuit {t : State} {c port f} (h : s.memOk) (ht : t.memOk) : (s.intoCircuit t c port f).memOk := by
  unfold State.intoCircuit
  split
  · exact h
  · split
    · exact ht.arrive.progress
    · exact h

theorem State.memOk.execStreamFlitTransfer {c mv} (h : s.memOk) : Res.memOk (execStreamFlitTransfer c mv s) := by
  unfold Machine.execStreamFlitTransfer
  extract_lets +onlyGivenNames c1 w
  split
  · exact h
  · split
    · extract_lets +onlyGivenNames g t q
      clear_value q
      split
      · exact h
      · exact h.intoCircuit h.setTu
    · extract_lets +onlyGivenNames x1 q
      clear_value q
      split
      · exact h
      · exact h.intoCircuit h.setSw
    · extract_lets +onlyGivenNames l
      split
      · exact h
      · extract_lets +onlyGivenNames q
        split
        · exact h
        · exact h.setSw.arrive.progress
    · extract_lets +onlyGivenNames x1 bs
      split
      · exact h
      · split
        · exact h
        · split
          · exact h.setSw.sideFail
          · split
            · exact h
            · exact (h.leaveBuf.foldl fun _ _ ht => ht.arrive).progress
    · extract_lets +onlyGivenNames x1
      split
      · exact h
      · split
        · exact h
        · split
          · exact h.parityReset
          · split
            · exact h
            · split
              · exact h.crossBuf
              · split
                · exact h.moveBuf
                · exact h
    · extract_lets +onlyGivenNames x1
      split
      · exact h
      · split
        · exact h
        · extract_lets +onlyGivenNames u g
          split
          · exact h
          · split
            · exact h.setSw.stale
            · exact h.moveBuf

/-! ### Control lanes (R223) -/

theorem State.memOk.execControlBitTransfer {c mv} (h : s.memOk) : Res.memOk (execControlBitTransfer c mv s) := by
  unfold Machine.execControlBitTransfer
  extract_lets +onlyGivenNames c1 w
  split
  · exact h
  · split
    · extract_lets +onlyGivenNames g u
      split
      · split
        · exact h.setScu.arrive.progress
        · exact h
      · exact h
    · extract_lets +onlyGivenNames x4
      split
      · split
        · split
          · exact h.parityReset
          · split
            · exact h.setSw.arrive.progress
            · exact h
        · exact h
      · exact h

/-! ### Steering instructions (R229, R231, R271, R277) -/

theorem State.memOk.steerCmd {c op} (h : s.memOk) : Res.memOk (steerCmd c op s) := by
  unfold Machine.steerCmd
  extract_lets +onlyGivenNames w
  split
  · exact h
  · split
    · exact h
    · split
      · exact h.tensorFault
      · split
        · exact h
        · extract_lets +onlyGivenNames e k cfg
          split
          · exact h.tensorFault
          · extract_lets +onlyGivenNames x7
            split
            · exact h
            · exact h.setSw

theorem State.memOk.execSteerOff {c} (h : s.memOk) : Res.memOk (execSteerOff c s) := h.steerCmd

theorem State.memOk.execSteerSw {c} (h : s.memOk) : Res.memOk (execSteerSw c s) := h.steerCmd

theorem State.memOk.execSteerMg {c} (h : s.memOk) : Res.memOk (execSteerMg c s) := h.steerCmd

theorem State.memOk.execSteerGate {c} (h : s.memOk) : Res.memOk (execSteerGate c s) := h.steerCmd

theorem State.memOk.execSteerCarry {c} (h : s.memOk) : Res.memOk (execSteerCarry c s) := h.steerCmd

theorem State.memOk.execSteerRep {c} (h : s.memOk) : Res.memOk (execSteerRep c s) := h.steerCmd

theorem State.memOk.execSteerDec {c} (h : s.memOk) : Res.memOk (execSteerDec c s) := h.steerCmd

theorem State.memOk.execSteerConfigApply {c e} (h : s.memOk) : Res.memOk (execSteerConfigApply c e s) := by
  unfold Machine.execSteerConfigApply
  extract_lets +onlyGivenNames c1 w x
  split
  · exact h
  · split
    · exact h
    · exact h.setSw.postTag.progress

/-! ### Steering elements at work (R230 to R235) -/

theorem State.memOk.countIn {c e k w w'} (h : s.memOk) : (s.countIn c e k w w').memOk := by
  unfold State.countIn
  split
  · split
    · exact h.countWords
    · exact h
  · exact h

theorem State.memOk.execSteerToken {c e} (h : s.memOk) : Res.memOk (execSteerToken c e s) := by
  unfold Machine.execSteerToken
  extract_lets +onlyGivenNames c1 e1 w x put conf
  split
  · exact h
  · split
    · exact h.setSw.sideFail
    · exact h.setSw.countIn.countIn.progress
    · split
      · exact h
      · split
        · split
          · split
            · exact h.setSw.countIn.countIn.progress
            · exact h
          · split
            · split
              · exact h
              · split
                · exact h
                · extract_lets +onlyGivenNames w'
                  split
                  · exact h.setSw.stale
                  · split <;> exact h.setSw.countIn.countIn.progress
            · split
              · split
                · split
                  · exact h
                  · split
                    · exact h.setSw.sideFail
                    · split
                      · exact h.setSw.stale
                      · split
                        · exact h.setSw.fabricFail
                        · split
                          · exact h.setSw.countIn.countIn.progress
                          · exact h
                · exact h
        · split
          · split
            · exact h.setSw.countIn.countIn.progress
            · exact h
          · split
            · split
              · exact h
              · split
                · exact h
                · extract_lets +onlyGivenNames w'
                  split
                  · exact h.setSw.stale
                  · split <;> exact h.setSw.countIn.countIn.progress
            · split
              · split
                · split
                  · exact h
                  · split
                    · exact h.setSw.sideFail
                    · split
                      · exact h.setSw.stale
                      · split
                        · exact h.setSw.fabricFail
                        · split
                          · exact h.setSw.countIn.countIn.progress
                          · exact h
                · exact h

/-! ### Foghorn (R236, R237) -/

/-- A context that runs in a sector is one that the state lists. -/
theorem State.memOk.runningIn {r} (h : s.memOk) : ∀ e ∈ s.runningIn r, e.2.memOk := by
  obtain ⟨-, -, hctxs⟩ := h
  exact fun e he => hctxs e (List.mem_of_mem_filter he)

theorem State.memOk.execFoghornStall {sec} (h : s.memOk) : Res.memOk (execFoghornStall sec s) := by
  unfold Machine.execFoghornStall
  extract_lets +onlyGivenNames r
  split
  · exact h
  · extract_lets +onlyGivenNames f limit
    split
    · exact h
    · extract_lets +onlyGivenNames rate t full any
      have ht : t.memOk := by
        unfold t
        split
        · exact h.advance
        · exact h
      extract_lets +onlyGivenNames n run rec0 f1
      split
      · exact State.memOk.record (State.memOk.setSf (ht.foldl fun _ _ hu => hu.setSw))
      · refine List.foldlRecOn (motive := State.memOk) run _ ht.setSf.record fun u hu e he => ?_
        exact hu.setCtx_of_eq (ht.runningIn e he) rfl rfl

/-! ### The spill ring (R238 to R241) -/

theorem State.memOk.putRecord {r x} (h : s.memOk) : (s.putRecord r x).memOk := h.hbmWrite.setSf

theorem State.memOk.execSpillRecordWrite {c q} (h : s.memOk) : Res.memOk (execSpillRecordWrite c q s) := by
  unfold Machine.execSpillRecordWrite
  extract_lets +onlyGivenNames c1 w
  split
  · extract_lets +onlyGivenNames b
    split
    · exact h
    · extract_lets +onlyGivenNames t
      have ht : t.memOk := h.setSw
      split
      · exact ht.setSf.fabricFail
      · exact ht.putRecord.setSf.progress
  · exact h

theorem State.memOk.execSpillRecordRead {c q} (h : s.memOk) : Res.memOk (execSpillRecordRead c q s) := by
  unfold Machine.execSpillRecordRead
  extract_lets +onlyGivenNames c1 w n
  split
  · exact h
  · extract_lets +onlyGivenNames b ahead mine room next
    split
    next heq1 =>
      split
      · exact h
      · split
        · extract_lets +onlyGivenNames t1
          have ht1 : t1.memOk := by
            refine memOk_of_fst ?_ heq1
            clear_value next
            split
            · exact h.foldl fun _ _ hu => hu.readLine
            · exact h
          exact ht1.setSf.fabricFail
        · extract_lets +onlyGivenNames t1
          have ht1 : t1.memOk := by
            refine memOk_of_fst ?_ heq1
            clear_value next
            split
            · exact h.foldl fun _ _ hu => hu.readLine
            · exact h
          clear_value mine
          split
          · split
            · exact ht1.setSw
            · exact ht1
          · split
            · exact ht1.setSw.setSf.enqueue.progress
            · split
              · exact ht1.setSw.progress
              · exact ht1

/-! ### Bytes of configuration targets (R301, R316) -/

theorem State.memOk.writeTim {g off l} (h : s.memOk) : (s.writeTim g off l).memOk := h.setTu

theorem State.memOk.writeDesc {g off l} (h : s.memOk) : (s.writeDesc g off l).memOk := by
  unfold State.writeDesc
  extract_lets +onlyGivenNames m hit
  exact h.setMu (h.mu _)

theorem State.memOk.writeImem {g off l} (h : s.memOk) : (s.writeImem g off l).memOk := h.setScu

/-! ### Configuration flits (R316, R317) -/

theorem State.memOk.takeConf {c epoch f} (h : s.memOk) : (s.takeConf c epoch f).memOk := by
  unfold State.takeConf
  extract_lets +onlyGivenNames x
  split
  · exact h.fabricFail
  · split
    · exact h.fabricFail
    · split
      · exact h
      · split
        · exact h.fabricFail
        · split
          · exact h.writeTim
          · exact h.writeDesc
          · exact h.writeImem
          · exact h.setSw

/-! ### Tokens (R314, R318) -/

theorem State.memOk.switched {c epoch} (h : s.memOk) : (s.switched c epoch).memOk := h.setCl

theorem State.memOk.dmCircuit {c n} (h : s.memOk) : (dmCircuit s c n).memOk := by
  unfold Machine.dmCircuit
  extract_lets +onlyGivenNames w
  split
  · extract_lets +onlyGivenNames e
    split
    · exact h
    · split
      · exact h.leaveBuf.fabricFail
      · split
        · exact h.setSw.setCl.progress
        · exact h.leaveBuf.stale
  · exact h

theorem State.memOk.dmUnit {c u ch} (h : s.memOk) : (dmUnit s c u ch).memOk := by
  unfold Machine.dmUnit
  extract_lets +onlyGivenNames g t
  split
  · extract_lets +onlyGivenNames take
    split
    · exact h
    · split
      · exact h.setTu.countWords.fabricFail
      · split
        · exact h.setTu.countWords.fabricFail
        · split
          · exact h.setTu.countWords.progress
          · split
            · exact h.setTu.countWords.stale
            · exact h
  · exact h

theorem State.memOk.dmElem {c e k} (h : s.memOk) : (dmElem s c e k).memOk := by
  unfold Machine.dmElem
  extract_lets +onlyGivenNames w x
  split
  · extract_lets +onlyGivenNames put drop
    split
    · split
      · exact h
      · split
        · exact h.setSw.countWords.fabricFail
        · split
          · exact h.setSw.countWords.fabricFail
          · split
            · exact h.setSw.countWords.progress
            · split
              · exact h.setSw.countWords.stale
              · split
                · exact h
                · split
                  · split
                    · split
                      · exact h.setSw.countWords.countWords.switched.progress
                      · exact h
                    · exact h
                  · exact h.setSw.countWords.switched.progress
    · split
      · exact h
      · split
        · exact h.setSw.countWords.fabricFail
        · split
          · exact h.setSw.countWords.fabricFail
          · split
            · exact h.setSw.countWords.progress
            · split
              · exact h.setSw.countWords.stale
              · split
                · exact h
                · split
                  · split
                    · split
                      · exact h.setSw.countWords.countWords.switched.progress
                      · exact h
                    · exact h
                  · exact h.setSw.countWords.switched.progress
  · exact h

theorem State.memOk.execDaymarkTokenArrival {c at_} (h : s.memOk) : Res.memOk (execDaymarkTokenArrival c at_ s) := by
  unfold Machine.execDaymarkTokenArrival
  split
  · exact h
  · split
    · exact h.dmCircuit
    · exact h.dmUnit
    · exact h.dmElem

theorem State.memOk.execUnitSwitchover {u ch} (h : s.memOk) : Res.memOk (execUnitSwitchover u ch s) := by
  unfold Machine.execUnitSwitchover
  extract_lets +onlyGivenNames g c t left use
  split
  · exact h
  · split
    · exact h
    · split
      · extract_lets +onlyGivenNames t1 t2
        have ht2 : t2.memOk := h.setTu.countWords
        refine State.memOk.progress ?_
        split
        · exact ht2.takeConf
        · exact ht2
      · split
        · exact h
        · split
          · exact h.setTu.countWords.fabricFail
          · split
            · exact h.setTu.countWords.fabricFail
            · split
              · exact h
              · exact h.setTu.countWords.switched.progress

theorem State.memOk.execSlotTableSwitch {c link lane} (h : s.memOk) : Res.memOk (execSlotTableSwitch c link lane s) := by
  unfold Machine.execSlotTableSwitch
  extract_lets +onlyGivenNames c1 w k
  split
  · exact h
  · extract_lets +onlyGivenNames owners
    split
    · exact h
    · exact h.setSw

end Keeps

end Sys2Proof.Machine
end

section
/-!
PROOFS. The addressed memories stay canonical: external requests and the instructions of a memory unit.
-/

namespace Sys2Proof.Machine

section Keeps
variable {s : State}

/-! ### Sending (R333, R351, R352, R106) -/

theorem State.memOk.mayWalk {g x c va} (h : s.memOk) : (s.mayWalk g x c va).1.memOk := by
  unfold State.mayWalk
  split
  · exact h
  · exact h.directAccess

theorem State.memOk.sendReq {g x k q bytes fog} (h : s.memOk) : (s.sendReq g x k q bytes fog).memOk := by
  unfold State.sendReq
  split
  · exact h
  next c _ =>
    have hwalk := h.mayWalk (g := g) (x := x) (c := c) (va := q.va)
    split
    next heq => exact memOk_of_fst hwalk heq
    next t heq =>
      have ht : t.memOk := memOk_of_fst hwalk heq
      extract_lets +onlyGivenNames op
      have hx := ht.xlateFill (g := g) (x := x) (c := c) (va := q.va) (write := q.write) (k := k)
      cases he : t.xlateFill g x c q.va q.write k with
      | mk u o =>
        have hu : u.memOk := memOk_of_fst hx he
        cases o with
        | fail st ca => exact hu.failCtx
        | hbm a rc => exact hu.setCtrl
        | host iova =>
          dsimp only
          split
          · exact hu.failCtx
          · have ha := hu.ats (c := c) (page := iova / 4096 * 4096) (write := q.write)
            split
            next heq => exact memOk_of_fst ha heq
            next heq =>
              have hv := memOk_of_fst ha heq
              split
              · split
                · exact hv.failCtx
                · exact hv.emit
              · exact hv.emit
        | window unit win ep off => exact hu.sendPacket

theorem Push.memOk.cons {p : Push} {q} (h : p.memOk) : (p.cons q).memOk := by
  cases p with
  | ok => exact h
  | fail => exact h
  | fault => exact h

theorem State.memOk.pushReqs {g x k room l} (h : s.memOk) : (pushReqs g x k room l s).memOk := by
  induction l generalizing s room with
  | nil =>
    unfold Machine.pushReqs
    exact h
  | cons q l ih =>
    unfold Machine.pushReqs
    split
    · exact (ih h).cons
    · split
      · exact h
      · have hs := h.sendReq (g := g) (x := x) (k := k) (q := q) (bytes := q.data) (fog := q.fog)
        split
        next heq => exact (ih (hs.of_eq heq)).cons
        next heq => exact hs.of_eq heq
        next heq => exact hs.of_eq heq
        next heq => exact hs.of_eq heq

theorem State.memOk.pushKnown {g x k room l} (h : s.memOk) : (pushKnown g x k room l s).memOk := by
  induction l generalizing s room with
  | nil =>
    unfold Machine.pushKnown
    exact h
  | cons q l ih =>
    unfold Machine.pushKnown
    extract_lets held
    split
    · exact (ih h).cons
    · split
      · exact h
      · have hs := h.sendReq (g := g) (x := x) (k := k) (q := q) (bytes := q.data) (fog := q.fog)
        split
        next heq => exact (ih (hs.of_eq heq)).cons
        next heq => exact hs.of_eq heq
        next heq => exact hs.of_eq heq
        next heq => exact hs.of_eq heq

theorem State.memOk.modReq {g id f} (h : s.memOk) : (s.modReq g id f).memOk := h.setTu

theorem State.memOk.answerReq {g id bytes fog} (h : s.memOk) : (s.answerReq g id bytes fog).memOk := h.modReq

/-! ### Block checks of external walks (R99, R100, R339, R357, R463) -/

theorem State.memOk.verifyExt {g x l} (h : s.memOk) : (s.verifyExt g x l).memOk := by
  unfold State.verifyExt
  split
  · exact h
  · exact h.foldl fun _ _ ht => ht.hbmVerify

theorem State.memOk.verifyLanded {g x l reqs} (h : s.memOk) : (s.verifyLanded g x l reqs).1.memOk := by
  unfold State.verifyLanded
  split
  · refine State.memOk.foldl_fst h fun p e hp => ?_
    obtain ⟨t, q⟩ := p
    obtain ⟨b, n⟩ := e
    replace hp : t.memOk := hp
    dsimp only
    split
    · exact hp
    · split
      · exact hp
      · split
        · exact hp.setHbm hp.hbm
        · split
          · exact hp
          · exact hp.hbmBadBlock
  · exact h

theorem State.memOk.storeChecks {g x l came} (h : s.memOk) : (s.storeChecks g x l came).memOk := by
  unfold State.storeChecks
  split
  · split
    · exact h
    · exact h.foldl fun _ _ ht => ht.hbmStoreCheck
  · split
    · exact h.foldl fun _ _ ht => ht.muStoreCheck
    · exact h

/-! ### Slots (R102, R103) -/

theorem State.memOk.grantSlot {g k write r} (h : s.memOk) : (s.grantSlot g k write r).memOk := by
  unfold State.grantSlot
  extract_lets +onlyGivenNames m _ t
  have ht : t.memOk := h.setMu (h.mu _)
  exact ht.putRun

theorem State.memOk.beginSlot {g k write nw r} (h : s.memOk) : optOk (s.beginSlot g k write nw r) := by
  unfold State.beginSlot
  extract_lets +onlyGivenNames m
  split
  · trivial
  · split
    · exact h.grantSlot
    · split
      · exact h.putRun
      · exact h.setMu (h.mu _)

theorem State.memOk.execSlotGrant {m slot} (h : s.memOk) : Res.memOk (execSlotGrant m slot s) := by
  unfold Machine.execSlotGrant
  extract_lets +onlyGivenNames g u
  split
  · exact h
  · split
    · exact h
    · split
      · exact h.grantSlot.progress
      · exact h.setMu (h.mu _)

theorem State.memOk.endRun {g r slot write} (h : s.memOk) : (s.endRun g r slot write).memOk := by
  unfold State.endRun
  extract_lets +onlyGivenNames m t
  have ht : t.memOk := by
    unfold t
    split
    · split
      · exact h.setMu (h.mu _)
      · exact h
    · exact h
  exact ht.putRun

/-! ### Issue (R83, R86, R270, R281) -/

theorem State.memOk.moveIssue {g iss} (h : s.memOk) : (moveIssue s g iss).memOk := by
  unfold Machine.moveIssue
  extract_lets +onlyGivenNames i m n
  split
  · exact h.tensorFault
  · split
    · exact h.tensorFault
    · split
      · exact h
      · split
        · exact h
        · split
          · exact h
          · extract_lets +onlyGivenNames t
            have ht : t.memOk := h.beginRun
            split
            · exact ht.setMu (ht.mu _)
            · exact ht

/-! ### Moving a walk (R87, R280) -/

theorem State.memOk.wakeLegs {g l} (h : s.memOk) : optOk (s.wakeLegs g l) := by
  unfold State.wakeLegs
  extract_lets +onlyGivenNames m z
  split
  · trivial
  · exact h.setMu (h.mu _)

theorem State.memOk.pushRun {g r k limit} (h : s.memOk) : optOk (s.pushRun g r k limit) := by
  unfold State.pushRun
  extract_lets +onlyGivenNames room
  split
  · trivial
  · split
    next heq =>
      split
      · trivial
      · exact (show State.memOk _ from h.pushReqs.of_eq heq).putRun
    next heq => exact show State.memOk _ from h.pushReqs.of_eq heq
    next heq => exact (show State.memOk _ from h.pushReqs.of_eq heq).tensorFault

theorem State.memOk.legChecks {g x legs came} (h : s.memOk) : (s.legChecks g x legs came).memOk := by
  unfold State.legChecks
  refine h.foldl fun t _ ht => ?_
  split
  · split
    · exact ht.storeChecks
    · exact ht

theorem State.memOk.writeSome {g x c els} (h : s.memOk) : (s.writeSome g x c els).memOk := by
  unfold State.writeSome
  extract_lets +onlyGivenNames runs
  split
  · split
    · exact h
    · refine h.foldl fun t _ ht => ?_
      split
      · exact ht.hbmWriteKeep
      · exact ht
  · split
    · exact h
    · exact h.writeRuns

theorem State.memOk.deliverLanded {g r legsA legsC} (h : s.memOk) : (s.deliverLanded g r legsA legsC).memOk :=
  h.foldl fun _ _ ht => ht.writeSome

theorem State.memOk.moveAdvance {g r} (h : s.memOk) : optOk (moveAdvance s g r) := by
  unfold Machine.moveAdvance
  extract_lets +onlyGivenNames i toMem slot legsA extA legsC rc
  split
  · exact h.beginSlot
  · split
    · refine State.memOk.endRun ?_
      split
      · exact h
      · exact h.deliverEmpty
    · split
      · split
        · exact h.setTu.putRun
        · split
          next heq1 => exact h.wakeLegs.of_eq heq1
          · split
            next heq2 =>
              refine State.memOk.putRun ?_
              refine memOk_of_fst ?_ heq2
              refine h.foldl_fst fun q _ hq => ?_
              split
              next heq3 => exact memOk_of_fst hq.readRaw heq3
      · split
        next heq1 =>
          split
          · exact (h.pushRun.of_eq heq1).deliverLanded
          · exact h.pushRun.of_eq heq1
        · split
          · split
            next heq3 =>
              refine State.memOk.putRun ?_
              refine memOk_of_fst ?_ heq3
              refine h.foldl_fst fun q _ hq => ?_
              split
              · split
                next heq4 => exact memOk_of_fst hq.verifyLanded heq4
          · trivial
      · split
        · exact h.deliver.endRun
        · split
          · exact h.setTu.putRun
          · split
            next heq1 => exact h.wakeLegs.of_eq heq1
            · exact (h.foldl fun _ _ ht => ht.writeWalk).endRun
      · split
        next heq => exact h.pushRun.of_eq heq
        · split
          · exact h.legChecks.endRun
          · trivial

theorem State.memOk.execLdW {m} (h : s.memOk) : Res.memOk (execLdW m s) := h.tensorCmd (fun _ => h.moveIssue) fun _ => h.moveAdvance

theorem State.memOk.execImportMu {m} (h : s.memOk) : Res.memOk (execImportMu m s) :=
  h.tensorCmd (fun _ => h.moveIssue) fun _ => h.moveAdvance

theorem State.memOk.stwAdvance {g r} (h : s.memOk) : optOk (stwAdvance s g r) := by
  unfold Machine.stwAdvance
  extract_lets +onlyGivenNames i slot legs d lens need
  split
  · exact h.beginSlot
  · split
    · exact h.endRun
    · split
      · split
        · extract_lets +onlyGivenNames src
          split
          · trivial
          · split
            · extract_lets +onlyGivenNames t flits
              have ht : t.memOk := h.takeSource
              split
              · exact ht.tensorFault
              · exact ht.putRun
        · extract_lets +onlyGivenNames bytes fog
          split
          · exact h.tensorFault
          · exact h.putRun
      · split
        · exact h.setTu.putRun
        · split
          next heq1 => exact h.wakeLegs.of_eq heq1
          · exact (h.foldl fun _ _ ht => ht.writeWalk).endRun
      · split
        next heq => exact h.pushRun.of_eq heq
        · split
          · exact h.legChecks.endRun
          · trivial

theorem State.memOk.execStW {m} (h : s.memOk) : Res.memOk (execStW m s) := h.tensorCmd (fun _ => h.moveIssue) fun _ => h.stwAdvance

theorem State.memOk.pfAdvance {g r} (h : s.memOk) : optOk (pfAdvance s g r) := by
  unfold Machine.pfAdvance
  extract_lets +onlyGivenNames legs
  split
  · exact h.setTu.putRun
  · split
    next heq => exact h.pushRun.of_eq heq
    · split
      · exact h.endRun
      · trivial

theorem State.memOk.execPf {m} (h : s.memOk) : Res.memOk (execPf m s) := h.tensorCmd (fun _ => h.moveIssue) fun _ => h.pfAdvance

/-! ### Contributions (R259, R284, R362, R363, R366) -/

theorem State.memOk.contribAdvance {g r} (h : s.memOk) : optOk (contribAdvance s g r) := by
  unfold Machine.contribAdvance
  extract_lets +onlyGivenNames i c k gr d round dist blk
  split
  · exact h.endRun
  · split
    · exact h.tensorFault
    · split
      · exact h.endRun
      · split
        · trivial
        · split
          · exact h.tensorFault
          · split
            next heq => exact h.wakeLegs.of_eq heq
            · split
              next heq1 => exact (memOk_of_fst h.readPlain heq1).setRt.endRun

theorem State.memOk.execContrib {m} (h : s.memOk) : Res.memOk (execContrib m s) :=
  h.tensorCmd (fun _ => h.moveIssue) fun _ => h.contribAdvance

/-! ### SLOT.DEF, SLOT.CLR (R101, R104) -/

theorem State.memOk.slotDefIssue {g iss} (h : s.memOk) : (slotDefIssue s g iss).memOk := by
  unfold Machine.slotDefIssue
  extract_lets +onlyGivenNames p m
  split
  · exact h.tensorFault
  · split
    · exact h.tensorFault
    · extract_lets +onlyGivenNames x2
      exact State.memOk.headDone (h.setMu (h.mu _))

theorem State.memOk.execSlotDef {m} (h : s.memOk) : Res.memOk (execSlotDef m s) := h.tensorCmd (fun _ => h.slotDefIssue) fun _ => trivial

theorem State.memOk.slotClrIssue {g iss} (h : s.memOk) : (slotClrIssue s g iss).memOk := by
  unfold Machine.slotClrIssue
  extract_lets +onlyGivenNames m
  split
  · exact h.tensorFault
  · extract_lets +onlyGivenNames x1
    exact State.memOk.headDone (h.setMu (h.mu _))

theorem State.memOk.execSlotClr {m} (h : s.memOk) : Res.memOk (execSlotClr m s) := h.tensorCmd (fun _ => h.slotClrIssue) fun _ => trivial

/-! ### WIN.OPEN, WIN.CLOSE (R105, R107, R108) -/

theorem State.memOk.winOpenIssue {g iss} (h : s.memOk) : (winOpenIssue s g iss).memOk := by
  unfold Machine.winOpenIssue
  extract_lets +onlyGivenNames p k m base len
  split
  · exact h.tensorFault
  · split
    · exact h.tensorFault
    · split
      · exact State.memOk.tensorFault (h.setMu (h.mu _))
      · split
        · exact h.setMu (h.mu _)
        · extract_lets +onlyGivenNames w hit _ m1
          exact State.memOk.headDone (h.setMu (h.mu _))

theorem State.memOk.execWinOpen {m} (h : s.memOk) : Res.memOk (execWinOpen m s) := h.tensorCmd (fun _ => h.winOpenIssue) fun _ => trivial

theorem State.memOk.winCloseIssue {g iss} (h : s.memOk) : (winCloseIssue s g iss).memOk := by
  unfold Machine.winCloseIssue
  extract_lets +onlyGivenNames m
  split
  · exact h.tensorFault
  · extract_lets +onlyGivenNames t
    have ht : t.memOk := h.setMu (h.mu _)
    split
    · exact ht
    · exact ht.headDone

theorem State.memOk.execWinClose {m} (h : s.memOk) : Res.memOk (execWinClose m s) :=
  h.tensorCmd (fun _ => h.winCloseIssue) fun _ => trivial

end Keeps

end Sys2Proof.Machine
end

section
/-!
PROOFS. The addressed memories stay canonical: matrix units.
-/

namespace Sys2Proof.Machine

section Keeps
variable {s : State}

/-! ### Binding (R117, R126, R135, R137, R278) -/

theorem State.memOk.mmIssue {g iss} (h : s.memOk) : (mmIssue s g iss).memOk := by
  unfold Machine.mmIssue
  split
  · exact h.tensorFault
  · split
    · exact h
    · split
      · exact h.tensorFault
      · exact h.beginRun

theorem State.memOk.mmCmd {u op} (h : s.memOk) : Res.memOk (mmCmd u op s) := h.tensorCmd (fun _ => h.mmIssue) fun _ => trivial

theorem State.memOk.execMmFwd {u} (h : s.memOk) : Res.memOk (execMmFwd u s) := h.mmCmd

theorem State.memOk.execMmDual {u} (h : s.memOk) : Res.memOk (execMmDual u s) := h.mmCmd

theorem State.memOk.execMmPass {u} (h : s.memOk) : Res.memOk (execMmPass u s) := h.mmCmd

theorem State.memOk.execMmAdpt {u} (h : s.memOk) : Res.memOk (execMmAdpt u s) := h.mmCmd

theorem State.memOk.execMcuBind {u} (h : s.memOk) : Res.memOk (execMcuBind u s) := by
  unfold Machine.execMcuBind
  extract_lets +onlyGivenNames g home mm
  split
  · exact h
  · split
    · exact h
    · extract_lets +onlyGivenNames x3 m r _ others
      have hothers : others.memOk := h.update
      split
      · exact h.tensorFault
      · extract_lets +onlyGivenNames c mine
        split
        · exact h
        · split
          · exact h
          · split
            · exact h
            · split
              · exact h
              · extract_lets +onlyGivenNames _ t empty t1
                have ht : t.memOk := h.setMcu
                have ht1 : t1.memOk := by
                  unfold t1
                  split
                  · exact ht.deliverEmpty
                  · exact ht
                exact ht1.putRun

/-! ### Tiles of the accumulator (R122) -/

theorem State.memOk.readTile {g t} (h : s.memOk) : (s.readTile g t).memOk := by
  unfold State.readTile
  extract_lets +onlyGivenNames m ce bad
  split
  · exact h
  · exact (h.setMcu.foldl fun _ _ hu => hu.corrected).foldl fun _ _ hu => hu.recordUnit

theorem State.memOk.groupUpdate {g t fog a b rows cols words} (h : s.memOk) : (s.groupUpdate g t fog a b rows cols words).memOk := by
  unfold State.groupUpdate
  extract_lets +onlyGivenNames t1 m before after fogIn res hit fogged t2 t3 t4
  have ht1 : t1.memOk := h.readTile
  have ht2 : t2.memOk := ht1.setMcu
  have ht3 : t3.memOk := by
    unfold t3
    split
    · exact ht2.disarm.recordUnit.reportUnit
    · exact ht2
  have ht4 : t4.memOk := by
    unfold t4
    split
    · exact ht3.recordUnit.reportUnit
    · exact ht3
  split
  next heq => exact (ht4.eligible_eq heq).setMcu

/-! ### Operands of a quantum -/

theorem State.memOk.planeWords {g r i ks} (h : s.memOk) : (s.planeWords g r i ks).1.memOk :=
  (h.foldl fun _ _ ht => ht.touchRead).verifyRuns

theorem State.memOk.fillStream {g r k b code need} (h : s.memOk) : optOk (s.fillStream g r k b code need) := by
  unfold State.fillStream
  extract_lets +onlyGivenNames room
  split
  · split
    · exact h.sideFault
    · trivial
  · extract_lets +onlyGivenNames n
    split
    · trivial
    · extract_lets +onlyGivenNames els got
      split
      · exact h.tensorFault
      · exact h.takeSource.setMcu

theorem State.memOk.fetch {g r b n} (h : s.memOk) : (s.fetch g r b n).1.memOk := by
  unfold State.fetch
  split
  · exact h
  · exact h.readRuns

theorem State.memOk.wakeHome {g z} (h : s.memOk) : (s.wakeHome g z).memOk := by
  unfold State.wakeHome
  extract_lets +onlyGivenNames home
  exact h.setMu (h.mu _)

theorem State.memOk.runQuantum {g b ready whole} (h : s.memOk) (hw : (whole ()).memOk) : (s.runQuantum g b ready whole).memOk := by
  unfold State.runQuantum
  split
  · exact h.wakeHome
  · trivial
  · split
    · trivial
    · exact h.setMcu
  · exact hw

/-! ### Running a quantum (R136) -/

theorem State.memOk.afterQuantum {g k r x b} (h : s.memOk) : (s.afterQuantum g k r x b).memOk := by
  unfold State.afterQuantum
  extract_lets +onlyGivenNames m strm
  split
  · exact h.setMcu
  · split
    · exact h.setMcu
    · exact h.setMcu.putRun

theorem State.memOk.queueTile {g r x i idx lastOfRun} (h : s.memOk) : (s.queueTile g r x i idx lastOfRun).memOk := by
  unfold State.queueTile
  extract_lets +onlyGivenNames m
  split
  · exact h
  · exact h.setMcu

theorem State.memOk.plainQuantum {g k r x b} (h : s.memOk) : (s.plainQuantum g k r x b).memOk := by
  unfold State.plainQuantum
  extract_lets +onlyGivenNames pl q t first last ks pip na nb per pk clear
  split
  · trivial
  · refine h.runQuantum ?_
    split
    next heq =>
      split
      next heq1 =>
        split
        next heq2 =>
          extract_lets +onlyGivenNames as_
          split
          · extract_lets +onlyGivenNames _ t4 t5 t6
            have ht4 : t4.memOk := (memOk_of_fst (memOk_of_fst (memOk_of_fst h.fetch heq).fetch heq1).planeWords heq2).setMcu
            have ht5 : t5.memOk := ht4.groupUpdate
            have ht6 : t6.memOk := by
              unfold t6
              split
              · exact ht5.queueTile
              · exact ht5
            exact ht6.afterQuantum

theorem State.memOk.arrayWork {g t fog a b n rows cols words} (h : s.memOk) : (s.arrayWork g t fog a b n rows cols words).memOk :=
  h.foldl fun _ _ hu => hu.groupUpdate

theorem State.memOk.loadShared {g k r x b others} (h : s.memOk) : (s.loadShared g k r x b others).memOk := by
  unfold State.loadShared
  extract_lets +onlyGivenNames m w n clear na pk
  split
  · trivial
  · extract_lets +onlyGivenNames ready
    clear_value ready
    split
    · exact h.wakeHome
    · trivial
    · trivial
    · extract_lets +onlyGivenNames t
      have ht : t.memOk := h.setMcu
      split
      next heq =>
        extract_lets +onlyGivenNames _ b1 m1
        refine State.memOk.setMcu ?_
        refine memOk_of_fst ?_ heq
        split
        · exact ht.readTile
        · split
          next heq1 =>
            split
            · exact memOk_of_fst ht.fetch heq1
            · exact ((memOk_of_fst ht.fetch heq1).foldl fun _ _ hu => hu.touchRead).verifyRuns

theorem State.memOk.sharedQuantum {g k r x b} (h : s.memOk) : (s.sharedQuantum g k r x b).memOk := by
  unfold State.sharedQuantum
  extract_lets +onlyGivenNames S W num p w t wc mi ni adpt0 do0 doV doB doX need n0 n1 n2
  split
  · trivial
  · extract_lets +onlyGivenNames tile done
    split
    · trivial
    · refine h.runQuantum ?_
      split
      next heq1 =>
        split
        next heq2 =>
          split
          next heq3 =>
            extract_lets +onlyGivenNames fog cols redN redM _ t4 c0 t5 codeT code1 code2 t6 i t7 m t8
            have ht4 : t4.memOk := (memOk_of_fst (memOk_of_fst (memOk_of_fst h.fetch heq1).fetch heq2).fetch heq3).setMcu
            have ht5 : t5.memOk := by
              unfold t5
              split
              · exact ht4.arrayWork
              · exact ht4
            have ht6 : t6.memOk := by
              unfold t6
              split
              · split
                · exact ht5.arrayWork
                · exact ht5
              · split
                · split
                  · exact ht5.arrayWork
                  · exact ht5
                · split
                  · split
                    · exact ht5.arrayWork
                    · exact ht5
                  · exact ht5
            have ht7 : t7.memOk := by
              unfold t7
              split
              · exact ht6.queueTile
              · exact ht6
            have ht8 : t8.memOk := by
              unfold t8
              split
              · exact ht7.setMcu
              · exact ht7
            exact ht8.afterQuantum

theorem State.memOk.endOfRun {g k r x b} (h : s.memOk) : (s.endOfRun g k r x b).memOk := by
  unfold State.endOfRun
  extract_lets +onlyGivenNames strm
  split
  · split
    · trivial
    · split
      · split
        · exact h.deliver.afterQuantum
        · trivial
      · exact h.afterQuantum
  · split
    · split
      · trivial
      · exact (h.foldl fun _ _ ht => ht.queueTile).afterQuantum
    · split
      · exact h.afterQuantum
      · trivial

theorem State.memOk.boundStep {g k b} (h : s.memOk) : (s.boundStep g k b).memOk := by
  unfold State.boundStep
  split
  · trivial
  · extract_lets +onlyGivenNames x2 m
    split
    · trivial
    · split
      · exact h.endOfRun
      · split
        · exact h.plainQuantum
        · exact h.sharedQuantum

theorem State.memOk.boundFill {g k b others} (h : s.memOk) : (s.boundFill g k b others).memOk := by
  unfold State.boundFill
  split
  · trivial
  · extract_lets +onlyGivenNames x2 a strm
    split
    · trivial
    · split
      next heq1 =>
        refine QStep.memOk.of_eq (b := QStep.did _) ?_ heq1
        split
        · trivial
        · exact h.loadShared
      · split
        next heq1 =>
          refine optOk.of_eq ?_ heq1
          split
          · exact h.fillStream
          · trivial
        · split
          · trivial
          · exact h.loadShared

theorem State.memOk.firstStep {f l} (h : s.memOk) (hf : ∀ t b, t.memOk → (f t b).memOk) : (s.firstStep f l).memOk := by
  induction l generalizing s with
  | nil => trivial
  | cons b l ih =>
    unfold State.firstStep
    have hb := hf s b h
    split
    next heq => exact hb.of_eq heq
    next => exact ih h
    next t heq =>
      have ht : t.memOk := hb.of_eq heq
      split
      · exact ht
      · exact ih ht

theorem State.memOk.execMcuQuantum {u} (h : s.memOk) : Res.memOk (execMcuQuantum u s) := by
  unfold Machine.execMcuQuantum
  extract_lets g l run fill
  have hrun : ∀ {t : State}, t.memOk → (t.firstStep run l).memOk := fun ht => ht.firstStep fun _ _ hu => hu.boundStep
  have hfill : (s.firstStep fill l).memOk := h.firstStep fun _ _ hu => hu.boundFill
  split
  · exact h
  · split
    next heq => exact State.memOk.progress (hfill.of_eq heq)
    next =>
      split
      next heq => exact State.memOk.progress ((hrun h).of_eq heq)
      next t heq => exact (show t.memOk from (hrun h).of_eq heq)
      next => exact h
    next t heq =>
      have ht : t.memOk := hfill.of_eq heq
      split
      next heq => exact State.memOk.progress ((hrun ht).of_eq heq)
      next u heq => exact (show u.memOk from (hrun ht).of_eq heq)
      next => exact ht

/-! ### The epilogue (R63 to R72, R134, R140, R141) -/

theorem State.memOk.scaleBias {h' e col} (h : s.memOk) : (s.scaleBias h' e col).1.memOk := by
  unfold State.scaleBias
  extract_lets +onlyGivenNames one negz
  split
  · exact h
  · exact h.touchRead

theorem State.memOk.writeRow {h' d c ws xs scale fog} (h : s.memOk) : (s.writeRow h' d c ws xs scale fog).memOk := by
  unfold State.writeRow
  extract_lets +onlyGivenNames t
  have ht : t.memOk := h.foldl fun _ _ hu => hu.muWritePlain
  split
  · exact ht.muWritePlain
  · exact ht

theorem State.memOk.denseDone {h' d} (h : s.memOk) : (s.denseDone h' d).memOk := by
  unfold State.denseDone
  split
  · exact h
  · exact h.foldl fun _ _ ht => ht.muStoreCheck

theorem State.memOk.tileOut {g r t} (h : s.memOk) : (s.tileOut g r t).memOk := h.setMcu.putRun

theorem State.memOk.execEpilogueTile {u} (h : s.memOk) : Res.memOk (execEpilogueTile u s) := by
  unfold Machine.execEpilogueTile
  extract_lets +onlyGivenNames g home m
  split
  · exact h
  · split
    · exact h
    · split
      · exact h.setMcu
      · extract_lets +onlyGivenNames e x6 toMem d c rows mu pd em en inRows pe z
        split
        · exact h.setMu (h.mu _)
        · extract_lets +onlyGivenNames t fogT
          have ht : t.memOk := h.readTile
          split
          next heq2 =>
            extract_lets +onlyGivenNames fog ys masks out written t2 els t3 t4
            have ht2 : t2.memOk := (memOk_of_fst ht.scaleBias heq2).setMcu
            have ht3 : t3.memOk := by
              unfold t3
              split
              · refine ht2.foldl fun v _ hv => ?_
                split
                · split
                  · exact hv
                  · exact hv.muWritePlain
              · exact ht2
            have ht4 : t4.memOk := by
              unfold t4
              split
              · exact ht3.denseDone
              · exact ht3
            split
            · extract_lets +onlyGivenNames t5 t6 t7
              have ht5 : t5.memOk := ht4.foldl fun _ _ hv => hv.writeRow
              have ht6 : t6.memOk := by
                unfold t6
                split
                · exact ht5.denseDone
                · exact ht5
              have ht7 : t7.memOk := by
                unfold t7
                split
                · exact ht6.denseDone
                · exact ht6
              exact ht7.tileOut.progress
            · split
              exact ht4.deliver.tileOut.progress

/-! ### EPI (R137, R140) -/

theorem State.memOk.epiIssue {g iss} (h : s.memOk) : (epiIssue s g iss).memOk := by
  unfold Machine.epiIssue
  extract_lets +onlyGivenNames home i p e tiles
  split
  · exact h.tensorFault
  · split
    · exact h.tensorFault
    · split
      · exact h.tensorFault
      · split
        · exact h.tensorFault
        · split
          · exact h
          · exact h.beginRun

theorem State.memOk.epiAdvance {g r} (h : s.memOk) : optOk (epiAdvance s g r) := by
  unfold Machine.epiAdvance
  extract_lets +onlyGivenNames e nt tiles earlier clash
  split
  · extract_lets +onlyGivenNames t
    have ht : t.memOk := by
      unfold t
      split
      · exact h.deliverEmpty
      · exact h
    exact ht.putRun
  · split
    · trivial
    · split
      · trivial
      · split
        · extract_lets +onlyGivenNames t
          have ht : t.memOk := by
            unfold t
            split
            · exact h.deliver
            · exact h
          exact ht.endRun
        · exact h.setMcu.putRun

theorem State.memOk.execEpi {u} (h : s.memOk) : Res.memOk (execEpi u s) := h.tensorCmd (fun _ => h.epiIssue) fun _ => h.epiAdvance

end Keeps

end Sys2Proof.Machine
end

section
/-!
PROOFS. The addressed memories stay canonical: vector units.
-/

namespace Sys2Proof.Machine

section Keeps
variable {s : State}

/-! ### Shapes and checks at issue (R148, R151, R165, R168, R278) -/

theorem State.memOk.vecIssue {g iss bad more writes} (h : s.memOk) : (vecIssue s g iss bad more writes).memOk := by
  unfold Machine.vecIssue
  extract_lets +onlyGivenNames h' p
  split
  · exact h.tensorFault
  · split
    · exact h
    · split
      · exact h.tensorFault
      · split
        · exact h
        · extract_lets +onlyGivenNames r
          split
          · exact h
          · exact h.beginRun

/-! ### Operands (R149 to R151, R160) -/

theorem State.memOk.readPart {h' d c first fl} (h : s.memOk) : (s.readPart h' d c first fl).1.memOk := by
  unfold State.readPart
  extract_lets +onlyGivenNames t t1
  have ht : t.memOk := h.touchRuns
  have ht1 : t1.memOk := by
    unfold t1
    split
    · exact ht.muVerify
    · exact ht
  exact ht1

theorem State.memOk.gatherOne {h' d c codeA x} (h : s.memOk) : (s.gatherOne h' d c codeA x).1.memOk := by
  unfold State.gatherOne
  split
  · extract_lets +onlyGivenNames pad
    split
    · exact h
    · extract_lets +onlyGivenNames i
      split
      · split
        · exact h.touchRuns
        · exact h
      · exact h

theorem State.memOk.gatherAll {h' d c codeA l} (h : s.memOk) : (s.gatherAll h' d c codeA l).1.memOk := by
  unfold State.gatherAll
  refine h.foldl_fst fun q _ hq => ?_
  split
  next heq => exact memOk_of_fst hq.gatherOne heq

theorem State.memOk.readB {h' d c l} (h : s.memOk) : (s.readB h' d c l).1.memOk := h.touchRuns.verifyRuns

/-! ### S6 and the outputs (R71, R150, R161, R165, R169) -/

theorem State.memOk.vecWrite {h' d c els} (h : s.memOk) : (s.vecWrite h' d c els).memOk := by
  unfold State.vecWrite
  extract_lets +onlyGivenNames t t1
  have ht : t.memOk := h.foldl fun _ _ hu => hu.foldl fun _ _ hv => hv.muWritePlain
  have ht1 : t1.memOk := by
    unfold t1
    split
    · refine ht.foldl fun u _ hu => ?_
      split
      · split
        · exact hu
        · exact hu.muWritePlain
    · exact ht
  split
  · exact ht1
  · extract_lets +onlyGivenNames t2
    have ht2 : t2.memOk := ht1.denseDone
    split
    · exact ht2.denseDone
    · exact ht2

theorem State.memOk.wordsOut {h' d ws} (h : s.memOk) : (s.wordsOut h' d ws).memOk := h.vecWrite

theorem State.memOk.auditSpans {g l} (h : s.memOk) : (s.auditSpans g l).memOk := by
  unfold State.auditSpans
  refine h.foldl fun t _ ht => ?_
  split
  · extract_lets +onlyGivenNames m
    split
    next heq => exact (ht.eligible_eq heq).setVcu

theorem State.memOk.tableError {g v res} (h : s.memOk) : (s.tableError g v res).1.memOk := by
  unfold State.tableError
  extract_lets +onlyGivenNames m
  split
  · exact h.setVcu.recordUnit.reportUnit
  · exact h

theorem State.memOk.vecEnd {g r} (h : s.memOk) : (s.vecEnd g r).memOk := h.setVcu.putRun

theorem State.memOk.vecFinish {g r v red} (h : s.memOk) : (s.vecFinish g r v red).memOk := by
  unfold State.vecFinish
  extract_lets +onlyGivenNames home i d c pd all
  split
  · extract_lets +onlyGivenNames fromS
    split
    · exact h.tensorFault
    · split
      · extract_lets +onlyGivenNames t t1 t2
        have ht : t.memOk := h.setVcu
        have ht1 : t1.memOk := by
          unfold t1
          split
          · exact ht.wordsOut
          · exact ht
        have ht2 : t2.memOk := by
          unfold t2
          split
          · exact ht1.deliver
          · exact ht1.vecWrite
        exact ht2.vecEnd

theorem State.memOk.vecEmit {g r v red} (h : s.memOk) : (s.vecEmit g r v red).1.memOk := by
  unfold State.vecEmit
  extract_lets +onlyGivenNames i
  split
  · exact h
  · exact h.setVcu.deliver

theorem State.memOk.vecFlits {g r v red fl sfl} (h : s.memOk) : (s.vecFlits g r v red fl sfl).1.memOk := by
  unfold State.vecFlits
  extract_lets +onlyGivenNames home i fromS codeA db hasB all
  split
  next heq =>
    extract_lets +onlyGivenNames starts lanes m seen t1 out flags t2
    have ht1 : t1.memOk := by
      refine State.memOk.setVcu ?_
      refine memOk_of_fst ?_ heq
      split
      · exact h.gatherAll
      · split
        · exact h.readB
        · exact h
    have ht2 : t2.memOk := ht1.setVcu
    split
    next heq1 =>
      extract_lets +onlyGivenNames t4 vals
      have ht4 : t4.memOk := by
        unfold t4
        split
        · exact (memOk_of_fst ht2.tableError heq1).auditSpans
        · exact memOk_of_fst ht2.tableError heq1
      exact ht4

theorem State.memOk.vecPart {g r v red fin fl sfl} (h : s.memOk) : (s.vecPart g r v red fin fl sfl).memOk := by
  unfold State.vecPart
  split
  · extract_lets +onlyGivenNames n
    split
    next heq1 =>
      split
      next heq2 => exact (memOk_of_fst (memOk_of_fst h.vecFlits heq1).vecFlits heq2).setVcu.tensorFault
  · split
    next heq1 =>
      split
      · exact (memOk_of_fst h.vecFlits heq1).vecFinish
      · split
        next heq2 => exact (memOk_of_fst (memOk_of_fst h.vecFlits heq1).vecEmit heq2).putRun

theorem State.memOk.vecFromHome {g r v red} (h : s.memOk) : optOk (s.vecFromHome g r v red) := by
  unfold State.vecFromHome
  extract_lets +onlyGivenNames home i d plan left src wrong
  split
  · clear_value src
    split
    · trivial
    · split
      · exact h.takeSource.vecPart
      · exact h.tensorFault
  · extract_lets +onlyGivenNames have_ k mine fin
    split
    · trivial
    · split
      · exact h.tensorFault
      · extract_lets +onlyGivenNames t
        have ht : t.memOk := by
          unfold t
          split
          · exact h.takeSource
          · exact h
        split
        next heq => exact (memOk_of_fst ht.readPart heq).vecPart

theorem State.memOk.vecFromStream {g r v red} (h : s.memOk) : optOk (s.vecFromStream g r v red) := by
  unfold State.vecFromStream
  extract_lets +onlyGivenNames i db src upTo ended k mine fin data runs n fits
  split
  · trivial
  · split
    · exact h.tensorFault
    · exact h.takeSource.vecPart

theorem State.memOk.vecAdvance {g red r} (h : s.memOk) : optOk (vecAdvance s g red r) := by
  unfold Machine.vecAdvance
  extract_lets +onlyGivenNames home v i m z
  split
  · trivial
  · split
    · extract_lets +onlyGivenNames t
      have ht : t.memOk := by
        unfold t
        split
        · exact h.deliverEmpty
        · exact h
      exact ht.putRun
    · split
      · exact h.setMu (h.mu _)
      · split
        · exact h.vecFromStream
        · exact h.vecFromHome

theorem State.memOk.execVop {u} (h : s.memOk) : Res.memOk (execVop u s) := by
  unfold Machine.execVop
  exact h.tensorCmd (fun _ => h.vecIssue) fun _ => h.vecAdvance

theorem State.memOk.execVred {u} (h : s.memOk) : Res.memOk (execVred u s) := by
  unfold Machine.execVred
  exact h.tensorCmd (fun _ => h.vecIssue) fun _ => h.vecAdvance

/-! ### EXPORT.SIGN (R374 to R377) -/

theorem State.memOk.readBlocks {h' d c first bl} (h : s.memOk) : (s.readBlocks h' d c first bl).1.memOk := by
  unfold State.readBlocks
  extract_lets +onlyGivenNames t t1
  have ht : t.memOk := h.touchRuns
  have ht1 : t1.memOk := by
    unfold t1
    split
    · exact ht.muVerify
    · exact ht
  exact ht1

theorem State.memOk.signPart {g r} (h : s.memOk) : (s.signPart g r).memOk := by
  unfold State.signPart
  extract_lets +onlyGivenNames home i d
  split
  · split
    next heq1 =>
      split
      next heq2 =>
        extract_lets +onlyGivenNames out m flits t2 words scales news pos
        have ht2 : t2.memOk := (memOk_of_fst (memOk_of_fst h.readBlocks heq1).readBlocks heq2).setVcu
        split
        · exact ht2.putRun
        · exact ht2.vecWrite.vecWrite.vecWrite.vecEnd

theorem State.memOk.signAdvance {g r} (h : s.memOk) : optOk (signAdvance s g r) := by
  unfold Machine.signAdvance
  extract_lets +onlyGivenNames home m i z
  split
  · trivial
  · split
    · exact h.putRun
    · split
      · exact h.setMu (h.mu _)
      · exact h.signPart

theorem State.memOk.execExportSign {u} (h : s.memOk) : Res.memOk (execExportSign u s) := by
  unfold Machine.execExportSign
  exact h.tensorCmd (fun _ => h.vecIssue) fun _ => h.signAdvance

end Keeps

end Sys2Proof.Machine
end

section
/-!
PROOFS. The addressed memories stay canonical: the transfer engine and the events of a memory unit.
-/

namespace Sys2Proof.Machine

section Keeps
variable {s : State}

/-! ### Rows (R348, R349) -/

theorem State.memOk.rowDone {g r k} (h : s.memOk) : (s.rowDone g r k).memOk := by
  unfold State.rowDone
  extract_lets +onlyGivenNames m l wm mine _ t
  have ht : t.memOk := h.setMu (h.mu _)
  exact ht.putRun

theorem State.memOk.rowWrite {g r k x els} (h : s.memOk) : (s.rowWrite g r k x els).memOk := by
  unfold State.rowWrite
  split
  · extract_lets +onlyGivenNames t l t1
    have ht1 : t1.memOk := h.setTu
    split
    · exact ht1.rowDone
    · exact ht1.putRun
  · exact (h.foldl fun _ _ ht => ht.muWritePlain).rowDone

theorem State.memOk.rowStart {g r k x} (h : s.memOk) : (s.rowStart g r k x).memOk := by
  unfold State.rowStart
  split
  · exact h.tensorFault
  · split
    · extract_lets +onlyGivenNames t l t1
      have ht1 : t1.memOk := h.setTu
      split
      · exact ht1.rowWrite
      · exact ht1.putRun
    · exact (h.foldl fun _ _ ht => ht.touchRead).rowWrite

theorem State.memOk.xferChecks {g r} (h : s.memOk) : (s.xferChecks g r).memOk := by
  unfold State.xferChecks
  extract_lets +onlyGivenNames pairs
  refine h.foldl fun t _ ht => ?_
  split
  · split
    · exact ht.storeChecks
    · exact ht

theorem State.memOk.faultStep {g r} (h : s.memOk) : optOk (s.faultStep g r) := by
  unfold State.faultStep
  extract_lets +onlyGivenNames m x
  split
  · trivial
  · split
    · split
      · exact h.failCtx
      · split
        · trivial
        · extract_lets +onlyGivenNames p
          exact State.memOk.emit (h.update)
    · split
      · split
        · trivial
        · extract_lets +onlyGivenNames rows e t _ t1
          have ht : t.memOk := State.memOk.atcAdd (h.update)
          have ht1 : t1.memOk := ht.setMu (h.mu _)
          exact ht1.putRun
      · trivial

theorem State.memOk.xferStart {g r legs} (h : s.memOk) : (s.xferStart g r legs).memOk := by
  unfold State.xferStart
  extract_lets +onlyGivenNames _ _ t t1 came
  have ht : t.memOk := by
    unfold t
    split
    · exact h
    · exact h.setMu (h.mu _)
  have ht1 : t1.memOk := by
    refine ht.foldl fun u _ hu => ?_
    split
    · exact hu.verifyExt
    · split
      · exact hu.muVerify
      · exact hu
  exact ht1.putRun

theorem State.memOk.xferEnd {g r slot} (h : s.memOk) : (s.xferEnd g r slot).memOk := by
  unfold State.xferEnd
  extract_lets +onlyGivenNames t
  have ht : t.memOk := by
    refine State.memOk.endRun ?_
    split
    · exact h
    · exact h.xferChecks
  split
  · exact ht.setMu (ht.mu _)
  · exact ht

theorem State.memOk.xferPush {g r} (h : s.memOk) : optOk (s.xferPush g r) := by
  unfold State.xferPush
  extract_lets +onlyGivenNames room
  split
  · trivial
  · extract_lets +onlyGivenNames wait
    have hp : Push.memOk (if wait then Machine.pushKnown g r.iss.ctx .xfer room r.reqs s else Machine.pushReqs g r.iss.ctx .xfer room r.reqs s) := by
      split
      · exact h.pushKnown
      · exact h.pushReqs
    split
    next heq =>
      split
      · trivial
      · exact State.memOk.putRun (hp.of_eq heq)
    next t heq => exact (show t.memOk from hp.of_eq heq)
    next t _ q iova heq =>
      have ht : t.memOk := hp.of_eq heq
      exact State.memOk.putRun (ht.setMu (ht.mu _))

theorem State.memOk.xferAdvance {g r} (h : s.memOk) : optOk (xferAdvance s g r) := by
  unfold Machine.xferAdvance
  extract_lets +onlyGivenNames m slot legsA rows full writes ks
  split
  · exact h.beginSlot
  · split
    · exact h.xferEnd
    · split
      · split
        next heq => exact h.wakeLegs.of_eq heq
        next => exact h.xferStart
      · split
        · exact h.rowDone
        · split
          · exact h.xferEnd
          · split
            next heq => exact h.wakeLegs.of_eq heq
            next =>
              split
              · exact optOk_map fun _ _ => h.rowWrite
              · split
                next heq => exact h.xferPush.of_eq heq
                next =>
                  split
                  · exact h.faultStep
                  · split
                    · trivial
                    · exact optOk_bind fun _ _ => optOk_map fun _ _ => h.rowStart

theorem State.memOk.execXfer {m} (h : s.memOk) : Res.memOk (execXfer m s) := h.tensorCmd (fun _ => h.moveIssue) fun _ => h.xferAdvance

theorem State.memOk.execGeneratorAcquire {m} (h : s.memOk) : Res.memOk (execGeneratorAcquire m s) := by
  unfold Machine.execGeneratorAcquire
  extract_lets g ops
  split
  · exact h
  · refine h.issueHead fun i => ?_
    split
    · exact h.qsendIssue
    · exact h.moveIssue

/-! ### Page responses (R353) and ATS invalidation (R351) -/

theorem State.memOk.pageFail {i p status cause} (h : s.memOk) : (s.pageFail i p status cause).memOk := by
  unfold State.pageFail
  exact State.memOk.failCtx (h.update)

theorem State.memOk.execPageResponse {f n code} (h : s.memOk) : Res.memOk (execPageResponse f n code s) := by
  unfold Machine.execPageResponse
  split
  · exact h
  · split
    · exact h.update
    · exact h.pageFail
    · exact h.pageFail
    · exact h.setFn.pageFail

theorem State.memOk.execPageRequestTimeout {f n} (h : s.memOk) : Res.memOk (execPageRequestTimeout f n s) := by
  unfold Machine.execPageRequestTimeout
  split
  · exact h
  · exact h.advanceTo.pageFail

theorem State.memOk.execAtsInvalidation {p iova len} (h : s.memOk) : Res.memOk (execAtsInvalidation p iova len s) := by
  unfold Machine.execAtsInvalidation
  extract_lets +onlyGivenNames hit used
  split
  · exact h
  · exact State.memOk.emit (h.update)

/-! ### Window writes (R106) -/

theorem State.memOk.performWin {g a} (h : s.memOk) : (s.performWin g a).memOk := h.muWritePlain

theorem State.memOk.windowWrite {g epoch right a} (h : s.memOk) : (s.windowWrite g epoch right a).1.memOk := by
  unfold State.windowWrite
  extract_lets +onlyGivenNames m w
  split
  · extract_lets +onlyGivenNames a1
    split
    · exact h.performWin
    · exact h.setMu (h.mu _)
  · exact h.setMu (h.mu _)

theorem State.memOk.performAccepted {g a} (h : s.memOk) : (s.performAccepted g a).memOk := by
  unfold State.performAccepted
  extract_lets +onlyGivenNames m
  exact State.memOk.reply (State.memOk.performWin (h.setMu (h.mu _)))

theorem State.memOk.execWindowWrite {m} (h : s.memOk) : Res.memOk (execWindowWrite m s) := by
  unfold Machine.execWindowWrite
  extract_lets +onlyGivenNames g c
  split
  · exact h
  · split
    · exact h.performAccepted.progress
    · split
      · exact h
      next heq1 =>
        split
        · split
          next heq3 => exact (memOk_of_fst (h.takeInbox_eq heq1).windowWrite heq3).reply.progress
          next heq3 => exact memOk_of_fst (h.takeInbox_eq heq1).windowWrite heq3
          next heq3 => exact (memOk_of_fst (h.takeInbox_eq heq1).windowWrite heq3).reply
          next heq3 => exact (memOk_of_fst (h.takeInbox_eq heq1).windowWrite heq3).failCtx
        · exact h.takeInbox_eq heq1

/-! ### External data and acknowledgements (R87) -/

theorem State.memOk.execExternalReadData {m n host poison} (h : s.memOk) : Res.memOk (execExternalReadData m n host poison s) := by
  unfold Machine.execExternalReadData
  extract_lets +onlyGivenNames g
  split
  · exact h
  · extract_lets +onlyGivenNames t
    have ht : t.memOk := h.progress
    split <;> exact ht.modReq

theorem State.memOk.execWriteAcknowledgement {m} (h : s.memOk) : Res.memOk (execWriteAcknowledgement m s) := by
  unfold Machine.execWriteAcknowledgement
  extract_lets +onlyGivenNames g
  split
  next heq =>
    split
    · exact (h.takeInbox_eq heq).modReq.progress
    · exact h.takeInbox_eq heq
  · split
    · exact h
    · exact h.modReq.progress

/-! ### Scrubbing and bank groups (R97, R108, R109) -/

theorem State.memOk.execMuScrubRead {m} (h : s.memOk) : Res.memOk (execMuScrubRead m s) := by
  unfold Machine.execMuScrubRead
  extract_lets +onlyGivenNames g u
  split
  · exact h
  · split
    · exact h
    · extract_lets +onlyGivenNames t u1 q wrapped
      have ht : t.memOk := h.touchRead.progress
      exact ht.setMu (ht.mu _)

theorem State.memOk.execBankGroupPowerDown {m g} (h : s.memOk) : Res.memOk (execBankGroupPowerDown m g s) := by
  unfold Machine.execBankGroupPowerDown
  extract_lets +onlyGivenNames u
  split
  · exact h.setMu (Mu.wf_loseGroup (h.mu _))
  · exact h

theorem State.memOk.execBankGroupWake {m g} (h : s.memOk) : Res.memOk (execBankGroupWake m g s) := by
  unfold Machine.execBankGroupWake
  extract_lets +onlyGivenNames u bit
  split
  · exact h.setMu (Mu.wf_wakeNow (h.mu _))
  · exact h

end Keeps

end Sys2Proof.Machine
end

section
/-!
PROOFS. The addressed memories stay canonical: program images, loading and reconfiguration, and reduction in the mesh.
-/

namespace Sys2Proof.Machine

section Keeps
variable {s : State}

/-! ### Loading a cluster (R308) -/

theorem State.memOk.translateLinks {c} (h : s.memOk) : (s.translateLinks c).memOk := by
  unfold State.translateLinks
  extract_lets +onlyGivenNames p ways
  exact h.update

theorem State.memOk.loadCluster {c img place epoch} (h : s.memOk) : (s.loadCluster c img place epoch).memOk := by
  unfold State.loadCluster
  extract_lets +onlyGivenNames t t1 t2 t3 t4 t5 k
  have ht : t.memOk := h.foldl fun _ _ hu => hu.setTu
  have ht1 : t1.memOk := ht.foldl fun _ _ hu => hu.setMu (hu.mu _)
  have ht2 : t2.memOk := ht1.foldl fun _ _ hu => hu.setMcu
  have ht3 : t3.memOk := ht2.foldl fun _ _ hu => hu.setVcu
  have ht4 : t4.memOk := ht3.foldl fun _ _ hu => hu.setScu
  have ht5 : t5.memOk := ht4.setSw.translateLinks
  exact ht5.setCl

/-! ### Quiet, and what is discarded (R306, R307) -/

theorem State.memOk.dropRoots {g} (h : s.memOk) : (s.dropRoots g).memOk := h.setRt

theorem State.memOk.dropRootsAt {c} (h : s.memOk) : (s.dropRootsAt c).memOk := h.setRt

theorem State.memOk.clearLocal {c} (h : s.memOk) : (s.clearLocal c).memOk := by
  unfold State.clearLocal
  extract_lets +onlyGivenNames t t1 t2 t3 w t4 r t5
  have ht : t.memOk := h.foldl fun _ _ hu => hu.setTu
  have ht1 : t1.memOk := ht.foldl fun _ _ hu => hu.setMu (hu.mu _)
  have ht2 : t2.memOk := ht1.foldl fun _ _ hu => hu.setMcu
  have ht3 : t3.memOk := ht2.foldl fun _ _ hu => hu.setScu
  have ht4 : t4.memOk := ht3.setSw
  have ht5 : t5.memOk := ht4.setRt
  split
  · exact ht5.setSf
  · exact ht5

theorem State.memOk.clearItems {cs c} (h : s.memOk) : (s.clearItems cs c).memOk := (h.foldl fun _ _ ht => ht.dropRoots).clearLocal

theorem State.memOk.discardCluster {cs c} (h : s.memOk) : (s.discardCluster cs c).memOk := by
  unfold State.discardCluster
  extract_lets +onlyGivenNames f n k t
  have ht : t.memOk := h.clearItems.voidMessages.setCl
  split
  · exact ht
  · exact ht.recordUnit

/-! ### Groups (R257, R267, R301) -/

theorem State.memOk.zeroRounds {g} (h : s.memOk) : (s.zeroRounds g).memOk := by
  obtain ⟨hhbm, hmus, hctxs⟩ := h
  exact ⟨hhbm, hmus, tabMap_all (P := Ctx.memOk) (Q := Ctx.memOk) hctxs fun _ _ hx => Ctx.memOk.withoutGroup hx⟩

theorem State.memOk.freeGroup {g} (h : s.memOk) : (s.freeGroup g).memOk := by
  unfold State.freeGroup
  extract_lets +onlyGivenNames t t1
  have ht : t.memOk := h.zeroRounds.voidShares
  have ht1 : t1.memOk := ht.update
  exact ht1.setGrp

theorem State.memOk.bindGroups {sec ctx imgs rest} (h : s.memOk) : (s.bindGroups sec ctx imgs rest).memOk := by
  unfold State.bindGroups
  split
  · extract_lets +onlyGivenNames stays kept free t defs fresh binds t1
    have ht : t.memOk := h.foldl fun _ _ hu => hu.freeGroup
    have ht1 : t1.memOk := by
      refine ht.foldl fun u _ hu => ?_
      split
      · split
        · exact hu
        · exact hu.zeroRounds.setGrp
    split
    next heq2 => exact ht1.setCtx_of_eq (ht1.ctx heq2) rfl rfl
    · exact ht1
  · exact h

/-! ### Queues open to another context (R190, R431) -/

theorem State.memOk.admitOther {c} (h : s.memOk) : (s.admitOther c).memOk := by
  unfold State.admitOther
  split
  · exact h
  · exact h.foldl fun _ _ ht => ht.setScu

/-! ### Native reconfiguration (R305 to R311) -/

theorem State.memOk.stage {c place img} (h : s.memOk) : (s.stage c place img).memOk := by
  unfold State.stage
  extract_lets +onlyGivenNames m t t1 k
  have ht : t.memOk := h.setMu (Mu.wf_wakeNow (h.mu _))
  have ht1 : t1.memOk := ht.muWritePlain
  exact ht1.setCl

theorem State.memOk.loadRegion {sec imgs place ctx} (h : s.memOk) : (s.loadRegion sec imgs place ctx).memOk := by
  unfold State.loadRegion
  extract_lets +onlyGivenNames cs e t
  have ht : t.memOk := by
    refine h.foldl fun u _ hu => ?_
    split
    · extract_lets +onlyGivenNames t1
      have ht1 : t1.memOk := hu.clearItems.loadCluster
      split
      · exact ht1.setCl
      · exact ht1
  split
  · exact ht
  · extract_lets +onlyGivenNames rest t1 bad
    have ht1 : t1.memOk := ht.bindGroups.foldl fun _ _ hu => hu.admitOther
    clear_value bad
    split
    · exact ht1
    · exact ht1.failCtx

theorem State.memOk.reconfigure {sec imgs place disc ctx} (h : s.memOk) : (s.reconfigure sec imgs place disc ctx).1.memOk := by
  unfold State.reconfigure
  extract_lets +onlyGivenNames look
  split
  · exact h
  · extract_lets +onlyGivenNames t
    have ht : t.memOk := by
      unfold t
      split
      · exact h
      · exact h.foldl fun _ _ hu => hu.discardCluster
    exact ht.loadRegion

theorem State.memOk.execNativeReconfiguration {sec g place disc} (h : s.memOk) : Res.memOk (execNativeReconfiguration sec g place disc s) := by
  unfold Machine.execNativeReconfiguration
  extract_lets +onlyGivenNames cs
  split
  · split
    · exact h
    · exact h.reconfigure
  · exact h

theorem State.memOk.execForcedDrain {sec g} (h : s.memOk) : Res.memOk (execForcedDrain sec g s) := by
  unfold Machine.execForcedDrain
  extract_lets +onlyGivenNames cs newest
  split
  · exact h
  · split
    · exact h
    · exact (h.foldl fun _ _ ht => ht.discardCluster.fabricFail).foldl fun _ _ ht => ht.setCl

/-! ### Combiner slots (R260) -/

theorem State.memOk.readSlot {c n} (h : s.memOk) : (s.readSlot c n).memOk := by
  unfold State.readSlot
  extract_lets +onlyGivenNames r
  split
  · split
    · exact h.setRt.eccError
    · exact h
  · exact h

theorem State.memOk.sendPartial {c n} (h : s.memOk) : (s.sendPartial c n).memOk := by
  unfold State.sendPartial
  extract_lets +onlyGivenNames t r
  have ht : t.memOk := h.readSlot
  split
  · exact ht
  · exact ht.setRt.sendPacket

theorem State.memOk.execContributionMerge {c} (h : s.memOk) : Res.memOk (execContributionMerge c s) := by
  unfold Machine.execContributionMerge
  extract_lets +onlyGivenNames c1
  split
  · exact h
  · split
    · exact h
    next heq =>
      split
      · exact h
      · extract_lets +onlyGivenNames gr r spot
        split
        · exact h.parityReset
        · split
          · exact (h.takeInbox_eq heq).setRt
          · clear_value spot
            split
            · split
              · exact h
              · exact h.setRt
            · extract_lets +onlyGivenNames s' _ r1 t1 full
              have hs' : s'.memOk := (h.takeInbox_eq heq).readSlot
              have ht1 : t1.memOk := hs'.setRt.progress
              split
              · exact ht1.sendPartial
              · exact ht1

theorem State.memOk.execTransitSlotFlush {c slot} (h : s.memOk) : Res.memOk (execTransitSlotFlush c slot s) := by
  unfold Machine.execTransitSlotFlush
  extract_lets +onlyGivenNames c1
  split
  · exact h
  · split
    · exact h
    · exact h.advanceTo.setRt.sendPartial

/-! ### The root (R262, R367) -/

theorem State.memOk.blockDone {c k status} (h : s.memOk) : (s.blockDone c k status).memOk := by
  unfold State.blockDone
  extract_lets +onlyGivenNames g g1
  split
  · exact h.setGrp
  · exact h.setRt.sendPacket.setGrp.sendPacket

theorem State.memOk.overCount {c x} (h : s.memOk) : (s.overCount c x).memOk := h.failCtx

theorem State.memOk.putBlock {c k} (h : s.memOk) : (s.putBlock c k).memOk := by
  unfold State.putBlock
  extract_lets +onlyGivenNames g w
  split
  next heq => exact (memOk_of_fst h.windowWrite heq).blockDone
  next heq => exact memOk_of_fst h.windowWrite heq
  next heq => exact (memOk_of_fst h.windowWrite heq).blockDone
  next heq => exact (memOk_of_fst h.windowWrite heq).failCtx

theorem State.memOk.rootMerge {c n x} (h : s.memOk) : (s.rootMerge c n x).memOk := by
  unfold State.rootMerge
  extract_lets +onlyGivenNames g
  split
  · exact h.overCount
  · extract_lets +onlyGivenNames t r t1
    have ht : t.memOk := h.readSlot
    have ht1 : t1.memOk := ht.setRt.progress
    split
    · exact ht1
    · split
      · exact ht1.overCount
      · split
        · exact ht1
        · exact ht1.putBlock

theorem State.memOk.execRootMerge {c} (h : s.memOk) : Res.memOk (execRootMerge c s) := by
  unfold Machine.execRootMerge
  extract_lets +onlyGivenNames c1
  split
  · exact h
  · split
    next heq =>
      split
      · split
        · exact (h.takeInbox_eq heq).blockDone
        · exact h.takeInbox_eq heq
      · exact h.takeInbox_eq heq
    · split
      · exact h
      next heq1 =>
        split
        · exact h
        · extract_lets +onlyGivenNames r
          split
          · exact h.parityReset
          · split
            · exact h.takeInbox_eq heq1
            · split
              · exact h
              · exact (h.takeInbox_eq heq1).rootMerge

theorem State.memOk.takeRound {c g round} (h : s.memOk) : (s.takeRound c g round).memOk := h.setRt

theorem State.memOk.imageRound {c g round} (h : s.memOk) : (s.imageRound c g round).memOk := by
  unfold State.imageRound
  extract_lets n
  split
  next k heq =>
    obtain ⟨hmem, hscans⟩ := h.ctx heq
    refine h.setCtx ⟨hmem, ?_⟩
    refine tabMap_all (P := ScanImg.memOk) (Q := ScanImg.memOk)
      (f := fun d i => if d = c then { i with rounds := tabSet i.rounds g round } else i) hscans fun d i hi => ?_
    split
    · exact hi
    · exact hi
  next => exact h

theorem State.memOk.execRoundAdvance {c} (h : s.memOk) : Res.memOk (execRoundAdvance c s) := by
  unfold Machine.execRoundAdvance
  extract_lets +onlyGivenNames c1
  split
  · exact h
  · split
    · exact h
    next heq =>
      split
      · split
        · exact (h.takeInbox_eq heq).takeRound.imageRound.progress
        · exact h.takeInbox_eq heq
      · exact h.takeInbox_eq heq

end Keeps

end Sys2Proof.Machine
end

section
/-!
PROOFS. The addressed memories stay canonical: register accesses.
-/

namespace Sys2Proof.Machine

section Keeps
variable {s : State}

/-! ### Writes in a cluster window (R540) -/

theorem State.memOk.writeRp {g r v} (h : s.memOk) : (s.writeRp g r v).memOk := by
  unfold State.writeRp
  extract_lets +onlyGivenNames u k q p
  split
  · exact h.failUnit
  · exact h.setScu

theorem State.memOk.writeScu {g k r o v} (h : s.memOk) : (s.writeScu g k r o v).memOk := by
  unfold State.writeScu
  extract_lets +onlyGivenNames u
  split
  · exact h.setScu
  · split
    · exact h.setScu
    · split
      · exact h.setScu
      · split
        · split
          · exact h.writeRp
          · exact h
        · split
          · exact h.setScu
          · split
            · exact h.setScu
            · split
              · exact h.setScu
              · exact h

theorem State.memOk.writeCluster {c x r v} (h : s.memOk) : (s.writeCluster c x r v).memOk := by
  unfold State.writeCluster
  extract_lets +onlyGivenNames k u o g
  split
  · exact h
  · split
    · exact h.discard
    · split
      · exact h
      · split
        · exact h.setMu (Mu.wf_regWrite (h.mu _))
        · split
          · exact h.setMcu
          · split
            · exact h.setVcu
            · split
              · exact h.writeScu
              · split
                · exact h.setSw
                · split
                  · exact h.setRt
                  · split
                    · exact h.setCl
                    · exact h

theorem State.memOk.holdAccess {c x r v write} (h : s.memOk) : (s.holdAccess c x r v write).memOk := by
  unfold State.holdAccess
  exact h.update

theorem State.memOk.clusterWrite {c x r v} (h : s.memOk) : (s.clusterWrite c x r v).memOk := by
  unfold State.clusterWrite
  split
  · exact h.holdAccess
  · exact h.writeCluster

theorem State.memOk.loseEntry {x} (h : s.memOk) : (s.loseEntry x).memOk := by
  unfold State.loseEntry
  extract_lets +onlyGivenNames p
  split
  next heq =>
    split
    · exact (memOk_of_fst h.hbmRead heq).modErr
    · exact memOk_of_fst h.hbmRead heq

theorem State.memOk.answerRead {r a} (h : s.memOk) : (s.answerRead r a).memOk := by
  unfold State.answerRead
  split
  · exact h
  · split
    · exact h.emit
    · extract_lets +onlyGivenNames v t
      have ht : t.memOk := by
        unfold t
        split
        · split
          · exact h.discard
          · split
            · exact h.loseEntry
            · exact h
        · exact h
      exact ht.emit

theorem State.memOk.performHeld {c} (h : s.memOk) : (s.performHeld c).memOk := by
  unfold State.performHeld
  extract_lets +onlyGivenNames mine t
  have ht : t.memOk := h.update
  refine ht.foldl fun u _ hu => ?_
  split
  · exact hu.writeCluster
  · exact hu.answerRead

/-! ### Writes of the global blocks (R541) -/

theorem State.memOk.writeLogRd {v} (h : s.memOk) : (s.writeLogRd v).memOk := by
  unfold State.writeLogRd
  extract_lets +onlyGivenNames n
  split
  · exact h.modErr
  · exact h

theorem State.memOk.inject {unit kind off} (h : s.memOk) : (s.inject unit kind off).memOk := by
  unfold State.inject
  split
  · exact h.setMu (h.mu _)
  · split
    · exact h.setMcu
    · exact h

theorem State.memOk.writeInject {v} (h : s.memOk) : (s.writeInject v).memOk := by
  unfold State.writeInject
  extract_lets +onlyGivenNames x unit kind arm
  split
  · exact h
  · extract_lets +onlyGivenNames t
    have ht : t.memOk := h.modErr
    split
    · exact ht.inject
    · exact ht

theorem State.memOk.writeErr {o v} (h : s.memOk) : (s.writeErr o v).memOk := by
  unfold State.writeErr
  split
  · exact h.modErr
  · split
    · exact h.writeLogRd
    · split
      · exact h.modErr
      · split
        · exact h.modErr
        · split
          · exact h.writeInject
          · exact h

theorem State.memOk.reseed {v} (h : s.memOk) : (s.reseed v).memOk := by
  unfold State.reseed
  extract_lets +onlyGivenNames seed units
  refine h.foldl fun t _ ht => ?_
  split
  · exact ht.setMcu
  · exact ht.setVcu

theorem State.memOk.writeAud {o v} (h : s.memOk) : (s.writeAud o v).memOk := by
  unfold State.writeAud
  extract_lets +onlyGivenNames x a
  split
  · extract_lets +onlyGivenNames a1
    exact h.update
  · split
    · exact h.reseed
    · split
      · exact h.update
      · split
        · exact h.update
        · split
          · exact h.update
          · split
            · exact h.update
            · split
              · split
                · exact h.update
                · exact h
              · exact h

theorem State.memOk.invalidated {p g} (h : s.memOk) : (s.invalidated p g).1.memOk := h.sendSnoops

theorem State.memOk.writeMap {p i v} (h : s.memOk) : (s.writeMap p i v).memOk := by
  unfold State.writeMap
  split
  · split
    next heq1 => exact (memOk_of_fst h.invalidated heq1).setPort
    next heq1 => exact (memOk_of_fst h.invalidated heq1).setPort
  · exact h.setPort

theorem State.memOk.settleMap {p} (h : s.memOk) : (s.settleMap p).memOk := h.foldl fun _ _ ht => ht.writeMap

theorem State.memOk.writeCx {p o v} (h : s.memOk) : (s.writeCx p o v).memOk := by
  unfold State.writeCx
  extract_lets +onlyGivenNames x c
  split
  · exact h.setPort
  · split
    · exact h.setPort
    · split
      · exact h.setPort
      · split
        · extract_lets +onlyGivenNames i
          split
          · exact h
          · exact h.writeMap
        · exact h

theorem State.memOk.writePm {o v} (h : s.memOk) : (s.writePm o v).memOk := by
  unfold State.writePm
  extract_lets +onlyGivenNames k g
  split
  · exact h.update
  · split
    · exact h
    · split
      · exact h.setGrp
      · split
        · exact h.setGrp
        · split
          · exact h.setGrp
          · exact h

theorem State.memOk.keeperWrite {x v} (h : s.memOk) : (s.keeperWrite x v).memOk := by
  unfold State.keeperWrite
  extract_lets +onlyGivenNames o
  split
  · split
    · exact h.update
    · split
      · exact h.update
      · split
        · exact h.update
        · split
          · exact h.update
          · exact h
  · split
    · exact h.writeErr
    · split
      · exact h.update
      · split
        · exact h
        · split
          · split
            · exact h.update
            · exact h
          · split
            · exact h.writeAud
            · split
              · exact h.writeCx
              · split
                · exact h.setCtrl
                · split
                  · exact h.setSf
                  · split
                    · exact h.writePm
                    · exact h

theorem State.memOk.blockWrite {r x v} (h : s.memOk) : (s.blockWrite r x v).memOk := by
  unfold State.blockWrite
  split
  · exact h.keeperWrite
  · split
    · exact h.update
    · split
      · exact h.update
      · split
        · exact h.update
        · split
          · exact h.update
          · exact h
  · exact h

/-! ### Accesses that are refused (R5, R536) -/

theorem State.memOk.logAccess {r off} (h : s.memOk) : (s.logAccess r off).memOk := by
  unfold State.logAccess
  extract_lets +onlyGivenNames rec_
  split
  · extract_lets +onlyGivenNames x2
    split
    · split
      · exact h
      · exact h.setFn.record
    · exact h.setFn.record
  · exact h.record

theorem State.memOk.badAccess {r off} (h : s.memOk) : (s.badAccess r off).memOk := by
  unfold State.badAccess
  exact State.memOk.logAccess (h.update)

/-! ### Interrupts (R383, R401; log 8) -/

theorem State.memOk.signal {f v} (h : s.memOk) : (s.signal f v).memOk := by
  unfold State.signal
  extract_lets +onlyGivenNames x
  split
  · exact h.setFn
  · exact h.emit

theorem State.memOk.writeMsix {f k v} (h : s.memOk) : (s.writeMsix f k v).memOk := by
  unfold State.writeMsix
  extract_lets +onlyGivenNames x t n
  have ht : t.memOk := h.setFn
  split
  · exact ht.setFn.signal
  · exact ht

/-! ### BAR0 (R383 to R389, R410) -/

theorem State.memOk.writeBar0 {f o v} (h : s.memOk) : (s.writeBar0 f o v).memOk := by
  unfold State.writeBar0
  extract_lets +onlyGivenNames x n
  split
  · exact h.setFn
  · split
    · exact h.setFn
    · split
      · exact h.setRing
      · split
        · exact h.setRing
        · split
          · exact h.setRing
          · split
            · exact h.setFn
            · split
              · exact h.setFn
              · split
                · exact h.setFn
                · split
                  · exact h.setFn
                  · split
                    · exact h.writeMsix
                    · exact h

/-! ### One register write -/

theorem State.memOk.regWrite {r a v} (h : s.memOk) : (s.regWrite r a v).memOk := by
  unfold State.regWrite
  split
  · exact h
  · split
    · exact h.emit
    · split
      · exact h.writeBar0
      · exact h
    · split
      · exact h
      · split
        · exact h
        · split
          · exact h.badAccess
          · split
            · exact h.clusterWrite
            · split
              · split
                · extract_lets +onlyGivenNames q
                  split
                  · exact h.clusterWrite
                  · exact h
                · exact h
              · exact h.blockWrite

theorem State.memOk.execRegisterWrite {r a v} (h : s.memOk) : Res.memOk (execRegisterWrite r a v s) := h.regWrite

theorem State.memOk.execRegisterAccessMisaligned {r a _size write} (h : s.memOk) : Res.memOk (execRegisterAccessMisaligned r a _size write s) := by
  unfold Machine.execRegisterAccessMisaligned
  split
  · exact h
  · split
    · exact h.emit
    · extract_lets +onlyGivenNames t
      have ht : t.memOk := h.badAccess
      split
      · exact ht
      · exact ht.emit

theorem State.memOk.execHeldAccessTimeout {n} (h : s.memOk) : Res.memOk (execHeldAccessTimeout n s) := by
  unfold Machine.execHeldAccessTimeout
  split
  · exact h
  · extract_lets +onlyGivenNames t _ t1
    have ht : t.memOk := h.advanceTo
    have ht1 : t1.memOk := ht.update
    split
    · exact ht1
    · exact ht1.emit

theorem State.memOk.execMuDtSelWrite {r m v} (h : s.memOk) : Res.memOk (execMuDtSelWrite r m v s) := h.regWrite

theorem State.memOk.execMuDtWordStage {r m k v} (h : s.memOk) : Res.memOk (execMuDtWordStage r m k v s) := h.regWrite

theorem State.memOk.execMuDtWord7Write {r m v} (h : s.memOk) : Res.memOk (execMuDtWord7Write r m v s) := h.regWrite

theorem State.memOk.execMuBgCtlWrite {r m v} (h : s.memOk) : Res.memOk (execMuBgCtlWrite r m v s) := h.regWrite

theorem State.memOk.execScuQPtrWrite {r u v} (h : s.memOk) : Res.memOk (execScuQPtrWrite r u v s) := h.regWrite

theorem State.memOk.execNfFlagClear {r u v} (h : s.memOk) : Res.memOk (execNfFlagClear r u v s) := h.regWrite

theorem State.memOk.execVcuFlagClear {r u v} (h : s.memOk) : Res.memOk (execVcuFlagClear r u v s) := h.regWrite

theorem State.memOk.execCxDbTailWrite {f r v} (h : s.memOk) : Res.memOk (execCxDbTailWrite f r v s) := h.regWrite

theorem State.memOk.execCxDbCplheadWrite {f r v} (h : s.memOk) : Res.memOk (execCxDbCplheadWrite f r v s) := h.regWrite

theorem State.memOk.execCxRingSeqWrite {f r v} (h : s.memOk) : Res.memOk (execCxRingSeqWrite f r v s) := h.regWrite

theorem State.memOk.execRingEnable {f r v} (h : s.memOk) : Res.memOk (execRingEnable f r v s) := h.regWrite

theorem State.memOk.execRingDisable {f r v} (h : s.memOk) : Res.memOk (execRingDisable f r v s) := h.regWrite

theorem State.memOk.execStalledClear {f r} (h : s.memOk) : Res.memOk (execStalledClear f r s) := h.regWrite

theorem State.memOk.execOverrunClear {f r} (h : s.memOk) : Res.memOk (execOverrunClear f r s) := h.regWrite

theorem State.memOk.execShadowDoorbell {f words} (h : s.memOk) : Res.memOk (execShadowDoorbell f words s) := by
  unfold Machine.execShadowDoorbell
  extract_lets +onlyGivenNames k l t
  have ht : t.memOk := h.foldl fun _ _ hu => hu.emit
  refine ht.foldl fun u _ hu => ?_
  split
  · extract_lets +onlyGivenNames x3
    split
    · exact hu.setRing
    · exact hu

theorem State.memOk.execErrLogRdWrite {r v} (h : s.memOk) : Res.memOk (execErrLogRdWrite r v s) := h.regWrite

theorem State.memOk.execHbmRcQuotaWrite {r n sec v} (h : s.memOk) : Res.memOk (execHbmRcQuotaWrite r n sec v s) := h.regWrite

theorem State.memOk.execAudSeedWrite {r v} (h : s.memOk) : Res.memOk (execAudSeedWrite r v s) := h.regWrite

theorem State.memOk.execErrInjectArm {r v} (h : s.memOk) : Res.memOk (execErrInjectArm r v s) := h.regWrite

/-! ### Wraps of performance counters (R146, R532) -/

theorem State.memOk.takeSignal {c u o} (h : s.memOk) : optOk (s.takeSignal c u o) := by
  unfold State.takeSignal
  extract_lets +onlyGivenNames g
  split
  · refine optOk_map fun a _ => ?_
    exact h.setVcu
  · split
    · refine optOk_map fun a _ => ?_
      exact h.setScu
    · split
      · extract_lets +onlyGivenNames k
        refine optOk_map fun a _ => ?_
        exact h.setSw
      · split
        · extract_lets +onlyGivenNames k
          refine optOk_map fun a _ => ?_
          exact h.setRt
        · trivial

theorem State.memOk.wrapCycles {c u o} (h : s.memOk) : (s.wrapCycles c u o).memOk := by
  unfold State.wrapCycles
  extract_lets +onlyGivenNames g
  split
  · exact h.setMcu
  · split
    · exact h.setVcu
    · split
      · exact h.setScu
      · exact h.setSw

theorem State.memOk.wrapped {off} (h : s.memOk) : optOk (s.wrapped off) := by
  unfold State.wrapped
  extract_lets +onlyGivenNames c u
  split
  · extract_lets +onlyGivenNames n
    refine optOk_map fun a _ => ?_
    exact h.setCtrl
  · split
    · exact h.wrapCycles
    · exact h.takeSignal

theorem State.memOk.execPerfCounterWrap {off} (h : s.memOk) : Res.memOk (execPerfCounterWrap off s) := by
  unfold Machine.execPerfCounterWrap
  split
  · exact h
  · split
    · exact h
    next heq => exact (h.wrapped.of_eq heq).update

end Keeps

end Sys2Proof.Machine
end

section
/-!
PROOFS. The addressed memories stay canonical: state scan, command rings.
-/

namespace Sys2Proof.Machine

section Keeps
variable {s : State}

/-! ### Taking a cluster's state out (R319) -/

theorem State.memOk.dropRequests {c} (h : s.memOk) : (s.dropRequests c).memOk := by
  unfold State.dropRequests
  exact h.setHbm h.hbm

theorem State.memOk.putImage {i} (h : s.memOk) : (s.putImage i).1.memOk := by
  unfold State.putImage
  split
  next heq =>
    extract_lets +onlyGivenNames i1
    split
    · exact h.draw_eq heq
    · extract_lets +onlyGivenNames a n _ t1 t2
      have ht1 : t1.memOk := (h.draw_eq heq).setHbm (h.draw_eq heq).hbm
      have ht2 : t2.memOk := ht1.hbmWrite
      exact ht2.update

theorem State.memOk.readTiles {c} (h : s.memOk) : (s.readTiles c).memOk := h.foldl fun _ _ ht => ht.foldl fun _ _ hu => hu.readTile

/-! ### Putting it back (R320, R323, R355) -/

theorem State.memOk.movePages {img c} (h : s.memOk) : (s.movePages img c).memOk := by
  unfold State.movePages
  exact h.update

theorem State.memOk.putScan {c img} (h : s.memOk) : (s.putScan c img).memOk := by
  unfold State.putScan
  extract_lets +onlyGivenNames key tu t t1 t2 t3 t4 t5 t6
  have ht : t.memOk := h.foldl fun _ _ hu => hu.setTu
  have ht1 : t1.memOk := ht.foldl fun _ _ hu => hu.setMu (hu.mu _)
  have ht2 : t2.memOk := ht1.foldl fun _ _ hu => hu.setMcu
  have ht3 : t3.memOk := ht2.foldl fun _ _ hu => hu.setVcu
  have ht4 : t4.memOk := ht3.foldl fun _ _ hu => hu.setScu
  have ht5 : t5.memOk := ht4.setSw
  have ht6 : t6.memOk := ht5.setRt
  exact ht6.movePages.setCl

theorem State.memOk.scanInto {c x img} (h : s.memOk) : (s.scanInto c x img).memOk := by
  unfold State.scanInto
  split
  · exact h
  · extract_lets +onlyGivenNames rec_
    split
    · exact h.failCtx
    · split
      · exact h.putScan
      · split
        · exact h.loadCluster.putScan
        · exact h.putScan

/-! ### The operations of `CL_SCAN_CTL` (R322, R327) -/

theorem State.memOk.setStopped {c b} (h : s.memOk) : (s.setStopped c b).memOk := h.foldl fun _ _ ht => ht.setTu

theorem State.memOk.scanCtl {c v} (h : s.memOk) : (s.scanCtl c v).memOk := h.setCl

theorem State.memOk.execScanFreeze {r c v} (h : s.memOk) : Res.memOk (execScanFreeze r c v s) := by
  unfold Machine.execScanFreeze
  split
  · exact h
  · extract_lets +onlyGivenNames t k
    have ht : t.memOk := h.scanCtl
    split
    · exact ht.setCl
    · split
      · exact ht
      · exact ht.setCl

theorem State.memOk.execSafePointStop {u} (h : s.memOk) : Res.memOk (execSafePointStop u s) := by
  unfold Machine.execSafePointStop
  split
  · exact h
  · exact h.setTu

theorem State.memOk.execScanOut {r c v} (h : s.memOk) : Res.memOk (execScanOut r c v s) := by
  unfold Machine.execScanOut
  split
  · exact h
  · extract_lets +onlyGivenNames t
    have ht : t.memOk := h.scanCtl
    split
    · exact ht
    · extract_lets +onlyGivenNames k t1
      have ht1 : t1.memOk := ht.readTiles
      split
      next heq => exact (memOk_of_fst ht1.putImage heq).setCl

theorem State.memOk.scanAt {c buf} (h : s.memOk) : (s.scanAt c buf).1.memOk := by
  unfold State.scanAt
  split
  · exact h
  · exact h.foldl fun _ _ ht => ht.readLine

theorem State.memOk.execScanIn {r c v ctx} (h : s.memOk) : Res.memOk (execScanIn r c v ctx s) := by
  unfold Machine.execScanIn
  split
  · exact h
  · extract_lets +onlyGivenNames t k
    have ht : t.memOk := h.scanCtl
    split
    · exact ht
    · extract_lets +onlyGivenNames t1 fits
      have ht1 : t1.memOk := ht.setCl
      split
      next heq => exact (memOk_of_fst ht1.scanAt heq).failCtx
      next heq =>
        split
        · exact (memOk_of_fst ht1.scanAt heq).dropRequests.scanInto.admitOther
        · exact (memOk_of_fst ht1.scanAt heq).setCl.failCtx

theorem State.memOk.release {c} (h : s.memOk) : (s.release c).memOk := h.setStopped.setCl.performHeld

theorem State.memOk.execScanRelease {r c v} (h : s.memOk) : Res.memOk (execScanRelease r c v s) := by
  unfold Machine.execScanRelease
  split
  · exact h
  · extract_lets +onlyGivenNames t
    have ht : t.memOk := h.scanCtl
    split
    · exact ht
    · extract_lets +onlyGivenNames t1
      have ht1 : t1.memOk := by
        unfold t1
        split
        · exact ht
        · exact ht.release
      exact ht1.setCl

theorem State.memOk.sendTransit {c} (h : s.memOk) : (s.sendTransit c).memOk := h.foldl fun _ _ ht => ht.sendPartial

theorem State.memOk.execScanOpDone {c} (h : s.memOk) : Res.memOk (execScanOpDone c s) := by
  unfold Machine.execScanOpDone
  extract_lets +onlyGivenNames k
  split
  · split
    · exact h.landAll.sendTransit.setCl
    · exact h
  · split
    · exact h
    · exact h.setCl
  · exact h

/-! ### Fetching (R385, R386, R388) -/

theorem State.memOk.execCommandFetch {f r entry} (h : s.memOk) : Res.memOk (execCommandFetch f r entry s) := by
  unfold Machine.execCommandFetch
  extract_lets +onlyGivenNames x c c1
  split
  · exact h
  · extract_lets +onlyGivenNames t
    have ht : t.memOk := h.emit
    split
    · exact ht.setRing.signal
    · exact ht.setRing

/-! ### The command at the front (R390) -/

theorem State.memOk.setFront {f r g} (h : s.memOk) : (s.setFront f r g).memOk := by
  unfold State.setFront
  extract_lets +onlyGivenNames x
  split
  · exact h
  · exact h.setRing

theorem State.memOk.finish {f r status value} (h : s.memOk) : (s.finish f r status value).memOk := h.setFront

/-! ### Completions (R399, R400, R401) -/

theorem State.memOk.coalesce {f r irq} (h : s.memOk) : (s.coalesce f r irq).memOk := by
  unfold State.coalesce
  extract_lets +onlyGivenNames x
  split
  · exact h
  · extract_lets +onlyGivenNames n
    split
    · exact h.setRing.signal
    · exact h.setRing

theorem State.memOk.writeCompletion {f r} (h : s.memOk) : (s.writeCompletion f r).memOk := by
  unfold State.writeCompletion
  extract_lets +onlyGivenNames x
  split
  · exact h.setRing.emit.emit.coalesce
  · exact h

theorem State.memOk.execCompletionWrite {f r} (h : s.memOk) : Res.memOk (execCompletionWrite f r s) := by
  unfold Machine.execCompletionWrite
  split
  · extract_lets +onlyGivenNames noted
    split
    · exact h
    · exact h.writeCompletion
  · exact h

theorem State.memOk.execCoalescingTimer {f r} (h : s.memOk) : Res.memOk (execCoalescingTimer f r s) := by
  unfold Machine.execCoalescingTimer
  extract_lets +onlyGivenNames x
  split
  · exact h
  · split
    · exact h
    · exact h.advanceTo.setRing.signal

theorem State.memOk.execCompletionHoldTimeout {f r} (h : s.memOk) : Res.memOk (execCompletionHoldTimeout f r s) := by
  unfold Machine.execCompletionHoldTimeout
  split
  · split
    · exact h
    · exact h.advanceTo.setRing.writeCompletion
  · exact h

/-! ### FENCE and QUERY (R398) -/

theorem State.memOk.execFenceCommand {f r} (h : s.memOk) : Res.memOk (execFenceCommand f r s) := by
  unfold Machine.execFenceCommand
  extract_lets +onlyGivenNames k
  split
  · exact h
  · split
    · exact h.finish
    · exact h

theorem State.memOk.query {f r what v} (h : s.memOk) : (s.query f r what v).memOk := by
  unfold State.query
  split
  · exact h
  · split
    · exact h
    · split <;> exact h.finish

theorem State.memOk.execQueryDeviceTime {f r} (h : s.memOk) : Res.memOk (execQueryDeviceTime f r s) := h.query

theorem State.memOk.execQueryBeacon {f r} (h : s.memOk) : Res.memOk (execQueryBeacon f r s) := h.query

theorem State.memOk.execQueryEngineTime {f r} (h : s.memOk) : Res.memOk (execQueryEngineTime f r s) := h.query

theorem State.memOk.execQueryContextState {f r} (h : s.memOk) : Res.memOk (execQueryContextState f r s) := h.query

theorem State.memOk.execQueryMailboxRecords {f r} (h : s.memOk) : Res.memOk (execQueryMailboxRecords f r s) := h.query

end Keeps

end Sys2Proof.Machine
end

section
/-!
PROOFS. The addressed memories stay canonical: contexts and steps.
-/

namespace Sys2Proof.Machine

section Keeps
variable {s : State}

/-! ### Time (R422, R424) -/

theorem State.memOk.boundV {n} (h : s.memOk) : (s.boundV n).memOk := by
  unfold State.boundV
  split
  · exact h
  next heq =>
    split
    · exact h
    · split
      · split
        · exact h.setCtx_of_eq (h.ctx heq) rfl rfl
        · exact h
      · exact h

theorem State.memOk.chargeCtx {n} (h : s.memOk) : (s.chargeCtx n).memOk := by
  unfold State.chargeCtx
  split
  · exact h
  next heq =>
    split
    · exact h
    · extract_lets +onlyGivenNames e
      exact State.memOk.boundV (h.setCtx_of_eq (h.ctx heq) rfl rfl)

theorem State.memOk.becomeWaiting {n} (h : s.memOk) : (s.becomeWaiting n).memOk := by
  unfold State.becomeWaiting
  split
  · exact h
  next heq =>
    split
    · extract_lets +onlyGivenNames v
      exact State.memOk.boundV (h.setCtx_of_eq (h.ctx heq) rfl rfl)
    · extract_lets +onlyGivenNames v
      exact State.memOk.boundV (h.setCtx_of_eq (h.ctx heq) rfl rfl)
    · exact h

/-! ### Taking a context off clusters and putting it on (R428) -/

theorem State.memOk.zeroizeCluster {c} (h : s.memOk) : (s.zeroizeCluster c).memOk :=
  (h.foldl fun _ _ ht => ht.setMu (Mu.wf_zeroize (ht.mu _))).foldl fun _ _ ht => ht.setMcu

theorem State.memOk.closeMu {g} (h : s.memOk) : (s.closeMu g).memOk := by
  unfold State.closeMu
  extract_lets +onlyGivenNames l t m
  have ht : t.memOk := h.foldl fun _ _ hu => State.memOk.performAccepted (hu.setMu (Mu.wf_wakeNow (hu.mu _)))
  exact ht.setMu (ht.mu _)

theorem State.memOk.closeWindows {c} (h : s.memOk) : (s.closeWindows c).memOk := h.foldl fun _ _ ht => ht.closeMu

theorem State.memOk.wipeCluster {c} (h : s.memOk) : (s.wipeCluster c).memOk :=
  (h.dropRequests.dropRootsAt.clearLocal.zeroizeCluster.loadCluster.foldl fun _ _ ht => ht.setScu).setCl.setStopped

theorem State.memOk.readScratch {g} (h : s.memOk) : (s.readScratch g).memOk := h.readWords

/-- The owner of a cluster is read with its context. -/
theorem State.ctx_of_owner {c y : Nat} {k : Ctx} (e : (s.ownerOf c).bind (fun y => (s.ctx y).map fun k => (y, k)) = some (y, k)) :
    s.ctx y = some k := by
  obtain ⟨z, -, hz⟩ := Option.bind_eq_some_iff.1 e
  obtain ⟨w, hw, hk⟩ := Option.map_eq_some_iff.1 hz
  cases hk
  exact hw

theorem State.memOk.saveScan {c} (h : s.memOk) : (s.saveScan c).memOk := by
  unfold State.saveScan
  extract_lets t t1 img t2
  have ht2 : t2.memOk := h.landAll.sendTransit.readTiles.closeWindows
  split
  · exact ht2
  next y k heq =>
    split
    · exact ht2
    · exact ht2.setCtx ((ht2.ctx (State.ctx_of_owner heq)).setScan ScanImg.memOk_takeScan)

theorem State.memOk.scratchOf {c} (h : s.memOk) : ∀ e ∈ s.scratchOf c, Memory.wf e.2.mem = true := by
  intro e he
  obtain ⟨u, -, rfl⟩ := List.mem_map.1 he
  exact Mu.wf_scratch (h.mu _)

theorem State.memOk.switchOut {c} (h : s.memOk) : (s.switchOut c).memOk := by
  unfold State.switchOut
  extract_lets +onlyGivenNames t
  have ht : t.memOk := h.saveScan
  split
  · exact ht
  next y k heq =>
    split
    · exact ht.dropRequests
    · extract_lets t1
      have ht1 : t1.memOk := ht.foldl fun _ _ ht => ht.readScratch
      split
      next k' heq1 => exact State.memOk.dropRequests (ht1.setCtx ((ht1.ctx heq1).saveMem ht1.scratchOf))
      next => exact ht1

theorem State.memOk.saveSpill {n cs} (h : s.memOk) : (s.saveSpill n cs).memOk := by
  unfold State.saveSpill
  split
  · exact h
  next heq =>
    extract_lets +onlyGivenNames f mine t
    have ht : t.memOk := h.setCtx_of_eq (h.ctx heq) rfl rfl
    exact ht.setSf

theorem State.memOk.restoreScratch {c t} (h : s.memOk) : (s.restoreScratch c t).memOk := by
  unfold State.restoreScratch
  refine h.foldl fun u _ hu => ?_
  split
  · exact hu.setMu (Mu.wf_putScratch (hu.mu _))
  · exact hu

theorem State.memOk.switchIn {c n epoch} (h : s.memOk) : (s.switchIn c n epoch).memOk := by
  unfold State.switchIn
  split
  · exact h
  · extract_lets +onlyGivenNames t t1 t2 _ t3
    have ht : t.memOk := by
      unfold t
      split
      · exact h.stage
      · exact h
    have ht1 : t1.memOk := by
      unfold t1
      split
      · exact ht.scanInto
      · split
        · exact ht
        · exact ht.loadCluster
      · exact ht
    have ht2 : t2.memOk := by
      unfold t2
      split
      · exact ht1.restoreScratch
      · exact ht1
    have ht3 : t3.memOk := ht2.setCl
    exact ht3.setStopped.admitOther

theorem State.memOk.chargeSwitch {t n} (h : s.memOk) : (s.chargeSwitch t n).memOk := by
  unfold State.chargeSwitch
  split
  next heq => exact State.memOk.boundV (h.setCtx (h.ctx heq).chargeSwitch)
  next => exact h

theorem State.memOk.switchOutAll {cs n t} (h : s.memOk) : (s.switchOutAll cs n t).memOk := by
  unfold State.switchOutAll
  extract_lets +onlyGivenNames ys t1
  have ht1 : t1.memOk := (h.foldl fun _ _ hu => hu.switchOut).foldl fun _ _ hu => hu.saveSpill
  split
  · exact ht1
  · exact ht1.advance.foldl fun _ _ hu => hu.chargeSwitch

theorem State.memOk.switchInAll {cs n t} (h : s.memOk) : (s.switchInAll cs n t).memOk := by
  unfold State.switchInAll
  split
  · exact h
  · extract_lets epoch t1 t2
    have ht2 : t2.memOk := (h.foldl fun _ _ ht => ht.wipeCluster).foldl fun _ _ ht => ht.switchIn
    split
    · exact ht2
    next k heq =>
      extract_lets back t3 t4
      have ht3 : t3.memOk := ht2.setCtx (ht2.ctx heq).keepScans
      have ht4 : t4.memOk := ht3.foldl fun _ _ ht => ht.putRecord
      split
      · exact ht4
      · exact ht4.advance.chargeSwitch

theorem State.memOk.execFootprintSwitch {x} (h : s.memOk) : Res.memOk (execFootprintSwitch x s) := by
  unfold Machine.execFootprintSwitch
  extract_lets +onlyGivenNames n
  split
  · exact h
  · extract_lets +onlyGivenNames cs
    split
    · exact h
    · exact h.draw.switchOutAll.switchInAll

/-! ### The end of a step (R421, R422, R475, R476) -/

theorem State.memOk.finishFor {f r n status value held} (h : s.memOk) : (s.finishFor f r n status value held).memOk := by
  unfold State.finishFor
  extract_lets +onlyGivenNames x
  split
  · split
    · exact h.setFront
    · exact h
  · exact h

theorem State.memOk.dropTlb {n} (h : s.memOk) : (s.dropTlb n).memOk := by
  obtain ⟨hhbm, hmus, hctxs⟩ := h
  refine ⟨hhbm, ?_, hctxs⟩
  exact tabMap_all (P := fun m : Mu => Memory.wf m.mem = true) (Q := fun m => Memory.wf m.mem = true)
    (f := fun _ m => { m with tlb := m.tlb.filter fun t => t.ctx != n }) hmus fun _ _ hm => hm

theorem State.memOk.takeBind {n} (h : s.memOk) : (s.takeBind n).memOk := by
  unfold State.takeBind
  split
  next x b heq =>
    obtain ⟨y, hy, hb⟩ := Option.bind_eq_some_iff.1 heq
    obtain ⟨_, -, hxy⟩ := Option.map_eq_some_iff.1 hb
    cases hxy
    exact State.memOk.dropTlb (h.setCtx (h.ctx hy).bindTo)
  next => exact h

theorem State.memOk.endStep {n status} (h : s.memOk) : (s.endStep n status).memOk := by
  unfold State.endStep
  extract_lets +onlyGivenNames t
  have ht : t.memOk := h.chargeCtx.takeBind
  split
  · exact ht
  next heq =>
    split
    · exact ht
    · extract_lets +onlyGivenNames load status1 held t1
      have ht1 : t1.memOk := ht.finishFor
      exact ht1.setCtx_of_eq (ht.ctx heq) rfl rfl

theorem State.memOk.abandonStep {n} (h : s.memOk) : (s.abandonStep n).memOk := by
  unfold State.abandonStep
  split
  · exact h
  · extract_lets +onlyGivenNames all mine t t1 t2 t3
    have ht : t.memOk := by
      refine h.foldl fun u _ hu => ?_
      split
      · exact hu.dropRequests
      · exact hu
    have ht1 : t1.memOk := ht.update
    have ht2 : t2.memOk := ht1.reconfigure.voidMessages
    have ht3 : t3.memOk := by
      unfold t3
      split
      · exact ht2
      · exact ht2.bindGroups
    split
    · exact State.memOk.endStep (ht3.setCtx (Ctx.memOk_of_nil rfl rfl))
    · exact ht3

theorem State.memOk.doubtStep {n} (h : s.memOk) : (s.doubtStep n).memOk := by
  unfold State.doubtStep
  split
  · exact h
  next heq =>
    split
    · exact h.setCtx_of_eq (h.ctx heq) rfl rfl
    · exact h.abandonStep

theorem State.memOk.execStepEnd {x} (h : s.memOk) : Res.memOk (execStepEnd x s) := by
  unfold Machine.execStepEnd
  split
  · exact h
  · split
    · exact h
    · split
      · split
        · exact h
        · exact h.abandonStep
      · split
        · exact h
        · split
          · exact h
          · exact h.endStep

theorem State.memOk.execStepLimitTimeout {x} (h : s.memOk) : Res.memOk (execStepLimitTimeout x s) := by
  unfold Machine.execStepLimitTimeout
  split
  · exact h
  · split
    · exact h
    · exact h.advanceTo.chargeCtx.failCtx

/-! ### The dispatcher (R425 to R427) -/

theorem State.memOk.freeze {c} (h : s.memOk) : (s.freeze c).memOk := h.landAll.sendTransit.setStopped.setCl

theorem State.memOk.preempt {n} (h : s.memOk) : (s.preempt n).memOk := by
  unfold State.preempt
  extract_lets +onlyGivenNames t
  have ht : t.memOk := h.chargeCtx
  split
  · exact ht
  next heq =>
    extract_lets +onlyGivenNames t1
    have ht1 : t1.memOk := ht.setCtx_of_eq (ht.ctx heq) rfl rfl
    refine ht1.foldl fun u _ hu => ?_
    split
    · exact hu.freeze
    · exact hu

theorem State.memOk.preemptAll {sec} (h : s.memOk) : (s.preemptAll sec).memOk := by
  unfold State.preemptAll
  refine h.foldl fun t _ ht => ?_
  split
  · split
    · exact ht.preempt
    · exact ht
  · exact ht

theorem State.memOk.consider {n res} (h : s.memOk) : (s.consider n res).1.memOk := by
  unfold State.consider
  split
  · exact h
  next x g heq =>
    extract_lets cs busy away
    obtain ⟨y, hy, hxg⟩ := Option.bind_eq_some_iff.1 heq
    obtain ⟨_, -, hyx⟩ := Option.map_eq_some_iff.1 hxg
    cases hyx
    split
    · exact h.failCtx
    · split
      · exact h
      · split
        · exact h
        · exact h.setCtx_of_eq (h.ctx hy) rfl rfl

theorem State.memOk.pass {sec} (h : s.memOk) : (s.pass sec).memOk := h.foldl_fst fun _ _ hq => hq.consider

theorem State.memOk.execDispatchPass {sec} (h : s.memOk) : Res.memOk (execDispatchPass sec s) := by
  unfold Machine.execDispatchPass
  split
  · exact h
  · split
    · exact h
    · extract_lets +onlyGivenNames t
      have ht : t.memOk := h.preemptAll
      split
      · exact ht
      · exact ht.pass

theorem State.memOk.execDispatchTick {sec} (h : s.memOk) : Res.memOk (execDispatchTick sec s) := by
  unfold Machine.execDispatchTick
  split
  · exact h
  · split
    · exact h
    · exact (h.foldl fun _ _ ht => ht.chargeCtx).preemptAll

/-! ### The start of a step (R419, R420) -/

theorem State.memOk.noteStep {c n seq} (h : s.memOk) : (s.noteStep c n seq).memOk := by
  unfold State.noteStep
  extract_lets +onlyGivenNames l l1 _ t
  have ht : t.memOk := h.update
  refine ht.foldl fun u _ hu => ?_
  split
  · exact hu
  · split
    · exact hu.setMcu
    · exact hu.setVcu

theorem State.memOk.deliverPayload {n c} (h : s.memOk) : (s.deliverPayload n c).memOk := by
  unfold State.deliverPayload
  extract_lets +onlyGivenNames q unit bytes m
  split
  · exact h
  · split
    · trivial
    · split
      · exact h.failCtx
      · extract_lets +onlyGivenNames l mu
        split
        · exact h.setMu (h.mu _)
        · split
          next heq => exact memOk_of_fst h.offer heq
          · trivial
          next heq => exact memOk_of_fst h.offer heq
          next heq => exact memOk_of_fst h.offer heq

theorem State.memOk.releaseScus {c} (h : s.memOk) : (s.releaseScus c).memOk := by
  unfold State.releaseScus
  refine h.foldl fun t _ ht => ?_
  extract_lets +onlyGivenNames x
  split
  · exact ht.setScu
  · exact ht

theorem State.memOk.takeUp {n} (h : s.memOk) : (s.takeUp n).memOk := by
  unfold State.takeUp
  split
  · exact h
  next x heq =>
    extract_lets +onlyGivenNames cs t back t1
    have ht : t.memOk := by
      refine h.foldl fun u c hu => ?_
      split
      · exact hu.foldl fun _ _ hv => hv.setMu (hv.mu _)
      · exact hu
    have ht1 : t1.memOk := ht.setCtx (h.ctx heq).dropScans
    exact ht1.foldl fun _ _ hu => hu.putRecord

theorem State.memOk.run {n fresh seq} (h : s.memOk) : (s.run n fresh seq).memOk := by
  unfold State.run
  extract_lets +onlyGivenNames t
  have ht : t.memOk := h.takeUp
  split
  · exact ht
  next heq =>
    extract_lets +onlyGivenNames t1 t2 t3
    have ht1 : t1.memOk := ht.setCtx_of_eq (ht.ctx heq) rfl rfl
    have ht2 : t2.memOk := ht1.foldl fun _ _ hu => hu.noteStep
    have ht3 : t3.memOk := ht2.foldl fun _ _ hu => hu.release
    split
    · exact ht3.foldl fun _ _ hu => hu.releaseScus
    · exact ht3

theorem State.memOk.stageAll {place imgs} (h : s.memOk) : (s.stageAll place imgs).memOk := by
  unfold State.stageAll
  refine h.foldl fun t _ ht => ?_
  split
  · split
    · exact ht.stage
    · exact ht

theorem State.memOk.loadStep {n l} (h : s.memOk) : (s.loadStep n l).memOk := by
  unfold State.loadStep
  split
  · exact h
  · extract_lets +onlyGivenNames cs imgs t t1
    have ht : t.memOk := h.stageAll
    have ht1 : t1.memOk := by
      refine ht.foldl fun u _ hu => ?_
      split
      · exact hu.release
      · exact hu
    split
    next heq1 =>
      split
      · exact memOk_of_fst ht1.reconfigure heq1
      · split
        · exact memOk_of_fst ht1.reconfigure heq1
        · split
          · exact (memOk_of_fst ht1.reconfigure heq1).endStep
          · extract_lets +onlyGivenNames old t3 save t4
            have ht3 : t3.memOk := (memOk_of_fst ht1.reconfigure heq1).foldl fun _ _ hu => hu.closeWindows.wipeCluster
            have ht4 : t4.memOk := ht3.setCtx (Ctx.memOk_of_nil rfl rfl)
            exact ht4.stageAll.endStep

theorem State.memOk.execStepStart {x} (h : s.memOk) : Res.memOk (execStepStart x s) := by
  unfold Machine.execStepStart
  extract_lets +onlyGivenNames n
  split
  · exact h
  · split
    · exact h
    · split
      · split
        · exact h
        · exact h.loadStep
      · split
        · exact h
        · split
          · exact h.run
          · split
            · exact h
            · split
              · exact h
              · split
                next heq3 => exact (show State.memOk _ from h.deliverPayload.of_eq heq3).run
                · exact h.endStep
                next heq3 => exact show State.memOk _ from h.deliverPayload.of_eq heq3
                next heq3 => exact show State.memOk _ from h.deliverPayload.of_eq heq3

/-! ### Teardown (R433) -/

theorem State.memOk.dropGrants {n} (h : s.memOk) : (s.dropGrants n).memOk := by
  unfold State.dropGrants
  extract_lets +onlyGivenNames gone _ t
  have ht : t.memOk := h.update
  split
  · exact ht
  · exact ht.update

theorem State.memOk.failCommands {n x} (h : s.memOk) : (s.failCommands n x).memOk := by
  unfold State.failCommands
  extract_lets +onlyGivenNames f first
  refine h.foldl fun t _ ht => ?_
  extract_lets +onlyGivenNames q
  split
  · split
    · exact ht
    · split <;> exact ht.finish
  · exact ht

theorem State.memOk.dropContext {n} (h : s.memOk) : (s.dropContext n).memOk := by
  unfold State.dropContext
  split
  · exact h
  · extract_lets +onlyGivenNames mine t t1 t2 t3 f t4 t5
    have ht : t.memOk := (h.foldl fun _ _ hu => hu.closeWindows.wipeCluster).voidMessages
    have ht1 : t1.memOk := by
      refine ht.foldl fun u _ hu => ?_
      split
      · exact hu.release
      · exact hu
    have ht2 : t2.memOk := ht1.foldl fun _ _ hu => hu.freeGroup
    have ht3 : t3.memOk := ht2.update
    have ht4 : t4.memOk := ht3.setSf
    have ht5 : t5.memOk := ht4.dropGrants
    split
    · exact ht5
    · exact ht5.setCtx (Ctx.memOk_of_nil rfl rfl)

theorem State.memOk.teardown {n} (h : s.memOk) : (s.teardown n).memOk := by
  unfold State.teardown
  split
  · exact h
  next x heq =>
    have hx : x.memOk := h.ctx heq
    extract_lets ran x' t t1
    have hx' : x'.memOk := by
      unfold x'
      split
      · exact hx.charge
      · exact hx
    have ht1 : t1.memOk := (h.setCtx hx').failCommands.dropContext.takeBind
    split
    · exact ht1
    next y heq1 => exact ht1.setCtx_of_eq (ht1.ctx heq1) rfl rfl

theorem State.memOk.execContextTeardown {x} (h : s.memOk) : Res.memOk (execContextTeardown x s) := by
  unfold Machine.execContextTeardown
  split
  · exact h
  · split
    · exact h
    · exact h.teardown

end Keeps

end Sys2Proof.Machine
end

section
/-!
PROOFS. The addressed memories stay canonical: the device log, samples and verdicts, the controllers.
-/

namespace Sys2Proof.Machine

section Keeps
variable {s : State}

/-! ### The device log (R440, R458 to R460) -/

theorem State.memOk.toMailbox {f r} (h : s.memOk) : (s.toMailbox f r).memOk := by
  unfold State.toMailbox
  extract_lets +onlyGivenNames x m
  split
  · exact h
  · split
    · exact h.setFn
    · exact h.emit.setFn.signal

theorem State.memOk.writeLog {r} (h : s.memOk) : (s.writeLog r).memOk := by
  unfold State.writeLog
  extract_lets +onlyGivenNames e r1 full e1 t
  have ht : t.memOk := State.memOk.hbmWrite (h.update)
  exact ht.foldl fun _ _ hu => hu.toMailbox

theorem State.memOk.flushLog (h : s.memOk) : s.flushLog.memOk := h.modErr.foldl fun _ _ ht => ht.writeLog

theorem State.memOk.execLogRecordWrite (h : s.memOk) : Res.memOk (execLogRecordWrite s) := by
  unfold Machine.execLogRecordWrite
  split
  · exact h
  · split
    · exact h
    · exact h.modErr.writeLog

theorem State.memOk.execCorrectedErrorSummary {unit cls cause} (h : s.memOk) : Res.memOk (execCorrectedErrorSummary unit cls cause s) := by
  unfold Machine.execCorrectedErrorSummary
  split
  · exact h
  · exact h.advanceTo.endCorrRun

/-! ### Watch (R468) -/

theorem State.memOk.execUnitWatch {unit} (h : s.memOk) : Res.memOk (execUnitWatch unit s) := by
  unfold Machine.execUnitWatch
  split
  · exact h
  · extract_lets +onlyGivenNames _ a p t
    have ht : t.memOk := h.update
    split
    · split
      · exact ht.queueSwap
      · exact ht
    · exact ht

/-! ### Samples (R473, R474) -/

theorem State.memOk.cleanAudit {x} (h : s.memOk) : (s.cleanAudit x).memOk := by
  unfold State.cleanAudit
  extract_lets +onlyGivenNames _ a
  split <;> exact h.update

theorem State.memOk.holdSteps {c} (h : s.memOk) : (s.holdSteps c).memOk := by
  unfold State.holdSteps
  exact h.update

theorem State.memOk.releaseSteps {c bad} (h : s.memOk) : (s.releaseSteps c bad).memOk := by
  unfold State.releaseSteps
  exact h.update

theorem State.memOk.suspectSteps {c} (h : s.memOk) : (s.suspectSteps c).memOk := by
  unfold State.suspectSteps
  exact h.update

theorem State.memOk.execAuditSampleRun {n agree} (h : s.memOk) : Res.memOk (execAuditSampleRun n agree s) := by
  unfold Machine.execAuditSampleRun
  split
  · exact h
  · extract_lets +onlyGivenNames before
    split
    · exact h
    · split
      · exact State.memOk.cleanAudit (h.update)
      · extract_lets +onlyGivenNames c
        split
        next heq1 =>
          extract_lets +onlyGivenNames y a t1
          have ht1 : t1.memOk := (memOk_of_fst h.nextPartner heq1).update
          exact ht1.holdSteps

/-! ### Exposure windows (R476, R478) -/

theorem State.memOk.exposureReport {g} (h : s.memOk) : (s.exposureReport g).memOk := by
  unfold State.exposureReport
  extract_lets +onlyGivenNames c l t _ t1
  have ht : t.memOk := by
    refine h.foldl fun u _ hu => ?_
    split
    · extract_lets +onlyGivenNames t2
      have ht2 : t2.memOk := hu.record
      split
      next heq =>
        split
        · exact ht2.setCtx_of_eq (ht2.ctx heq) rfl rfl
        · exact ht2
      · exact ht2
  have ht1 : t1.memOk := ht.update
  exact ht1.releaseSteps

theorem State.memOk.verdictRec {x} (h : s.memOk) : (s.verdictRec x).memOk := h.recordUnit

theorem State.memOk.unitFaulty {x} (h : s.memOk) : (s.unitFaulty x).memOk := by
  unfold State.unitFaulty
  extract_lets +onlyGivenNames c t _ t1
  have ht : t.memOk := h.verdictRec.queueSwap.suspectSteps
  have ht1 : t1.memOk := ht.update
  refine ht1.foldl fun u _ hu => ?_
  split
  next heq =>
    split
    · exact hu.setCtx_of_eq (hu.ctx heq) rfl rfl
    · exact hu
  · exact hu

theorem State.memOk.partnerFaulty {x} (h : s.memOk) : (s.partnerFaulty x).memOk := by
  unfold State.partnerFaulty
  extract_lets +onlyGivenNames p
  split
  · exact h.recordUnit.queueSwap
  · exact State.memOk.record (h.update)

theorem State.memOk.endSample {n c} (h : s.memOk) : (s.endSample n c).memOk := by
  unfold State.endSample
  exact h.update

theorem State.memOk.execAuditVerdict {n v} (h : s.memOk) : Res.memOk (execAuditVerdict n v s) := by
  unfold Machine.execAuditVerdict
  split
  · exact h
  · extract_lets +onlyGivenNames c
    split
    · exact h
    · extract_lets +onlyGivenNames t
      have ht : t.memOk := h.endSample
      split
      · exact State.memOk.unitFaulty (ht.update)
      · exact State.memOk.releaseSteps (State.memOk.partnerFaulty (ht.update))
      · exact State.memOk.unitFaulty (State.memOk.partnerFaulty (ht.update))

theorem State.memOk.execAuditSecondPartnerTimeout {n} (h : s.memOk) : Res.memOk (execAuditSecondPartnerTimeout n s) := by
  unfold Machine.execAuditSecondPartnerTimeout
  split
  · exact h
  · split
    · exact h
    · extract_lets +onlyGivenNames t
      have ht : t.memOk := h.advanceTo.endSample
      exact State.memOk.unitFaulty (ht.update)

/-! ### Queues -/

theorem State.memOk.popHead {n} (h : s.memOk) : (s.popHead n).memOk := h.setCtrl

/-! ### The repeat cache (R344 to R347) -/

theorem State.memOk.rcRead {w n sec line} (h : s.memOk) : (s.rcRead w n sec line).memOk := by
  unfold State.rcRead
  extract_lets +onlyGivenNames c
  split
  · exact h.setCtrl
  · exact (h.foldl fun _ _ ht => ht.readLine).setCtrl

theorem State.memOk.serveRead {n h'} (h : s.memOk) : (s.serveRead n h').1.memOk := by
  unfold State.serveRead
  extract_lets +onlyGivenNames sec
  split
  · extract_lets +onlyGivenNames t
    have ht : t.memOk := by
      refine h.foldl fun u _ hu => ?_
      split
      · exact hu
      · exact hu.rcRead
    exact ht
  · split
    · exact h
    · exact h.hbmRead

/-! ### Requests of hosts (R343, R404, R405) -/

theorem State.memOk.track {p l} (h : s.memOk) : (s.track p l).memOk := by
  unfold State.track
  extract_lets +onlyGivenNames t v
  have ht : t.memOk := h.update
  split
  · exact ht
  · split
    · exact ht.setPort
    · exact ht.setPort.sendSnoops

theorem State.memOk.hostRead {p off a} (h : s.memOk) : (s.hostRead p off a).memOk := (h.foldl fun _ _ ht => ht.readLine).track.emit

theorem State.memOk.hostWrite {a data keep poison} (h : s.memOk) : (s.hostWrite a data keep poison).memOk := h.hbmWriteKeep

theorem State.memOk.holdHost {h'} (h : s.memOk) : (s.holdHost h').memOk := h.setCtrl

theorem State.memOk.performHost {p h'} (h : s.memOk) : (s.performHost p h').memOk := by
  unfold State.performHost
  split
  · exact h.hostWrite
  · exact h.hostRead

theorem State.memOk.execHbmRead {n} (h : s.memOk) : Res.memOk (execHbmRead n s) := by
  unfold Machine.execHbmRead
  split
  · exact h
  · split
    · exact h
    · split
      · exact h
      · split
        · exact h.popHead.performHost
        · split
          next heq1 => exact memOk_of_fst h.mayAccess heq1
          next heq1 =>
            split
            next heq2 => exact (memOk_of_fst (memOk_of_fst h.mayAccess heq1).popHead.serveRead heq2).answerReq

theorem State.memOk.execHbmWrite {n} (h : s.memOk) : Res.memOk (execHbmWrite n s) := by
  unfold Machine.execHbmWrite
  split
  · exact h
  · split
    · exact h
    · split
      · exact h
      · split
        · exact h.popHead.performHost
        · split
          next heq1 => exact memOk_of_fst h.mayAccess heq1
          next heq1 => exact (memOk_of_fst h.mayAccess heq1).popHead.hbmWriteKeep.answerReq

/-! ### Scrubbing (R340) -/

theorem State.memOk.execHbmScrubRead {n} (h : s.memOk) : Res.memOk (execHbmScrubRead n s) := by
  unfold Machine.execHbmScrubRead
  extract_lets +onlyGivenNames c
  split
  · exact h
  · extract_lets +onlyGivenNames l
    split
    · exact h
    · exact h.readLine.setCtrl

end Keeps

end Sys2Proof.Machine
end

section
/-!
PROOFS. The addressed memories stay canonical: the commands of the rings.
-/

namespace Sys2Proof.Machine

section Keeps
variable {s : State}

/-! ### Residency (R430) -/

theorem State.memOk.evict {v} (h : s.memOk) : (s.evict v).memOk := by
  unfold State.evict
  split
  · exact h
  next heq =>
    extract_lets +onlyGivenNames t cs
    have ht : t.memOk := h.setCtx_of_eq (h.ctx heq) rfl rfl
    exact (ht.foldl fun _ _ hu => hu.freeze.saveScan).saveSpill

theorem State.memOk.takeIn {n x} (h : s.memOk) : optOk (s.takeIn n x) := by
  unfold State.takeIn
  split
  · exact h
  · split
    · trivial
    · refine optOk_map fun a _ => ?_
      split
      · exact h
      · exact h.evict

/-! ### STEP (R394, R420) -/

theorem State.memOk.addStep {n p} (h : s.memOk) : (s.addStep n p).memOk := by
  unfold State.addStep
  split
  next heq => exact State.memOk.becomeWaiting (h.setCtx_of_eq (h.ctx heq) rfl rfl)
  · exact h

theorem State.memOk.execStepCmd {f r} (h : s.memOk) : Res.memOk (execStepCmd f r s) := by
  unfold Machine.execStepCmd
  extract_lets +onlyGivenNames k
  split
  · exact h
  · split
    · exact h
    · split
      · exact h.finish
      · split
        · exact h.finish
        · split
          · exact h.finish
          · split
            · exact h.finish
            · split
              · exact h
              next heq2 => exact (h.takeIn.of_eq heq2).setFront.addStep

/-! ### The program loader (R303, R395, R432, R489) -/

theorem State.memOk.vaRead {w x va n} (h : s.memOk) : (s.vaRead w x va n).1.memOk := by
  induction n generalizing s va with
  | zero => exact h
  | succ n ih =>
    unfold State.vaRead
    extract_lets t
    have ht : t.memOk := h.readTables
    split
    next a _ _ =>
      have hr := ht.hbmRead (w := w) (addr := a) (n := 64 - a % 64)
      split
      next heq =>
        have hc := ih (va := va + 64) (memOk_of_fst hr heq)
        split
        next heq => exact memOk_of_fst hc heq
        next => exact hc
    · exact ht
    · exact ht

theorem State.memOk.vaBytes {w x va n} (h : s.memOk) : (s.vaBytes w x va n).1.memOk := by
  unfold State.vaBytes
  have hr := h.vaRead (w := w) (x := x) (va := va / 64 * 64) (n := ceilDiv (va % 64 + n) 64)
  split
  next heq => exact memOk_of_fst hr heq
  next => exact hr

theorem State.memOk.readImage {w x c va place} (h : s.memOk) : (s.readImage w x c va place).1.memOk := by
  unfold State.readImage
  split
  next heq => exact memOk_of_fst h.vaBytes heq
  next heq =>
    extract_lets +onlyGivenNames n
    split
    · exact memOk_of_fst h.vaBytes heq
    · split
      next heq1 => exact memOk_of_fst (memOk_of_fst h.vaBytes heq).vaBytes heq1
      next heq1 => exact memOk_of_fst (memOk_of_fst h.vaBytes heq).vaBytes heq1

theorem State.memOk.readSet {w x place l} (h : s.memOk) : (s.readSet w x place l).1.memOk := by
  induction l generalizing s with
  | nil => exact h
  | cons e l ih =>
    unfold State.readSet
    have hr := h.readImage (w := w) (x := x) (c := e.1) (va := e.2) (place := place)
    split
    next heq =>
      have hc := ih (memOk_of_fst hr heq)
      split
      next heq => exact memOk_of_fst hc heq
      next => exact hc
    next => exact hr

theorem State.memOk.loadSet {x n r g set place} (h : s.memOk) : (s.loadSet x n r g set place).1.memOk := by
  unfold State.loadSet
  extract_lets +onlyGivenNames cs w
  split
  next heq => exact memOk_of_fst h.vaBytes heq
  next heq =>
    extract_lets +onlyGivenNames vas
    split
    · exact memOk_of_fst h.vaBytes heq
    · split
      next heq1 => exact memOk_of_fst (memOk_of_fst h.vaBytes heq).readSet heq1
      · exact (memOk_of_fst h.vaBytes heq).readSet

theorem State.memOk.chainLoad {sec g imgs} (h : s.memOk) : (s.chainLoad sec g imgs).memOk := by
  unfold State.chainLoad
  split
  · exact h
  · exact h.setSector

theorem State.memOk.keepImages {n place imgs} (h : s.memOk) : (s.keepImages n place imgs).memOk := by
  unfold State.keepImages
  split
  · exact h
  next heq =>
    extract_lets +onlyGivenNames t
    have ht : t.memOk := h.setCtx_of_eq (h.ctx heq) rfl rfl
    exact ht.stageAll

theorem State.memOk.startLoad {k r c} (h : s.memOk) : (s.startLoad k r c).memOk := by
  unfold State.startLoad
  split
  · exact h.finish
  · extract_lets +onlyGivenNames n
    split
    · exact h.finish
    · extract_lets +onlyGivenNames g disjoint
      split
      · exact h.finish
      · split
        · exact h.finish
        · split
          · exact h
          · split
            next heq2 => exact memOk_of_fst h.directAccess heq2
            next heq2 =>
              split
              next heq3 => exact (memOk_of_fst (memOk_of_fst h.directAccess heq2).loadSet heq3).finish
              next heq3 => exact (memOk_of_fst (memOk_of_fst h.directAccess heq2).loadSet heq3).setFront.failCtx
              next heq3 =>
                split
                · exact (memOk_of_fst (memOk_of_fst h.directAccess heq2).loadSet heq3).chainLoad.keepImages.finish
                · split
                  · exact (memOk_of_fst (memOk_of_fst h.directAccess heq2).loadSet heq3).finish
                  · split
                    · exact memOk_of_fst (memOk_of_fst h.directAccess heq2).loadSet heq3
                    next heq4 =>
                      extract_lets +onlyGivenNames t3
                      have ht3 : t3.memOk := ((memOk_of_fst (memOk_of_fst h.directAccess heq2).loadSet heq3).takeIn.of_eq heq4).chainLoad.keepImages
                      exact ht3.setFront.addStep

theorem State.memOk.execLoadProgram {f r} (h : s.memOk) : Res.memOk (execLoadProgram f r s) := by
  unfold Machine.execLoadProgram
  split
  · exact h
  · split
    · exact h
    · exact h.startLoad

theorem State.memOk.execLoadProgramStageOnly {f r} (h : s.memOk) : Res.memOk (execLoadProgramStageOnly f r s) := by
  unfold Machine.execLoadProgramStageOnly
  split
  · exact h
  · split
    · exact h
    · exact h.startLoad

/-! ### BIND (R396, R414, R435) -/

/-- The context that a BIND names is one that the state lists. -/
theorem State.memOk.boundCtx {f c x} (h : s.memOk) (e : s.boundCtx f c = some x) : x.memOk := by
  obtain ⟨y, hy, hx⟩ := Option.bind_eq_some_iff.1 e
  split at hx
  · exact Option.some.inj hx ▸ h.ctx hy
  · nomatch hx

theorem State.memOk.execBind {f r} (h : s.memOk) : Res.memOk (execBind f r s) := by
  unfold Machine.execBind
  extract_lets k
  split
  · exact h
  next c _ =>
    split
    · exact h
    · split
      · exact h.finish
      next x _ heq =>
        have hx : x.memOk := by
          obtain ⟨y, hy, hq⟩ := Option.bind_eq_some_iff.1 heq
          obtain ⟨_, -, hyx⟩ := Option.map_eq_some_iff.1 hq
          cases hyx
          exact h.boundCtx hy
        extract_lets +onlyGivenNames root turn
        split
        · exact h.finish
        · split
          · exact h
          · extract_lets +onlyGivenNames b
            split
            · exact State.memOk.finish (h.setCtx_of_eq hx rfl rfl)
            · extract_lets +onlyGivenNames x1 back x2
              have hx2 : x2.memOk := by
                unfold x2
                split
                · exact Ctx.memOk_of_nil rfl rfl
                · exact hx.bindTo
              exact State.memOk.finish (State.memOk.dropTlb (h.setCtx hx2))

/-! ### The copy engine (R397) -/

theorem State.memOk.copySide {n x write host l} (h : s.memOk) : (s.copySide n x write host l).1.memOk := by
  induction l generalizing s with
  | nil => exact h
  | cons e l ih =>
    unfold State.copySide
    extract_lets t
    have ht : t.memOk := h.readTables
    split
    · exact ht
    · split
      · exact ht
      · have hc := ih ht
        split
        next heq => exact memOk_of_fst hc heq
        next => exact hc
    · split
      · exact ht
      · split
        next heq => exact memOk_of_fst ht.ats heq
        next heq =>
          have hc := ih (memOk_of_fst ht.ats heq)
          split
          next heq => exact memOk_of_fst hc heq
          next => exact hc
    · exact ht

theorem State.memOk.copyPage {f r n x iova write} (h : s.memOk) : (s.copyPage f r n x iova write).memOk := by
  unfold State.copyPage
  extract_lets +onlyGivenNames u
  split
  · split
    · extract_lets +onlyGivenNames e
      exact State.memOk.atcAdd (h.update)
    · exact h
  · split
    · exact h.failCtx
    · split
      · exact h
      · extract_lets +onlyGivenNames p
        exact State.memOk.emit (h.update)

theorem State.memOk.readSide {w l} (h : s.memOk) : (s.readSide w l).1.memOk := by
  induction l generalizing s with
  | nil => exact h
  | cons e l ih => exact ih h.hbmRead

theorem State.memOk.writeSide {w bytes fog l} (h : s.memOk) : (s.writeSide w bytes fog l).memOk := by
  induction l generalizing s bytes fog with
  | nil => exact h
  | cons e l ih => exact ih h.hbmWrite

theorem State.memOk.hostSide {port bytes l} (h : s.memOk) : (s.hostSide port bytes l).memOk := by
  induction l generalizing s bytes with
  | nil => exact h
  | cons e l ih => exact ih h.emit

theorem State.memOk.copyChecks {n x dst pos m} (h : s.memOk) : (s.copyChecks n x dst pos m).memOk := by
  unfold State.copyChecks
  refine h.foldl fun t _ ht => ?_
  split
  · exact ht.hbmStoreCheck
  · exact ht

theorem State.memOk.copyVerify {ctx x src n lo m} (h : s.memOk) : (s.copyVerify ctx x src n lo m).memOk := by
  unfold State.copyVerify
  refine h.foldl fun t _ ht => ?_
  split
  · split
    · split
      · exact ht.hbmVerify
      · exact ht
    · exact ht
  · exact ht

theorem State.memOk.copyFail {n st ca va} (h : s.memOk) : (s.copyFail n st ca va).memOk := h.failCtx

theorem State.memOk.copySides {f r n x c m data poison a b} (h : s.memOk) : (s.copySides f r n x c m data poison a b).memOk := by
  unfold State.copySides
  split
  · exact h.copyFail
  · exact h.copyFail
  · exact h.copyPage
  · exact h.copyPage
  · exact h.copyVerify.readSide.writeSide.copyChecks.setFront
  next a b =>
    extract_lets t
    have ht : t.memOk := h.copyVerify
    have hr := ht.readSide (w := { ctx := some n }) (l := a)
    split
    next heq =>
      have hu := memOk_of_fst hr heq
      split
      · exact hu.failCtx
      · exact hu.hostSide.setFront
  · extract_lets t
    have ht : t.memOk := h.foldl fun _ _ hu => hu.emit
    exact ht.writeSide.copyChecks.setFront
  · exact h.copyFail

theorem State.memOk.copyRow {f r n x c toHost fromHost data poison} (h : s.memOk) : (s.copyRow f r n x c toHost fromHost data poison).memOk := by
  unfold State.copyRow
  extract_lets +onlyGivenNames m src dst sides tables
  split
  next heq => exact memOk_of_fst h.directAccess heq
  next heq => exact (memOk_of_fst h.directAccess heq).copySide.copySide.copySides

theorem State.memOk.copyCmd {f r t toHost fromHost data poison} (h : s.memOk) : (s.copyCmd f r t toHost fromHost data poison).memOk := by
  unfold State.copyCmd
  split
  · exact h
  · split
    · exact h
    · split
      · exact h.finish
      · split
        · split
          · exact h.finish
          · split
            · exact h.finish
            · exact h.setFront
        · split
          · exact h
          · split
            · exact h.finish
            · exact h.copyRow

theorem State.memOk.execCopy {f r} (h : s.memOk) : Res.memOk (execCopy f r s) := h.copyCmd

theorem State.memOk.execExportCmd {f r} (h : s.memOk) : Res.memOk (execExportCmd f r s) := h.copyCmd

theorem State.memOk.execImportCommand {f r data poison} (h : s.memOk) : Res.memOk (execImportCommand f r data poison s) := h.copyCmd

end Keeps

end Sys2Proof.Machine
end

section
/-!
PROOFS. The addressed memories stay canonical: sectors, contexts, swaps and retirement, the ports.
-/

namespace Sys2Proof.Machine

section Keeps
variable {s : State}

/-! ### Granules and the room in the stacks (R329, R330, R413, R527) -/

theorem State.memOk.setGranule {g x} (h : s.memOk) : (s.setGranule g x).memOk := by
  unfold State.setGranule
  exact h.setHbm h.hbm

/-! ### Creating a sector (R412, R413) -/

theorem State.memOk.drawKey {r} (h : s.memOk) : (s.drawKey r).memOk := by
  unfold State.drawKey
  exact State.memOk.setHbm (h.update) (State.memOk.hbm (h.update))

theorem State.memOk.initSector {r x} (h : s.memOk) : (s.initSector r x).memOk := (h.foldl fun _ _ ht => ht.initGranule).rcDropSector

theorem State.memOk.setQuotas {r q} (h : s.memOk) : (s.setQuotas r q).memOk := h.foldl fun _ _ ht => ht.setCtrl

theorem State.memOk.mapHost {x} (h : s.memOk) : (s.mapHost x).memOk := by
  unfold State.mapHost
  split
  · exact h
  · exact h.foldl fun _ _ ht => ht.setPort

theorem State.memOk.openSf {r x} (h : s.memOk) : (s.openSf r x).memOk := h.setSf

theorem State.memOk.createSector {w0 w1} (h : s.memOk) : optOk (s.createSector w0 w1) := by
  unfold State.createSector
  extract_lets +onlyGivenNames r n gs groups
  split
  next heq =>
    extract_lets +onlyGivenNames x2
    split
    · trivial
    · extract_lets +onlyGivenNames t1
      have ht1 : t1.memOk := (h.draw_eq heq).setSector
      split
      · trivial
      · extract_lets +onlyGivenNames t2 t3 t4
        have ht2 : t2.memOk := ht1.foldl fun _ _ hu => hu.setGranule
        have ht3 : t3.memOk := ht2.drawKey.initSector
        have ht4 : t4.memOk := ht3.openSf.setQuotas
        exact State.memOk.mapHost (ht4.update)

/-! ### Contexts (R416, R417, R435) -/

theorem State.memOk.createContext {r p f n} (h : s.memOk) : optOk (s.createContext r p f n) := by
  unfold State.createContext
  split
  · trivial
  · split
    · trivial
    · extract_lets +onlyGivenNames st
      exact State.memOk.setCtx (h.update) (Ctx.memOk_of_nil rfl rfl)

theorem State.memOk.takeDown {n r} (h : s.memOk) : (s.takeDown n r).memOk := by
  unfold State.takeDown
  split
  · exact h
  next heq =>
    extract_lets +onlyGivenNames t
    have ht : t.memOk := by
      unfold t
      split
      · exact h
      · split
        · exact h.setCtx_of_eq (h.ctx heq) rfl rfl
        · exact h.failCtx
    exact ht.teardown

theorem State.memOk.destroyContext {n} (h : s.memOk) : (s.destroyContext n).memOk := by
  unfold State.destroyContext
  extract_lets t
  obtain ⟨hhbm, hmus, hctxs⟩ : t.memOk := h.takeDown
  exact ⟨hhbm, hmus, tabDel_all (P := Ctx.memOk) hctxs n⟩

/-! ### Releasing a sector (R415) -/

theorem State.memOk.hostsLetGo {x} (h : s.memOk) : (s.hostsLetGo x).1.memOk := by
  unfold State.hostsLetGo
  refine h.foldl_fst fun q _ hq => ?_
  refine hq.foldl_fst fun p _ hp => ?_
  split
  · exact hp.invalidated
  · exact hp

theorem State.memOk.unmapHost {g} (h : s.memOk) : (s.unmapHost g).memOk := by
  unfold State.unmapHost
  refine h.foldl fun t _ ht => ?_
  split
  · exact ht.invalidated.setPort
  · exact ht

theorem State.memOk.wipeRegion {g} (h : s.memOk) : (s.wipeRegion g).memOk := h.foldl fun _ _ ht => ht.wipeCluster.setCl

theorem State.memOk.releaseSector {r} (h : s.memOk) : (s.releaseSector r).memOk := by
  unfold State.releaseSector
  split
  · exact h
  · extract_lets +onlyGivenNames t t1 t2 t3 t4 b t5 f
    have ht4 : t4.memOk :=
      (State.memOk.setQuotas ((h.foldl fun _ _ ht => ht.destroyContext).wipeRegion.foldl fun _ _ ht => ht.freeGroup)).foldl
        fun _ _ ht => ht.unmapHost.setGranule
    have hdrop := ht4.rcDropSector (sec := r)
    have ht5 : t5.memOk := hdrop.setHbm hdrop.hbm
    exact State.memOk.update ht5.setSf

theorem State.memOk.releaseAll (h : s.memOk) : s.releaseAll.memOk := h.foldl fun _ _ ht => ht.releaseSector

/-! ### Lightship swap (R522 to R525, R25) -/

theorem State.memOk.placeWay {c p way} (h : s.memOk) : optOk (s.placeWay c p way) := by
  unfold State.placeWay
  extract_lets +onlyGivenNames hops fits
  split
  · exact h.update
  · trivial

theorem State.memOk.placeOn {c p} (h : s.memOk) : optOk (s.placeOn c p) := by
  unfold State.placeOn
  refine List.foldlRecOn (motive := optOk) _ _ (b := some _) (State.memOk.update h) fun o ho way _ => ?_
  exact optOk_bind fun t heq => (ho.of_eq heq).placeWay

theorem State.memOk.placeOn_getD {c p} (h : s.memOk) : ((s.placeOn c p).getD s).memOk := h.placeOn.getD h

theorem State.memOk.retireLogical {c} (h : s.memOk) : (s.retireLogical c).memOk := by
  unfold State.retireLogical
  extract_lets +onlyGivenNames _ t _ t1
  have ht : t.memOk := h.update
  have ht1 : t1.memOk := ht.setCl
  split
  · split
    · exact ht1.setSector.emit
    · exact ht1
  · exact ht1

theorem State.memOk.reportSwap {c} (h : s.memOk) : (s.reportSwap c).memOk := by
  unfold State.reportSwap
  split
  · exact State.memOk.exposureReport (h.update)
  · exact h

theorem State.memOk.rescan {c} (h : s.memOk) : (s.rescan c).memOk := by
  unfold State.rescan
  extract_lets +onlyGivenNames t t1 t2 t3 t4 t5
  have ht : t.memOk := h.landAll.sendTransit.dropRequests
  have ht1 : t1.memOk := by
    refine ht.foldl fun u _ hu => ?_
    extract_lets +onlyGivenNames m
    split
    · exact hu.setMu (hu.mu _)
    · exact hu
  have ht2 : t2.memOk := ht1.foldl fun _ _ hu => hu.setTu
  have ht3 : t3.memOk := ht2.foldl fun _ _ hu => hu.setMu (hu.mu _)
  have ht4 : t4.memOk := ht3.readTiles.foldl fun _ _ hu => hu.setMcu
  have ht5 : t5.memOk := ht4.foldl fun _ _ hu => hu.setScu
  exact ht5.setSw

theorem State.memOk.swapNow {c} (h : s.memOk) : (s.swapNow c).memOk := by
  unfold State.swapNow
  split
  · exact h.retireLogical.reportSwap.performHeld
  · extract_lets +onlyGivenNames old t f t1
    have ht : t.memOk := h.rescan.placeOn_getD
    have ht1 : t1.memOk := ht.update
    exact ht1.reportSwap.performHeld

/-! ### Retiring HBM (R526, R527) -/

theorem State.memOk.withdraw_eq {k t l} (h : s.memOk) (e : s.withdraw k = some (t, l)) : t.memOk := by
  unfold State.withdraw at e
  extract_lets gs t' at e
  have ht' : t'.memOk := h.foldl fun _ _ ht => ht.setGranule
  split at e
  · nomatch e
  · split at e
    · exact (Prod.mk.inj (Option.some.inj e)).1 ▸ ht'
    · nomatch e

theorem State.memOk.moveLines {n f} (h : s.memOk) : (s.moveLines n f).memOk := h.foldl fun _ _ ht => ht.decodeLine

theorem State.memOk.retirePart {n pc} (h : s.memOk) : optOk (s.retirePart n pc) := by
  unfold State.retirePart
  split
  · refine optOk_map fun ⟨t, gs⟩ heq => ?_
    exact State.memOk.update (h.withdraw_eq heq).moveLines.setCtrl
  · refine optOk_map fun ⟨t, gs⟩ heq => ?_
    exact State.memOk.update (h.withdraw_eq heq).moveLines.setCtrl

theorem State.memOk.retireOrFail {n pc} (h : s.memOk) : (s.retireOrFail n pc).memOk := by
  unfold State.retireOrFail
  split
  next heq => exact h.retirePart.of_eq heq
  · exact State.memOk.modErr (h.updateHbm h.hbm)

/-! ### The operations of R529 -/

theorem State.memOk.opApply {ws} (h : s.memOk) : optOk (s.opApply ws) := by
  unfold State.opApply
  extract_lets +onlyGivenNames a n c
  split
  · trivial
  · split
    · exact h.createSector
    · split
      · exact h.releaseSector
      · trivial
    · exact h.createContext
    · split
      · exact h.destroyContext
      · trivial
    · split
      · trivial
      · exact h.swapNow
    · split
      · trivial
      · exact h
    · split
      · trivial
      · exact h.retirePart
    · split
      · trivial
      · exact h.retirePart
    · exact h

/-! ### Host access to sector memory (R403 to R406) -/

theorem State.memOk.execCxlMemRead {p off} (h : s.memOk) : Res.memOk (execCxlMemRead p off s) := by
  unfold Machine.execCxlMemRead
  extract_lets +onlyGivenNames v off1
  split
  · exact h
  · split
    · exact h.emit
    · split
      · exact h.setPort.emit
      · split
        · exact h.setPort.emit
        · split
          · exact h.holdHost
          · exact h.hostRead

theorem State.memOk.execCxlMemWrite {p off data mask poison} (h : s.memOk) : Res.memOk (execCxlMemWrite p off data mask poison s) := by
  unfold Machine.execCxlMemWrite
  extract_lets +onlyGivenNames v off1
  split
  · exact h
  · split
    · exact h.emit
    · split
      · exact h.setPort
      · split
        · exact h.setPort
        · extract_lets +onlyGivenNames keep
          split
          · exact h.holdHost
          · exact h.hostWrite

theorem State.memOk.answerSnoop {p l} (h : s.memOk) : (s.answerSnoop p l).memOk := by
  unfold State.answerSnoop
  extract_lets +onlyGivenNames mine inv v u
  have hu : u.memOk := h.setPort
  exact hu.update

theorem State.memOk.execBiResponse {p line wb} (h : s.memOk) : Res.memOk (execBiResponse p line wb s) := by
  unfold Machine.execBiResponse
  split
  · exact h
  · extract_lets +onlyGivenNames t t1
    have ht : t.memOk := h.answerSnoop
    have ht1 : t1.memOk := by
      unfold t1
      split
      · split
        · exact ht.hbmWrite
        · exact ht
      · exact ht
    exact ht1.settleMap

theorem State.memOk.execBisnpTimeout {p line} (h : s.memOk) : Res.memOk (execBisnpTimeout p line s) := by
  unfold Machine.execBisnpTimeout
  split
  · exact h
  · exact h.advanceTo.answerSnoop.setPort.poisonLine.settleMap.record

/-! ### Links (R381) -/

theorem State.memOk.execLinkUp {p rate width flit256} (h : s.memOk) : Res.memOk (execLinkUp p rate width flit256 s) := by
  unfold Machine.execLinkUp
  extract_lets +onlyGivenNames v
  split
  · exact h
  · split <;> exact h.setPort

/-! ### Failing what a reset takes down -/

theorem State.memOk.takeDownAll {l} (h : s.memOk) : (s.takeDownAll l).memOk := h.foldl fun _ _ ht => State.memOk.takeDown (ht.update)

theorem State.memOk.stopRings {f} (h : s.memOk) : (s.stopRings f).memOk := h.setFn

theorem State.memOk.flr {p f} (h : s.memOk) : (s.flr p f).memOk := h.stopRings.takeDownAll

theorem State.memOk.countFlr {p n} (h : s.memOk) : (s.countFlr p n).memOk := h.setPort

theorem State.memOk.execFlrVf {f} (h : s.memOk) : Res.memOk (execFlrVf f s) := by
  unfold Machine.execFlrVf
  split
  · exact h
  · exact h.flr.countFlr

theorem State.memOk.execFlrPf {p} (h : s.memOk) : Res.memOk (execFlrPf p s) := by
  unfold Machine.execFlrPf
  split
  · exact h
  · exact (h.foldl fun _ _ ht => ht.setFn.stopRings).takeDownAll.countFlr

theorem State.memOk.execVfEnableClear {p} (h : s.memOk) : Res.memOk (execVfEnableClear p s) := by
  unfold Machine.execVfEnableClear
  split
  · exact h
  · exact (h.foldl fun _ _ ht => ht.flr).countFlr

/-! ### Port resets (R408) -/

theorem State.memOk.rekeySector {r} (h : s.memOk) : (s.rekeySector r).memOk := by
  unfold State.rekeySector
  split
  · exact h
  · exact h.wipeRegion.setSector.drawKey.initSector

theorem State.memOk.portReset {p} (h : s.memOk) : (s.portReset p).memOk := by
  unfold State.portReset
  extract_lets +onlyGivenNames secs t t1 t2 t3 v u
  have ht : t.memOk := h.foldl fun _ _ hu => hu.setFn
  have ht1 : t1.memOk := ht.takeDownAll
  have ht2 : t2.memOk := ht1.takeDownAll
  have ht3 : t3.memOk := ht2.foldl fun _ _ hu => hu.rekeySector
  have hu : u.memOk := ht3.setPort
  exact hu.update

theorem State.memOk.resetPort {p} (h : s.memOk) : (s.resetPort p).memOk := by
  unfold State.resetPort
  split
  · exact h.setPort
  · exact h.portReset

theorem State.memOk.execPerstN {p us} (h : s.memOk) : Res.memOk (execPerstN p us s) := by
  unfold Machine.execPerstN
  split
  · exact h
  · exact h.resetPort.setPort

theorem State.memOk.hotReset {p} (h : s.memOk) : (s.hotReset p).memOk := h.resetPort.setPort

theorem State.memOk.execHotReset {p} (h : s.memOk) : Res.memOk (execHotReset p s) := by
  unfold Machine.execHotReset
  split
  · exact h.hotReset
  · exact h

theorem State.memOk.execDlDown {p ms} (h : s.memOk) : Res.memOk (execDlDown p ms s) := by
  unfold Machine.execDlDown
  split
  · exact h.resetPort
  · exact h

theorem State.memOk.execViralIndication {p} (h : s.memOk) : Res.memOk (execViralIndication p s) := by
  unfold Machine.execViralIndication
  split
  · exact h.hotReset
  · exact h

theorem State.memOk.execIdeIntegrityFailure {p} (h : s.memOk) : Res.memOk (execIdeIntegrityFailure p s) := by
  unfold Machine.execIdeIntegrityFailure
  split
  · exact h
  · exact h.setPort.hotReset

/-! ### Link security (R407) -/

theorem State.memOk.execCxlKeyExchange {p ses} (h : s.memOk) : Res.memOk (execCxlKeyExchange p ses s) := by
  unfold Machine.execCxlKeyExchange
  extract_lets +onlyGivenNames ok t
  have ht : t.memOk := h.emit
  split
  · exact ht.setPort
  · exact ht

theorem State.memOk.execTspAssignment {f} (h : s.memOk) : Res.memOk (execTspAssignment f s) := h.setFn

end Keeps

end Sys2Proof.Machine
end

section
/-!
PROOFS. The addressed memories stay canonical: configuration transactions and the Keeper's updates, power and supply, identity and keys.
-/

namespace Sys2Proof.Machine

section Keeps
variable {s : State}

/-! ### Opening, staging, discarding -/

theorem State.memOk.execTxnBegin {r} (h : s.memOk) : Res.memOk (execTxnBegin r s) := by
  unfold Machine.execTxnBegin
  split
  · exact h
  · exact h.update

theorem State.memOk.stageEntry {e} (h : s.memOk) : (s.stageEntry e).memOk := by
  unfold State.stageEntry
  extract_lets +onlyGivenNames t
  repeat' split
  all_goals exact h.update

theorem State.memOk.execTxnStageWrite {r v} (h : s.memOk) : Res.memOk (execTxnStageWrite r v s) := by
  unfold Machine.execTxnStageWrite
  split
  · exact h.stageEntry
  · exact h

theorem State.memOk.execTxnStageOp {r v} (h : s.memOk) : Res.memOk (execTxnStageOp r v s) := by
  unfold Machine.execTxnStageOp
  split
  · exact h.stageEntry
  · exact h

theorem State.memOk.dropTxn (h : s.memOk) : s.dropTxn.memOk := by
  unfold State.dropTxn
  exact h.update

theorem State.memOk.execTxnRollback {r} (h : s.memOk) : Res.memOk (execTxnRollback r s) := by
  unfold Machine.execTxnRollback
  split
  · exact h.dropTxn
  · exact h

theorem State.memOk.execTxnTimeout (h : s.memOk) : Res.memOk (execTxnTimeout s) := by
  unfold Machine.execTxnTimeout
  split
  · exact h
  · exact h.advanceTo.dropTxn

/-! ### Committing (R530) -/

theorem State.memOk.txnDone (h : s.memOk) : s.txnDone.memOk := by
  unfold State.txnDone
  exact h.update

theorem State.memOk.safePoint (h : s.memOk) : s.safePoint.memOk := by
  unfold State.safePoint
  extract_lets +onlyGivenNames l t ops _ t1
  have ht : t.memOk := by
    refine h.foldl fun u _ hu => ?_
    split
    · exact hu.keeperWrite
    · exact hu
  have ht1 : t1.memOk := ht.update
  split
  · exact ht1.txnDone
  · exact ht1

theorem State.memOk.commitPoint (h : s.memOk) : s.commitPoint.memOk := by
  unfold State.commitPoint
  split
  · exact h.safePoint
  · exact h

theorem State.memOk.execTxnCommit {r} (h : s.memOk) : Res.memOk (execTxnCommit r s) := by
  unfold Machine.execTxnCommit
  split
  · exact h
  · split
    · exact h.update
    · extract_lets +onlyGivenNames _ t
      have ht : t.memOk := h.update
      split
      · exact ht.txnDone
      · exact ht.commitPoint

/-! ### The operations of a commit, in staging order -/

theorem State.memOk.popOp (h : s.memOk) : s.popOp.memOk := by
  unfold State.popOp
  extract_lets +onlyGivenNames t
  split
  · exact h.txnDone
  · exact h.update

theorem State.memOk.runOp {k} (h : s.memOk) : (s.runOp k).memOk := by
  unfold State.runOp
  split
  · exact h
  · split
    next heq1 => exact (h.opApply.of_eq heq1).popOp
    · exact h.popOp

theorem State.memOk.execCreateSector (h : s.memOk) : Res.memOk (execCreateSector s) := h.runOp

theorem State.memOk.execReleaseSector (h : s.memOk) : Res.memOk (execReleaseSector s) := by
  unfold Machine.execReleaseSector
  split
  · exact h.runOp
  · split
    next heq1 => exact (memOk_of_fst h.hostsLetGo heq1).runOp
    next heq1 => exact memOk_of_fst h.hostsLetGo heq1

theorem State.memOk.execCreateContext (h : s.memOk) : Res.memOk (execCreateContext s) := h.runOp

theorem State.memOk.execDestroyContext (h : s.memOk) : Res.memOk (execDestroyContext s) := h.runOp

theorem State.memOk.execSwapCluster (h : s.memOk) : Res.memOk (execSwapCluster s) := by
  unfold Machine.execSwapCluster
  split
  · exact h
  · exact h.queueSwap

theorem State.memOk.execRetrainStack (h : s.memOk) : Res.memOk (execRetrainStack s) := by
  unfold Machine.execRetrainStack
  split
  · exact h
  · extract_lets +onlyGivenNames n
    split
    · exact h
    · extract_lets +onlyGivenNames _
      extract_lets +onlyGivenNames u
      have hu : u.memOk := h.setCtrl
      exact hu.update

theorem State.memOk.execRetirePseudoChannel (h : s.memOk) : Res.memOk (execRetirePseudoChannel s) := h.runOp

theorem State.memOk.execRetireStack (h : s.memOk) : Res.memOk (execRetireStack s) := h.runOp

theorem State.memOk.execOperatorDeviceReset (h : s.memOk) : Res.memOk (execOperatorDeviceReset s) := by
  unfold Machine.execOperatorDeviceReset
  split
  · exact h
  · extract_lets +onlyGivenNames _ t
    have ht : t.memOk := h.update
    exact ht.latchReset

/-! ### Swaps, retraining, retirement as they happen -/

theorem State.memOk.execLightshipSwap {c} (h : s.memOk) : Res.memOk (execLightshipSwap c s) := by
  unfold Machine.execLightshipSwap
  extract_lets +onlyGivenNames q k
  split
  · exact h
  · extract_lets +onlyGivenNames t _ t1 t2
    have ht : t.memOk := h.swapNow
    have ht1 : t1.memOk := ht.update
    have ht2 : t2.memOk := by
      unfold t2
      split
      · split
        · exact ht1.popOp
        · exact ht1
      · exact ht1
    exact ht2.commitPoint

theorem State.memOk.execHbmRetrain {n result} (h : s.memOk) : Res.memOk (execHbmRetrain n result s) := by
  unfold Machine.execHbmRetrain
  extract_lets +onlyGivenNames c other
  split
  · exact h
  · extract_lets +onlyGivenNames _ _ t t1 t2
    have ht : t.memOk := h.setCtrl.update
    have ht1 : t1.memOk := by
      unfold t1
      split
      · exact ht.retireOrFail
      · exact ht
    have ht2 : t2.memOk := by
      unfold t2
      split
      · split
        · exact ht1.popOp
        · exact ht1
      · exact ht1
    exact ht2.commitPoint

theorem State.memOk.execRetirementProceed (h : s.memOk) : Res.memOk (execRetirementProceed s) := by
  unfold Machine.execRetirementProceed
  split
  · exact h
  · split
    · exact h
    · split
      · exact h
      next heq1 => exact (h.retirePart.of_eq heq1).updateHbm (h.retirePart.of_eq heq1).hbm

/-! ### Beacon and watchdog (R518, R519) -/

theorem State.memOk.takeover (h : s.memOk) : s.takeover.memOk := by
  unfold State.takeover
  extract_lets +onlyGivenNames k f
  exact h.update

theorem State.memOk.execBeaconTick (h : s.memOk) : Res.memOk (execBeaconTick s) := by
  unfold Machine.execBeaconTick
  extract_lets +onlyGivenNames k
  split
  · exact h
  · extract_lets +onlyGivenNames t t1
    have ht : t.memOk := h.advanceTo
    have ht1 : t1.memOk := ht.update
    split
    · exact ht1.takeover
    · exact ht1

theorem State.memOk.execWatchdogExpiry (h : s.memOk) : Res.memOk (execWatchdogExpiry s) := by
  unfold Machine.execWatchdogExpiry
  extract_lets +onlyGivenNames k
  split
  · exact h
  · exact h.advanceTo.latchReset

theorem State.memOk.execDieAgentTimeout {die} (h : s.memOk) : Res.memOk (execDieAgentTimeout die s) := by
  unfold Machine.execDieAgentTimeout
  split
  · exact h
  · exact h.latchAs

/-! ### Live firmware update (R520, R521) -/

theorem State.memOk.execFirmwareImageWrite {slot img} (h : s.memOk) : Res.memOk (execFirmwareImageWrite slot img s) := by
  unfold Machine.execFirmwareImageWrite
  split
  · exact h
  · extract_lets +onlyGivenNames good low x1
    exact h.update

theorem State.memOk.execFirmwareUpdateGo {r v} (h : s.memOk) : Res.memOk (execFirmwareUpdateGo r v s) := by
  unfold Machine.execFirmwareUpdateGo
  extract_lets +onlyGivenNames k
  split
  · exact h
  · split <;> exact h.update

theorem State.memOk.execHotRestartTimeout (h : s.memOk) : Res.memOk (execHotRestartTimeout s) := by
  unfold Machine.execHotRestartTimeout
  split
  · exact h
  · extract_lets +onlyGivenNames t
    have ht : t.memOk := h.advanceTo
    exact ht.update

theorem State.memOk.execTrialEnd (h : s.memOk) : Res.memOk (execTrialEnd s) := by
  unfold Machine.execTrialEnd
  split
  · exact h
  · extract_lets +onlyGivenNames t f
    have ht : t.memOk := h.advanceTo
    exact ht.update

/-! ### The array clock step (R501, R502) -/

theorem State.memOk.decideStep (h : s.memOk) : s.decideStep.memOk := by
  unfold State.decideStep
  extract_lets +onlyGivenNames w
  split
  · split
    · exact h
    · exact h.update
  · split
    · exact h
    · exact h.update

theorem State.memOk.execClockStepChange (h : s.memOk) : Res.memOk (execClockStepChange s) := by
  unfold Machine.execClockStepChange
  split
  · exact h
  · split
    · exact h
    · extract_lets +onlyGivenNames t
      have ht : t.memOk := h.advanceTo
      extract_lets +onlyGivenNames u
      have hu : u.memOk := ht.advance
      exact hu.update

/-! ### The power manager's samples (R501, R507) -/

theorem State.memOk.powerRule {ms1 s1} (h : s.memOk) : (s.powerRule ms1 s1).memOk := by
  unfold State.powerRule
  extract_lets +onlyGivenNames p cap held p1 p2
  exact h.update

theorem State.memOk.supplyBack (h : s.memOk) : s.supplyBack.memOk := by
  unfold State.supplyBack
  extract_lets +onlyGivenNames p
  split
  · exact h
  · exact h.update

theorem State.memOk.execPowerSample {mv da avg1ms avg1s peak10ms} (h : s.memOk) : Res.memOk (execPowerSample mv da avg1ms avg1s peak10ms s) := by
  unfold Machine.execPowerSample
  split
  · exact h
  · extract_lets +onlyGivenNames p t
    have ht : t.memOk := h.update
    exact ht.powerRule.supplyBack.decideStep

/-! ### Supply levels (R505 to R508) -/

theorem State.memOk.execWarningCrossed {rail} (h : s.memOk) : Res.memOk (execWarningCrossed rail s) := by
  unfold Machine.execWarningCrossed
  split
  · exact h
  · extract_lets +onlyGivenNames _ p t
    have ht : t.memOk := h.update
    split
    · split
      · exact ht
      · exact State.memOk.record (State.memOk.decideStep (ht.update))
    · split
      · exact ht
      · exact State.memOk.record (State.memOk.decideStep (State.memOk.setDie (ht.update)))

theorem State.memOk.doubt {rail} (h : s.memOk) : (s.doubt rail).memOk := by
  unfold State.doubt
  extract_lets +onlyGivenNames l
  split
  · exact h.record
  · exact h.foldl fun _ _ ht => ht.record.doubtStep

theorem State.memOk.execDoubtCrossed {rail} (h : s.memOk) : Res.memOk (execDoubtCrossed rail s) := by
  unfold Machine.execDoubtCrossed
  split
  · exact h
  · extract_lets +onlyGivenNames b p t act
    have ht : t.memOk := h.update
    have hact : ∀ u : State, u.memOk → (act u).memOk := by
      intro u hu
      unfold act
      split
      · exact hu.doubt
      · exact hu.record
    split
    · split
      · exact ht
      · exact hact _ ht.update
    · split
      · exact ht
      · exact hact _ ht.setDie

theorem State.memOk.execResetLevelCrossed {rail} (h : s.memOk) : Res.memOk (execResetLevelCrossed rail s) := by
  unfold Machine.execResetLevelCrossed
  split <;> exact h.latchReset

theorem State.memOk.warnCleared (h : s.memOk) : s.warnCleared.memOk := by
  unfold State.warnCleared
  extract_lets +onlyGivenNames t
  have ht : t.memOk := h.record
  split
  · exact ht
  · exact State.memOk.decideStep (ht.update)

theorem State.memOk.execLevelCleared {rail lvl} (h : s.memOk) : Res.memOk (execLevelCleared rail lvl s) := by
  unfold Machine.execLevelCleared
  split
  · exact h
  · split
    · split
      · exact State.memOk.commitPoint (State.memOk.warnCleared (h.update))
      · exact h
    · split
      · exact State.memOk.commitPoint (State.memOk.record (h.update))
      · exact h
    · split
      · exact h.setDie.warnCleared.commitPoint
      · exact h
    · split
      · exact h.setDie.record.commitPoint
      · exact h

/-! ### Junction temperature (R512) -/

theorem State.memOk.readJunctions {tj} (h : s.memOk) : (s.readJunctions tj).memOk := by
  unfold State.readJunctions
  refine h.foldl fun t _ ht => ?_
  split
  · exact ht.setDie
  · exact ht

theorem State.memOk.thermRule {hot} (h : s.memOk) : (s.thermRule hot).memOk := by
  unfold State.thermRule
  extract_lets +onlyGivenNames p
  split
  · split
    · exact h.update
    · exact State.memOk.record (h.update)
  · extract_lets +onlyGivenNames p1
    split
    · exact h.update
    · split
      · repeat' split
        all_goals exact h.update
      · exact h.update

theorem State.memOk.execJunctionSample {tj} (h : s.memOk) : Res.memOk (execJunctionSample tj s) := by
  unfold Machine.execJunctionSample
  split
  · exact h
  · split
    · exact h
    · exact h.readJunctions.thermRule.decideStep

/-! ### Cooling (R514) -/

theorem State.memOk.coolAlarm (h : s.memOk) : s.coolAlarm.memOk := by
  unfold State.coolAlarm
  exact State.memOk.record (State.memOk.decideStep (h.update))

theorem State.memOk.execCoolFault (h : s.memOk) : Res.memOk (execCoolFault s) := by
  unfold Machine.execCoolFault
  split
  · exact h
  · exact State.memOk.coolAlarm (h.update)

theorem State.memOk.execLeakSense (h : s.memOk) : Res.memOk (execLeakSense s) := by
  unfold Machine.execLeakSense
  split
  · exact h
  · exact State.memOk.coolAlarm (h.update)

theorem State.memOk.execCoolingResume (h : s.memOk) : Res.memOk (execCoolingResume s) := by
  unfold Machine.execCoolingResume
  exact State.memOk.decideStep (h.update)

/-! ### SPDM sessions (R487) -/

theorem State.memOk.execSpdmKeyExchange {p} (h : s.memOk) : Res.memOk (execSpdmKeyExchange p s) := by
  unfold Machine.execSpdmKeyExchange
  extract_lets +onlyGivenNames n
  split
  · exact h
  · split
    · exact h.emit
    · extract_lets +onlyGivenNames _ t
      have ht : t.memOk := h.update
      exact ht.emit

theorem State.memOk.execSpdmEndSession {ses} (h : s.memOk) : Res.memOk (execSpdmEndSession ses s) := by
  unfold Machine.execSpdmEndSession
  exact h.update

/-! ### Measurements (R488) -/

theorem State.memOk.execGetMeasurements {p index} (h : s.memOk) : Res.memOk (execGetMeasurements p index s) := by
  unfold Machine.execGetMeasurements
  extract_lets +onlyGivenNames known
  split
  · exact h
  · split <;> exact h.emit

/-! ### Sector keys (R490, R491) -/

theorem State.memOk.setKey {r x key} (h : s.memOk) : (s.setKey r x key).memOk := by
  unfold State.setKey
  extract_lets +onlyGivenNames b t t1 f t2 mine t3 t4
  have ht : t.memOk := h.setHbm h.hbm
  have ht2 : t2.memOk := ht.setSector.initSector.setSf
  have ht3 : t3.memOk := ht2.foldl fun _ _ hu => hu.closeWindows.wipeCluster
  have ht4 : t4.memOk := by
    refine ht3.foldl fun u c hu => ?_
    split
    · exact hu
    · exact hu.release
  obtain ⟨hhbm, hmus, hctxs⟩ := ht4
  refine ⟨hhbm, hmus, ?_⟩
  refine tabMap_all (P := Ctx.memOk) (Q := Ctx.memOk) (f := fun _ c => if c.sector = r then c.unload else c) hctxs fun _ c hc => ?_
  split
  · exact hc.unload
  · exact hc

theorem State.memOk.execSetSectorKey {ses sec key claim} (h : s.memOk) : Res.memOk (execSetSectorKey ses sec key claim s) := by
  unfold Machine.execSetSectorKey
  extract_lets +onlyGivenNames no
  have hno : no.memOk := h.emit
  split
  · exact h
  · split
    · exact hno
    · split
      · exact hno
      · split
        · exact hno
        · exact h.setKey.emit

/-! ### Queue grants (R431, R492) -/

theorem State.memOk.execGrantQueue {ses recv admitted} (h : s.memOk) : Res.memOk (execGrantQueue ses recv admitted s) := by
  unfold Machine.execGrantQueue
  split
  · exact h
  · split
    · exact h.emit
    · extract_lets +onlyGivenNames _ t
      have ht : t.memOk := h.update
      exact ht.emit

theorem State.memOk.execRevokeQueue {ses recv admitted} (h : s.memOk) : Res.memOk (execRevokeQueue ses recv admitted s) := by
  unfold Machine.execRevokeQueue
  extract_lets +onlyGivenNames g
  split
  · exact h
  · split
    · exact h.emit
    · extract_lets +onlyGivenNames _ t t1
      have ht : t.memOk := h.update
      have ht1 : t1.memOk := ht.foldl fun _ _ hu => hu.admitOther
      exact ht1.emit

/-! ### Debug unlock (R495 to R497) -/

theorem State.memOk.execDebugNonceRead {r} (h : s.memOk) : Res.memOk (execDebugNonceRead r s) := by
  unfold Machine.execDebugNonceRead
  extract_lets +onlyGivenNames k
  split
  · exact h
  · split
    · exact h.emit
    · split
      next heq =>
        extract_lets +onlyGivenNames n
        exact State.memOk.emit ((h.draw_eq heq).update)

theorem State.memOk.redrawKeys (h : s.memOk) : s.redrawKeys.memOk := h.foldl fun _ _ ht => ht.drawKey

theorem State.memOk.execDebugToken {p t} (h : s.memOk) : Res.memOk (execDebugToken p t s) := by
  unfold Machine.execDebugToken
  split
  · exact h
  · split
    · exact h.emit
    · split
      · exact State.memOk.emit (h.update)
      · extract_lets +onlyGivenNames t1
        have ht1 : t1.memOk := h.releaseAll.redrawKeys
        exact State.memOk.emit (ht1.update)

theorem State.memOk.relock (h : s.memOk) : s.relock.memOk := by
  unfold State.relock
  extract_lets +onlyGivenNames t
  have ht : t.memOk := h.releaseAll.redrawKeys
  exact ht.update

theorem State.memOk.execRelock {r v} (h : s.memOk) : Res.memOk (execRelock r v s) := by
  unfold Machine.execRelock
  extract_lets +onlyGivenNames k
  split
  · exact h
  · exact h.relock

theorem State.memOk.execUnlockExpiry (h : s.memOk) : Res.memOk (execUnlockExpiry s) := by
  unfold Machine.execUnlockExpiry
  split
  · exact h
  · exact h.advanceTo.relock

/-! ### Recovery (R482) and the I3C endpoint (R555) -/

theorem State.memOk.execRecoveryReadBootStatus (h : s.memOk) : Res.memOk (execRecoveryReadBootStatus s) := by
  unfold Machine.execRecoveryReadBootStatus
  split
  · exact h.emit
  · exact h

theorem State.memOk.execRecoveryWriteFirmware {slot img} (h : s.memOk) : Res.memOk (execRecoveryWriteFirmware slot img s) := by
  unfold Machine.execRecoveryWriteFirmware
  split
  · exact h
  · extract_lets +onlyGivenNames old x1
    exact h.update

theorem State.memOk.execDynamicAddressAssignment {how addr} (h : s.memOk) : Res.memOk (execDynamicAddressAssignment how addr s) := by
  unfold Machine.execDynamicAddressAssignment
  extract_lets +onlyGivenNames ok
  split
  · exact h
  · exact h.update

end Keeps

end Sys2Proof.Machine
end

section
/-!
PROOFS. The addressed memories stay canonical: device reset, boot, power and reset pins.
-/

namespace Sys2Proof.Machine

section Keeps
variable {s : State}

/-! ### The remap and the self-test (R22, R25, R449, R480) -/

theorem State.memOk.remapCluster {c} (h : s.memOk) : (s.remapCluster c).memOk := by
  unfold State.remapCluster
  extract_lets +onlyGivenNames bad
  split
  · exact h
  · split
    · exact h.retireLogical
    · exact h.update

theorem State.memOk.selfTest {bad} (h : s.memOk) : (s.selfTest bad).memOk := by
  unfold State.selfTest
  extract_lets +onlyGivenNames _ t hit
  have ht : t.memOk := by
    unfold t
    split
    · exact h
    · exact h.update
  exact ht.foldl fun _ _ hu => hu.remapCluster

/-! ### Device reset -/

theorem State.memOk.resetCompletions (h : s.memOk) : s.resetCompletions.memOk := by
  unfold State.resetCompletions
  refine h.foldl fun t _ ht => ?_
  split
  · refine ht.foldl fun u _ hu => ?_
    split
    · split
      · exact hu
      · exact hu.setRing.foldl fun _ _ hv => hv.writeCompletion

theorem State.memOk.markFns (h : s.memOk) : s.markFns.memOk := by
  unfold State.markFns
  exact h.update

theorem State.memOk.resetUnits (h : s.memOk) : s.resetUnits.memOk := by
  obtain ⟨hhbm, -, -⟩ := h
  refine ⟨hhbm, List.forall_mem_nil _, ?_⟩
  exact tabMap_all (P := fun _ => True) (Q := Ctx.memOk) (f := fun _ x => x.afterReset) (fun _ _ => trivial) fun _ _ _ => Ctx.memOk_afterReset

theorem State.memOk.backToForce (h : s.memOk) : s.backToForce.memOk := by
  unfold State.backToForce
  extract_lets +onlyGivenNames f k _ t
  have ht : t.memOk := h.update
  split
  · exact ht
  · exact ht.update

theorem State.memOk.txnReset (h : s.memOk) : s.txnReset.memOk := by
  unfold State.txnReset
  exact h.update

theorem State.memOk.finishTxn (h : s.memOk) : s.finishTxn.memOk := by
  unfold State.finishTxn
  split
  · exact h.txnReset
  · extract_lets +onlyGivenNames l t ops
    have ht : t.memOk := by
      refine h.foldl fun u _ hu => ?_
      split
      · exact hu.keeperWrite
      · exact hu
    refine State.memOk.txnReset ?_
    refine ht.foldl fun u _ hu => ?_
    split
    next heq => exact hu.opApply.of_eq heq
    · exact hu

theorem State.memOk.relockAtReset (h : s.memOk) : s.relockAtReset.memOk := by
  unfold State.relockAtReset
  split
  · exact h.relock
  · exact h

theorem State.memOk.latchedPorts (h : s.memOk) : s.latchedPorts.memOk := by
  unfold State.latchedPorts
  refine h.foldl fun t _ ht => ?_
  split
  · exact ht.portReset
  · exact ht

theorem State.memOk.deviceReset {cause k bad tablesOk} (h : s.memOk) : (s.deviceReset cause k bad tablesOk).memOk := by
  unfold State.deviceReset
  extract_lets +onlyGivenNames recent at_ why t t1 _ t2
  have ht : t.memOk := h.modErr
  have ht1 : t1.memOk := ht.resetUnits.backToForce
  have ht2 : t2.memOk := ht1.update
  split
  · extract_lets +onlyGivenNames u
    have hu : u.memOk := ht2.resetCompletions.modErr
    exact hu.update
  · extract_lets +onlyGivenNames t3 t4 t5 t6
    have ht3 : t3.memOk := by
      refine State.memOk.modErr ?_
      split
      · exact ht2
      · exact ht2.releaseAll
    have ht4 : t4.memOk := ht3.relockAtReset.selfTest.finishTxn.latchedPorts
    have ht5 : t5.memOk := ht4.resetCompletions.markFns
    have ht6 : t6.memOk := ht5.recordAt.flushLog
    exact State.memOk.update (ht6.update)

theorem State.memOk.execDeviceReset {cause bad tablesOk} (h : s.memOk) : Res.memOk (execDeviceReset cause bad tablesOk s) := by
  unfold Machine.execDeviceReset
  split
  · exact h
  · split
    · exact h.deviceReset
    · split
      · exact h
      · exact h.latchReset.deviceReset

/-! ### Power and reset pins (R499, R500, R513, R556) -/

theorem State.memOk.bare {ph} (_ : s.memOk) : (s.bare ph).memOk := ⟨rfl, List.forall_mem_nil _, List.forall_mem_nil _⟩

theorem State.memOk.railsOff (h : s.memOk) : s.railsOff.memOk := by
  unfold State.railsOff
  extract_lets +onlyGivenNames t
  have ht : t.memOk := h.bare
  exact ht.update

theorem State.memOk.railsOn (h : s.memOk) : s.railsOn.memOk := by
  unfold State.railsOn
  split
  · extract_lets +onlyGivenNames t
    have ht : t.memOk := h.bare
    exact ht.update
  · exact h

theorem State.memOk.execThermalTrip (h : s.memOk) : Res.memOk (execThermalTrip s) := by
  unfold Machine.execThermalTrip
  split
  · exact h
  · exact State.memOk.railsOff (h.update)

theorem State.memOk.execInputOvervoltage (h : s.memOk) : Res.memOk (execInputOvervoltage s) := h.railsOff

theorem State.memOk.execModPwrenAssert (h : s.memOk) : Res.memOk (execModPwrenAssert s) := by
  unfold Machine.execModPwrenAssert
  exact State.memOk.railsOn (h.update)

theorem State.memOk.execModPwrenDeassert (h : s.memOk) : Res.memOk (execModPwrenDeassert s) := by
  unfold Machine.execModPwrenDeassert
  exact State.memOk.railsOff (h.update)

theorem State.memOk.execInputPowerLoss (h : s.memOk) : Res.memOk (execInputPowerLoss s) := by
  unfold Machine.execInputPowerLoss
  extract_lets +onlyGivenNames t
  have ht : t.memOk := h.railsOff
  exact ht.update

theorem State.memOk.execInputPowerApplied (h : s.memOk) : Res.memOk (execInputPowerApplied s) := by
  unfold Machine.execInputPowerApplied
  split
  · exact h
  · exact State.memOk.railsOn (h.update)

theorem State.memOk.execModResetNAssert {us} (h : s.memOk) : Res.memOk (execModResetNAssert us s) := by
  unfold Machine.execModResetNAssert
  split
  · exact h
  · exact h.bare

/-! ### Boot (R480, R481) -/

theorem State.memOk.toRecovery {step} (h : s.memOk) : (s.toRecovery step).memOk := by
  unfold State.toRecovery
  exact h.update

theorem State.memOk.bootRest {r} (h : s.memOk) : (s.bootRest r).memOk := by
  unfold State.bootRest
  extract_lets +onlyGivenNames b t t1 t2 t3 t4
  have ht : t.memOk := h.updateHbm h.hbm
  have ht1 : t1.memOk := by
    unfold t1
    cases hw : t.withdraw (36 * t.flash.stacksRetired.length + 23 * t.flash.pcRetired.length) with
    | none => exact ht
    | some x => exact ht.withdraw_eq hw
  have ht3 : t3.memOk := State.memOk.selfTest (ht1.foldl fun _ _ ht => ht.retireOrFail)
  have ht4 : t4.memOk := by
    unfold t4
    split
    · exact ht3
    · exact ht3.releaseAll.modErr
  split
  · exact ht4.toRecovery
  · exact State.memOk.update ht4.draw

theorem State.memOk.execBoot {r} (h : s.memOk) : Res.memOk (execBoot r s) := by
  unfold Machine.execBoot
  split
  · exact h
  · split
    · exact h.toRecovery
    · split
      · exact h.toRecovery
      · extract_lets +onlyGivenNames f _ t
        have ht : t.memOk := h.update
        split
        · exact ht.toRecovery
        · extract_lets +onlyGivenNames _ t1
          have ht1 : t1.memOk := ht.update
          split
          · exact ht1.toRecovery
          · exact ht1.backToForce.bootRest

end Keeps

end Sys2Proof.Machine
end

section
/-!
PROOFS. The addressed memories stay canonical: scalar units.
-/

namespace Sys2Proof.Machine

section Keeps
variable {s : State}

theorem State.memOk.narrowAccess {g pc store sz r ra imm} (h : s.memOk) : (narrowAccess s g pc store sz r ra imm).memOk := by
  unfold Machine.narrowAccess
  extract_lets +onlyGivenNames u mu m n base off
  split
  · trivial
  · split
    · trivial
    · split
      · trivial
      · split
        · exact h
        · split
          · exact h.setMu (h.mu _)
          · split
            · exact h.muWritePlain
            · exact h.touchRead.setScu

theorem State.memOk.queueReceive {g pc rd q} (h : s.memOk) : (queueReceive s g pc rd q).memOk := by
  unfold Machine.queueReceive
  extract_lets +onlyGivenNames u qu
  split
  · trivial
  · split
    · split
      · exact h
      · exact h.setScu
    · exact h.setScu
  · split
    · split
      · exact h
      · exact h.setScu
    · exact h.setScu

theorem State.memOk.queueSelect {g pc rd ra rb pd rot} (h : s.memOk) : (queueSelect s g pc rd ra rb pd rot).memOk := by
  unfold Machine.queueSelect
  extract_lets +onlyGivenNames u mask tmo
  split
  · trivial
  · split
    · trivial
    · split
      · exact h.setScu
      · split
        · exact h.setScu
        · exact h

theorem State.memOk.queueSend {g pc ra rb rc tag m} (h : s.memOk) : (queueSend s g pc ra rb rc tag m).memOk := by
  unfold Machine.queueSend
  extract_lets +onlyGivenNames u mu a b c unit queue n off own foreign put
  split
  · trivial
  · split
    · trivial
    · split
      · split
        · trivial
        · unfold put
          extract_lets +onlyGivenNames msg
          split
          · exact h
          · split
            · exact h
            · exact h.setScu
      · split
        · trivial
        · split
          · trivial
          · split
            · exact h
            · split
              · exact h.setMu (h.mu _)
              · extract_lets +onlyGivenNames t
                have ht : t.memOk := h.touchRead
                unfold put
                extract_lets +onlyGivenNames msg
                split
                · exact ht
                · split
                  · exact ht
                  · exact ht.setScu

theorem State.memOk.tensorIssue {g pc i w rc rs} (h : s.memOk) : (tensorIssue s g pc i w rc rs).memOk := by
  unfold Machine.tensorIssue
  extract_lets +onlyGivenNames u c cv sv hold t t1 t2
  split
  · trivial
  · split
    · trivial
    · split
      · trivial
      · split
        · trivial
        · split
          · trivial
          · split
            · exact h
            · split
              · exact h
              · exact h.setTu.setIssueQ.setScu

theorem State.memOk.tagWait {g pc rd tag} (h : s.memOk) : (tagWait s g pc rd tag).memOk := by
  unfold Machine.tagWait
  extract_lets +onlyGivenNames u
  split
  · exact h.setScu
  · split
    · exact h
    · exact h.setScu

theorem State.memOk.scalarEffect {g pc i} (h : s.memOk) : (scalarEffect s g pc i).memOk := by
  unfold Machine.scalarEffect
  extract_lets +onlyGivenNames u write
  split
  · extract_lets +onlyGivenNames a b
    exact h.setScu
  · extract_lets +onlyGivenNames a b q
    exact h.setScu
  · extract_lets +onlyGivenNames a v
    exact h.setScu
  · extract_lets +onlyGivenNames a
    exact h.setScu
  · exact h.setScu
  · exact h.setScu
  · exact h.setScu
  · exact h.setScu
  · exact h.narrowAccess
  · exact h.narrowAccess
  · extract_lets +onlyGivenNames q
    split
    · exact h
    · split
      · trivial
      · split <;> exact h
  · exact h.setScu
  · extract_lets +onlyGivenNames a
    split
    · trivial
    · split
      · trivial
      · exact h
  · exact h
  · exact h.queueReceive
  · extract_lets +onlyGivenNames a
    split
    · trivial
    · exact h.queueReceive
  · exact h.queueSelect
  · exact h.queueSend
  · exact h.setScu
  · extract_lets +onlyGivenNames a qu
    split
    · trivial
    · split
      · trivial
      · exact h.setScu
  · exact h.setScu
  · exact h.tensorIssue
  · exact h.tagWait
  · extract_lets +onlyGivenNames q l
    split
    · trivial
    · split
      · exact h
      · exact h.setScu
  · exact h.setScu

theorem State.memOk.scuFail {g status cause op} (h : s.memOk) : (s.scuFail g status cause op).memOk := by
  unfold State.scuFail
  split
  · exact h.failCtx
  · exact h

theorem State.memOk.retireScalar {g pc st} (h : s.memOk) : (s.retireScalar g pc st).memOk := h.setScu.progress

theorem State.memOk.blockScalar {g i cause u now} (h : s.memOk) : (s.blockScalar g i cause u now).memOk := h.setScu

theorem State.memOk.runScalarAt {g i} (h : s.memOk) : (s.runScalarAt g i).memOk := by
  unfold State.runScalarAt
  extract_lets +onlyGivenNames u
  split
  next heq => exact (show State.memOk _ from h.scalarEffect.of_eq heq).retireScalar
  next heq => exact (show State.memOk _ from h.scalarEffect.of_eq heq).retireScalar
  next heq => exact (show State.memOk _ from h.scalarEffect.of_eq heq).blockScalar
  · exact h.scuFail
  next heq => exact (show State.memOk _ from h.scalarEffect.of_eq heq).scuFail

theorem State.memOk.fetchScalar {g} (h : s.memOk) : (s.fetchScalar g).1.memOk := by
  unfold State.fetchScalar
  extract_lets +onlyGivenNames u
  split
  · exact h.scuFail
  · split
    · extract_lets +onlyGivenNames t
      have ht : t.memOk := h.setScu
      split
      · exact ht.failCtx
      · exact ht
    · split
      · exact h.scuFail
      · split
        · exact h.setScu.corrected
        · exact h

theorem State.memOk.runScalar {u i} (h : s.memOk) : Res.memOk (runScalar u i s) := by
  unfold Machine.runScalar
  extract_lets +onlyGivenNames g
  split
  · split
    next heq1 => exact memOk_of_fst h.fetchScalar heq1
    next heq1 =>
      split
      · exact (memOk_of_fst h.fetchScalar heq1).runScalarAt
      · exact h
  · exact h

/-! ### One meaning for each scalar command -/

theorem State.memOk.execAdd {u rd ra rb} (h : s.memOk) : Res.memOk (execAdd u rd ra rb s) := h.runScalar

theorem State.memOk.execSub {u rd ra rb} (h : s.memOk) : Res.memOk (execSub u rd ra rb s) := h.runScalar

theorem State.memOk.execAnd {u rd ra rb} (h : s.memOk) : Res.memOk (execAnd u rd ra rb s) := h.runScalar

theorem State.memOk.execOr {u rd ra rb} (h : s.memOk) : Res.memOk (execOr u rd ra rb s) := h.runScalar

theorem State.memOk.execXor {u rd ra rb} (h : s.memOk) : Res.memOk (execXor u rd ra rb s) := h.runScalar

theorem State.memOk.execShl {u rd ra rb} (h : s.memOk) : Res.memOk (execShl u rd ra rb s) := h.runScalar

theorem State.memOk.execShr {u rd ra rb} (h : s.memOk) : Res.memOk (execShr u rd ra rb s) := h.runScalar

theorem State.memOk.execSar {u rd ra rb} (h : s.memOk) : Res.memOk (execSar u rd ra rb s) := h.runScalar

theorem State.memOk.execMul {u rd ra rb} (h : s.memOk) : Res.memOk (execMul u rd ra rb s) := h.runScalar

theorem State.memOk.execMulhi {u rd ra rb} (h : s.memOk) : Res.memOk (execMulhi u rd ra rb s) := h.runScalar

theorem State.memOk.execDiv {u rd ra rb} (h : s.memOk) : Res.memOk (execDiv u rd ra rb s) := h.runScalar

theorem State.memOk.execRem {u rd ra rb} (h : s.memOk) : Res.memOk (execRem u rd ra rb s) := h.runScalar

theorem State.memOk.execMin {u rd ra rb} (h : s.memOk) : Res.memOk (execMin u rd ra rb s) := h.runScalar

theorem State.memOk.execMax {u rd ra rb} (h : s.memOk) : Res.memOk (execMax u rd ra rb s) := h.runScalar

theorem State.memOk.execSel {u rd ra rb p} (h : s.memOk) : Res.memOk (execSel u rd ra rb p s) := h.runScalar

theorem State.memOk.execAddi {u rd ra imm} (h : s.memOk) : Res.memOk (execAddi u rd ra imm s) := h.runScalar

theorem State.memOk.execAndi {u rd ra imm} (h : s.memOk) : Res.memOk (execAndi u rd ra imm s) := h.runScalar

theorem State.memOk.execOri {u rd ra imm} (h : s.memOk) : Res.memOk (execOri u rd ra imm s) := h.runScalar

theorem State.memOk.execXori {u rd ra imm} (h : s.memOk) : Res.memOk (execXori u rd ra imm s) := h.runScalar

theorem State.memOk.execShli {u rd ra sh} (h : s.memOk) : Res.memOk (execShli u rd ra sh s) := h.runScalar

theorem State.memOk.execShri {u rd ra sh} (h : s.memOk) : Res.memOk (execShri u rd ra sh s) := h.runScalar

theorem State.memOk.execSari {u rd ra sh} (h : s.memOk) : Res.memOk (execSari u rd ra sh s) := h.runScalar

theorem State.memOk.execLui {u rd imm} (h : s.memOk) : Res.memOk (execLui u rd imm s) := h.runScalar

theorem State.memOk.execCmp {u pd c ra rb} (h : s.memOk) : Res.memOk (execCmp u pd c ra rb s) := h.runScalar

theorem State.memOk.execCmpi {u pd c ra imm} (h : s.memOk) : Res.memOk (execCmpi u pd c ra imm s) := h.runScalar

theorem State.memOk.execPop {u pd pa pb f} (h : s.memOk) : Res.memOk (execPop u pd pa pb f s) := h.runScalar

theorem State.memOk.execLdNB {u rd ra imm} (h : s.memOk) : Res.memOk (execLdNB u rd ra imm s) := h.runScalar

theorem State.memOk.execLdNH {u rd ra imm} (h : s.memOk) : Res.memOk (execLdNH u rd ra imm s) := h.runScalar

theorem State.memOk.execLdNW {u rd ra imm} (h : s.memOk) : Res.memOk (execLdNW u rd ra imm s) := h.runScalar

theorem State.memOk.execLdND {u rd ra imm} (h : s.memOk) : Res.memOk (execLdND u rd ra imm s) := h.runScalar

theorem State.memOk.execStNB {u rs ra imm} (h : s.memOk) : Res.memOk (execStNB u rs ra imm s) := h.runScalar

theorem State.memOk.execStNH {u rs ra imm} (h : s.memOk) : Res.memOk (execStNH u rs ra imm s) := h.runScalar

theorem State.memOk.execStNW {u rs ra imm} (h : s.memOk) : Res.memOk (execStNW u rs ra imm s) := h.runScalar

theorem State.memOk.execStND {u rs ra imm} (h : s.memOk) : Res.memOk (execStND u rs ra imm s) := h.runScalar

theorem State.memOk.execBr {u al neg p target} (h : s.memOk) : Res.memOk (execBr u al neg p target s) := h.runScalar

theorem State.memOk.execJal {u rd target} (h : s.memOk) : Res.memOk (execJal u rd target s) := h.runScalar

theorem State.memOk.execJr {u ra} (h : s.memOk) : Res.memOk (execJr u ra s) := h.runScalar

theorem State.memOk.execHalt {u} (h : s.memOk) : Res.memOk (execHalt u s) := h.runScalar

theorem State.memOk.execQrecv {u rd q} (h : s.memOk) : Res.memOk (execQrecv u rd q s) := h.runScalar

theorem State.memOk.execQsel {u rd ra rb pd rot} (h : s.memOk) : Res.memOk (execQsel u rd ra rb pd rot s) := h.runScalar

theorem State.memOk.execQsend {u ra rb rc tag m} (h : s.memOk) : Res.memOk (execQsend u ra rb rc tag m s) := h.runScalar

theorem State.memOk.execQtag {u rd} (h : s.memOk) : Res.memOk (execQtag u rd s) := h.runScalar

theorem State.memOk.execQrp {u ra q} (h : s.memOk) : Res.memOk (execQrp u ra q s) := h.runScalar

theorem State.memOk.execQclose {u q} (h : s.memOk) : Res.memOk (execQclose u q s) := h.runScalar

theorem State.memOk.execTiss {u unit w rc rs} (h : s.memOk) : Res.memOk (execTiss u unit w rc rs s) := h.runScalar

theorem State.memOk.execWait {u rd tag} (h : s.memOk) : Res.memOk (execWait u rd tag s) := h.runScalar

theorem State.memOk.execPout {u port p} (h : s.memOk) : Res.memOk (execPout u port p s) := h.runScalar

theorem State.memOk.execRdsr {u rd sr} (h : s.memOk) : Res.memOk (execRdsr u rd sr s) := h.runScalar

theorem State.memOk.execScalarReservedOpcode {u} (h : s.memOk) : Res.memOk (execScalarReservedOpcode u s) := by
  unfold Machine.execScalarReservedOpcode
  extract_lets +onlyGivenNames g
  split
  · split
    next heq1 => exact memOk_of_fst h.fetchScalar heq1
    next heq1 =>
      split
      · exact (memOk_of_fst h.fetchScalar heq1).scuFail
      · exact h
  · exact h

theorem State.memOk.execScuUnblock {u} (h : s.memOk) : Res.memOk (execScuUnblock u s) := by
  unfold Machine.execScuUnblock
  extract_lets +onlyGivenNames g v
  split
  · split
    · exact h.runScalarAt
    · exact h
  · exact h

theorem State.memOk.execQselTimeout {u} (h : s.memOk) : Res.memOk (execQselTimeout u s) := by
  unfold Machine.execQselTimeout
  extract_lets +onlyGivenNames g v
  split
  · split
    · split
      · exact h
      · exact h.advanceTo.setScu.retireScalar
    · exact h
  · exact h

end Keeps

end Sys2Proof.Machine
end

section
/-!
PROOFS. The addressed memories stay canonical: every step.
-/

namespace Sys2Proof.Machine

section Keeps
variable {s : State}

theorem State.memOk.exec {i} (h : s.memOk) : Res.memOk (exec i s) := by
  unfold Machine.exec
  split
  · exact h.execRegisterWrite
  · exact h.execRegisterAccessMisaligned
  · exact h.execHeldAccessTimeout
  · exact h.execMuDtSelWrite
  · exact h.execMuDtWordStage
  · exact h.execMuDtWord7Write
  · exact h.execMuBgCtlWrite
  · exact h.execScuQPtrWrite
  · exact h.execNfFlagClear
  · exact h.execVcuFlagClear
  · exact h.execCxDbTailWrite
  · exact h.execCxDbCplheadWrite
  · exact h.execCxRingSeqWrite
  · exact h.execRingEnable
  · exact h.execRingDisable
  · exact h.execStalledClear
  · exact h.execOverrunClear
  · exact h.execShadowDoorbell
  · exact h.execErrLogRdWrite
  · exact h.execHbmRcQuotaWrite
  · exact h.execAudSeedWrite
  · exact h.execErrInjectArm
  · exact h.execDebugNonceRead
  · exact h.execRelock
  · exact h.execPerfCounterWrap
  · exact h.execAdd
  · exact h.execSub
  · exact h.execAnd
  · exact h.execOr
  · exact h.execXor
  · exact h.execShl
  · exact h.execShr
  · exact h.execSar
  · exact h.execMul
  · exact h.execMulhi
  · exact h.execDiv
  · exact h.execRem
  · exact h.execMin
  · exact h.execMax
  · exact h.execSel
  · exact h.execAddi
  · exact h.execAndi
  · exact h.execOri
  · exact h.execXori
  · exact h.execShli
  · exact h.execShri
  · exact h.execSari
  · exact h.execLui
  · exact h.execCmp
  · exact h.execCmpi
  · exact h.execPop
  · exact h.execLdNB
  · exact h.execLdNH
  · exact h.execLdNW
  · exact h.execLdND
  · exact h.execStNB
  · exact h.execStNH
  · exact h.execStNW
  · exact h.execStND
  · exact h.execBr
  · exact h.execJal
  · exact h.execJr
  · exact h.execHalt
  · exact h.execQrecv
  · exact h.execQsel
  · exact h.execQsend
  · exact h.execQtag
  · exact h.execQrp
  · exact h.execQclose
  · exact h.execTiss
  · exact h.execWait
  · exact h.execPout
  · exact h.execRdsr
  · exact h.execScalarReservedOpcode
  · exact h.execScuUnblock
  · exact h.execQselTimeout
  · exact h.execLdW
  · exact h.execStW
  · exact h.execPf
  · exact h.execXfer
  · exact h.execSlotDef
  · exact h.execSlotClr
  · exact h.execWinOpen
  · exact h.execWinClose
  · exact h.execImportMu
  · exact h.execContrib
  · exact h.execMmFwd
  · exact h.execMmDual
  · exact h.execMmPass
  · exact h.execMmAdpt
  · exact h.execEpi
  · exact h.execVop
  · exact h.execVred
  · exact h.execExportSign
  · exact h.execQsendTensor
  · exact h.execChain
  · exact h.execFence
  · exact h.execDaymark
  · exact h.execSteerOff
  · exact h.execSteerSw
  · exact h.execSteerMg
  · exact h.execSteerGate
  · exact h.execSteerCarry
  · exact h.execSteerRep
  · exact h.execSteerDec
  · exact h.execSteerConfigApply
  · exact h.execInstructionComplete
  · exact h.execGeneratorAcquire
  · exact h.execSlotGrant
  · exact h.execWindowWrite
  · exact h.execMuScrubRead
  · exact h.execBankGroupPowerDown
  · exact h.execBankGroupWake
  · exact h.execExternalReadData
  · exact h.execWriteAcknowledgement
  · exact h.execMcuBind
  · exact h.execMcuQuantum
  · exact h.execEpilogueTile
  · exact h.execMessageArrival
  · exact h.execMessageOutcome
  · exact h.execMessageReoffer
  · exact h.execCombiningResultPlace
  · exact h.execStreamFlitTransfer
  · exact h.execControlBitTransfer
  · exact h.execSteerToken
  · exact h.execFoghornStall
  · exact h.execSpillRecordWrite
  · exact h.execSpillRecordRead
  · exact h.execPacketForward
  · exact h.execContributionMerge
  · exact h.execTransitSlotFlush
  · exact h.execRootMerge
  · exact h.execRoundAdvance
  · exact h.execNativeReconfiguration
  · exact h.execForcedDrain
  · exact h.execDaymarkTokenArrival
  · exact h.execUnitSwitchover
  · exact h.execSlotTableSwitch
  · exact h.execScanFreeze
  · exact h.execSafePointStop
  · exact h.execScanOut
  · exact h.execScanIn
  · exact h.execScanRelease
  · exact h.execScanOpDone
  · exact h.execHbmRead
  · exact h.execHbmWrite
  · exact h.execHbmScrubRead
  · exact h.execPageResponse
  · exact h.execPageRequestTimeout
  · exact h.execAtsInvalidation
  · exact h.execHbmRetrain
  · exact h.execRetirementProceed
  · exact h.execCommandFetch
  · exact h.execStepCmd
  · exact h.execLoadProgram
  · exact h.execLoadProgramStageOnly
  · exact h.execBind
  · exact h.execCopy
  · exact h.execExportCmd
  · exact h.execImportCommand
  · exact h.execFenceCommand
  · exact h.execQueryDeviceTime
  · exact h.execQueryBeacon
  · exact h.execQueryEngineTime
  · exact h.execQueryContextState
  · exact h.execQueryMailboxRecords
  · exact h.execCompletionWrite
  · exact h.execCoalescingTimer
  · exact h.execCxlMemRead
  · exact h.execCxlMemWrite
  · exact h.execBiResponse
  · exact h.execBisnpTimeout
  · exact h.execLinkUp
  · exact h.execPerstN
  · exact h.execHotReset
  · exact h.execDlDown
  · exact h.execViralIndication
  · exact h.execIdeIntegrityFailure
  · exact h.execFlrVf
  · exact h.execFlrPf
  · exact h.execVfEnableClear
  · exact h.execCxlKeyExchange
  · exact h.execGetMeasurements
  · exact h.execSetSectorKey
  · exact h.execGrantQueue
  · exact h.execRevokeQueue
  · exact h.execDebugToken
  · exact h.execUnlockExpiry
  · exact h.execRecoveryReadBootStatus
  · exact h.execRecoveryWriteFirmware
  · exact h.execDispatchPass
  · exact h.execStepStart
  · exact h.execStepEnd
  · exact h.execDispatchTick
  · exact h.execStepLimitTimeout
  · exact h.execFootprintSwitch
  · exact h.execContextTeardown
  · exact h.execLogRecordWrite
  · exact h.execCorrectedErrorSummary
  · exact h.execDeviceReset
  · exact h.execUnitWatch
  · exact h.execAuditSampleRun
  · exact h.execAuditVerdict
  · exact h.execAuditSecondPartnerTimeout
  · exact h.execCompletionHoldTimeout
  · exact h.execLightshipSwap
  · exact h.execBeaconTick
  · exact h.execWatchdogExpiry
  · exact h.execDieAgentTimeout
  · exact h.execFirmwareUpdateGo
  · exact h.execHotRestartTimeout
  · exact h.execTrialEnd
  · exact h.execTxnBegin
  · exact h.execTxnStageWrite
  · exact h.execTxnStageOp
  · exact h.execTxnCommit
  · exact h.execTxnRollback
  · exact h.execTxnTimeout
  · exact h.execCreateSector
  · exact h.execReleaseSector
  · exact h.execCreateContext
  · exact h.execDestroyContext
  · exact h.execSwapCluster
  · exact h.execRetrainStack
  · exact h.execRetirePseudoChannel
  · exact h.execRetireStack
  · exact h.execOperatorDeviceReset
  · exact h.execPowerSample
  · exact h.execClockStepChange
  · exact h.execWarningCrossed
  · exact h.execDoubtCrossed
  · exact h.execResetLevelCrossed
  · exact h.execLevelCleared
  · exact h.execJunctionSample
  · exact h.execThermalTrip
  · exact h.execCoolFault
  · exact h.execLeakSense
  · exact h.execCoolingResume
  · exact h.execInputOvervoltage
  · exact h.execModPwrenAssert
  · exact h.execModPwrenDeassert
  · exact h.execInputPowerLoss
  · exact h.execModResetNAssert
  · exact h.execBoot
  · exact h.execFirmwareImageWrite
  · exact h.execInputPowerApplied
  · exact h.execSpdmKeyExchange
  · exact h.execSpdmEndSession
  · exact h.execTspAssignment
  · exact h.execDynamicAddressAssignment

theorem State.memOk.step (h : s.memOk) : Res.memOk (step s) := by
  unfold Machine.step
  split
  · exact h.idle
  · exact State.memOk.exec h.update

end Keeps

/-- Settles O4: each operation of the state keeps the memories canonical, so each command does, and one step runs one command. -/
theorem stepKeepsMemoryCanonical : Obligations.StepKeepsMemoryCanonical := by
  intro s t h hstep
  have hs : Res.memOk (step s) := h.step
  rw [hstep] at hs
  exact hs

end Sys2Proof.Machine
end

section
/-!
PROOFS. Matrix units: a command that asks for the wake of a bank group (R109, R127, R136).
-/

namespace Sys2Proof.Machine

/-! ### A bound instruction of a shared mode whose tile is asleep -/

/-- Of the units, asking for a wake changes the home memory unit alone. -/
theorem State.wakeHome_frame (s : State) (g : Nat) (z : BitVec 8) :
    (∀ j, (s.wakeHome g z).mcu j = s.mcu j) ∧ (∀ j id, (s.wakeHome g z).runOf j id = s.runOf j id)
      ∧ ((s.wakeHome g z).mu (homeMu g)).waking = (s.mu (homeMu g)).waking ||| z := by
  refine ⟨fun _ => rfl, fun _ _ => rfl, ?_⟩
  simp [State.wakeHome]

/-- With no tile in the buffer, an instruction of a shared mode has no quantum that is ready. -/
theorem State.boundStep_without_tile {s : State} {g k : Nat} {b : Bound} {r : Run} (hrun : s.runOf g b.id = some r)
    (hleft : r.run < r.iss.i.count) (hcurrent : (s.mcu g).current = none) (hmode : (mmOf r.iss.i.op r.prm).plain = false)
    (hquantum : b.quantum < (mmOf r.iss.i.op r.prm).total r) (hbuffer : (s.mcu g).shared = []) : s.boundStep g k b = .wait := by
  have hgoes : ¬ (r.iss.i.count ≤ r.run) := Nat.not_le.2 hleft
  have hmore : ¬ ((mmOf r.iss.i.op r.prm).total r ≤ b.quantum) := Nat.not_le.2 hquantum
  have htile : ∀ num, (s.mcu g).sharedTile b.id num = none := fun num => by simp [Mcu.sharedTile, hbuffer]
  unfold State.boundStep State.sharedQuantum
  simp only [hrun, hgoes, hmore, hcurrent, hmode, htile, decide_false, Option.any_none, Bool.or_self, Bool.false_eq_true, if_false]

/-- The next shared tile of an instruction, from strips of A of which some lie in sleeping bank groups, asks for their wake (R109). -/
theorem State.loadShared_asleep {s : State} {g k : Nat} {r : Run} {x : Mm} {b : Bound} (others : Bool)
    (hmore : b.loaded < x.passes r * x.sharedTiles) (hbuffer : (s.mcu g).shared = []) (hq : (s.mcu g).epiQ = [])
    (hreads : x.readsAB = true) (hpip : x.usesPip = false) (hdesc : r.iss.i.da ≠ 0xFFFF)
    (hasleep : (s.mu (homeMu g)).runsAsleep (r.desc r.iss.i.da) (r.comp r.iss.i.da)
      (upto (b.loaded % x.sharedTiles * x.tileStrips) x.tileStrips) ≠ 0) :
    s.loadShared g k r x b others = .woke (s.wakeHome g ((s.mu (homeMu g)).runsAsleep (r.desc r.iss.i.da) (r.comp r.iss.i.da)
      (upto (b.loaded % x.sharedTiles * x.tileStrips) x.tileStrips))) := by
  have hgoes : ¬ (x.passes r * x.sharedTiles ≤ b.loaded) := Nat.not_le.2 hmore
  have hsize : ¬ (2 ≤ (s.mcu g).shared.length) := by simp [hbuffer]
  have hroom : (!(s.mcu g).noTile b.id && others) = false := by simp [Mcu.noTile, hbuffer]
  have hclear : ∀ l : List Nat, l.any (s.mcu g).tileWaits = false := fun l => by simp [Mcu.tileWaits, hq]
  have hplane : s.readyPlane g r x.pipDesc [] = .all := rfl
  unfold State.loadShared
  simp only [hgoes, hsize, hroom, hclear, hreads, hpip, hplane, State.readyOf, if_neg hdesc, if_neg hasleep, Ready.and,
    decide_false, Bool.or_self, Bool.false_eq_true, if_false, if_true]

theorem State.firstStep_singleton {s : State} {f : State → Nat × Bound → QStep} {b : Nat × Bound} : s.firstStep f [b] = f s b := by
  simp only [State.firstStep]
  cases f s b <;> rfl

/-- A bound instruction of a shared mode that reads no stream takes in its next tile and nothing else. -/
theorem State.boundFill_woken {s t : State} {g k : Nat} {b : Bound} {r : Run} {others : Bool} (hrun : s.runOf g b.id = some r)
    (hleft : r.run < r.iss.i.count) (hmode : (mmOf r.iss.i.op r.prm).plain = false) (hwork : (mmOf r.iss.i.op r.prm).empty = false)
    (hda : r.iss.i.da ≠ 0xFFFF) (hdb : r.iss.i.db ≠ 0xFFFF)
    (hload : s.loadShared g k r (mmOf r.iss.i.op r.prm) b others = .woke t) : s.boundFill g k b others = .woke t := by
  have hgoes : ¬ (r.iss.i.count ≤ r.run) := Nat.not_le.2 hleft
  have hstream : ((mmOf r.iss.i.op r.prm).readsAB && (r.iss.i.da == 0xFFFF || r.iss.i.db == 0xFFFF)) = false := by simp [hda, hdb]
  unfold State.boundFill
  simp only [hrun, hgoes, hmode, hwork, hstream, hload, Bool.or_self, Bool.false_eq_true, if_false]

/-- A command whose fill asks for a wake, and that then finds no quantum ready, leaves the wake asked for (R109). -/
theorem exec_mcuQuantum_woken {u : McuId} {s t : State} (hacts : s.acts (mcuGid u) = true) (hstop : (s.tu (mcuGid u)).stopped = false)
    (hfill : s.firstStep (fun s b => s.boundFill (mcuGid u) b.1 b.2 (s.tileWanted (mcuGid u) b.2.id))
      ((s.mcu (mcuGid u)).boundOrder.filter (fun b => s.eligibleBound (mcuGid u) b.2)) = .woke t)
    (hstep : t.firstStep (fun s b => s.boundStep (mcuGid u) b.1 b.2)
      ((s.mcu (mcuGid u)).boundOrder.filter (fun b => s.eligibleBound (mcuGid u) b.2)) = .wait) :
    exec (.mcuQuantum u) s = .next t := by
  simp only [exec, execMcuQuantum, hacts, hstop, hfill, hstep, Bool.not_true, Bool.or_self, Bool.false_eq_true, if_false]

/-! ### A state in which it happens -/

/-- A walk of 32 strips of 32 FP32 elements from address 0. -/
def stripWalk : BitVec 512 := BitVec.ofNat 512 (2 * 2 ^ 40 + 2 ^ 46 + 32 * 2 ^ 61 + 32 * 2 ^ 85 + 4 * 2 ^ 205 + 128 * 2 ^ 237 + 63 * 2 ^ 445)

/-- A bound `MM.DUAL` of 32 by 32 by 32, whose operands are all that walk; its dX tile is tile 0 and its dW tile is tile 1. -/
def dualRun : Run :=
  { iss := { i := { op := 0x21, cls := 1, da := 0, db := 0, dc := 0xFFFF, par := 256, count := 1 }, scu := 20, ctx := 5 }
    id := 1, phase := 1, latch := [(0, stripWalk)]
    prm := BitVec.ofNat 256 (32 + 32 * 2 ^ 24 + 32 * 2 ^ 48 + 2 ^ 82) }

/-- The slot that it is bound to, at its first quantum. -/
def dualBound : Bound := { id := 1, order := 0 }

/-- The device in service, MCU0 of cluster 0 with that instruction in its first backward slot, and the first bank group of its home memory
unit powered down. -/
def asleepState : State :=
  { State.reset with
    phase := .ready
    tus := [(12, { running := [dualRun], nextId := 2 })]
    mus := [(0, { powered := 0xFE, desc := [(0, stripWalk)] })]
    mcus := [(12, { b0 := some dualBound, bindCount := 1 })] }

/-- The bank groups that its next shared tile needs. -/
def asleepGroups : BitVec 8 := (asleepState.mu 0).runsAsleep (dualRun.desc 0) (dualRun.comp 0) (upto 0 32)

theorem asleepGroups_ne_zero : asleepGroups ≠ 0 := by decide +kernel

theorem asleepState_bound :
    (asleepState.mcu 12).boundOrder.filter (fun b => asleepState.eligibleBound 12 b.2) = [(2, dualBound)] := by decide +kernel

theorem runOf_asleepState : asleepState.runOf 12 1 = some dualRun := by decide +kernel

theorem boundFill_asleepState (others : Bool) :
    asleepState.boundFill 12 2 dualBound others = .woke (asleepState.wakeHome 12 asleepGroups) := by
  refine State.boundFill_woken runOf_asleepState (by decide) (by decide +kernel) (by decide +kernel) (by decide) (by decide) ?_
  exact State.loadShared_asleep others (by decide +kernel) rfl rfl (by decide +kernel) (by decide +kernel) (by decide) asleepGroups_ne_zero

/-- Its first quantum has no tile in any state with these instructions and this matrix unit. -/
theorem boundStep_dualBound {t : State} (hrun : t.runOf 12 1 = some dualRun) (hmcu : t.mcu 12 = asleepState.mcu 12) :
    t.boundStep 12 2 dualBound = .wait :=
  State.boundStep_without_tile hrun (by decide) (hmcu ▸ rfl) (by decide +kernel) (by decide +kernel) (hmcu ▸ rfl)

/-! ### The command in that state -/

/-- MCU0 of cluster 0, unit 12. -/
def firstMcu : McuId := ⟨0, 0⟩

/-- The bound instructions of that state, as MCU_QUANTUM goes through them. -/
def asleepBound : List (Nat × Bound) :=
  (asleepState.mcu (mcuGid firstMcu)).boundOrder.filter (fun b => asleepState.eligibleBound (mcuGid firstMcu) b.2)

theorem acts_asleepState : asleepState.acts (mcuGid firstMcu) = true := by decide +kernel

theorem stopped_asleepState : (asleepState.tu (mcuGid firstMcu)).stopped = false := by decide +kernel

theorem firstFill_asleepState :
    asleepState.firstStep (fun s b => s.boundFill (mcuGid firstMcu) b.1 b.2 (s.tileWanted (mcuGid firstMcu) b.2.id)) asleepBound
      = .woke (asleepState.wakeHome 12 asleepGroups) := by
  rw [show asleepBound = [(2, dualBound)] from asleepState_bound, State.firstStep_singleton]
  exact boundFill_asleepState _

theorem firstQuantum_waits {t : State} (hrun : t.runOf 12 1 = some dualRun) (hmcu : t.mcu 12 = asleepState.mcu 12) :
    t.firstStep (fun s b => s.boundStep (mcuGid firstMcu) b.1 b.2) asleepBound = .wait := by
  rw [show asleepBound = [(2, dualBound)] from asleepState_bound, State.firstStep_singleton]
  exact boundStep_dualBound hrun hmcu

theorem exec_mcuQuantum_asleepState :
    exec (.mcuQuantum firstMcu) asleepState = .next (asleepState.wakeHome 12 asleepGroups) := by
  obtain ⟨hmcu, hrun, -⟩ := asleepState.wakeHome_frame 12 asleepGroups
  exact exec_mcuQuantum_woken acts_asleepState stopped_asleepState firstFill_asleepState
    (firstQuantum_waits ((hrun 12 1).trans runOf_asleepState) (hmcu 12))

theorem wakeHome_asleepState_ne : asleepState.wakeHome 12 asleepGroups ≠ asleepState := by
  intro hsame
  obtain ⟨-, -, hwaking⟩ := asleepState.wakeHome_frame 12 asleepGroups
  rw [hsame, show (asleepState.mu (homeMu 12)).waking = 0#8 from rfl, BitVec.zero_or] at hwaking
  exact asleepGroups_ne_zero hwaking.symm

/-- Refutes O25: with the next shared tile of a bound `MM.DUAL` in a powered-down bank group and no quantum ready, MCU_QUANTUM leaves the
wake of the group asked for (R109). The statement drops the state in which the fill asked for the wake, and has the command leave the state
as it was. -/
theorem not_matrixInstructionsBindAndRun : ¬ Obligations.MatrixInstructionsBindAndRun := by
  intro h
  obtain ⟨-, hruns⟩ := h
  obtain ⟨hclaim, -, -⟩ := hruns firstMcu { id := 1, tile := 0, row := 0, col := 0, index := 0, lastOfRun := true, last := true } [] dualRun
    asleepState acts_asleepState stopped_asleepState
  have hfill := firstFill_asleepState
  have hwait := firstQuantum_waits runOf_asleepState rfl
  unfold asleepBound at hfill hwait
  simp only [hfill, hwait, exec_mcuQuantum_asleepState] at hclaim
  exact wakeHome_asleepState_ne (Host.Outcome.next.inj hclaim)

end Sys2Proof.Machine
end

section
/-!
PROOFS. The instructions of a vector unit at issue and in turn (R147, R170, R172, R376).
-/

namespace Sys2Proof.Machine

/-! ### The commands of a vector unit -/

/-- The commands of VOP and VRED with their opcode, and whether they reduce. -/
def vecCommands (u : VcuId) : List (Nat × Instr × Bool) := [(0x30, .vop u, false), (0x31, .vred u, true)]

/-- VOP and VRED are one command, with a reduction or without. -/
theorem exec_vecCommand {u : VcuId} {e : Nat × Instr × Bool} (he : e ∈ vecCommands u) (s : State) :
    exec e.2.1 s = tensorCmd s (vcuGid u) (· == e.1)
      (fun s h => vecIssue s (vcuGid u) h (fun s p => s.vecBad (vcuGid u) h (vrOf p) e.2.2) (fun p => [(vrOf p).planeDesc])
        (fun p => (vrOf p).planes e.2.2))
      (fun s r => vecAdvance s (vcuGid u) e.2.2 r) := by
  simp only [vecCommands, List.mem_cons, List.not_mem_nil, or_false] at he
  obtain rfl | rfl := he
  · rfl
  · rfl

theorem exec_exportSign (u : VcuId) (s : State) :
    exec (.exportSign u) s = tensorCmd s (vcuGid u) (· == 0x32)
      (fun s h => vecIssue s (vcuGid u) h (fun s p => s.signBad (vcuGid u) h p) (fun p => [eOut p, sOut p]) (fun _ => true))
      (fun s r => signAdvance s (vcuGid u) r) := rfl

theorem vecCommands_op_ne_chain {u : VcuId} {e : Nat × Instr × Bool} (he : e ∈ vecCommands u) : e.1 ≠ 0x60 := by
  simp only [vecCommands, List.mem_cons, List.not_mem_nil, or_false] at he
  obtain rfl | rfl := he
  · simp
  · simp

/-! ### At issue -/

theorem State.unitFull_of_running_nil {s : State} {g : Nat} (hrun : (s.tu g).running = []) : s.unitFull g = false := by
  simp [State.unitFull, Tu.holds, hrun]

/-- A vector instruction that passes its checks and whose generators are free begins its run. -/
theorem vecIssue_of_ok {s : State} {g : Nat} {h : Issued} {bad : State → BitVec 256 → Option Nat} {more : BitVec 256 → List Nat}
    {writes : BitVec 256 → Bool} {gens : List Nat} (hc : s.issueCheck g h = none) (hroom : s.unitFull g = false)
    (hbad : bad s (s.recordOf g h.i) = none) (hx : s.xposeTaken (homeMu g) = false)
    (hg : s.homeGens g (h.i.da != 0xFFFF || h.i.db != 0xFFFF) (h.i.dc != 0xFFFF || writes (s.recordOf g h.i)) = some gens) :
    vecIssue s g h bad more writes
      = s.beginRun g { iss := h, prm := s.recordOf g h.i
                       latch := (s.mu (homeMu g)).latchMore ((s.mu (homeMu g)).latchOf h.i) (more (s.recordOf g h.i)), gens := gens } := by
  unfold vecIssue
  simp only [hc, hroom, hbad, hx, hg, Bool.and_false, Bool.false_eq_true, if_false]

/-! ### In turn -/

theorem State.inTurn.unfinished {s : State} {g op : Nat} {r : Run} (hr : s.inTurn g op r) : r.finished = false := by
  obtain ⟨-, -, hrun, -⟩ := hr
  have hmem : r ∈ (s.tu g).running.filter (fun x => x.iss.i.op == op && !x.finished) := hrun ▸ List.mem_singleton_self r
  have hprop := (List.mem_filter.1 hmem).2
  simp only [Bool.and_eq_true, Bool.not_eq_true'] at hprop
  exact hprop.2

/-- The one instruction of a unit has its turn (R170). -/
theorem State.inTurn.myTurn {s : State} {g op : Nat} {r : Run} (hr : s.inTurn g op r) (hrun : (s.tu g).running = [r])
    (hop : op ≠ 0x60) : s.myTurn g r = true := by
  have hholds : (s.tu g).holds = [r] := Tu.holds_singleton hrun (hr.op_eq ▸ hop)
  simp [State.myTurn, hholds, hr.unfinished]

section Turn
variable {s : State} {g : Nat} {r : Run} (hturn : s.myTurn g r = true)
include hturn

theorem vecAdvance_of_count_zero (red : Bool) (hcount : r.iss.i.count = 0) (hdc : r.iss.i.dc ≠ 0xFFFF) :
    vecAdvance s g red r = some (s.putRun g { r with finished := true }) := by
  unfold vecAdvance
  simp only [hturn, if_pos hcount, if_neg hdc, Bool.not_true, Bool.false_eq_true, if_false]

/-- Awake, an instruction whose A lies in the home memory unit walks it. -/
theorem vecAdvance_home {red : Bool} (hcount : r.iss.i.count ≠ 0) (hda : r.iss.i.da ≠ 0xFFFF)
    (hawake : r.vecAsleep (s.mu (homeMu g)) ([r.iss.i.da, r.iss.i.db, r.iss.i.dc]
      ++ (if (vrOf r.prm).planes red then [(vrOf r.prm).planeDesc] else [])) = 0) :
    vecAdvance s g red r = s.vecFromHome g r (vrOf r.prm) red := by
  unfold vecAdvance
  simp only [hturn, if_neg hcount, hawake, if_neg hda, ne_eq, not_true_eq_false, Bool.not_true, Bool.false_eq_true, if_false]

theorem signAdvance_of_count_zero (hcount : r.iss.i.count = 0) :
    signAdvance s g r = some (s.putRun g { r with finished := true }) := by
  unfold signAdvance
  simp only [hturn, if_pos hcount, Bool.not_true, Bool.false_eq_true, if_false]

theorem signAdvance_block (hcount : r.iss.i.count ≠ 0)
    (hawake : r.vecAsleep (s.mu (homeMu g)) [r.iss.i.da, r.iss.i.db, r.iss.i.dc, eOut r.prm, sOut r.prm] = 0) :
    signAdvance s g r = some (s.signPart g r) := by
  unfold signAdvance
  simp only [hturn, if_neg hcount, hawake, ne_eq, not_true_eq_false, Bool.not_true, Bool.false_eq_true, if_false]

end Turn

/-- Without S, the next flits of the walk of A are all there, and the part takes them up to the next safe point (R172). -/
theorem State.vecFromHome_without_stream {s : State} {g : Nat} {r : Run} {v : Vr} {red : Bool} {left k : Nat} (hS : v.readsS = false)
    (hleft : left = (v.plan red (r.desc r.iss.i.da)).length - r.pos) (hk : k = partSize r.pos left v.audit true)
    (hmoves : k = 0 → left = 0) :
    s.vecFromHome g r v red =
      (let q := s.readPart (homeMu g) (r.desc r.iss.i.da) (r.comp r.iss.i.da) (r.pos == 0)
         (((v.plan red (r.desc r.iss.i.da)).drop r.pos).take k)
       some (q.1.vecPart g r v red (k == left) q.2 [])) := by
  have hgoes : ¬ (k = 0 ∧ left ≠ 0) := fun ⟨hzero, hsome⟩ => hsome (hmoves hzero)
  subst hk hleft
  unfold State.vecFromHome
  simp only [hS, beq_self_eq_true, if_neg hgoes, List.take_nil, List.zip_nil_left, List.any_nil, List.map_nil, Bool.false_and,
    Bool.false_eq_true, if_false]

/-- Settles O26: a head that is ready issues; the one run in progress has its turn, and its count, A and sleeping groups choose the case
of its advance. -/
theorem vectorInstructionsCompute : Obligations.VectorInstructionsCompute := by
  intro u h r gens s g m v p
  have hc : clusterOf g = u.cluster.val := clusterOf_vcuGid u
  refine ⟨fun e he hr hidle hbad hx hg => ?_, fun hr hidle hbad hx hg => ?_,
    fun e he hr hrun hcount hda hS hawake => ?_, fun hr hrun hcount hawake => ?_, fun e he hr hrun hcount hdc => ?_⟩
  · rw [exec_vecCommand he]
    exact (tensorCmd_issue s g e.1 h _ _ hr).trans
      (congrArg _ (vecIssue_of_ok hr.check (State.unitFull_of_running_nil hidle) hbad hx hg))
  · rw [exec_exportSign]
    exact (tensorCmd_issue s g 0x32 h _ _ hr).trans
      (congrArg _ (vecIssue_of_ok hr.check (State.unitFull_of_running_nil hidle) hbad hx (by rw [Bool.or_true]; exact hg)))
  · intro d left k hmoves q
    have hadv := (vecAdvance_home (hr.myTurn hrun (vecCommands_op_ne_chain he)) hcount hda hawake).trans
      (State.vecFromHome_without_stream hS rfl rfl hmoves)
    rw [exec_vecCommand he, tensorCmd_advance s _ g e.1 r _ _ hr hadv, hc]
  · rw [exec_exportSign, tensorCmd_advance s _ g 0x32 r _ _ hr (signAdvance_block (hr.myTurn hrun (by decide)) hcount hawake), hc]
  · have finishes : ∀ c ∈ vecCommands u, s.inTurn g c.1 r →
        exec c.2.1 s = .next ((s.putRun g { r with finished := true }).progress u.cluster.val) := fun c hm hr => by
      have hadv := vecAdvance_of_count_zero (hr.myTurn hrun (vecCommands_op_ne_chain hm)) c.2.2 hcount hdc
      rw [exec_vecCommand hm, tensorCmd_advance s _ g c.1 r _ _ hr hadv, hc]
    simp only [List.mem_cons, List.not_mem_nil, or_false] at he
    obtain rfl | rfl | rfl := he
    · exact finishes (0x30, .vop u, false) (by simp [vecCommands]) hr
    · exact finishes (0x31, .vred u, true) (by simp [vecCommands]) hr
    · have hadv := signAdvance_of_count_zero (hr.myTurn (op := 0x32) hrun (by decide)) hcount
      rw [exec_exportSign, tensorCmd_advance s _ g 0x32 r _ _ hr hadv, hc]

end Sys2Proof.Machine
end

section
/-!
PROOFS. Scalar units: what a command comes to, and the operations of registers, predicates and control (R175 to R181, R297).
-/

namespace Sys2Proof.Machine

/-! ### What a command comes to -/

section Command
variable {u : ScuId} {i : SInstr} {s : State} (hrun : s.canRun (scuGid u) i = true)
include hrun

theorem runScalar_retire {t : State} {next : Nat}
    (heffect : scalarEffect s (scuGid u) (s.scu (scuGid u)).pc i = .retire t next) :
    runScalar u i s = .next (t.retireScalar (scuGid u) next .running) := by
  rw [runScalar_of_canRun u i s hrun, State.runScalarAt, heffect]

theorem runScalar_halted {t : State} (heffect : scalarEffect s (scuGid u) (s.scu (scuGid u)).pc i = .halted t) :
    runScalar u i s = .next (t.retireScalar (scuGid u) 0 .halted) := by
  rw [runScalar_of_canRun u i s hrun, State.runScalarAt, heffect]

theorem runScalar_block {t : State} {cause : Nat}
    (heffect : scalarEffect s (scuGid u) (s.scu (scuGid u)).pc i = .block t cause) :
    runScalar u i s = .next (t.blockScalar (scuGid u) i cause (s.scu (scuGid u)) s.time) := by
  rw [runScalar_of_canRun u i s hrun, State.runScalarAt, heffect]

theorem runScalar_fault {status cause : Nat}
    (heffect : scalarEffect s (scuGid u) (s.scu (scuGid u)).pc i = .fault status cause) :
    runScalar u i s = .next (s.scuFail (scuGid u) status cause (scalarOpcode i)) := by
  rw [runScalar_of_canRun u i s hrun, State.runScalarAt, heffect]

end Command

/-! ### The unit after an instruction -/

section Retired
variable (s : State) (g pc : Nat) (st : ScuState)

@[simp] theorem State.retireScalar_pc : ((s.retireScalar g pc st).scu g).pc = pc := by
  rw [State.retireScalar_scu, if_pos rfl]

@[simp] theorem State.retireScalar_state : ((s.retireScalar g pc st).scu g).state = st := by
  rw [State.retireScalar_scu, if_pos rfl]

@[simp] theorem State.retireScalar_reg (r : Nat) : ((s.retireScalar g pc st).scu g).reg r = (s.scu g).reg r := by
  rw [State.retireScalar_scu, if_pos rfl]
  rfl

@[simp] theorem State.retireScalar_pred (r : Nat) : ((s.retireScalar g pc st).scu g).pred r = (s.scu g).pred r := by
  rw [State.retireScalar_scu, if_pos rfl]
  rfl

variable (v : Scu)

theorem State.setScu_retireScalar_reg (r : Nat) : (((s.setScu g v).retireScalar g pc st).scu g).reg r = v.reg r := by
  rw [State.retireScalar_reg, State.setScu_scu, if_pos rfl]

theorem State.setScu_retireScalar_pred (r : Nat) : (((s.setScu g v).retireScalar g pc st).scu g).pred r = v.pred r := by
  rw [State.retireScalar_pred, State.setScu_scu, if_pos rfl]

end Retired

@[simp] theorem Scu.setReg_pred (v : Scu) (r k : Nat) (x : Reg) : (v.setReg r x).pred k = v.pred k := by
  unfold Scu.setReg
  split <;> rfl

@[simp] theorem Scu.setPred_pred (v : Scu) (r k : Nat) (q : Pred) : (v.setPred r q).pred k = if k = r then q else v.pred k :=
  tabGet_tabSet _ _ _ _ _

@[simp] theorem Scu.setPred_reg (v : Scu) (r k : Nat) (q : Pred) : (v.setPred r q).reg k = v.reg k := rfl

/-! ### The values of the operations -/

@[simp] theorem shAmt_ofNat_fin (sh : Fin 64) : shAmt (BitVec.ofNat 64 sh.val) = sh.val := by
  have hlt := sh.isLt
  rw [shAmt, BitVec.toNat_ofNat]
  omega

theorem aluOp_div (x y : Word) : aluOp 10 x y = if y = 0 then 0 else x.sdiv y := by
  split
  · next hzero => subst hzero; exact BitVec.sdiv_zero
  · rfl

theorem aluOp_rem (x y : Word) : aluOp 11 x y = if y = 0 then x else x.srem y := by
  split
  · next hzero => subst hzero; exact BitVec.srem_zero
  · rfl

theorem aluOp_min (x y : Word) : aluOp 12 x y = if x.toInt < y.toInt then x else y := by
  simp only [aluOp, BitVec.slt_iff_toInt_lt]

theorem aluOp_max (x y : Word) : aluOp 13 x y = if x.toInt < y.toInt then y else x := by
  simp only [aluOp, BitVec.slt_iff_toInt_lt]

/-- The upper immediate is a multiple of 2^16. -/
theorem lui_value (up : BitVec 21) : (up.signExtend 64 <<< 16 : Word) = up.signExtend 64 * 0x10000#64 :=
  BitVec.shiftLeft_eq_mul_twoPow _ 16

/-! ### Register operations -/

theorem runScalar_alu {u : ScuId} {op : Fin 14} {rd ra rb : Fin 32} {s : State} {v : Word}
    (hv : aluOp op.val ((s.scu (scuGid u)).reg ra.val).v ((s.scu (scuGid u)).reg rb.val).v = v)
    (hrun : s.canRun (scuGid u) (.alu op rd ra rb) = true) :
    runScalar u (.alu op rd ra rb) s = .next ((s.setScu (scuGid u) ((s.scu (scuGid u)).setReg rd.val
      { v := v, fog := ((s.scu (scuGid u)).reg ra.val).fog || ((s.scu (scuGid u)).reg rb.val).fog })).retireScalar (scuGid u)
        ((s.scu (scuGid u)).pc + 1) .running) := by
  subst hv
  exact runScalar_retire hrun rfl

theorem runScalar_shi {u : ScuId} {op : Fin 3} {rd ra : Fin 32} {sh : Fin 64} {s : State} {v : Word}
    (hv : aluOp (5 + op.val) ((s.scu (scuGid u)).reg ra.val).v (BitVec.ofNat 64 sh.val) = v)
    (hrun : s.canRun (scuGid u) (.shi op rd ra sh) = true) :
    runScalar u (.shi op rd ra sh) s = .next ((s.setScu (scuGid u) ((s.scu (scuGid u)).setReg rd.val
      { v := v, fog := ((s.scu (scuGid u)).reg ra.val).fog })).retireScalar (scuGid u) ((s.scu (scuGid u)).pc + 1) .running) := by
  subst hv
  exact runScalar_retire hrun rfl

/-- Settles O10: each operation retires with the value that `aluOp` gives, which division by zero, the minimum, the maximum, the shift
amounts and the upper immediate put in the words of R297. -/
theorem scalarOperationsRetire : Obligations.ScalarOperationsRetire := by
  refine ⟨?_, ?_⟩
  · intro u rd ra rb s g x y done
    exact ⟨runScalar_alu rfl, runScalar_alu rfl, runScalar_alu rfl, runScalar_alu rfl, runScalar_alu rfl, runScalar_alu rfl,
      runScalar_alu rfl, runScalar_alu rfl, runScalar_alu rfl, runScalar_alu rfl, runScalar_alu (aluOp_div x.v y.v),
      runScalar_alu (aluOp_rem x.v y.v), runScalar_alu (aluOp_min x.v y.v), runScalar_alu (aluOp_max x.v y.v)⟩
  · intro u rd ra rb p imm sh up s g x y q done
    have hshl : aluOp 5 x.v (BitVec.ofNat 64 sh.val) = x.v <<< sh.val := by simp only [aluOp, shAmt_ofNat_fin]
    have hshr : aluOp 6 x.v (BitVec.ofNat 64 sh.val) = x.v >>> sh.val := by simp only [aluOp, shAmt_ofNat_fin]
    have hsar : aluOp 7 x.v (BitVec.ofNat 64 sh.val) = x.v.sshiftRight sh.val := by simp only [aluOp, shAmt_ofNat_fin]
    refine ⟨fun h => runScalar_retire h rfl, fun h => runScalar_retire h rfl, fun h => runScalar_retire h rfl,
      fun h => runScalar_retire h rfl, fun h => runScalar_retire h rfl, runScalar_shi hshl, runScalar_shi hshr, runScalar_shi hsar,
      fun h => ?_⟩
    rw [← lui_value]
    exact runScalar_retire h rfl

/-! ### Predicates -/

theorem runScalar_predicate {u : ScuId} {i : SInstr} {pd : Fin 8} {s : State} {q r : Pred} (hrun : s.canRun (scuGid u) i = true)
    (heffect : scalarEffect s (scuGid u) (s.scu (scuGid u)).pc i
      = .retire (s.setScu (scuGid u) ((s.scu (scuGid u)).setPred pd.val q)) ((s.scu (scuGid u)).pc + 1)) (hq : q = r) :
    runScalar u i s
      = .next ((s.setScu (scuGid u) ((s.scu (scuGid u)).setPred pd.val r)).retireScalar (scuGid u) ((s.scu (scuGid u)).pc + 1) .running) := by
  subst hq
  exact runScalar_retire hrun heffect

/-- Settles O11: the comparison of the words is that of their signed or unsigned values, and a function of predicates keeps the fog of
those that it reads. -/
theorem scalarPredicatesRetire : Obligations.ScalarPredicatesRetire := by
  intro u pd pa pb c f ra rb imm s g x y a b holds fn fog done
  have hholds : ∀ v w : Word, condHolds c v w = holds c v w := by
    intro v w
    cases c with
    | ne => exact decide_not.symm
    | _ => rfl
  have hpop : popVal f a b = { v := fn, fog := fog } := by cases f <;> rfl
  exact ⟨fun h => runScalar_predicate h rfl (congrArg (Pred.mk · _) (hholds _ _)),
    fun h => runScalar_predicate h rfl (congrArg (Pred.mk · _) (hholds _ _)), fun h => runScalar_predicate h rfl hpop⟩

/-! ### Control -/

section Control
variable {s : State} {g pc : Nat}

theorem scalarEffect_br {al neg : Bool} {p : Fin 8} {target : BitVec 14} (hfog : al = true ∨ ((s.scu g).pred p.val).fog = false) :
    scalarEffect s g pc (.br al neg p target)
      = .retire s (if al = true ∨ ((s.scu g).pred p.val).v ≠ neg then target.toNat else pc + 1) := by
  cases al with
  | true => rfl
  | false =>
    have hclear : ((s.scu g).pred p.val).fog = false := by simpa using hfog
    simp only [scalarEffect, hclear, Bool.xor_iff_ne, Bool.false_eq_true, if_false, false_or, apply_ite (SOut.retire s)]

theorem scalarEffect_br_fogged {neg : Bool} {p : Fin 8} {target : BitVec 14} (hfog : ((s.scu g).pred p.val).fog = true) :
    scalarEffect s g pc (.br false neg p target) = .fault stFoggedControl 0x06 := by
  simp only [scalarEffect, hfog, Bool.false_eq_true, if_false, if_true]

theorem scalarEffect_jr {ra : Fin 32} (hfog : ((s.scu g).reg ra.val).fog = false) (hlt : ((s.scu g).reg ra.val).v.toNat < 16384) :
    scalarEffect s g pc (.jr ra) = .retire s ((s.scu g).reg ra.val).v.toNat := by
  simp only [scalarEffect, hfog, Bool.false_eq_true, if_false]
  rw [if_neg (by omega)]

theorem scalarEffect_jr_fogged {ra : Fin 32} (hfog : ((s.scu g).reg ra.val).fog = true) :
    scalarEffect s g pc (.jr ra) = .fault stFoggedControl 0x06 := by
  simp only [scalarEffect, hfog, if_true]

end Control

/-- Settles O14: each form of control has one next word. -/
theorem scalarControlFlow : Obligations.ScalarControlFlow := fun _u _al _neg _p _rd _ra _tg _s =>
  ⟨fun h hfog => runScalar_retire h (scalarEffect_br hfog), fun h => runScalar_retire h rfl,
    fun h hfog hlt => runScalar_retire h (scalarEffect_jr hfog hlt), fun h => runScalar_halted h rfl⟩

end Sys2Proof.Machine
end

section
/-!
PROOFS. Scalar units: what an instruction that writes one register leaves as it is (R175, R176, R177, R297).
-/

namespace Sys2Proof.Machine

/-! ### The frame of a register write -/

@[simp] theorem Scu.reg_zero (v : Scu) : v.reg 0 = {} := rfl

/-- Of what a scalar unit holds for its program, its program counter apart, `w` differs from `v` in register `rd` at most. -/
structure Scu.RegisterFrame (rd : Nat) (v w : Scu) : Prop where
  reg : ∀ r, r ≠ rd → w.reg r = v.reg r
  p : w.p = v.p
  queues : w.queues = v.queues
  tags : w.tags = v.tags
  send : w.send = v.send
  lastTag : w.lastTag = v.lastTag

/-- From `s` to `t` of the scalar units only `g` changes, within the frame of register `rd`; of the rest of the device only what a record
and a retired instruction touch. -/
structure State.RegisterFrame (g rd : Nat) (s t : State) : Prop where
  unit : (s.scu g).RegisterFrame rd (t.scu g)
  others : ∀ k, k ≠ g → t.scu k = s.scu k
  rest : ∃ scus kpr err fresh sfs, t = { s with scus := scus, kpr := kpr, err := err, fresh := fresh, sfs := sfs }

theorem Scu.RegisterFrame.refl (rd : Nat) (v : Scu) : v.RegisterFrame rd v := ⟨fun _ _ => rfl, rfl, rfl, rfl, rfl, rfl⟩

theorem Scu.RegisterFrame.trans {rd : Nat} {v w x : Scu} (h : v.RegisterFrame rd w) (h' : w.RegisterFrame rd x) :
    v.RegisterFrame rd x :=
  ⟨fun r hr => (h'.reg r hr).trans (h.reg r hr), h'.p.trans h.p, h'.queues.trans h.queues, h'.tags.trans h.tags,
    h'.send.trans h.send, h'.lastTag.trans h.lastTag⟩

theorem Scu.RegisterFrame.pred {rd : Nat} {v w : Scu} (h : v.RegisterFrame rd w) (r : Nat) : w.pred r = v.pred r := by
  rw [Scu.pred, h.p, Scu.pred]

theorem Scu.RegisterFrame.queue {rd : Nat} {v w : Scu} (h : v.RegisterFrame rd w) (q : Nat) : w.queue q = v.queue q := by
  rw [Scu.queue, h.queues, Scu.queue]

theorem Scu.setReg_registerFrame (v : Scu) (rd : Nat) (x : Reg) : v.RegisterFrame rd (v.setReg rd x) := by
  refine ⟨fun r hr => ?_, ?_, ?_, ?_, ?_, ?_⟩
  · simp [hr]
  all_goals unfold Scu.setReg; split <;> rfl

theorem State.RegisterFrame.refl (g rd : Nat) (s : State) : s.RegisterFrame g rd s :=
  ⟨Scu.RegisterFrame.refl rd _, fun _ _ => rfl, s.scus, s.kpr, s.err, s.fresh, s.sfs, rfl⟩

theorem State.RegisterFrame.trans {g rd : Nat} {s t w : State} (h : s.RegisterFrame g rd t) (h' : t.RegisterFrame g rd w) :
    s.RegisterFrame g rd w := by
  refine ⟨h.unit.trans h'.unit, fun k hk => (h'.others k hk).trans (h.others k hk), ?_⟩
  obtain ⟨_, _, _, _, _, ht⟩ := h.rest
  obtain ⟨_, _, _, _, _, hw⟩ := h'.rest
  exact ⟨_, _, _, _, _, hw.trans (by rw [ht])⟩

/-- Replacing unit `g` by one that differs in register `rd` and its counters. -/
theorem State.setScu_registerFrame {s : State} {g rd : Nat} {v : Scu} (h : (s.scu g).RegisterFrame rd v) :
    s.RegisterFrame g rd (s.setScu g v) :=
  ⟨by rwa [State.setScu_scu, if_pos rfl], fun k hk => by rw [State.setScu_scu, if_neg hk], _, s.kpr, s.err, s.fresh, s.sfs, rfl⟩

theorem State.progress_registerFrame (s : State) (g rd c : Nat) : s.RegisterFrame g rd (s.progress c) := by
  unfold State.progress
  split
  · exact ⟨Scu.RegisterFrame.refl rd _, fun _ _ => rfl, s.scus, s.kpr, s.err, s.fresh, _, rfl⟩
  · exact State.RegisterFrame.refl g rd s

theorem State.corrected_registerFrame (s : State) (g rd : Nat) (r : ErrRec) : s.RegisterFrame g rd (s.corrected r) := by
  obtain ⟨k, e, f, h⟩ := s.corrected_eq r
  rw [h]
  exact ⟨Scu.RegisterFrame.refl rd _, fun _ _ => rfl, s.scus, k, e, f, s.sfs, rfl⟩

theorem State.retireScalar_registerFrame (s : State) (g rd pc : Nat) (st : ScuState) : s.RegisterFrame g rd (s.retireScalar g pc st) := by
  refine (State.setScu_registerFrame ?_).trans (State.progress_registerFrame _ g rd _)
  exact ⟨fun _ _ => rfl, rfl, rfl, rfl, rfl, rfl⟩

/-- With no uncorrectable and no fogged word, a fetch within the memory brings its word, and counts it when it had to be corrected. -/
theorem State.fetchScalar_registerFrame {s : State} {g : Nat} (rd : Nat) (hue : (s.scu g).imemUe = []) (hfog : (s.scu g).imemFog = [])
    (hpc : (s.scu g).pc < 16384) :
    ∃ t, s.fetchScalar g = (t, some ((s.scu g).word (s.scu g).pc)) ∧ s.RegisterFrame g rd t := by
  have hin : ¬ 16383 < (s.scu g).pc := by omega
  simp only [State.fetchScalar, hue, hfog, if_neg hin, List.contains_nil, Bool.false_eq_true, if_false]
  split
  · refine ⟨_, rfl, (State.setScu_registerFrame ?_).trans (State.corrected_registerFrame _ g rd _)⟩
    exact ⟨fun _ _ => rfl, rfl, rfl, rfl, rfl, rfl⟩
  · exact ⟨s, rfl, State.RegisterFrame.refl g rd s⟩

/-- All that the instruction does is to write register `rd` and to choose the next word. -/
def SInstr.WritesOnly (rd : Nat) (i : SInstr) : Prop :=
  ∀ s g pc, ∃ x next, scalarEffect s g pc i = .retire (s.setScu g ((s.scu g).setReg rd x)) next

theorem SInstr.WritesOnly.runScalarAt_registerFrame {i : SInstr} {rd : Nat} (h : i.WritesOnly rd) (s : State) (g : Nat) :
    s.RegisterFrame g rd (s.runScalarAt g i) := by
  obtain ⟨x, next, heffect⟩ := h s g (s.scu g).pc
  rw [State.runScalarAt, heffect]
  exact (State.setScu_registerFrame (Scu.setReg_registerFrame _ rd x)).trans (State.retireScalar_registerFrame _ g rd next .running)

theorem SInstr.WritesOnly.runScalar_registerFrame {i : SInstr} {rd : Nat} (h : i.WritesOnly rd) {u : ScuId} {s t : State}
    (hue : (s.scu (scuGid u)).imemUe = []) (hfog : (s.scu (scuGid u)).imemFog = []) (hpc : (s.scu (scuGid u)).pc < 16384)
    (hstep : runScalar u i s = .next t) : s.RegisterFrame (scuGid u) rd t := by
  obtain ⟨f, hf, hfetch⟩ := State.fetchScalar_registerFrame rd hue hfog hpc
  simp only [runScalar, hf] at hstep
  split at hstep
  · split at hstep
    · cases hstep
      exact hfetch.trans (h.runScalarAt_registerFrame f _)
    · cases hstep
      exact State.RegisterFrame.refl _ rd s
  · cases hstep
    exact State.RegisterFrame.refl _ rd s

/-- The commands that write one register, each with the instruction that it stands for. -/
def registerCommands (u : ScuId) (rd ra rb : Fin 32) (p : Fin 8) (imm : BitVec 16) (sh : Fin 64) (up : BitVec 21) (tg : BitVec 14)
    (sr : Fin 7) : List (Instr × SInstr) :=
  [(.add u rd ra rb, .alu 0 rd ra rb), (.sub u rd ra rb, .alu 1 rd ra rb), (.and u rd ra rb, .alu 2 rd ra rb),
    (.or u rd ra rb, .alu 3 rd ra rb), (.xor u rd ra rb, .alu 4 rd ra rb), (.shl u rd ra rb, .alu 5 rd ra rb),
    (.shr u rd ra rb, .alu 6 rd ra rb), (.sar u rd ra rb, .alu 7 rd ra rb), (.mul u rd ra rb, .alu 8 rd ra rb),
    (.mulhi u rd ra rb, .alu 9 rd ra rb), (.div u rd ra rb, .alu 10 rd ra rb), (.rem u rd ra rb, .alu 11 rd ra rb),
    (.min u rd ra rb, .alu 12 rd ra rb), (.max u rd ra rb, .alu 13 rd ra rb), (.sel u rd ra rb p, .sel rd ra rb p),
    (.addi u rd ra imm, .imm 0 rd ra imm), (.andi u rd ra imm, .imm 1 rd ra imm), (.ori u rd ra imm, .imm 2 rd ra imm),
    (.xori u rd ra imm, .imm 3 rd ra imm), (.shli u rd ra sh, .shi 0 rd ra sh), (.shri u rd ra sh, .shi 1 rd ra sh),
    (.sari u rd ra sh, .shi 2 rd ra sh), (.lui u rd up, .lui rd up), (.jal u rd tg, .jal rd tg), (.qtag u rd, .qtag rd),
    (.rdsr u rd sr, .rdsr rd sr)]

theorem exec_registerCommand {u : ScuId} {rd ra rb : Fin 32} {p : Fin 8} {imm : BitVec 16} {sh : Fin 64} {up : BitVec 21} {tg : BitVec 14}
    {sr : Fin 7} : ∀ e ∈ registerCommands u rd ra rb p imm sh up tg sr, (∀ s, exec e.1 s = runScalar u e.2 s) ∧ e.2.WritesOnly rd.val := by
  intro e he
  unfold registerCommands at he
  fin_cases he <;> exact ⟨fun _ => rfl, fun _ _ _ => ⟨_, _, rfl⟩⟩

/-- Settles O12: whatever the command comes to, it keeps the frame, and g0 reads as zero. -/
theorem scalarRegisterFrame : Obligations.ScalarRegisterFrame := by
  intro u rd ra rb p imm sh up tg sr s t g c hc hue hfog hpc hstep
  obtain ⟨e, he, rfl⟩ : ∃ e ∈ registerCommands u rd ra rb p imm sh up tg sr, e.1 = c := List.mem_map.1 hc
  obtain ⟨hexec, hwrites⟩ := exec_registerCommand e he
  obtain ⟨hunit, hothers, _, _, _, _, _, rfl⟩ := hwrites.runScalar_registerFrame hue hfog hpc ((hexec s).symm.trans hstep)
  exact ⟨hunit.reg, Scu.reg_zero _, hunit.pred, hunit.queue, hunit.tags, hunit.send, hunit.lastTag, hothers, rfl, rfl, rfl, rfl,
    fun _ _ => rfl, rfl, rfl, rfl, rfl, rfl, rfl⟩

end Sys2Proof.Machine
end

section
/-!
PROOFS. Scalar units: the narrow loads and stores (R95, R109, R178, R180, R297).
-/

namespace Sys2Proof.Machine

/-! ### What the accesses to a scratchpad leave as they are -/

theorem State.touchRead_scu (s : State) (g off n j : Nat) : (s.touchRead g off n).scu j = s.scu j := by
  obtain ⟨m, k, e, i, p, t, a, o, h, -⟩ := s.touchRead_eq g off n
  rw [h]
  rfl

theorem State.touchRead_hbm (s : State) (g off n : Nat) : (s.touchRead g off n).hbm = s.hbm := by
  obtain ⟨m, k, e, i, p, t, a, o, h, -⟩ := s.touchRead_eq g off n
  rw [h]

section Write
variable (s : State) (g off : Nat) {bytes : List Byte} (fog : List Bool) (hsome : bytes ≠ [])
include hsome

theorem State.muWritePlain_mem (k : Nat) :
    ((s.muWritePlain g off bytes fog).mu k).mem = if k = g then memWrite (s.mu g).mem off bytes else (s.mu k).mem := by
  obtain ⟨m, _, e, i, p, t, a, o, h, hmem, -⟩ := s.muWritePlain_eq g off bytes fog hsome
  rw [h, State.mu, tabGet_tabSet, apply_ite Mu.mem, hmem]
  rfl

theorem State.muWritePlain_scu (k : Nat) : (s.muWritePlain g off bytes fog).scu k = s.scu k := by
  obtain ⟨m, _, e, i, p, t, a, o, h, -⟩ := s.muWritePlain_eq g off bytes fog hsome
  rw [h]
  rfl

theorem State.muWritePlain_hbm : (s.muWritePlain g off bytes fog).hbm = s.hbm := by
  obtain ⟨m, k, e, i, p, t, a, o, h, -⟩ := s.muWritePlain_eq g off bytes fog hsome
  rw [h]

end Write

/-- The number that is written in `n` bytes is the one that `n` bytes then read, as far as they hold it. -/
theorem ofBytes_memRead_memWrite_toBytes {m : Mem} (hwf : Memory.wf m = true) (a n x : Nat) :
    ofBytes (memRead (memWrite m a (toBytes n x)) a n) = x % 2 ^ (8 * n) := by
  have hread := memRead_memWrite m a (toBytes n x) hwf
  rw [length_toBytes] at hread
  rw [hread, ofBytes_toBytes]

theorem memGet_memWrite_toBytes_outside {m : Mem} (hwf : Memory.wf m = true) {a n x i : Nat} (hout : i < a ∨ a + n ≤ i) :
    memGet (memWrite m a (toBytes n x)) i = memGet m i := by
  rw [memGet_memWrite _ _ _ _ hwf, length_toBytes, if_neg (by omega)]

/-! ### The effect of an access that nothing turns away -/

theorem narrowBytes_pos (sz : Fin 4) : 0 < narrowBytes sz := Nat.pow_pos (by decide)

theorem toBytes_narrow_ne_nil (sz : Fin 4) (x : Nat) : toBytes (narrowBytes sz) x ≠ [] := by
  rw [← List.length_pos_iff, length_toBytes]
  exact narrowBytes_pos sz

section Narrow
variable {s : State} {g pc r ra off : Nat} {sz : Fin 4} {imm : BitVec 16} (hoff : off = narrowOff ((s.scu g).reg ra).v imm)
  (hfog : ((s.scu g).reg ra).fog = false) (haligned : off % narrowBytes sz = 0)
  (hrange : (s.mu (homeMu g)).rangeOk off (narrowBytes sz) = true) (hzero : (s.mu (homeMu g)).zeroizing = false)
  (hawake : (s.mu (homeMu g)).asleep off (narrowBytes sz) = 0)
include hoff hfog haligned hrange hzero hawake

theorem narrowAccess_load :
    narrowAccess s g pc false sz r ra imm
      = .retire ((s.touchRead (homeMu g) off (narrowBytes sz)).setScu g ((s.scu g).setReg r
          { v := BitVec.ofNat 64 (ofBytes (memRead (s.mu (homeMu g)).mem off (narrowBytes sz)))
            fog := ((s.touchRead (homeMu g) off (narrowBytes sz)).mu (homeMu g)).fogAt off (narrowBytes sz) })) (pc + 1) := by
  subst hoff
  simp only [narrowAccess, hfog, haligned, hrange, hzero, hawake, State.touchRead_scu, State.touchRead_mem, ne_eq, not_true_eq_false,
    Bool.not_true, Bool.false_eq_true, if_false]

theorem narrowAccess_store :
    narrowAccess s g pc true sz r ra imm
      = .retire (s.muWritePlain (homeMu g) off (toBytes (narrowBytes sz) ((s.scu g).reg r).v.toNat)
          (List.replicate (narrowBytes sz) ((s.scu g).reg r).fog)) (pc + 1) := by
  subst hoff
  simp only [narrowAccess, hfog, haligned, hrange, hzero, hawake, ne_eq, not_true_eq_false, Bool.not_true, Bool.false_eq_true, if_false,
    if_true]

end Narrow

/-- The command of a narrow load by its size, and that of a narrow store. -/
theorem exec_narrow (u : ScuId) (sz : Fin 4) (r ra : Fin 32) (imm : BitVec 16) (s : State) :
    (exec (match sz with | 0 => Instr.ldNB u r ra imm | 1 => .ldNH u r ra imm | 2 => .ldNW u r ra imm | _ => .ldND u r ra imm) s
        = runScalar u (.ld sz r ra imm) s)
      ∧ exec (match sz with | 0 => Instr.stNB u r ra imm | 1 => .stNH u r ra imm | 2 => .stNW u r ra imm | _ => .stND u r ra imm) s
        = runScalar u (.st sz r ra imm) s := by
  fin_cases sz <;> exact ⟨rfl, rfl⟩

/-- Settles O13: a load writes its register and reads the home memory unit, whose bytes stay; a store writes its bytes there and no
register. -/
theorem narrowAccesses : Obligations.NarrowAccesses := by
  refine ⟨fun u sz rd ra imm s => ?_, fun u sz rs ra imm s => ?_⟩
  · dsimp only
    intro hrun hfog haligned hrange hzero hawake
    have heffect := narrowAccess_load (pc := (s.scu (scuGid u)).pc) (r := rd.val) rfl hfog haligned hrange hzero hawake
    refine ⟨_, (exec_narrow u sz rd ra imm s).1.trans (runScalar_retire hrun heffect), State.retireScalar_pc _ _ _ _,
      State.retireScalar_state _ _ _ _, fun hrd => ?_, fun r hr => ?_, rfl, fun r => ?_, fun k a => ?_, ?_⟩
    · simp only [State.setScu_retireScalar_reg, Scu.setReg_reg, State.retireScalar_frame, State.setScu_frame]
      rw [if_pos ⟨trivial, hrd⟩]
      exact ⟨rfl, rfl⟩
    · rw [State.setScu_retireScalar_reg, Scu.setReg_reg, if_neg fun h => hr h.1]
    · rw [State.setScu_retireScalar_pred, Scu.setReg_pred]
    · simp only [State.retireScalar_frame, State.setScu_frame, State.touchRead_mem]
    · simp only [State.retireScalar_frame, State.setScu_frame, State.touchRead_hbm]
  · dsimp only
    intro hrun hfog haligned hrange hzero hawake hwf
    have heffect := narrowAccess_store (pc := (s.scu (scuGid u)).pc) (r := rs.val) rfl hfog haligned hrange hzero hawake
    have hsome := toBytes_narrow_ne_nil sz ((s.scu (scuGid u)).reg rs.val).v.toNat
    refine ⟨_, (exec_narrow u sz rs ra imm s).2.trans (runScalar_retire hrun heffect), State.retireScalar_pc _ _ _ _,
      State.retireScalar_state _ _ _ _, ?_, fun a ha => ?_, fun k a hk => ?_, ?_, fun r => ?_, fun r => ?_⟩
    · simp only [State.retireScalar_frame, State.muWritePlain_mem _ _ _ _ hsome, if_true]
      exact ofBytes_memRead_memWrite_toBytes hwf _ (narrowBytes sz) _
    · simp only [State.retireScalar_frame, State.muWritePlain_mem _ _ _ _ hsome, if_true]
      exact memGet_memWrite_toBytes_outside hwf ha
    · simp only [State.retireScalar_frame, State.muWritePlain_mem _ _ _ _ hsome, if_neg hk]
    · simp only [State.retireScalar_frame, State.muWritePlain_hbm _ _ _ _ hsome]
    · rw [State.retireScalar_reg, State.muWritePlain_scu _ _ _ _ hsome]
    · rw [State.retireScalar_pred, State.muWritePlain_scu _ _ _ _ hsome]

end Sys2Proof.Machine
end

section
/-!
PROOFS. Scalar units: fogged control, a blocked unit that resumes or times out, and words that hold no instruction (R177, R181, R187, R204,
R297, R433).
-/

namespace Sys2Proof.Machine

/-! ### The failing of a unit's context -/

section Fail
variable {s : State} {g x : Nat} {k : Ctx} (status cause op : Nat)

theorem State.scuFail_ctx (howner : s.ownerOf (clusterOf g) = some x) (hctx : s.ctx x = some k) (hgood : k.state ≠ .failed) :
    (s.scuFail g status cause op).ctx x = some { k with state := .failed, status := status, tearing := true } := by
  simp only [State.scuFail, howner, State.failCtx_ctx, hctx, if_true, Option.map_some, if_neg hgood]

theorem State.scuFail_frame (s : State) (g : Nat) :
    (∀ j, (s.scuFail g status cause op).scu j = s.scu j) ∧ (s.scuFail g status cause op).mus = s.mus := by
  unfold State.scuFail
  split
  · simp only [State.failCtx_frame, implies_true, and_self]
  · exact ⟨fun _ => rfl, rfl⟩

end Fail

/-- Settles O15: fogged control is a fault of the instruction, a fault fails the context of its unit and does nothing else to units and
memories, and a context that has failed keeps its status. -/
theorem foggedControlFailsContext : Obligations.FoggedControlFailsContext := by
  refine ⟨fun u neg p ra tg s x k => ?_, fun s x st r k hctx => ⟨fun hfailed => ?_, fun hgood => ?_, fun y hy => ?_⟩⟩
  · intro g howner hctx hgood i c hcase hrun
    have hfault : exec c s = runScalar u i s ∧ scalarEffect s g (s.scu g).pc i = .fault stFoggedControl 0x06 := by
      rcases hcase with ⟨rfl, rfl, hfog⟩ | ⟨rfl, rfl, hfog⟩
      · exact ⟨rfl, scalarEffect_br_fogged hfog⟩
      · exact ⟨rfl, scalarEffect_jr_fogged hfog⟩
    obtain ⟨hexec, heffect⟩ := hfault
    exact ⟨_, hexec.trans (runScalar_fault hrun heffect), State.scuFail_ctx _ _ _ howner hctx hgood, State.scuFail_frame _ _ _ s g⟩
  · simp only [State.failCtx_ctx, if_true, hctx, Option.map_some, if_pos hfailed]
  · simp only [State.failCtx_ctx, if_true, hctx, Option.map_some, if_neg hgood]
  · rw [State.failCtx_ctx, if_neg hy]

/-! ### Blocked units -/

theorem exec_scuUnblock {u : ScuId} {i : SInstr} {s : State} (hlive : s.scuLive (scuGid u) = true)
    (hstate : (s.scu (scuGid u)).state = .blocked) (hi : (s.scu (scuGid u)).blocked = some i) :
    exec (.scuUnblock u) s = .next (s.runScalarAt (scuGid u) i) := by
  simp only [exec, execScuUnblock, hi, hlive, hstate, beq_self_eq_true, Bool.and_self, if_true]

theorem exec_qselTimeout {u : ScuId} {rd ra rb : Fin 32} {pd : Fin 8} {rot : Bool} {t : Nat} {s : State}
    (hlive : s.scuLive (scuGid u) = true) (hstate : (s.scu (scuGid u)).state = .blocked)
    (hi : (s.scu (scuGid u)).blocked = some (.qsel rd ra rb pd rot)) (hdeadline : s.qselDeadline (scuGid u) rb.val = some t) :
    exec (.qselTimeout u) s
      = .next (((s.advanceTo t).setScu (scuGid u) ((s.scu (scuGid u)).qselResult rd.val pd.val rot
          ((s.scu (scuGid u)).choose ((s.scu (scuGid u)).reg ra.val).v rot))).retireScalar (scuGid u) ((s.scu (scuGid u)).pc + 1) .running) := by
  simp only [exec, execQselTimeout, hi, hlive, hstate, hdeadline, beq_self_eq_true, Bool.and_self, if_true, State.advanceTo_frame]

/-- With no queue chosen a `qsel` clears its predicate and writes 64 (R204). -/
theorem Scu.qselResult_none (v : Scu) (rd pd : Nat) (rot : Bool) :
    (v.qselResult rd pd rot none).pred pd = { v := false } ∧ (rd ≠ 0 → (v.qselResult rd pd rot none).reg rd = { v := 64 }) := by
  refine ⟨?_, fun hrd => ?_⟩
  · rw [Scu.qselResult, Scu.setPred_pred, if_pos rfl]
  · rw [Scu.qselResult, Scu.setPred_reg, Scu.setReg_reg, if_pos ⟨rfl, hrd⟩]

/-! ### Words that hold no instruction -/

theorem State.fetchScalar_word {s : State} {g : Nat} (hpc : (s.scu g).pc ≤ 16383) (hue : (s.scu g).imemUe.contains (s.scu g).pc = false)
    (hfog : (s.scu g).imemFog.contains (s.scu g).pc = false) (hce : (s.scu g).imemCe.contains (s.scu g).pc = false) :
    s.fetchScalar g = (s, some ((s.scu g).word (s.scu g).pc)) := by
  simp only [State.fetchScalar, if_neg (Nat.not_lt.2 hpc), hue, hfog, hce, Bool.false_eq_true, if_false]

theorem exec_scalarReservedOpcode {u : ScuId} {s : State} {w : Nat} (hlive : s.scuLive (scuGid u) = true)
    (hstate : (s.scu (scuGid u)).state = .running) (hfetch : s.fetchScalar (scuGid u) = (s, some w)) (hnone : decodeScalar w = none) :
    exec (.scalarReservedOpcode u) s = .next (s.scuFail (scuGid u) stContextFault 0x07 (fld w 31 26)) := by
  simp only [exec, execScalarReservedOpcode, hlive, hstate, hfetch, hnone, beq_self_eq_true, Bool.and_self, if_true]

/-- Settles O19: a blocked unit runs its instruction again, its timeout retires the `qsel` with none chosen, and a word that does not decode
is a fault. -/
theorem scalarBlockedAndReserved : Obligations.ScalarBlockedAndReserved := by
  intro u rd ra rb pd rot i x k t s g v hlive
  refine ⟨fun hstate hi => exec_scuUnblock hlive hstate hi, fun hstate hi hdeadline hnone => ?_,
    fun hstate hpc hue hfog hce hdecode howner hctx hgood => ?_⟩
  · obtain ⟨hpred, hreg⟩ := v.qselResult_none rd.val pd.val rot
    have hexec := exec_qselTimeout hlive hstate hi hdeadline
    rw [hnone] at hexec
    refine ⟨_, hexec, ?_, State.retireScalar_pc _ _ _ _, State.retireScalar_state _ _ _ _,
      (State.setScu_retireScalar_pred _ _ _ _ _ _).trans hpred, fun hrd => (State.setScu_retireScalar_reg _ _ _ _ _ _).trans (hreg hrd)⟩
    rw [(State.retireScalar_frame ..).2.1]
    exact State.advanceTo_reaches s t
  · obtain ⟨hscu, -⟩ := State.scuFail_frame stContextFault 0x07 (fld (v.word v.pc) 31 26) s g
    exact ⟨_, exec_scalarReservedOpcode hlive hstate (State.fetchScalar_word hpc hue hfog hce) hdecode,
      State.scuFail_ctx _ _ _ howner hctx hgood, hscu g⟩

end Sys2Proof.Machine
end

section
/-!
PROOFS. Scalar units: queues and messages (R189 to R204, R297, R298).
-/

namespace Sys2Proof.Machine

/-! ### qrecv -/

theorem Queue.isRing_iff (q : Queue) : q.isRing = true ↔ q.mode = .ring ∨ q.mode = .combining := by
  simp [Queue.isRing]

/-- A `qrecv` names its queue itself, or by the low bits of a register that is clear of fog. -/
theorem scalarEffect_qrecv {s : State} {g : Nat} (pc : Nat) (rd : Fin 32) {ra : Fin 32} {q : Fin 64} {o : QSrc}
    (ho : o = .imm q ∨ (o = .reg ra ∧ ((s.scu g).reg ra.val).fog = false ∧ ((s.scu g).reg ra.val).v.toNat % 64 = q.val)) :
    scalarEffect s g pc (.qrecv rd o) = queueReceive s g pc rd.val q.val := by
  rcases ho with rfl | ⟨rfl, hfog, hq⟩
  · rfl
  · simp only [scalarEffect, hfog, hq, Bool.false_eq_true, if_false]

section Receive
variable {s : State} {g q : Nat} (pc rd : Nat)

theorem queueReceive_entry {e : QEntry} {l : List QEntry} (hmode : ((s.scu g).queue q).mode = .register)
    (hentries : ((s.scu g).queue q).entries = e :: l) :
    queueReceive s g pc rd q = .retire (s.setScu g { ((s.scu g).setQueue q { (s.scu g).queue q with entries := l }).setReg rd
      { v := e.data, fog := e.fog } with lastTag := e.tag }) (pc + 1) := by
  simp only [queueReceive, hmode, hentries]

theorem queueReceive_closed (hmode : ((s.scu g).queue q).mode = .register) (hentries : ((s.scu g).queue q).entries = [])
    (hclosed : ((s.scu g).queue q).opened = false) :
    queueReceive s g pc rd q = .retire (s.setScu g { (s.scu g).setReg rd {} with lastTag := 0xFF }) (pc + 1) := by
  simp only [queueReceive, hmode, hentries, hclosed, Bool.false_eq_true, if_false]

theorem queueReceive_empty (hmode : ((s.scu g).queue q).mode = .register) (hentries : ((s.scu g).queue q).entries = [])
    (hopened : ((s.scu g).queue q).opened = true) : queueReceive s g pc rd q = .block s 1 := by
  simp only [queueReceive, hmode, hentries, hopened, if_true]

theorem queueReceive_ring (hring : ((s.scu g).queue q).isRing = true) (hholds : ((s.scu g).queue q).wp ≠ ((s.scu g).queue q).rp)
    (hpad : (memGet (s.mu (homeMu g)).mem (((s.scu g).queue q).base + ((s.scu g).queue q).rp + 9)).getLsbD 0 = false) :
    queueReceive s g pc rd q = .retire (s.setScu g (((s.scu g).setQueue q ((s.scu g).queue q)).setReg rd
      { v := BitVec.ofNat 64 (((s.scu g).queue q).base + ((s.scu g).queue q).rp) })) (pc + 1) := by
  rcases (Queue.isRing_iff _).1 hring with hmode | hmode
  all_goals simp only [queueReceive, hmode, if_neg hholds, hpad, Bool.false_eq_true, if_false]; rw [← hmode]

theorem queueReceive_ring_closed (hring : ((s.scu g).queue q).isRing = true) (hempty : ((s.scu g).queue q).wp = ((s.scu g).queue q).rp)
    (hclosed : ((s.scu g).queue q).opened = false) :
    queueReceive s g pc rd q = .retire (s.setScu g ((s.scu g).setReg rd { v := BitVec.allOnes 64 })) (pc + 1) := by
  rcases (Queue.isRing_iff _).1 hring with hmode | hmode
  all_goals simp only [queueReceive, hmode, if_pos hempty, hclosed, Bool.false_eq_true, if_false]

end Receive

/-! ### qsel -/

theorem mem_upto (a n k : Nat) : k ∈ upto a n ↔ a ≤ k ∧ k < a + n := by
  induction n generalizing a with
  | zero => simp [upto]
  | succ n ih => simp only [upto, List.mem_cons, ih]; omega

section Select
variable {s : State} {g pc rd ra rb pd : Nat} {rot : Bool} (hmask : ((s.scu g).reg ra).fog = false) (htime : ((s.scu g).reg rb).fog = false)
  (hon : ∀ k < 64, ((s.scu g).reg ra).v.getLsbD k = true → ((s.scu g).queue k).mode ≠ .off)
include hon

/-- No queue of the mask is off. -/
theorem mask_any_off : (upto 0 64).any (fun q => ((s.scu g).reg ra).v.getLsbD q && ((s.scu g).queue q).mode == .off) = false := by
  rw [List.any_eq_false]
  intro q hq hoff
  obtain ⟨-, hlt⟩ := (mem_upto 0 64 q).1 hq
  rw [Bool.and_eq_true, beq_iff_eq] at hoff
  exact hon q (by omega) hoff.1 hoff.2

include hmask htime

theorem queueSelect_ready {n : Nat} (hchoose : (s.scu g).choose ((s.scu g).reg ra).v rot = some n) :
    queueSelect s g pc rd ra rb pd rot = .retire (s.setScu g ((s.scu g).qselResult rd pd rot (some n))) (pc + 1) := by
  simp only [queueSelect, hmask, htime, mask_any_off hon, hchoose, Bool.or_self, Bool.false_eq_true, if_false]

theorem queueSelect_timeout (hchoose : (s.scu g).choose ((s.scu g).reg ra).v rot = none) (hnow : ((s.scu g).reg rb).v = 0) :
    queueSelect s g pc rd ra rb pd rot = .retire (s.setScu g ((s.scu g).qselResult rd pd rot none)) (pc + 1) := by
  simp only [queueSelect, hmask, htime, mask_any_off hon, hchoose, hnow, or_true, Bool.or_self, Bool.false_eq_true, if_false, if_true]

end Select

theorem Scu.qselResult_some (v : Scu) (rd pd : Nat) (rot : Bool) (n : Nat) :
    v.qselResult rd pd rot (some n) = (({ v with rot := if rot then n else v.rot } : Scu).setReg rd { v := BitVec.ofNat 64 n }).setPred pd
      { v := true } := by
  cases rot <;> rfl

/-! ### qrp and qclose -/

theorem scalarEffect_qrp {s : State} {g : Nat} (pc : Nat) {ra : Fin 32} {q : Fin 64} (hfog : ((s.scu g).reg ra.val).fog = false)
    (hring : ((s.scu g).queue q.val).isRing = true) (hok : ((s.scu g).queue q.val).rpOk ((s.scu g).reg ra.val).v.toNat = true) :
    scalarEffect s g pc (.qrp ra q) = .retire (s.setScu g ((s.scu g).setQueue q.val
      { (s.scu g).queue q.val with rp := ((s.scu g).reg ra.val).v.toNat })) (pc + 1) := by
  simp only [scalarEffect, hfog, hring, hok, Bool.not_true, Bool.or_self, Bool.false_eq_true, if_false]

theorem Queue.close_register {q : Queue} (hmode : q.mode = .register) : q.close = { q with opened := false } := by
  simp [Queue.close, hmode]

/-- Settles O16: the mode, the content and the state of the queue choose the outcome of a `qrecv`, and what `choose` finds that of a
`qsel`. -/
theorem scalarReceiveAndSelect : Obligations.ScalarReceiveAndSelect := by
  refine ⟨fun u rd ra q o e l s => ?_, fun u rd ra rb pd rot q n s => ?_⟩
  · intro g v k ho hrun
    have heffect := scalarEffect_qrecv v.pc rd ho
    exact ⟨fun hmode hentries => runScalar_retire hrun (heffect.trans (queueReceive_entry _ _ hmode hentries)),
      fun hmode hentries hclosed => runScalar_retire hrun (heffect.trans (queueReceive_closed _ _ hmode hentries hclosed)),
      fun hring hholds hpad => runScalar_retire hrun (heffect.trans (queueReceive_ring _ _ hring hholds hpad)),
      fun hring hempty hclosed => runScalar_retire hrun (heffect.trans (queueReceive_ring_closed _ _ hring hempty hclosed)),
      fun hmode hentries hopened => runScalar_block hrun (heffect.trans (queueReceive_empty _ _ hmode hentries hopened))⟩
  · intro g v a b
    refine ⟨fun hrun hmask htime hon => ⟨fun hchoose => ?_, fun hchoose hnow => ?_⟩, fun hrun => runScalar_retire hrun rfl,
      fun hrun hfog hring hok => runScalar_retire hrun (scalarEffect_qrp _ hfog hring hok), fun hrun hmode => ?_⟩
    · rw [← Scu.qselResult_some]
      exact runScalar_retire hrun (queueSelect_ready hmask htime hon hchoose)
    · exact runScalar_retire hrun (queueSelect_timeout hmask htime hon hchoose hnow)
    · rw [← Queue.close_register hmode]
      exact runScalar_retire hrun rfl

/-! ### qsend -/

/-- The message of a `qsend` with a payload that is clear of fog: ra holds its queue address, priority and class. -/
def State.sendMsg (s : State) (g ra : Nat) (tag : BitVec 8) (payload : List Byte) : Msg :=
  let a := ((s.scu g).reg ra).v.toNat
  { unit := a % 2 ^ 16, queue := a / 2 ^ 16 % 2 ^ 6, prio := a / 2 ^ 22 % 2 ^ 2, fou := a.testBit 24, tag := tag.toNat, payload := payload,
    fog := false, sender := g, ctx := (s.ownerOf (clusterOf g)).getD 0 }

/-- The fields of a queue address by division (R189). -/
theorem sendAddress (a : Nat) : fld a 15 0 = a % 2 ^ 16 ∧ fld a 21 16 = a / 2 ^ 16 % 2 ^ 6 ∧ fld a 23 22 = a / 2 ^ 22 % 2 ^ 2 :=
  ⟨(fld_eq_div_mod a 15 0).trans (by rw [Nat.pow_zero, Nat.div_one]), fld_eq_div_mod a 21 16, fld_eq_div_mod a 23 22⟩

section Send
variable {s : State} {g : Nat} (pc : Nat) {ra rb rc : Nat} {tag : BitVec 8}

variable (haddress : ((s.scu g).reg ra).fog = false) (hlength : ((s.scu g).reg rc).fog = false) (hbytes : ((s.scu g).reg rb).fog = false)
  (hok : s.addrOk (((s.scu g).reg ra).v.toNat % 2 ^ 16) (((s.scu g).reg ra).v.toNat / 2 ^ 16 % 2 ^ 6) tag.toNat = true)
include haddress hlength hbytes hok

theorem queueSend_register (hshort : ((s.scu g).reg rc).v.toNat ≤ 8) :
    queueSend s g pc ra rb rc tag false
      = if 8 ≤ (s.scu g).send.length then .block s 4
        else .retire (s.setScu g { s.scu g with send := (s.scu g).send ++ [{
          msg := s.sendMsg g ra tag (toBytes ((s.scu g).reg rc).v.toNat ((s.scu g).reg rb).v.toNat), scu := localOf g }] }) (pc + 1) := by
  simp only [queueSend, sendAddress, haddress, hlength, hbytes, hok, if_neg (Nat.not_lt.2 hshort), Bool.or_self, Bool.and_false,
    Bool.false_and, Bool.not_true, Bool.not_false, Bool.false_eq_true, if_false, if_true]
  rfl

theorem queueSend_memory {n off : Nat} (hn : n = ((s.scu g).reg rc).v.toNat) (hoff : off = ((s.scu g).reg rb).v.toNat) (hshort : n ≤ 4080)
    (hrange : (s.mu (homeMu g)).rangeOk off n = true) (hzero : (s.mu (homeMu g)).zeroizing = false)
    (hawake : (s.mu (homeMu g)).asleep off n = 0) (hclear : ((s.touchRead (homeMu g) off n).mu (homeMu g)).fogAt off n = false)
    (hroom : (s.scu g).send.length < 8) :
    queueSend s g pc ra rb rc tag true
      = .retire ((s.touchRead (homeMu g) off n).setScu g { s.scu g with send := (s.scu g).send ++ [{
          msg := s.sendMsg g ra tag (memRead (s.mu (homeMu g)).mem off n), scu := localOf g }] }) (pc + 1) := by
  subst hn hoff
  simp only [queueSend, sendAddress, haddress, hlength, hbytes, hok, hrange, hzero, hawake, hclear, State.touchRead_scu,
    State.touchRead_mem, if_neg (Nat.not_lt.2 hshort), if_neg (Nat.not_le.2 hroom), ne_eq, not_true_eq_false, Bool.or_self, Bool.and_false,
    Bool.false_and, Bool.not_true, Bool.false_eq_true, if_false]
  rfl

end Send

/-- Settles O17: the registers give the message, the buffer has room for it or not. -/
theorem scalarSend : Obligations.ScalarSend := by
  intro u ra rb rc tag s g v a b n m
  refine ⟨fun hrun haddress hlength hbytes hshort hok => ⟨fun hroom => ?_, fun hfull => ?_⟩, ?_⟩
  · have heffect := (queueSend_register v.pc haddress hlength hbytes hok hshort).trans (if_neg (Nat.not_le.2 hroom))
    exact runScalar_retire hrun heffect
  · have heffect := (queueSend_register v.pc haddress hlength hbytes hok hshort).trans (if_pos hfull)
    exact runScalar_block hrun heffect
  · intro h k hrun haddress hlength hbytes hshort hok hrange hzero hawake hclear hroom
    exact runScalar_retire hrun (queueSend_memory v.pc haddress hlength hbytes hok rfl rfl hshort hrange hzero hawake hclear hroom)

end Sys2Proof.Machine
end

section
/-!
PROOFS. Scalar units: the issue of tensor instructions, completion tags, predicate ports and special registers (R182 to R186, R271, R297,
R299).
-/

namespace Sys2Proof.Machine

/-! ### tiss -/

theorem State.setIssueQ_scu (s : State) (c i : Nat) (l : List Issued) (j : Nat) : (s.setIssueQ c i l).scu j = s.scu j := by
  unfold State.setIssueQ
  split <;> rfl

/-- Whom the unit of a queue served last is apart from what waits in it. -/
theorem State.issueQ_setTu_lastScu (s : State) (c i k : Nat) :
    (s.setTu (gidOf c i) { s.tu (gidOf c i) with lastScu := k }).issueQ c i = s.issueQ c i := by
  unfold State.issueQ
  split
  · rfl
  · rw [State.setTu_tu, if_pos rfl]

/-- The instruction that a `tiss` issues: the word's, with the registers that replace `count` and `sq` (R271). -/
def State.tissInstr (s : State) (g i w rc rs : Nat) : TInstr :=
  let t0 := decodeTensor ((s.tu (holderOf g i)).word w)
  let t1 : TInstr := if rc = 0 then t0 else { t0 with count := ((s.scu g).reg rc).v.toNat % 65536 }
  if rs = 0 then t1 else { t1 with sq := ((s.scu g).reg rs).v.toNat % 65536 }

section Issue
variable {s : State} {g i w rc rs : Nat} (pc : Nat)
  (hcount : ((s.scu g).reg rc).fog = false) (hsq : ((s.scu g).reg rs).fog = false) (hunit : i < 20 ∨ i = 24)
  (hword : (s.tu (holderOf g i)).wordBad w = false) (hclass : classAgrees i (s.tissInstr g i w rc rs) = true)
  (htags : (s.scu g).tags.length < 64) (hnew : ∀ e ∈ (s.scu g).tags, e.tag ≠ (s.tissInstr g i w rc rs).tag)
  (hroom : (s.issueQ (clusterOf g) i).length < 8) (hturn : s.issuesAhead g i = false)
include hcount hsq hunit hword hclass htags hnew hroom hturn

theorem tensorIssue_issues :
    tensorIssue s g pc i w rc rs
      = .retire (((s.setTu (gidOf (clusterOf g) i) { s.tu (gidOf (clusterOf g) i) with lastScu := localOf g - 20 }).setIssueQ (clusterOf g) i
          (s.issueQ (clusterOf g) i ++ [{ i := s.tissInstr g i w rc rs, scu := localOf g, ctx := s.ctxOf g }])).setScu g
            (if (s.tissInstr g i w rc rs).tag = 0 then s.scu g
             else { s.scu g with tags := (s.scu g).tags ++ [{ tag := (s.tissInstr g i w rc rs).tag }] })) (pc + 1) := by
  have hunit' : (decide (i < 20) || i == 24) = true := by simpa using hunit
  have hany : (s.scu g).tags.any (fun e => e.tag == (s.tissInstr g i w rc rs).tag) = false := by
    simpa [List.any_eq_false] using hnew
  have hlong : ¬ 64 ≤ (s.scu g).tags.length := Nat.not_le.2 htags
  have hfull : decide (8 ≤ (s.issueQ (clusterOf g) i).length) = false := decide_eq_false (Nat.not_le.2 hroom)
  unfold State.tissInstr at hclass hany ⊢
  simp only [tensorIssue, hcount, hsq, hunit', hword, hclass, hany, hlong, hfull, hturn, Bool.or_self, Bool.not_true, Bool.false_eq_true,
    and_false, if_false, State.setIssueQ_scu, State.issueQ_setTu_lastScu]
  rfl

end Issue

/-! ### wait, pout and rdsr -/

theorem tagWait_posted {s : State} {g tag st : Nat} (pc rd : Nat)
    (hfind : (s.scu g).tags.find? (fun e => e.tag == tag) = some { tag := tag, posted := some st }) :
    tagWait s g pc rd tag = .retire (s.setScu g (({ s.scu g with tags := (s.scu g).tags.filter (fun e => e.tag != tag) } : Scu).setReg rd
      { v := BitVec.ofNat 64 st })) (pc + 1) := by
  simp only [tagWait, hfind]

theorem tagWait_none {s : State} {g tag : Nat} (pc rd : Nat) (hnone : ∀ e ∈ (s.scu g).tags, e.tag ≠ tag) :
    tagWait s g pc rd tag = .retire (s.setScu g ((s.scu g).setReg rd {})) (pc + 1) := by
  have hfind : (s.scu g).tags.find? (fun e => e.tag == tag) = none := by simpa using hnone
  simp only [tagWait, hfind]

theorem scalarEffect_pout {s : State} {g : Nat} (pc : Nat) {port : Fin 2} {p : Fin 8} (hfog : ((s.scu g).pred p.val).fog = false)
    (hroom : (if port.val = 0 then (s.scu g).pport0 else (s.scu g).pport1).length < 16) :
    scalarEffect s g pc (.pout port p) = .retire (s.setScu g
      (if port.val = 0 then { s.scu g with pport0 := (s.scu g).pport0 ++ [((s.scu g).pred p.val).v] }
       else { s.scu g with pport1 := (s.scu g).pport1 ++ [((s.scu g).pred p.val).v] })) (pc + 1) := by
  simp only [scalarEffect, hfog, if_neg (Nat.not_le.2 hroom), Bool.false_eq_true, if_false]
  split <;> rfl

/-- The special registers by number (R297). -/
theorem State.special_eq (s : State) (g : Nat) (sr : Fin 7) :
    s.special g sr.val = match sr with
      | 0 => s.time | 1 => clusterOf g | 2 => g | 3 => (s.ownerOf (clusterOf g)).getD 0
      | 4 => (s.scu g).lastStatus + (s.scu g).lastUnit * 2 ^ 16 + (s.scu g).undeliv * 2 ^ 32
      | 5 => (s.die (dieOf (clusterOf g))).frame | _ => s.flash.boot := by
  fin_cases sr <;> rfl

theorem runScalar_rdsr {u : ScuId} {rd : Fin 32} {sr : Fin 7} {s : State} {n : Nat} (hrun : s.canRun (scuGid u) (.rdsr rd sr) = true)
    (hn : s.special (scuGid u) sr.val = n) :
    runScalar u (.rdsr rd sr) s = .next ((s.setScu (scuGid u) ((s.scu (scuGid u)).setReg rd.val { v := BitVec.ofNat 64 n })).retireScalar
      (scuGid u) ((s.scu (scuGid u)).pc + 1) .running) := by
  subst hn
  exact runScalar_retire hrun rfl

/-- Settles O18: a `tiss` whose turn it is has every check behind it; the table of tags has the tag with its status or not at all; a port
has room; the special register is read in the state of the step. -/
theorem scalarIssueWaitPortSpecial : Obligations.ScalarIssueWaitPortSpecial := by
  intro u w i rc rs rd tg st port p sr s g c v t0 t1 t2
  refine ⟨fun hrun hcount hsq hunit hword hclass htags hnew hroom hturn => ?_, fun hrun hfind => ?_, fun hrun hnone => ?_,
    fun hrun hfog hroom => ?_, fun hrun => ?_⟩
  · exact runScalar_retire hrun (tensorIssue_issues v.pc hcount hsq hunit hword hclass htags hnew hroom hturn)
  · exact runScalar_retire hrun (tagWait_posted v.pc rd.val hfind)
  · exact runScalar_retire hrun (tagWait_none v.pc rd.val hnone)
  · exact runScalar_retire hrun (scalarEffect_pout v.pc hfog hroom)
  · exact runScalar_rdsr hrun (State.special_eq s g sr)

end Sys2Proof.Machine
end

section
/-!
PROOFS. Messages: packets that move, the check at the receiving scalar unit, the outcome at the sender, and the results of combining queues
(R199 to R201, R207, R252).
-/

namespace Sys2Proof.Machine

/-! ### The box of a router -/

theorem Packet.isMessage_of_body {p : Packet} {m : Msg} {g : Nat} (hbody : p.body = .message m) (hunit : m.unit = g) :
    p.isMessage g = true := by
  simp only [Packet.isMessage, hbody, hunit, beq_self_eq_true]

theorem Packet.isOutcome_of_body {p : Packet} {g q w st : Nat} {hb : Bool} (hdest : p.dest = g) (hbody : p.body = .outcome q w st hb) :
    p.isOutcome g = true := by
  simp only [Packet.isOutcome, hdest, hbody, beq_self_eq_true, Bool.and_self]

/-! ### Packets that move -/

theorem exec_packetForward_inject {c : Fin 2048} {n : Nat} {s : State} (hready : s.phase = .ready)
    (hlog : s.logWaits (gidOf c.val 25) = false) :
    exec (.packetForward (.inject c n)) s = .next (if n < 6 then s.continueInjection c.val n else s.startInjection c.val (n - 6)) := by
  simp only [exec, execPacketForward, hready, hlog, Option.any_some, ne_eq, not_true_eq_false, decide_false, Bool.or_self,
    Bool.false_eq_true, if_false]

theorem exec_packetForward_move {px : Fin 64} {py : Fin 34} {side : Fin 5} {cls : Fin 6} {s : State} (hready : s.phase = .ready)
    (hlog : ∀ k, s.logicalAt px.val py.val = some k → s.logWaits (gidOf k 25) = false) :
    exec (.packetForward (.move px py side cls)) s = .next (s.hop px.val py.val side.val cls.val) := by
  have hany : (s.logicalAt px.val py.val).any (fun k => s.logWaits (gidOf k 25)) = false := by
    cases hat : s.logicalAt px.val py.val with
    | none => rfl
    | some k => exact hlog k hat
  simp only [exec, execPacketForward, hready, hany, ne_eq, not_true_eq_false, decide_false, Bool.or_self, Bool.false_eq_true, if_false]

/-! ### A message at its scalar unit -/

/-- What a scalar unit does with an outcome of the check of R200: the message is placed, or its sender's context fails, and the sender is
answered unless it failed. `t` is the state without the packet. -/
def State.receive (t : State) (c g : Nat) (p : Packet) (m : Msg) : MsgOutcome → State
  | .accepted => ((t.accept g m).progress c).reply c g p.src p.ctx (.outcome m.queue g stOK false)
  | .refused st => t.reply c g p.src p.ctx (.outcome m.queue g st false)
  | .held => t.reply c g p.src p.ctx (.outcome m.queue g stOK true)
  | .senderFails st ca => t.failSender m st ca

theorem exec_messageArrival {u : ScuId} {a b : List Packet} {p : Packet} {m : Msg} {s : State} (hacts : s.acts (scuGid u) = true)
    (hrunning : (s.scu (scuGid u)).frozen = false) (hbox : (s.rt u.cluster.val).inbox = a ++ p :: b)
    (hfirst : ∀ x ∈ a, x.isMessage (scuGid u) = false) (hbody : p.body = .message m) (hunit : m.unit = scuGid u)
    (hgood : s.ctxFailed m.ctx = false) (hzero : (s.mu (homeMu (scuGid u))).zeroizing = false)
    (hawake : (s.mu (homeMu (scuGid u))).asleepAll (s.acceptRanges (scuGid u) m) = 0) :
    exec (.messageArrival u) s = .next ((s.setRt u.cluster.val { s.rt u.cluster.val with inbox := a ++ b }).receive u.cluster.val (scuGid u)
      p m (((s.scu (scuGid u)).queue m.queue).check (s.ownerOf u.cluster.val) m)) := by
  have htake := s.takeInbox_split u.cluster.val (·.isMessage (scuGid u)) a b p hbox hfirst (Packet.isMessage_of_body hbody hunit)
  simp only [exec, execMessageArrival, hacts, hrunning, htake, hbody, hgood, hzero, hawake, State.offer, hunit, State.setRt_frame,
    clusterOf_scuGid, ne_eq, not_true_eq_false, Bool.not_true, Bool.or_self, Bool.false_eq_true, if_false]
  cases ((s.scu (scuGid u)).queue m.queue).check (s.ownerOf u.cluster.val) m <;> rfl

/-- A message of its own context that fits is accepted by an open register queue with room (R200). -/
theorem Queue.check_register {k : Queue} {own : Option Nat} {m : Msg} (hmode : k.mode = .register) (hopened : k.opened = true)
    (hown : own = some m.ctx) (hshort : m.payload.length ≤ 8) (hroom : k.entries.length < 32) : k.check own m = .accepted := by
  simp [Queue.check, Queue.fits, Queue.space, hmode, hopened, hown, hshort, hroom]

theorem State.accept_register {t : State} {g : Nat} {m : Msg} (hmode : ((t.scu g).queue m.queue).mode = .register) :
    t.accept g m = t.setScu g ((t.scu g).setQueue m.queue { (t.scu g).queue m.queue with
      entries := ((t.scu g).queue m.queue).entries ++ [{ data := BitVec.ofNat 64 (ofBytes m.payload), tag := m.tag, fog := m.fog }] }) := by
  simp only [State.accept, hmode]

/-! ### The outcome at the sender -/

theorem exec_messageOutcome {v : SenderId} {a b : List Packet} {p : Packet} {q w st : Nat} {hb : Bool} {s : State}
    (hacts : s.acts (senderGid v) = true) (hbox : (s.rt v.cluster.val).inbox = a ++ p :: b)
    (hfirst : ∀ x ∈ a, x.isOutcome (senderGid v) = false) (hdest : p.dest = senderGid v) (hbody : p.body = .outcome q w st hb)
    (howner : s.ownerOf v.cluster.val = some p.ctx) :
    exec (.messageOutcome v) s
      = .next ((s.setRt v.cluster.val { s.rt v.cluster.val with inbox := a ++ b }).takeOutcome (senderGid v) q w st hb) := by
  have htake := s.takeInbox_split v.cluster.val (·.isOutcome (senderGid v)) a b p hbox hfirst (Packet.isOutcome_of_body hdest hbody)
  simp only [exec, execMessageOutcome, hacts, htake, hbody, State.setRt_frame, howner, Bool.not_true, Bool.false_eq_true, if_false, if_true]

theorem exec_messageReoffer {v : SenderId} {j : Nat} {e : SendEntry} {s : State} (hacts : s.acts (senderGid v) = true)
    (hentry : (s.sendBuf (senderGid v))[j]? = some e) (hheld : e.state = .held) :
    exec (.messageReoffer v j) s
      = .next (s.setSendBuf (senderGid v) ((s.sendBuf (senderGid v)).set j { e with state := .waiting })) := by
  simp only [exec, execMessageReoffer, hacts, hentry, hheld, Bool.not_true, Bool.false_eq_true, if_false, if_true]

/-! ### Results of combining queues -/

theorem exec_combiningResultPlace {u : ScuId} {q : Fin 64} {r : HeldResult} {s : State} {k : Queue} (hk : k = (s.scu (scuGid u)).queue q.val)
    (hacts : s.acts (scuGid u) = true) (hrunning : (s.scu (scuGid u)).frozen = false) (hzero : (s.mu (homeMu (scuGid u))).zeroizing = false)
    (hresult : k.result = some r) (hroom : k.placeRanges (16 + r.payload.length) ≠ [])
    (hawake : (s.mu (homeMu (scuGid u))).asleepAll (k.placeRanges (16 + r.payload.length)) = 0) :
    exec (.combiningResultPlace u q) s
      = .next (((s.placeResult (homeMu (scuGid u)) k).1.setScu (scuGid u) (((s.placeResult (homeMu (scuGid u)) k).1.scu (scuGid u)).setQueue
          q.val (s.placeResult (homeMu (scuGid u)) k).2)).progress u.cluster.val) := by
  subst hk
  have hsome : (((s.scu (scuGid u)).queue q.val).placeRanges (16 + r.payload.length)).isEmpty = false := by simpa using hroom
  simp only [exec, execCombiningResultPlace, hresult, hacts, hrunning, hzero, hsome, hawake, ne_eq, not_true_eq_false, Bool.not_true,
    Bool.or_self, Bool.false_eq_true, if_false]

/-- Settles O32: each command finds its packet, entry or result, and the check of the message at its queue chooses what follows. -/
theorem messagesTravel : Obligations.MessagesTravel := by
  refine ⟨fun c n px py side cls s hready => ⟨exec_packetForward_inject hready, exec_packetForward_move hready⟩,
    fun u a b p m s => ?_, fun v a b p q w st hb s => exec_messageOutcome, fun v j e s => exec_messageReoffer, fun u q r s => ?_⟩
  · intro g c k t answer hacts hrunning hbox hfirst hbody hunit hgood hzero hawake
    have hexec := exec_messageArrival hacts hrunning hbox hfirst hbody hunit hgood hzero hawake
    have hcheck : ∀ o, k.check (s.ownerOf c) m = o → exec (.messageArrival u) s = .next (t.receive c g p m o) := fun o ho => ho ▸ hexec
    refine ⟨hcheck .accepted, fun st => hcheck (.refused st), hcheck .held, fun st ca => hcheck (.senderFails st ca),
      fun hmode hopened hown hshort hroom => ?_⟩
    have haccept := State.accept_register (t := t) (g := g) (m := m) hmode
    exact (hcheck .accepted (Queue.check_register hmode hopened hown hshort hroom)).trans (by rw [State.receive, haccept]; rfl)
  · intro g k l hacts hrunning hzero hresult hroom hawake
    exact exec_combiningResultPlace rfl hacts hrunning hzero hresult hroom hawake

end Sys2Proof.Machine
end

section
/-!
PROOFS. The stream fabric: steering instructions and elements, and what moves from units, lanes and ports (R216, R223, R227, R229 to R234).
-/

namespace Sys2Proof.Machine

/-! ### Steering instructions (R229, R231, R277) -/

/-- The steering commands of a switch with their opcode. -/
def steerCommands (c : Fin 2048) : List (Nat × Instr) :=
  [(0x40, .steerOff c), (0x41, .steerSw c), (0x42, .steerMg c), (0x43, .steerGate c), (0x44, .steerCarry c), (0x45, .steerRep c),
    (0x46, .steerDec c)]

/-- The seven commands are one, with the opcode they run, and the switch runs each of the opcodes. -/
theorem exec_steerCommand {c : Fin 2048} {x : Nat × Instr} (hx : x ∈ steerCommands c) (s : State) :
    exec x.2 s = steerCmd c.val x.1 s ∧ opRuns 24 x.1 = true := by
  simp only [steerCommands, List.mem_cons, List.not_mem_nil, or_false] at hx
  rcases hx with rfl | rfl | rfl | rfl | rfl | rfl | rfl
  all_goals exact ⟨rfl, rfl⟩

/-- A configuration instruction whose fields, ports and count are good waits at its element, where none waits yet. -/
theorem steerCmd_waits {c op : Nat} {h : Issued} {l : List Issued} {s : State} (hacts : s.acts (gidOf c 24) = true)
    (hhead : (s.sw c).iq = h :: l) (hop : h.i.op = op) (hruns : opRuns 24 op = true) (hfields : fieldsOk 24 h.i = true)
    (hports : steerPorts (s.sw c) (h.i.sq % 8) (op - 0x40) = true) (hcount : 0x45 ≤ op → h.i.count ≠ 0)
    (hfree : (tabGet ({} : Elem) (s.sw c).elems (h.i.sq % 8)).next = none) :
    steerCmd c op s = .next (s.setSw c { s.sw c with
      iq := l
      elems := tabSet (s.sw c).elems (h.i.sq % 8) { tabGet ({} : Elem) (s.sw c).elems (h.i.sq % 8) with
        next := some ({ kind := op - 0x40, gran := h.i.gran, n := if 0x45 ≤ op then h.i.count else 0 }, h) } }) := by
  have helem : fld h.i.sq 2 0 = h.i.sq % 8 := by simp [fld]
  have hkind : 5 ≤ op - 0x40 ↔ 0x45 ≤ op := by omega
  have hcounted : (decide (0x45 ≤ op) && h.i.count == 0) = false := by simpa using hcount
  simp only [steerCmd, hacts, hhead, hop, hruns, helem, hfields, hports, hkind, hcounted, hfree, Option.isSome_none, ne_eq,
    not_true_eq_false, Bool.not_true, Bool.or_self, Bool.false_eq_true, if_false]

theorem exec_steerConfigApply {c : Fin 2048} {e : Fin 8} {cfg : SteerCfg} {h : Issued} {s : State}
    (hacts : s.acts (gidOf c.val 24) = true) (hnext : (tabGet ({} : Elem) (s.sw c.val).elems e.val).next = some (cfg, h))
    (hidle : (s.sw c.val).idleElem e.val = true) (hspilled : s.ctlSpilled c.val e.val = false) :
    exec (.steerConfigApply c e) s
      = .next (((s.setSw c.val { s.sw c.val with
          elems := tabSet (s.sw c.val).elems e.val { tabGet ({} : Elem) (s.sw c.val).elems e.val with
            cfg := cfg, next := none, looping := false, index := 0, flit := 0, blockBytes := [] } }).postTag (gidOf c.val 24) h
          stOK).progress c.val) := by
  simp only [exec, execSteerConfigApply, hnext, hacts, hidle, hspilled, Bool.not_true, Bool.or_self, Bool.false_eq_true, if_false]

/-! ### Predicate bits of elements (R231, R232) -/

theorem Elem.needsBit_of_kind {x : Elem} (hkind : x.cfg.kind = 1 ∨ x.cfg.kind = 2 ∨ x.cfg.kind = 3 ∨ (x.cfg.kind = 4 ∧ x.looping = true))
    (hbit : x.bit = none) (hidle : x.inTensor = false) : x.needsBit = true := by
  simpa [Elem.needsBit, hbit, hidle, or_assoc] using hkind

/-- Nothing is counted at an input without a head. -/
theorem State.countIn_of_no_head (s : State) {c e k : Nat} {w w' : Sw} (hhead : w.inHead e k = none) : s.countIn c e k w w' = s := by
  unfold State.countIn
  rw [hhead]
  cases w.elemIn e k with
  | none => rfl
  | some b => rfl

/-- With nothing at the inputs, an element that needs a bit takes the one at the head of its control buffer. -/
theorem exec_steerToken_bit {c : Fin 2048} {e : Fin 8} {i : Nat} {b : Bool} {bs : List Bool} {s : State} {w : Sw} {x : Elem}
    (hw : w = s.sw c.val) (hx : x = tabGet ({} : Elem) w.elems e.val) (hacts : s.acts (gidOf c.val 24) = true)
    (hneeds : x.needsBit = true) (hconf0 : x.conf0 = 0) (hconf1 : x.conf1 = 0) (hin0 : w.inHead e.val 0 = none)
    (hin1 : w.inHead e.val 1 = none) (hctl : w.ctlOf e.val = some i) (hbits : tabGet [] w.ctl i = b :: bs)
    (hepoch : newer (tabGet 0 w.circEpoch (64 + i)) x.epoch = false) :
    exec (.steerToken c e) s
      = .next ((s.setSw c.val { w.dropCtl i with
          elems := tabSet w.elems e.val (if x.cfg.kind = 4 ∧ b = false then { x with looping := false } else { x with bit := some b }) }).progress
            c.val) := by
  have hkinds : x.cfg.kind ≠ 0 ∧ (x.cfg.kind == 5) = false := by
    simp only [Elem.needsBit, Bool.and_eq_true, Bool.or_eq_true, beq_iff_eq] at hneeds
    simp only [beq_eq_false_iff_ne]
    omega
  obtain ⟨hon, hrep⟩ := hkinds
  have hbad : w.confBad e.val x = none := by simp [Sw.confBad, hin0, hin1]
  subst hw hx
  simp only [exec, execSteerToken, hacts, hon, hrep, hbad, hin0, hin1, hneeds, hconf0, hconf1, hctl, hbits, hepoch, bne_self_eq_false,
    State.countIn_of_no_head _ hin0, State.countIn_of_no_head _ hin1, Bool.not_true, Bool.or_self, Bool.false_and, Bool.false_eq_true,
    decide_false, if_false, if_true]
  split <;> rfl

/-- Settles O28: each steering command is one command that waits at its element, an idle element takes its configuration, and one that
needs a bit takes it. -/
theorem steeringConfigures : Obligations.SteeringConfigures := by
  refine ⟨fun c h l e cfg s => ?_, fun c e i b bs s => ?_⟩
  · intro w hacts
    refine ⟨fun x hx hhead hop hfields hports hcount hfree => ?_, exec_steerConfigApply hacts⟩
    obtain ⟨hexec, hruns⟩ := exec_steerCommand hx s
    exact hexec.trans (steerCmd_waits hacts hhead hop hruns hfields hports hcount hfree)
  · intro w x hacts hkind hbit hidle hconf0 hconf1 hin0 hin1 hctl hbits hepoch
    exact exec_steerToken_bit rfl rfl hacts (Elem.needsBit_of_kind hkind hbit hidle) hconf0 hconf1 hin0 hin1 hctl hbits hepoch

/-! ### Arrival at queues (R222, R223, R227) -/

theorem State.canTake_of_room {s : State} {c : Nat} {q : QueueRef} (hspill : (s.sw c).spilling (queueNum q) = false)
    (hroom : (s.queueItems c q).length < queueCap q) : s.canTake c q = true := by
  simp only [State.canTake, hspill, hroom, Bool.false_eq_true, if_false, decide_true]

/-- A flit that arrives at a queue out of spill mode enters it, and the switch notes its fog. -/
theorem State.arrive_of_not_spilling {s : State} {c : Nat} {q : QueueRef} (f : Flit) (hspill : (s.sw c).spilling (queueNum q) = false) :
    s.arrive c q f = (s.setSw c (if f.fogged then { s.sw c with fogSeen := true } else s.sw c)).enqueue c q f := by
  have hkept : (if f.fogged then { s.sw c with fogSeen := true } else s.sw c).spilling (queueNum q) = false := by
    split <;> exact hspill
  simp only [State.arrive, hkept, Bool.false_eq_true, if_false]

/-- A flit of a chain lane joins those handed over to its consumer. -/
theorem State.enqueue_lane {s : State} {c : Nat} {u : Fin 20} {ch : Fin 2} {f : Flit} (hlane : laneFlit f = true) :
    s.enqueue c (.inq u ch) f
      = s.setTu (gidOf c u.val) { s.tu (gidOf c u.val) with hand := (s.tu (gidOf c u.val)).hand ++ [f] } := by
  simp only [State.enqueue, hlane, if_true]

/-- What the arrival of a chain lane's flit does: its consumer has it, and the lanes are as they were. -/
theorem State.arrive_lane {s : State} {c : Nat} {u : Fin 20} {ch : Fin 2} {f : Flit} (hlane : laneFlit f = true)
    (hspill : (s.sw c).spilling (queueNum (.inq u ch)) = false) :
    ((s.arrive c (.inq u ch) f).tu (gidOf c u.val)).hand = (s.tu (gidOf c u.val)).hand ++ [f]
      ∧ ((s.arrive c (.inq u ch) f).sw c).lanes = (s.sw c).lanes := by
  rw [State.arrive_of_not_spilling f hspill, State.enqueue_lane hlane]
  simp only [State.setTu_tu, State.setTu_frame, State.setSw_frame, State.setSw_sw, if_true, true_and]
  split <;> rfl

/-! ### Transfers (R216, R223, R227) -/

theorem exec_streamFlitTransfer_fromUnit {c : Fin 2048} {u : Fin 20} {f : Flit} {l : List Flit} {s : State}
    (hacts : s.acts (gidOf c.val 24) = true) (hout : (s.tu (gidOf c.val u.val)).outq0 = f :: l) :
    exec (.streamFlitTransfer c (.fromUnit u 0)) s
      = .next (s.intoCircuit (s.setTu (gidOf c.val u.val) { s.tu (gidOf c.val u.val) with outq0 := l }) c.val (chanPort u.val 0)
          { f with own := 0 }) := by
  simp only [exec, execStreamFlitTransfer, hacts, hout, Fin.val_zero, Bool.not_true, Bool.false_eq_true, if_false, if_true]

theorem exec_streamFlitTransfer_lane {c : Fin 2048} {n : Fin 4} {f : Flit} {l : List Flit} {s : State} {x : Lane} {q : QueueRef}
    (hx : x = tabGet ({} : Lane) (s.sw c.val).lanes n.val) (hq : q = chanRef x.dst (s.laneChan c.val x.dst))
    (hacts : s.acts (gidOf c.val 24) = true) (hflits : x.flits = f :: l) (htake : s.canTake c.val q = true) :
    exec (.streamFlitTransfer c (.lane n)) s
      = .next (((s.setSw c.val { s.sw c.val with lanes := tabSet (s.sw c.val).lanes n.val { x with flits := l } }).arrive c.val q f).progress
          c.val) := by
  subst hx hq
  simp only [exec, execStreamFlitTransfer, hacts, hflits, htake, Bool.not_true, Bool.false_eq_true, if_false]

theorem exec_controlBitTransfer_fromPort {c : Fin 2048} {k : Fin 4} {i : Nat} {b : Bool} {bs : List Bool} {s : State}
    (hacts : s.acts (gidOf c.val 24) = true) (hport : (s.scu (gidOf c.val (20 + k.val))).pport0 = b :: bs)
    (hcirc : (s.sw c.val).ctlFrom (64 + 2 * k.val) = some i) (htake : s.canTake c.val (ctlRef i) = true) :
    exec (.controlBitTransfer c (.fromPort k 0)) s
      = .next (((s.setScu (gidOf c.val (20 + k.val)) { s.scu (gidOf c.val (20 + k.val)) with pport0 := bs }).arrive c.val (ctlRef i)
          (bitFlit b)).progress c.val) := by
  simp only [exec, execControlBitTransfer, hacts, hport, hcirc, htake, Fin.val_zero, Nat.add_zero, Bool.not_true, Bool.false_eq_true,
    if_false, if_true]

/-- Settles O29: each transfer has one effect while its queue takes the item, and an input queue out of spill mode takes it while it has
room. -/
theorem streamTransfers : Obligations.StreamTransfers := by
  intro c u n k i f l b bs s hacts
  refine ⟨exec_streamFlitTransfer_fromUnit hacts, ?_, exec_controlBitTransfer_fromPort hacts⟩
  intro x q hflits hlane hdst hspill hroom
  refine ⟨_, exec_streamFlitTransfer_lane rfl rfl hacts hflits (State.canTake_of_room hspill hroom), ?_⟩
  have hunit : (Fin.ofNat 20 x.dst).val = x.dst := Nat.mod_eq_of_lt hdst
  let t := s.setSw c.val { s.sw c.val with lanes := tabSet (s.sw c.val).lanes n.val { x with flits := l } }
  have hsw : t.sw c.val = { s.sw c.val with lanes := tabSet (s.sw c.val).lanes n.val { x with flits := l } } := by
    simp only [t, State.setSw_sw, if_true]
  have hfree : (t.sw c.val).spilling (queueNum q) = false := hsw ▸ hspill
  have harrive : ((t.arrive c.val q f).tu (gidOf c.val x.dst)).hand = (t.tu (gidOf c.val x.dst)).hand ++ [f]
      ∧ ((t.arrive c.val q f).sw c.val).lanes = (t.sw c.val).lanes := by
    have hunits := State.arrive_lane (u := Fin.ofNat 20 x.dst) (ch := Fin.ofNat 2 (s.laneChan c.val x.dst)) hlane hfree
    rwa [hunit] at hunits
  obtain ⟨hhand, hlanes⟩ := harrive
  simp only [State.progress_frame]
  refine ⟨?_, ?_⟩
  · rw [hhand]
    simp only [t, State.setSw_frame]
  · rw [hlanes, hsw, tabGet_tabSet, if_pos rfl]

end Sys2Proof.Machine
end

section
/-!
PROOFS. The spill ring: records written behind the others, a ring that is full, and records read back (R238 to R241).
-/

namespace Sys2Proof.Machine

/-! ### Device memory is apart from the fabric (R336 to R339) -/

/-- The switches and the spill rings stay as they are. -/
def State.FabricKept (s t : State) : Prop := t.sws = s.sws ∧ t.sfs = s.sfs

theorem State.FabricKept.refl (s : State) : s.FabricKept s := ⟨rfl, rfl⟩

section Kept
variable {s t u : State}

theorem State.FabricKept.trans (h : s.FabricKept t) (h' : t.FabricKept u) : s.FabricKept u := ⟨h'.1.trans h.1, h'.2.trans h.2⟩

theorem State.FabricKept.sw (h : s.FabricKept t) (c : Nat) : t.sw c = s.sw c := by
  obtain ⟨hsws, -⟩ := h
  simp only [State.sw, hsws]

theorem State.FabricKept.sf (h : s.FabricKept t) (r : Nat) : t.sf r = s.sf r := by
  obtain ⟨-, hsfs⟩ := h
  simp only [State.sf, hsfs]

/-- A run of steps that each keep the fabric keeps it. -/
theorem State.FabricKept.foldl {α : Type} {f : State → α → State} {l : List α} (h : s.FabricKept t)
    (hf : ∀ (u : State) a, u.FabricKept (f u a)) : s.FabricKept (l.foldl f t) :=
  List.foldlRecOn (motive := s.FabricKept) l f h fun _ hu a _ => hu.trans (hf _ a)

end Kept

theorem State.setHbm_fabricKept (s : State) (h : Hbm) : s.FabricKept (s.setHbm h) := ⟨rfl, rfl⟩

theorem State.setCtrl_fabricKept (s : State) (k : Nat) (v : Ctrl) : s.FabricKept (s.setCtrl k v) := ⟨rfl, rfl⟩

theorem State.record_fabricKept (s : State) (r : ErrRec) : s.FabricKept (s.record r) := by
  simp only [State.FabricKept, State.record_frame, and_self]

theorem State.corrected_fabricKept (s : State) (r : ErrRec) : s.FabricKept (s.corrected r) := by
  simp only [State.FabricKept, State.corrected_frame, and_self]

theorem State.rcDrop_fabricKept (s : State) (addr n : Nat) : s.FabricKept (s.rcDrop addr n) := by
  unfold State.rcDrop
  split
  · exact .refl s
  · exact s.setHbm_fabricKept _

theorem State.hbmUncheck_fabricKept (s : State) (addr n : Nat) : s.FabricKept (s.hbmUncheck addr n) := by
  unfold State.hbmUncheck
  split
  · exact .refl s
  · exact s.setHbm_fabricKept _

theorem State.countWr_fabricKept (s : State) (l : Nat) : s.FabricKept (s.countWr l) := s.setCtrl_fabricKept _ _

theorem State.poisonLine_fabricKept (s : State) (l : Nat) : s.FabricKept (s.poisonLine l) :=
  ((s.setHbm_fabricKept _).trans (State.rcDrop_fabricKept _ _ _)).trans (State.countWr_fabricKept _ _)

theorem State.dieRead_fabricKept (s : State) (k : Nat) : s.FabricKept (s.dieRead k) := by
  unfold State.dieRead
  split
  · exact s.setCtrl_fabricKept _ _
  · exact .refl s

theorem State.decodeHalf_fabricKept (s : State) (w : Who) (k : Nat) : s.FabricKept (s.decodeHalf w k) := by
  unfold State.decodeHalf
  refine (s.dieRead_fabricKept k).trans ?_
  generalize s.dieRead k = t
  dsimp only
  split
  · exact ((t.setHbm_fabricKept _).trans (State.setCtrl_fabricKept _ _ _)).trans (State.corrected_fabricKept _ _)
  · split
    · exact (((t.setHbm_fabricKept _).trans (State.setCtrl_fabricKept _ _ _)).trans (State.poisonLine_fabricKept _ _)).trans
        (State.record_fabricKept _ _)
    · exact .refl t

theorem State.readLine_fabricKept (s : State) (w : Who) (l : Nat) : s.FabricKept (s.readLine w l) :=
  ((s.decodeHalf_fabricKept w (2 * l)).trans (State.decodeHalf_fabricKept _ w (2 * l + 1))).trans (State.setCtrl_fabricKept _ _ _)

theorem State.hbmWriteKeep_fabricKept (s : State) (w : Who) (addr : Nat) (bytes keep : List Byte) (fog : List Bool) :
    s.FabricKept (s.hbmWriteKeep w addr bytes keep fog) := by
  unfold State.hbmWriteKeep
  dsimp only
  split
  · exact .refl s
  · refine (((State.FabricKept.foldl (.refl s) fun u l => ?_).trans (State.setHbm_fabricKept _ _)).trans
      (State.hbmUncheck_fabricKept _ _ _)).trans (State.rcDrop_fabricKept _ _ _)
    refine State.FabricKept.trans ?_ (State.setHbm_fabricKept _ _)
    split
    · exact u.countWr_fabricKept l
    · exact (u.readLine_fabricKept w l).trans (State.countWr_fabricKept _ l)

theorem State.hbmWrite_fabricKept (s : State) (w : Who) (addr : Nat) (bytes : List Byte) (fog : List Bool) :
    s.FabricKept (s.hbmWrite w addr bytes fog) := s.hbmWriteKeep_fabricKept w addr bytes [] fog

/-! ### The ring of a sector (R238, R240, R246) -/

/-- Progress restarts the count of a foghorn and leaves its ring. -/
theorem State.progress_ring (s : State) (c r : Nat) :
    ((s.progress c).sf r).ring = (s.sf r).ring ∧ ((s.progress c).sf r).next = (s.sf r).next
      ∧ ((s.progress c).sf r).written = (s.sf r).written := by
  unfold State.progress
  split
  · rw [State.setSf_sf]
    split
    next hr => subst hr; exact ⟨rfl, rfl, rfl⟩
    · exact ⟨rfl, rfl, rfl⟩
  · exact ⟨rfl, rfl, rfl⟩

theorem State.putRecord_sf (s : State) (r : Nat) (z : SpillRec) : (s.putRecord r z).sf r = (s.sf r).put z := by
  simp only [State.putRecord, State.setSf_sf, if_true]

theorem State.putRecord_sw (s : State) (r : Nat) (z : SpillRec) (c : Nat) : (s.putRecord r z).sw c = s.sw c := by
  simp only [State.putRecord, State.setSf_frame]
  exact (State.hbmWrite_fabricKept _ _ _ _ _).sw c

theorem State.fabricFail_ctx {s : State} {c x : Nat} {k : Ctx} (unit status cls cause : Nat) (howner : s.ownerOf c = some x)
    (hctx : s.ctx x = some k) (hgood : k.state ≠ .failed) :
    (s.fabricFail c unit status cls cause).ctx x = some { k with state := .failed, status := status, tearing := true } := by
  simp only [State.fabricFail, howner, State.failCtx_ctx, hctx, if_true, Option.map_some, if_neg hgood]

/-! ### The spill engine (R238, R240, R241, R343) -/

section Engine
variable {c : Fin 2048} {q : QueueRef} {r x : Nat} {s : State} (hacts : s.acts (gidOf c.val 24) = true) (hstacks : s.retrains = false)
  (howner : s.spillOwner c.val = some (r, x))
include hacts hstacks howner

theorem exec_spillRecordWrite_room {f : Flit} {l : List Flit} {t : State}
    (ht : t = (s.setSw c.val { s.sw c.val with waiting := tabSet (s.sw c.val).waiting (queueNum q) l }).putRecord r
      { cluster := c.val, q := q, flit := f.settle, bit := f.eot, ctx := x })
    (hwaits : tabGet [] (s.sw c.val).waiting (queueNum q) = f :: l)
    (hroom : (s.sf r).hasRoom = true) :
    exec (.spillRecordWrite c q) s
      = .next ((t.setSf r { t.sf r with written := ((s.sf r).written + 1) % 2 ^ 64 }).progress c.val) := by
  subst ht
  simp only [exec, execSpillRecordWrite, hwaits, howner, hacts, hstacks, hroom, Bool.not_true, Bool.or_self, Bool.false_eq_true, if_false]

theorem exec_spillRecordWrite_full {f : Flit} {l : List Flit} (hwaits : tabGet [] (s.sw c.val).waiting (queueNum q) = f :: l)
    (hfull : (s.sf r).hasRoom = false) :
    exec (.spillRecordWrite c q) s
      = .next (((s.setSw c.val { s.sw c.val with waiting := tabSet (s.sw c.val).waiting (queueNum q) l }).setSf r ((s.sf r).discard x)).fabricFail
          c.val (gidOf c.val 24) stSpillExhausted 1 0x08) := by
  simp only [exec, execSpillRecordWrite, hwaits, howner, hacts, hstacks, hfull, Bool.not_true, Bool.not_false, Bool.or_self,
    Bool.false_eq_true, if_false, if_true]

theorem exec_spillRecordRead_none (hspill : (s.sw c.val).spilling (queueNum q) = true) (hnone : (s.sf r).ofQueue c.val q = [])
    (hwaits : tabGet [] (s.sw c.val).waiting (queueNum q) = []) :
    exec (.spillRecordRead c q) s
      = .next (s.setSw c.val { s.sw c.val with
          spill := setDel (s.sw c.val).spill (queueNum q), readAhead := tabDel (s.sw c.val).readAhead (queueNum q) }) := by
  simp only [exec, execSpillRecordRead, howner, hacts, hstacks, hspill, hnone, hwaits, List.getElem?_nil, ite_self, List.isEmpty_nil,
    Bool.not_true, Bool.or_self, Bool.false_eq_true, if_false, if_true]

theorem exec_spillRecordRead_last {z : SpillRec} {h : State × List Byte × List Bool}
    (hh : h = s.hbmRead { unit := gidOf c.val 24, ctx := some x } ((s.sf r).addrOf z.pos) 256)
    (hspill : (s.sw c.val).spilling (queueNum q) = true) (hone : (s.sf r).ofQueue c.val q = [z]) (hgood : z.bad = false)
    (hclear : h.2.2.any id = false) (hwaits : tabGet [] (s.sw c.val).waiting (queueNum q) = [])
    (hahead : tabGet 0 (s.sw c.val).readAhead (queueNum q) = 0) (hroom : (s.queueItems c.val q).length < queueCap q) :
    exec (.spillRecordRead c q) s
      = .next ((((h.1.setSw c.val { s.sw c.val with
            readAhead := tabDel (s.sw c.val).readAhead (queueNum q), spill := setDel (s.sw c.val).spill (queueNum q) }).setSf r
          ((s.sf r).readOne c.val q)).enqueue c.val q z.flit).progress c.val) := by
  subst hh
  simp only [exec, execSpillRecordRead, howner, hacts, hstacks, hspill, hone, hwaits, hahead, hroom, hgood, hclear, bne_self_eq_false,
    List.getElem?_cons_zero, List.isEmpty_nil, Nat.zero_le, decide_true, Bool.and_self, Bool.and_false,
    Bool.not_true, Bool.or_self, Bool.false_eq_true, if_false, if_true]

end Engine

/-- Settles O31: the ring's room chooses whether the token is written or its context fails, and the records left of a queue whether one is
read back or the queue leaves spill mode. -/
theorem spillRecords : Obligations.SpillRecords := by
  intro c q f l r x k s w b hacts hstacks howner
  refine ⟨fun hwaits hroom => ?_, fun hwaits hfull hown hctx hgood => ?_, exec_spillRecordRead_none hacts hstacks howner,
    fun z => exec_spillRecordRead_last hacts hstacks howner rfl⟩
  · refine ⟨_, exec_spillRecordWrite_room hacts hstacks howner rfl hwaits hroom, ?_⟩
    simp only [State.progress_ring, State.progress_frame, State.setSf_sf, State.setSf_frame, State.putRecord_sf, State.putRecord_sw,
      State.setSw_sw, State.setSw_frame, tabGet_tabSet, if_true]
    exact ⟨rfl, rfl, rfl, trivial⟩
  · refine ⟨_, exec_spillRecordWrite_full hacts hstacks howner hwaits hfull, State.fabricFail_ctx _ _ _ _ ?_ ?_ hgood⟩
    · simpa only [State.setSf_frame, State.setSw_frame] using hown
    · simpa only [State.setSf_frame, State.setSw_frame] using hctx

end Sys2Proof.Machine
end

section
/-!
PROOFS. The shares of a group: contributions, merges, flushes, root merges and round advances (R259 to R262, R264, R284, R366, R367).
-/

namespace Sys2Proof.Machine

/-! ### Routers are apart from the scratchpads (R94, R260, R463) -/

theorem State.setRt_setRt (s : State) (c : Nat) (v w : Rt) : (s.setRt c v).setRt c w = s.setRt c w := by
  simp only [State.setRt, tabSet_tabSet]

theorem State.foldl_rts {α : Type} {f : State → α → State} (hf : ∀ t a, (f t a).rts = t.rts) (l : List α) (s : State) :
    (l.foldl f s).rts = s.rts :=
  List.foldlRecOn (motive := fun t => t.rts = s.rts) l f rfl fun t ht a _ => (hf t a).trans ht

theorem State.touchRead_rts (s : State) (g off n : Nat) : (s.touchRead g off n).rts = s.rts := by
  obtain ⟨m, k, e, i, p, t, a, o, h, -⟩ := s.touchRead_eq g off n
  rw [h]

theorem State.muBadBlock_rts (s : State) (g cls a len : Nat) (want got : BitVec 32) : (s.muBadBlock g cls a len want got).rts = s.rts := by
  simp only [State.muBadBlock, State.crcMismatch, State.record_frame, State.setMu_frame]

theorem State.muVerify_rts (s : State) (g cls addr n : Nat) : (s.muVerify g cls addr n).rts = s.rts := by
  refine State.foldl_rts (fun t i => ?_) _ s
  dsimp only
  split
  · rfl
  · split
    · rfl
    · split
      · rfl
      · split
        · rfl
        · exact t.muBadBlock_rts _ _ _ _ _ _

theorem State.readPlain_rt (s : State) (g : Nat) (d : Desc) (base c : Nat) : ((s.readPlain g d base).1).rt c = s.rt c := by
  have hrts : ((s.readPlain g d base).1).rts = s.rts := by
    unfold State.readPlain State.readRaw
    dsimp only
    split
    · exact (State.muVerify_rts _ _ _ _ _).trans (State.foldl_rts (fun t ⟨a, n⟩ => t.touchRead_rts g a n) _ s)
    · exact State.foldl_rts (fun t ⟨a, n⟩ => t.touchRead_rts g a n) _ s
  simp only [State.rt, hrts]

theorem State.endRun_rt (s : State) (g : Nat) (r : Run) (c : Nat) : (s.endRun g r none false).rt c = s.rt c := by
  simp only [State.endRun, State.putRun, State.setTu_frame]

/-! ### CONTRIB (R259, R284, R366) -/

/-- The group that a CONTRIB's number is bound to in its context; 256 when none. -/
def State.contribGroup (s : State) (r : Run) : Nat := tabGet 256 (((s.ctx r.iss.ctx).map (·.binds)).getD []) r.iss.i.num

/-- The round that a run of a CONTRIB belongs to. -/
def Run.contribRound (r : Run) : Nat := (recFld r.prm 143 128 + r.run) % 65536

/-- How far a run's round is ahead of the one that the router of cluster `c` holds. -/
def State.roundsAhead (s : State) (c : Nat) (r : Run) : Nat :=
  (r.contribRound + 65536 - tabGet 0 (s.rt c).rounds (s.contribGroup r) % 65536) % 65536

/-- The blocks that a run contributes: 16 elements each of the walk of its descriptor A. -/
def State.contribBlocks (s : State) (g : Nat) (r : Run) : List (List El) :=
  chunks 16 (r.desc r.iss.i.da).count (s.readPlain g (r.desc r.iss.i.da) 0).2.1.flatten

/-- The packet of one block: a contribution of the run's round to the group, on its way to the group's root. -/
def State.contribPacket (s : State) (g : Nat) (r : Run) (b : List El) (j : Nat) : Packet :=
  { dest := gidOf (s.grp (s.contribGroup r)).root 0, cls := 0, flits := flitCount (b.length * ((r.desc r.iss.i.da).bits / 8)), src := g
    ctx := r.iss.ctx
    body := .contribution (s.contribGroup r) r.contribRound j (r.desc r.iss.i.da).code (b.map (·.bits)) (b.any (·.fog)) }

/-- The packets of a run, one for each block, from the first block that its record names. -/
def State.contribPackets (s : State) (g : Nat) (r : Run) : List Packet :=
  ((s.contribBlocks g r).zip (upto (recFld r.prm 153 144) (s.contribBlocks g r).length)).map fun e => s.contribPacket g r e.1 e.2

theorem length_upto (a n : Nat) : (upto a n).length = n := by
  induction n generalizing a with
  | zero => rfl
  | succ n ih => rw [upto, List.length_cons, ih]

theorem State.contribPackets_length (s : State) (g : Nat) (r : Run) : (s.contribPackets g r).length = (s.contribBlocks g r).length := by
  rw [State.contribPackets, List.length_map, List.length_zip, length_upto, Nat.min_self]

theorem State.mem_contribPackets {s : State} {g : Nat} {r : Run} {p : Packet} (hp : p ∈ s.contribPackets g r) :
    ∃ b j, p = s.contribPacket g r b j := by
  obtain ⟨e, -, rfl⟩ := List.mem_map.1 hp
  exact ⟨e.1, e.2, rfl⟩

section Contrib
variable {s : State} {g : Nat} {r : Run} (hcount : r.iss.i.count ≠ 0) (hwalk : (r.desc r.iss.i.da).count ≠ 0)
  (hgood : s.contribBad (clusterOf g) r (r.desc r.iss.i.da) (s.contribGroup r) = false)
include hcount hwalk hgood

/-- In the current round the packets of an awake walk join those in the box of the cluster's router, and the run ends. -/
theorem contribAdvance_current (hround : s.roundsAhead (clusterOf g) r = 0) (hwake : s.wakeLegs g [⟨r.desc r.iss.i.da, 0, false, none⟩] = none) :
    contribAdvance s g r
      = some (((s.readPlain g (r.desc r.iss.i.da) 0).1.setRt (clusterOf g)
          { s.rt (clusterOf g) with inbox := (s.rt (clusterOf g)).inbox ++ s.contribPackets g r }).endRun g r none false) := by
  unfold State.roundsAhead Run.contribRound State.contribGroup at hround
  unfold State.contribGroup at hgood
  simp only [contribAdvance, hcount, hwalk, hgood, hround, hwake, State.readPlain_rt, ne_eq, not_true_eq_false, false_and, if_false,
    Bool.false_eq_true]
  rfl

/-- An earlier round fails the context: it lies half the round numbers or more ahead, modulo 2^16. -/
theorem contribAdvance_late (hround : 32768 ≤ s.roundsAhead (clusterOf g) r) :
    contribAdvance s g r = some (s.tensorFault g r.iss stContextFault) := by
  have hnear : ¬ s.roundsAhead (clusterOf g) r < 32768 := Nat.not_lt.2 hround
  have hother : s.roundsAhead (clusterOf g) r ≠ 0 := by omega
  unfold State.roundsAhead Run.contribRound State.contribGroup at hnear hother
  unfold State.contribGroup at hgood
  simp only [contribAdvance, hcount, hwalk, hgood, hnear, hother, and_false, ne_eq, not_false_eq_true, if_false, if_true, Bool.false_eq_true]

end Contrib

theorem State.roundsAhead_current {s : State} {c : Nat} {r : Run}
    (h : r.contribRound = tabGet 0 (s.rt c).rounds (s.contribGroup r) % 65536) : s.roundsAhead c r = 0 := by
  rw [State.roundsAhead, h, Nat.add_sub_cancel_left]

/-- What R259 asks of a CONTRIB: a valid group of its context with slots, of which its cluster is a member, a format of the group's kind,
and blocks that the group has. -/
theorem State.contribBad_eq_false {s : State} {c k : Nat} {r : Run} {d : Desc} (hvalid : (s.grp k).valid = true)
    (howner : (s.grp k).owner = r.iss.ctx) (hmember : (s.grp k).members.contains c = true) (hslots : (s.grp k).rslots ≠ 0)
    (hfmt : contribFmtOk d.code (s.grp k).ofmt = true) (hfits : recFld r.prm 153 144 + ceilDiv d.count 16 ≤ ceilDiv (s.grp k).elems 16) :
    s.contribBad c r d k = false := by
  have hblocks : decide (ceilDiv (s.grp k).elems 16 < recFld r.prm 153 144 + ceilDiv d.count 16) = false :=
    decide_eq_false (Nat.not_lt.2 hfits)
  have hslots' : ((s.grp k).rslots == 0) = false := beq_eq_false_iff_ne.2 hslots
  simp only [State.contribBad, hvalid, howner, hmember, hslots', hfmt, hblocks, bne_self_eq_false, Bool.not_true, Bool.and_false,
    Bool.or_self]

theorem State.tensorFault_ctx {s : State} {x : Ctx} {iss : Issued} (g status : Nat) (hctx : s.ctx iss.ctx = some x) (hgood : x.state ≠ .failed) :
    (s.tensorFault g iss status).ctx iss.ctx = some { x with state := .failed, status := status, tearing := true } := by
  simp only [State.tensorFault, State.tensorFail, State.failCtx_ctx, hctx, if_true, Option.map_some, if_neg hgood]

section InTurn
variable {m : MuId} {r : Run} {s : State} (hr : s.inTurn (muGid m) 0x0A r) (hcount : r.iss.i.count ≠ 0)
  (hwalk : (r.desc r.iss.i.da).count ≠ 0) (hgood : s.contribBad m.cluster.val r (r.desc r.iss.i.da) (s.contribGroup r) = false)
include hr hcount hwalk hgood

theorem exec_contrib_current (hround : s.roundsAhead m.cluster.val r = 0)
    (hwake : s.wakeLegs (muGid m) [⟨r.desc r.iss.i.da, 0, false, none⟩] = none) :
    ∃ t : State, exec (.contrib m) s = .next t
      ∧ (t.rt m.cluster.val).inbox = (s.rt m.cluster.val).inbox ++ s.contribPackets (muGid m) r := by
  rw [← clusterOf_muGid m] at hgood hround ⊢
  refine ⟨_, (exec_contrib m s).trans (tensorCmd_advances hr (contribAdvance_current hcount hwalk hgood hround hwake)), ?_⟩
  have hprogress : ∀ (t : State) c, (t.progress c).rt c = t.rt c := fun t c => by simp only [State.progress_frame]
  rw [hprogress, State.endRun_rt, State.setRt_rt, if_pos rfl]

theorem exec_contrib_late {x : Ctx} (hround : 32768 ≤ s.roundsAhead m.cluster.val r) (hctx : s.ctx r.iss.ctx = some x)
    (hlive : x.state ≠ .failed) :
    ∃ t : State, exec (.contrib m) s = .next t
      ∧ t.ctx r.iss.ctx = some { x with state := .failed, status := stContextFault, tearing := true } := by
  rw [← clusterOf_muGid m] at hgood hround
  refine ⟨_, (exec_contrib m s).trans (tensorCmd_advances hr (contribAdvance_late hcount hwalk hgood hround)), ?_⟩
  simp only [State.progress_frame]
  exact State.tensorFault_ctx _ _ hctx hlive

end InTurn

/-! ### Transit slots (R260, R261, R264) -/

theorem exec_transitSlotFlush {c : Fin 2048} {n : Fin 64} {k : Comb} {s : State} (hrouting : s.routing c.val = true)
    (hslot : tabFind (s.rt c.val).slots n.val = some k) (htransit : k.root = false) :
    exec (.transitSlotFlush c n) s
      = .next (((s.advanceTo (k.since + s.pmFlush * 32)).setRt c.val { (s.advanceTo (k.since + s.pmFlush * 32)).rt c.val with
          flushes := sat32 ((s.advanceTo (k.since + s.pmFlush * 32)).rt c.val).flushes 1 }).sendPartial c.val n.val) := by
  simp only [exec, execTransitSlotFlush, hslot, htransit, hrouting, Bool.not_true, Bool.or_self, Bool.false_eq_true, if_false]

/-- The slot in which a share merges in transit: that of its block, or the lowest free one while the slots reserved for roots leave room. -/
def State.transitSpot (s : State) (c : Nat) (x : Share) : Option Nat :=
  match (s.rt c).slotOf false x.g x.round x.blk with
  | some j => some j
  | none => if (s.rt c).transit < 64 - s.reservedSlots c then (s.rt c).freeSlot else none

/-- Whether slot `j` of a router holds the shares of all the members of group `g` that lie behind it. -/
def State.slotFull (s : State) (c g : Nat) (v : Rt) (j : Nat) : Bool :=
  match tabFind v.slots j with
  | some k => decide (s.fanIn c g ≤ k.count)
  | none => false

section Share
variable {c : Fin 2048} {p : Packet} {x : Share} {a b : List Packet} {s t : State} (hrouting : s.routing c.val = true)
  (hbox : (s.rt c.val).inbox = a ++ p :: b) (hshare : shareOf p = some x) (htable : (s.rt c.val).tblBad = false)
  (ht : t = s.setRt c.val { s.rt c.val with inbox := a ++ b })
include hrouting hbox hshare htable ht

section Transit
variable (hfirst : ∀ y ∈ a, mergesAt s c.val false y = false) (hmerge : mergesAt s c.val false p = true)
include hfirst hmerge

theorem exec_contributionMerge_freed (hfreed : (s.grp x.g).valid = false) :
    exec (.contributionMerge c) s = .next (t.setRt c.val { s.rt c.val with inbox := a ++ b, waited := false }) := by
  subst ht
  have htake := s.takeInbox_split c.val (mergesAt s c.val false) a b p hbox hfirst hmerge
  simp only [exec, execContributionMerge, hrouting, htake, hshare, State.setRt_rt, htable, hfreed, Bool.not_true, Bool.not_false, Bool.true_or,
    Bool.false_eq_true, if_false, if_true]

theorem exec_contributionMerge_placed {j : Nat} {r : Rt} {u : State} (hvalid : (s.grp x.g).valid = true) (howner : p.ctx = (s.grp x.g).owner)
    (hspot : s.transitSpot c.val x = some j)
    (hr : r = { ((t.readSlot c.val j).rt c.val).fill j false (fmtInt (s.grp x.g).ofmt) s.time x with waited := false })
    (hu : u = ((t.readSlot c.val j).setRt c.val r).progress c.val) :
    exec (.contributionMerge c) s = .next (if u.slotFull c.val x.g r j then u.sendPartial c.val j else u) := by
  subst ht hr hu
  have htake := s.takeInbox_split c.val (mergesAt s c.val false) a b p hbox hfirst hmerge
  simp only [exec, execContributionMerge, hrouting, htake, hshare, State.setRt_rt, htable, hvalid, howner, ne_eq, not_true_eq_false, decide_false,
    Bool.not_true, Bool.or_self, Bool.false_eq_true, if_false, if_true]
  split
  next hnone => exact absurd (hspot.symm.trans hnone) nofun
  next n hsome =>
    obtain rfl : j = n := Option.some.inj (hspot.symm.trans hsome)
    rfl

end Transit

/-! ### The root (R262, R367) -/

/-- The slot in which a share merges at its root: that of its block, or the lowest free one. -/
def Rt.rootSpot (v : Rt) (x : Share) : Option Nat :=
  match v.slotOf true x.g x.round x.blk with
  | some j => some j
  | none => v.freeSlot

theorem exec_rootMerge {j : Nat} (hacks : ∀ y ∈ (s.rt c.val).inbox, y.isWriteAck (gidOf c.val 25) = false)
    (hfirst : ∀ y ∈ a, mergesAt s c.val true y = false) (hmerge : mergesAt s c.val true p = true) (howner : p.ctx = (s.grp x.g).owner)
    (hspot : (s.rt c.val).rootSpot x = some j) : exec (.rootMerge c) s = .next (t.rootMerge c.val j x) := by
  subst ht
  have hnone := s.takeInbox_none c.val (·.isWriteAck (gidOf c.val 25)) hacks
  have htake := s.takeInbox_split c.val (mergesAt s c.val true) a b p hbox hfirst hmerge
  simp only [exec, execRootMerge, hrouting, hnone, htake, hshare, State.setRt_rt, htable, howner, ne_eq, not_true_eq_false,
    Bool.not_true, Bool.false_eq_true, if_false, if_true]
  split
  next hfull => exact absurd (hspot.symm.trans hfull) nofun
  next n hsome =>
    obtain rfl : j = n := Option.some.inj (hspot.symm.trans hsome)
    rfl

end Share

theorem State.rootMerge_otherRound {s : State} {c n : Nat} {x : Share} (hround : x.round ≠ (s.grp x.g).round) :
    s.rootMerge c n x = s.overCount c x := if_pos hround

theorem State.eccError_time (s : State) (c : Nat) (ce ue : Bool) : (s.eccError c ce ue).time = s.time := by
  have hcount : (s.countEcc c ce ue).time = s.time := by
    unfold State.countEcc
    split
    · rfl
    · rfl
  unfold State.eccError
  dsimp only
  split
  · simp only [State.recordUnit_frame]
    split
    · simp only [State.corrected_frame, hcount]
    · exact hcount
  · split
    · simp only [State.corrected_frame, hcount]
    · exact hcount

theorem State.readSlot_time (s : State) (c n : Nat) : (s.readSlot c n).time = s.time := by
  unfold State.readSlot
  dsimp only
  split
  · split
    · exact State.eccError_time _ _ _ _
    · rfl
  · rfl

/-- A share of the current round is in its slot, and the slot's count chooses what follows. -/
theorem State.rootMerge_current {s u : State} {c n need : Nat} {x : Share} {k : Comb} {r : Rt} (hround : x.round = (s.grp x.g).round)
    (hneed : (s.grp x.g).contribs = need)
    (hr : r = ((s.readSlot c n).rt c).fill n true (fmtInt (s.grp x.g).ofmt) s.time x) (hu : u = ((s.readSlot c n).setRt c r).progress c)
    (hk : tabFind r.slots n = some k) :
    s.rootMerge c n x = if need < k.count then u.overCount c x else if k.count < need then u else u.putBlock c k := by
  subst hneed hu
  have htime := s.readSlot_time c n
  simp only [State.rootMerge, hround, htime, ← hr, hk, ne_eq, not_true_eq_false, if_false]

/-! ### Round advances (R264, R367, R369) -/

theorem Packet.isAdvance_of_body {p : Packet} {g round : Nat} (hbody : p.body = .roundAdvance g round) : p.isAdvance = true := by
  simp only [Packet.isAdvance, hbody]

section Advance
variable {c : Fin 2048} {p : Packet} {g round : Nat} {a b : List Packet} {s : State} (hrouting : s.routing c.val = true)
  (hbox : (s.rt c.val).inbox = a ++ p :: b) (hfirst : ∀ y ∈ a, y.isAdvance = false) (hbody : p.body = .roundAdvance g round)
include hrouting hbox hfirst hbody

theorem exec_roundAdvance_freed (hfreed : (s.grp g).valid = false) :
    exec (.roundAdvance c) s = .next (s.setRt c.val { s.rt c.val with inbox := a ++ b }) := by
  have htake := s.takeInbox_split c.val Packet.isAdvance a b p hbox hfirst (Packet.isAdvance_of_body hbody)
  simp only [exec, execRoundAdvance, hrouting, htake, hbody, State.setRt_frame, hfreed, Bool.not_true, Bool.false_eq_true, if_false]

theorem exec_roundAdvance_valid {t : State}
    (ht : t = s.setRt c.val { s.rt c.val with inbox := a ++ b, rounds := tabSet (s.rt c.val).rounds g round })
    (hvalid : (s.grp g).valid = true) : exec (.roundAdvance c) s = .next ((t.imageRound c.val g round).progress c.val) := by
  subst ht
  have htake := s.takeInbox_split c.val Packet.isAdvance a b p hbox hfirst (Packet.isAdvance_of_body hbody)
  simp only [exec, execRoundAdvance, hrouting, htake, hbody, State.setRt_frame, hvalid, State.takeRound, State.setRt_setRt, State.setRt_rt,
    Bool.not_true, Bool.false_eq_true, if_false, if_true]

end Advance

theorem State.imageRound_none {s : State} {c g round : Nat} (hctx : s.ctx (s.grp g).owner = none) : s.imageRound c g round = s := by
  simp only [State.imageRound, hctx]

theorem State.imageRound_some {s : State} {c g round : Nat} {x : Ctx} (hctx : s.ctx (s.grp g).owner = some x) :
    s.imageRound c g round = s.setCtx (s.grp g).owner { x with
      scans := tabMap x.scans (fun d i => if d = c then { i with rounds := tabSet i.rounds g round } else i) } := by
  simp only [State.imageRound, hctx]

/-- Settles O33: each command finds its run, slot or packet, and the round, the validity of the group and the count of the slot choose
what follows. -/
theorem groupShares : Obligations.GroupShares := by
  refine ⟨?contrib, ?flush, ?merge, ?advance⟩
  case contrib =>
    intro m r s g c k round now d hr hcount hvalid howner hmember hslots hfmt hwalk hfits
    have hgood := State.contribBad_eq_false hvalid howner hmember hslots hfmt hfits
    refine ⟨fun hround hwake => ?_, fun _ hround x hctx hlive => exec_contrib_late hr hcount hwalk hgood hround hctx hlive⟩
    obtain ⟨t, hexec, hinbox⟩ := exec_contrib_current hr hcount hwalk hgood (State.roundsAhead_current hround) hwake
    refine ⟨t, _, hexec, hinbox, s.contribPackets_length g r, fun p hp => ?_⟩
    obtain ⟨b, j, rfl⟩ := State.mem_contribPackets hp
    exact ⟨rfl, rfl, _, _, _, _, rfl⟩
  case flush => exact fun c n k s hrouting hslot hroot => exec_transitSlotFlush hrouting hslot hroot
  case merge =>
    intro c p x a b s v t hrouting hbox hshare htable
    refine ⟨fun hfirst hmerge => ⟨?_, fun hvalid howner j hspot => ?_⟩, fun hacks hfirst hmerge howner j hspot => ?_⟩
    · exact exec_contributionMerge_freed hrouting hbox hshare htable rfl hfirst hmerge
    · exact exec_contributionMerge_placed hrouting hbox hshare htable rfl hfirst hmerge hvalid howner hspot rfl rfl
    · have hexec := exec_rootMerge hrouting hbox hshare htable rfl hacks hfirst hmerge howner hspot
      refine ⟨fun hround => ?_, fun hround => hexec.trans (congrArg _ (State.rootMerge_otherRound hround))⟩
      intro z r u k' hk
      rw [State.rootMerge_current (s := t) (need := (s.grp x.g).contribs) (r := r) hround rfl rfl rfl hk] at hexec
      refine ⟨fun hbelow => ?_, fun hat => ?_, fun habove => ?_⟩
      · exact hexec.trans (by rw [if_neg (Nat.lt_asymm hbelow), if_pos hbelow])
      · exact hexec.trans (by rw [if_neg hat.not_gt, if_neg hat.not_lt])
      · exact hexec.trans (by rw [if_pos habove])
  case advance =>
    intro c p g round a b s v t hrouting hbox hfirst hbody
    refine ⟨exec_roundAdvance_freed hrouting hbox hfirst hbody, fun hvalid hctx => ?_, fun hvalid x hctx => ?_⟩
    · have himage : t.imageRound c.val g round = t := State.imageRound_none hctx
      exact himage ▸ exec_roundAdvance_valid hrouting hbox hfirst hbody rfl hvalid
    · have himage : t.imageRound c.val g round = t.setCtx (s.grp g).owner { x with
          scans := tabMap x.scans (fun d i => if d = c.val then { i with rounds := tabSet i.rounds g round } else i) } :=
        State.imageRound_some (s := t) hctx
      exact himage ▸ exec_roundAdvance_valid hrouting hbox hfirst hbody rfl hvalid

end Sys2Proof.Machine
end

section
/-!
PROOFS. The encodings of scalar and tensor instructions (R272, R296, R297, R562): a word is its fields side by side.
-/

namespace Sys2Proof.Machine

/-! ### Fields side by side -/

theorem fld_lt (x hi lo : Nat) : fld x hi lo < 2 ^ (hi + 1 - lo) := Nat.mod_lt _ (Nat.two_pow_pos _)

theorem fld_of_lt {x hi : Nat} (hx : x < 2 ^ (hi + 1)) : fld x hi 0 = x := by
  rw [fld_eq_div_mod, Nat.pow_zero, Nat.div_one, Nat.sub_zero, Nat.mod_eq_of_lt hx]

/-- Bits [hi:0] are bits [hi:k] above bits [j:0], where `k` is the next bit after `j`. -/
theorem fld_cut (x hi k j : Nat) (hk : k = j + 1) (hhi : k ≤ hi) : fld x hi 0 = 2 ^ k * fld x hi k + fld x j 0 := by
  subst hk
  have hpow : 2 ^ (hi + 1) = 2 ^ (j + 1) * 2 ^ (hi + 1 - (j + 1)) := by rw [← Nat.pow_add, Nat.add_sub_cancel' (by omega)]
  simp only [fld_eq_div_mod, Nat.pow_zero, Nat.div_one, Nat.sub_zero, hpow, Nat.mod_mul, Nat.add_comm]

/-- A sum whose low part lies below bit `k` is read off bits [hi:0] as two fields. -/
theorem fld_eq_append_iff {x hi k a b : Nat} (hk : 0 < k) (hhi : k ≤ hi) (hb : b < 2 ^ k) :
    fld x hi 0 = a * 2 ^ k + b ↔ fld x hi k = a ∧ fld x (k - 1) 0 = b := by
  have hlow : fld x (k - 1) 0 < 2 ^ k := Nat.sub_add_cancel hk ▸ fld_lt x (k - 1) 0
  rw [fld_cut x hi k (k - 1) (by omega) hhi, Nat.mul_comm a]
  constructor
  · intro h
    have hdiv := congrArg (· / 2 ^ k) h
    have hmod := congrArg (· % 2 ^ k) h
    simp only [Nat.mul_add_div (Nat.two_pow_pos k), Nat.mul_add_mod, Nat.div_eq_of_lt, Nat.mod_eq_of_lt, hlow, hb, Nat.add_zero] at hdiv hmod
    exact ⟨hdiv, hmod⟩
  · rintro ⟨rfl, rfl⟩
    rfl

theorem fld_eq_high_iff {x hi k a : Nat} (hk : 0 < k) (hhi : k ≤ hi) :
    fld x hi 0 = a * 2 ^ k ↔ fld x hi k = a ∧ fld x (k - 1) 0 = 0 :=
  fld_eq_append_iff (b := 0) hk hhi (Nat.two_pow_pos k)

theorem fld_eq_low_iff {x hi b : Nat} (k : Nat) (hk : 0 < k) (hhi : k ≤ hi) (hb : b < 2 ^ k) :
    fld x hi 0 = b ↔ fld x hi k = 0 ∧ fld x (k - 1) 0 = b := by
  simpa only [Nat.zero_mul, Nat.zero_add] using fld_eq_append_iff (a := 0) hk hhi hb

/-! ### What a field holds -/

theorem ofNat_fld_eq_iff {n : Nat} [NeZero n] {x hi lo : Nat} {i : Fin n} (hn : 2 ^ (hi + 1 - lo) = n) :
    Fin.ofNat n (fld x hi lo) = i ↔ fld x hi lo = i.val := by
  rw [Fin.ext_iff, Fin.val_ofNat, Nat.mod_eq_of_lt (hn ▸ fld_lt x hi lo)]

theorem bitVec_fld_eq_iff {n : Nat} {x hi lo : Nat} {v : BitVec n} (hn : hi + 1 - lo = n) :
    BitVec.ofNat n (fld x hi lo) = v ↔ fld x hi lo = v.toNat := by
  rw [← BitVec.toNat_inj, BitVec.toNat_ofNat, Nat.mod_eq_of_lt (hn ▸ fld_lt x hi lo)]

theorem b2n_bitOf (x i : Nat) : b2n (bitOf x i) = fld x i i := by
  rw [b2n, bitOf, fld_eq_div_mod, Nat.add_sub_cancel_left, Nat.testBit_eq_decide_div_mod_eq]
  rcases Nat.mod_two_eq_zero_or_one (x / 2 ^ i) with h | h <;> simp [h]

theorem b2n_lt (b : Bool) : b2n b < 2 := by cases b <;> decide

theorem bitOf_eq_iff {x i : Nat} {b : Bool} : bitOf x i = b ↔ fld x i i = b2n b := by
  rw [← b2n_bitOf]
  cases bitOf x i <;> cases b <;> decide

theorem condCode_lt (c : Cond) : condCode c < 8 := by cases c <;> decide

theorem condOf_condCode (c : Cond) : condOf (condCode c) = c := by cases c <;> rfl

theorem condCode_condOf : ∀ n < 8, condCode (condOf n) = n := by decide

theorem condOf_fld_eq_iff {x hi lo : Nat} {c : Cond} (hn : 2 ^ (hi + 1 - lo) = 8) : condOf (fld x hi lo) = c ↔ fld x hi lo = condCode c :=
  ⟨fun h => h ▸ (condCode_condOf _ (hn ▸ fld_lt x hi lo)).symm, fun h => h ▸ condOf_condCode c⟩

theorem popCode_lt (f : PopFn) : popCode f < 8 := by cases f <;> decide

theorem popOf_eq_some_iff {n : Nat} {f : PopFn} : popOf n = some f ↔ n = popCode f := by
  constructor
  · intro h
    unfold popOf at h
    split at h <;> cases h <;> rfl
  · rintro rfl
    cases f <;> rfl

/-! ### The opcode of a word that decodes -/

/-- Whatever instruction `o` holds has the opcode `op`. -/
def HasOpcode (op : Nat) (o : Option SInstr) : Prop := ∀ i, o = some i → op = scalarOpcode i

theorem hasOpcode_none {op : Nat} : HasOpcode op none := nofun

theorem hasOpcode_some {op : Nat} {i : SInstr} (h : op = scalarOpcode i) : HasOpcode op (some i) := by
  rintro _ ⟨⟩
  exact h

theorem hasOpcode_map {op : Nat} {α : Type} {f : α → SInstr} {o : Option α} (h : ∀ x, op = scalarOpcode (f x)) : HasOpcode op (o.map f) := by
  cases o with
  | none => exact hasOpcode_none
  | some x => exact hasOpcode_some (h x)

theorem hasOpcode_ite {op : Nat} {c : Prop} [Decidable c] {a b : Option SInstr} (ha : c → HasOpcode op a) (hb : HasOpcode op b) :
    HasOpcode op (if c then a else b) := by
  split
  · exact ha ‹_›
  · exact hb

/-- Each branch of the decoder asks for the opcode of the instruction that it gives. -/
theorem hasOpcode_decodeScalar (w : Nat) : HasOpcode (fld w 31 26) (decodeScalar w) := by
  unfold decodeScalar
  dsimp only
  repeat' refine hasOpcode_ite (fun _ => ?_) ?_
  any_goals exact hasOpcode_none
  any_goals refine hasOpcode_map fun _ => ?_
  any_goals refine hasOpcode_some ?_
  all_goals
    simp only [scalarOpcode, Fin.val_ofNat]
    omega

/-! ### The fields of a word that decodes -/

theorem fld_queueImm_iff {w : Nat} (q : Fin 64) : fld w 15 0 = q.val ↔ fld w 15 7 = 0 ∧ bitOf w 6 = false ∧ fld w 5 0 = q.val := by
  simp (disch := omega) only [fld_eq_low_iff (hi := 15) 7, fld_eq_low_iff (hi := 6) 6, bitOf_eq_iff, b2n, Bool.false_eq_true, if_false]

theorem fld_queueReg_iff {w : Nat} : fld w 15 0 = 2 ^ 6 ↔ fld w 15 7 = 0 ∧ bitOf w 6 = true ∧ fld w 5 0 = 0 := by
  have hlow : fld w 6 0 = 2 ^ 6 ↔ fld w 6 6 = 1 ∧ fld w 5 0 = 0 := fld_eq_high_iff (k := 6) (a := 1) (by decide) (by decide)
  simp (disch := omega) only [fld_eq_low_iff (hi := 15) 7, hlow, bitOf_eq_iff, b2n, if_true]

/-- Under its opcode, a word decodes to an instruction when bits [25:0] are the instruction's fields side by side, the zero fields of
its form among them (R296, R562; log 16). -/
theorem decodeScalar_eq_some_iff {w : Nat} {i : SInstr} (hop : fld w 31 26 = scalarOpcode i) :
    decodeScalar w = some i ↔ fld w 25 0 = scalarFields i := by
  simp only [decodeScalar, hop]
  clear hop
  -- In each case the sum of fields is cut at the boundaries of its form, `fld_eq_low_iff` where a zero field lies above the rest.
  cases i
  all_goals simp only [scalarOpcode, scalarFields, Nat.reduceLeDiff, Nat.reduceEqDiff, and_false, false_and, if_true, if_false,
    Option.ite_none_right_eq_some, Option.some.injEq, Nat.add_assoc]
  case alu op rd ra rb =>
    simp (disch := omega) only [if_pos, Option.ite_none_right_eq_some, Option.some.injEq, SInstr.alu.injEq, Nat.add_sub_cancel_left,
      Fin.ofNat_val_eq_self, ofNat_fld_eq_iff, fld_eq_append_iff, fld_eq_high_iff]
    tauto
  case sel rd ra rb p =>
    simp (disch := omega) only [SInstr.sel.injEq, ofNat_fld_eq_iff, fld_eq_append_iff, fld_eq_high_iff]
    tauto
  case shi op rd ra sh =>
    simp (disch := omega) only [if_pos, if_neg, Option.ite_none_right_eq_some, Option.some.injEq, SInstr.shi.injEq,
      Nat.add_sub_cancel_left, Fin.ofNat_val_eq_self, ofNat_fld_eq_iff, fld_eq_append_iff, fld_eq_low_iff (hi := 15) 6]
    tauto
  case imm | ld | st =>
    simp (disch := omega) only [if_pos, if_neg, Option.some.injEq, SInstr.imm.injEq, SInstr.ld.injEq, SInstr.st.injEq,
      Nat.add_sub_cancel_left, Fin.ofNat_val_eq_self, ofNat_fld_eq_iff, bitVec_fld_eq_iff, fld_eq_append_iff, true_and]
  case lui rd x => simp (disch := omega) only [SInstr.lui.injEq, ofNat_fld_eq_iff, bitVec_fld_eq_iff, fld_eq_append_iff]
  case cmp pd c ra rb =>
    have hc := condCode_lt c
    simp (disch := omega) only [SInstr.cmp.injEq, ofNat_fld_eq_iff, condOf_fld_eq_iff, fld_eq_append_iff, fld_eq_high_iff]
    tauto
  case cmpi pd c ra x =>
    have hc := condCode_lt c
    simp (disch := omega) only [SInstr.cmpi.injEq, ofNat_fld_eq_iff, bitVec_fld_eq_iff, condOf_fld_eq_iff, fld_eq_append_iff]
  case pop pd pa pb f =>
    have hf := popCode_lt f
    simp (disch := omega) only [Option.map_eq_some_iff, SInstr.pop.injEq, ofNat_fld_eq_iff, popOf_eq_some_iff, ← and_assoc, exists_eq_right]
    simp (disch := omega) only [fld_eq_append_iff, fld_eq_high_iff]
    tauto
  case br al neg p t =>
    have hneg := b2n_lt neg
    simp (disch := omega) only [SInstr.br.injEq, ofNat_fld_eq_iff, bitVec_fld_eq_iff, bitOf_eq_iff, fld_eq_append_iff,
      fld_eq_low_iff (hi := 20) 14]
    tauto
  case jal rd t =>
    simp (disch := omega) only [SInstr.jal.injEq, ofNat_fld_eq_iff, bitVec_fld_eq_iff, fld_eq_append_iff, fld_eq_low_iff (hi := 20) 14]
    tauto
  case jr ra =>
    simp (disch := omega) only [SInstr.jr.injEq, ofNat_fld_eq_iff, fld_eq_low_iff (hi := 25) 21]
    simp (disch := omega) only [fld_eq_high_iff]
    tauto
  case halt => simp only [and_true]
  case qrecv rd q =>
    cases q with
    | imm q =>
      simp (disch := omega) only [fld_eq_append_iff, fld_eq_low_iff (hi := 20) 16, Nat.reduceSub, fld_queueImm_iff]
      split
      case isTrue hr => simp only [hr, Option.ite_none_right_eq_some, Option.some.injEq, SInstr.qrecv.injEq, reduceCtorEq, and_false, false_and]
      case isFalse hr =>
        simp (disch := omega) only [hr, Option.ite_none_right_eq_some, Option.some.injEq, SInstr.qrecv.injEq, QSrc.imm.injEq, ofNat_fld_eq_iff]
        tauto
    | reg ra =>
      simp (disch := omega) only [fld_eq_append_iff, Nat.reduceSub, fld_queueReg_iff]
      split
      case isTrue hr =>
        simp (disch := omega) only [hr, Option.ite_none_right_eq_some, Option.some.injEq, SInstr.qrecv.injEq, QSrc.reg.injEq, ofNat_fld_eq_iff]
        tauto
      case isFalse hr => simp only [hr, Option.ite_none_right_eq_some, Option.some.injEq, SInstr.qrecv.injEq, reduceCtorEq, and_false, false_and]
  case qsel rd ra rb pd rot =>
    have hrot := b2n_lt rot
    simp (disch := omega) only [SInstr.qsel.injEq, ofNat_fld_eq_iff, bitOf_eq_iff, fld_eq_append_iff, fld_eq_high_iff]
    tauto
  case qsend ra rb rc tag m =>
    have hm := b2n_lt m
    simp (disch := omega) only [SInstr.qsend.injEq, ofNat_fld_eq_iff, bitVec_fld_eq_iff, bitOf_eq_iff, fld_eq_append_iff, fld_eq_high_iff]
    tauto
  case qtag rd =>
    simp (disch := omega) only [SInstr.qtag.injEq, ofNat_fld_eq_iff, fld_eq_high_iff]
    tauto
  case qrp ra q =>
    simp (disch := omega) only [SInstr.qrp.injEq, ofNat_fld_eq_iff, fld_eq_low_iff (hi := 25) 21]
    simp (disch := omega) only [fld_eq_append_iff, fld_eq_low_iff (hi := 15) 6]
    tauto
  case qclose q => simp (disch := omega) only [SInstr.qclose.injEq, ofNat_fld_eq_iff, fld_eq_low_iff (hi := 25) 6]
  case tiss u n rc rs =>
    have hrs : fld w 5 0 = rs.val * 2 ↔ fld w 5 1 = rs.val ∧ fld w 0 0 = 0 := fld_eq_high_iff (k := 1) (by decide) (by decide)
    simp (disch := omega) only [SInstr.tiss.injEq, ofNat_fld_eq_iff, fld_eq_append_iff, hrs]
    tauto
  case wait rd tag =>
    simp (disch := omega) only [SInstr.wait.injEq, ofNat_fld_eq_iff, bitVec_fld_eq_iff, fld_eq_append_iff, fld_eq_low_iff (hi := 20) 16]
    tauto
  case pout port p =>
    simp (disch := omega) only [SInstr.pout.injEq, ofNat_fld_eq_iff, fld_eq_append_iff, fld_eq_low_iff (hi := 24) 24]
    simp (disch := omega) only [fld_eq_high_iff]
    tauto
  case rdsr rd sr =>
    have hsr : fld w 3 0 < 7 ∧ Fin.ofNat 7 (fld w 3 0) = sr ↔ fld w 3 0 = sr.val := by
      rw [Fin.ext_iff, Fin.val_ofNat]
      omega
    simp (disch := omega) only [SInstr.rdsr.injEq, ofNat_fld_eq_iff, fld_eq_append_iff, fld_eq_low_iff (hi := 20) 4, ← hsr]
    tauto

/-! ### Encoding and decoding -/

theorem scalarOpcode_lt (i : SInstr) : scalarOpcode i < 2 ^ 6 := by
  cases i <;> simp only [scalarOpcode] <;> omega

theorem scalarFields_lt (i : SInstr) : scalarFields i < 2 ^ 26 := by
  cases i with
  | cmp pd c | cmpi pd c =>
    have hc := condCode_lt c
    simp only [scalarFields]
    omega
  | pop pd pa pb f =>
    have hf := popCode_lt f
    simp only [scalarFields]
    omega
  | br al neg =>
    have hal := b2n_lt al
    have hneg := b2n_lt neg
    simp only [scalarFields]
    omega
  | qrecv rd q => cases q <;> simp only [scalarFields] <;> omega
  | qsel rd ra rb pd b | qsend rd ra rb tag b =>
    have hb := b2n_lt b
    simp only [scalarFields]
    omega
  | _ =>
    simp only [scalarFields]
    omega

theorem encodeScalar_lt (i : SInstr) : encodeScalar i < 2 ^ 32 := by
  have hop := scalarOpcode_lt i
  have hfields := scalarFields_lt i
  unfold encodeScalar
  omega

/-- A word decodes to the one instruction that encodes to it. -/
theorem decodeScalar_eq_some_iff_encode {w : Nat} {i : SInstr} (hw : w < 2 ^ 32) : decodeScalar w = some i ↔ encodeScalar i = w := by
  have hsplit : encodeScalar i = w ↔ fld w 31 26 = scalarOpcode i ∧ fld w 25 0 = scalarFields i := by
    rw [← fld_eq_append_iff (k := 26) (by decide) (by decide) (scalarFields_lt i), fld_of_lt hw, eq_comm]
    rfl
  rw [hsplit]
  constructor
  · intro h
    have hop := hasOpcode_decodeScalar w i h
    exact ⟨hop, (decodeScalar_eq_some_iff hop).1 h⟩
  · rintro ⟨hop, hfields⟩
    exact (decodeScalar_eq_some_iff hop).2 hfields

/-- The fields of R272 abut from bit 127 down to bit 0. -/
theorem encodeTensor_decodeTensor (w : BitVec 128) : encodeTensor (decodeTensor w) = w := by
  have hx := fld_of_lt (hi := 127) w.isLt
  have h120 := fld_cut w.toNat 127 120 119 rfl (by decide)
  have h116 := fld_cut w.toNat 119 116 115 rfl (by decide)
  have h115 := fld_cut w.toNat 115 115 114 rfl (by decide)
  have h114 := fld_cut w.toNat 114 114 113 rfl (by decide)
  have h113 := fld_cut w.toNat 113 113 112 rfl (by decide)
  have h112 := fld_cut w.toNat 112 112 111 rfl (by decide)
  have h96 := fld_cut w.toNat 111 96 95 rfl (by decide)
  have h80 := fld_cut w.toNat 95 80 79 rfl (by decide)
  have h64 := fld_cut w.toNat 79 64 63 rfl (by decide)
  have h48 := fld_cut w.toNat 63 48 47 rfl (by decide)
  have h32 := fld_cut w.toNat 47 32 31 rfl (by decide)
  have h16 := fld_cut w.toNat 31 16 15 rfl (by decide)
  apply BitVec.eq_of_toNat_eq
  simp only [encodeTensor, decodeTensor, b2n_bitOf, BitVec.toNat_ofNat]
  omega

/-- Settles O7: the encoding is below 2^32, and it decodes to the one instruction that encodes to it. -/
theorem scalarDecodeOfEncode : Obligations.ScalarDecodeOfEncode :=
  fun i => ⟨encodeScalar_lt i, (decodeScalar_eq_some_iff_encode (encodeScalar_lt i)).2 rfl⟩

/-- Settles O8: a scalar word is the encoding of what it decodes to, and the fields of a tensor word put side by side are the word. -/
theorem encodeOfDecode : Obligations.EncodeOfDecode :=
  ⟨fun _ _ hw h => (decodeScalar_eq_some_iff_encode hw).1 h, encodeTensor_decodeTensor⟩

end Sys2Proof.Machine
end

section
/-!
PROOFS. FENCE, DAYMARK, CHAIN and QSEND on a tensor unit (R285, R289, R290, R291, R293).
-/

namespace Sys2Proof.Machine

/-! ### FENCE and DAYMARK -/

theorem exec_fence (u : TuId) (s : State) :
    exec (.fence u) s = tensorCmd s (tuGid u) (· == 0x70) (fun s h => fenceIssue s (tuGid u) h) (fun _ _ => none) := rfl

theorem exec_daymark (u : TuId) (s : State) :
    exec (.daymark u) s = tensorCmd s (tuGid u) (· == 0x71) (fun s h => daymarkIssue s (tuGid u) h) (fun _ _ => none) := rfl

theorem fenceIssue_of_quiet {s : State} {g : Nat} {h : Issued} (hc : s.issueCheck g h = none) (hquiet : (s.tu g).running = []) :
    fenceIssue s g h = s.headDone g h := by
  have hq : s.unitQuiet g = true := by rw [State.unitQuiet, hquiet, List.isEmpty_nil]
  unfold fenceIssue
  simp only [hc, hq, if_true]

/-- Bits [11:0] of `count` hold the epoch of a DAYMARK (R290). -/
theorem fld_epoch (x : Nat) : fld x 11 0 = x % 4096 := by
  simp only [fld_eq_div_mod, Nat.pow_zero, Nat.div_one, Nat.reduceAdd, Nat.reduceSub, Nat.reducePow]

/-- A wired output channel of a unit with nothing in progress is free. -/
theorem State.chanOk_out_of_quiet {s : State} {g code : Nat}
    (hwired : ((s.sw (clusterOf g)).circFrom (chanPort (localOf g) (code - 1))).isSome = true) (hquiet : (s.tu g).running = []) :
    s.chanOk g code true = true := by
  simp only [State.chanOk, hwired, hquiet, if_true, List.any_nil, Bool.not_false, Bool.and_self]

theorem State.unitFull_of_quiet {s : State} {g : Nat} (hquiet : (s.tu g).running = []) : s.unitFull g = false := by
  simp [State.unitFull, Tu.holds, hquiet]

/-- A DAYMARK without configuration puts its token behind what channel 0 of a quiet unit holds (R290). -/
theorem daymarkIssue_token {s : State} {g : Nat} {h : Issued} (hc : s.issueCheck g h = none) (hda : h.i.da = 0xFFFF) (hsout : h.i.sout = 1)
    (hepoch : epochOk (h.i.count % 4096) (s.cl (clusterOf g)).quietEpoch = true)
    (hwired : ((s.sw (clusterOf g)).circFrom (chanPort (localOf g) 0)).isSome = true) (hquiet : (s.tu g).running = []) :
    daymarkIssue s g h = (s.setTu g { s.tu g with
      outq0 := (s.tu g).outq0 ++ [{ bytes := toBytes 128 (h.i.count % 4096), kind := .daymark, own := (s.tu g).nextId }] }).beginRun g
        { iss := h, finished := true } := by
  have hfld := fld_epoch h.i.count
  have hchan : s.chanOk g 1 true = true := State.chanOk_out_of_quiet hwired hquiet
  have hnames : namedChans 1 = [1] := rfl
  have hone : [1].contains 1 = true := rfl
  have htwo : [1].contains 2 = false := rfl
  unfold daymarkIssue
  simp only [hc, hda, hsout, hfld, hepoch, hnames, List.all_cons, List.all_nil, hchan, hquiet, List.any_nil,
    State.unitFull_of_quiet hquiet, hone, htwo, Bool.not_true, Bool.and_self, Bool.or_self, Bool.false_eq_true, if_false, if_true,
    List.map_cons, List.map_nil, Nat.zero_mul, Nat.add_zero]

/-! ### QSEND -/

theorem exec_qsendTensor (u : TuId) (s : State) :
    exec (.qsendTensor u) s
      = tensorCmd s (tuGid u) (· == 0x50) (fun s h => qsendIssue s (tuGid u) h) (fun s r => qsendAdvance s (tuGid u) r) := rfl

/-- In turn, with an awake walk that reads no fog and room in the send buffer, a run places its message (R198, R285). -/
theorem qsendAdvance_placed {s : State} {g : Nat} {r : Run} (hturn : s.myTurn g r = true)
    (hawake : (s.mu (homeMu g)).walkAsleep (r.desc r.iss.i.da) 0 = 0) (hroom : (s.tu g).send.length < 8)
    (hclear : (s.readPlain (homeMu g) (r.desc r.iss.i.da) 0).2.1.any (fun x => x.any (·.fog)) = false) :
    qsendAdvance s g r =
      (let d := r.desc r.iss.i.da
       let read := s.readPlain (homeMu g) d 0
       let bytes := read.2.1.flatMap (fun x => packEls d.bits (x.map (·.bits)))
       some ((read.1.setTu g { read.1.tu g with
         send := (read.1.tu g).send ++ [{ msg := qsendMsg g r bytes false, scu := r.iss.scu, run := r.id }] }).putRun g
         { r with run := r.run + 1, finished := decide (r.iss.i.count ≤ r.run + 1) })) := by
  have hfull : ¬ 8 ≤ (s.tu g).send.length := Nat.not_le.2 hroom
  simp only [qsendAdvance, hturn, hawake, hfull, hclear, Bool.not_true, Bool.false_and, Bool.false_eq_true, ne_eq, not_true_eq_false, if_false]

/-! ### CHAIN at issue -/

theorem exec_chain (u : TuId) (s : State) :
    exec (.chain u) s = tensorCmd s (tuGid u) (· == 0x60) (fun s h => chainIssue s (tuGid u) h) (fun s r => chainAdvance s (tuGid u) r) := rfl

/-- The chain lanes of a cluster that no CHAIN holds, in ascending order (R228). -/
def State.spareLanes (s : State) (c : Nat) : List Nat := (upto 0 4).filter (fun n => !((s.sw c).lanes.any (fun e => e.1 == n)))

theorem State.length_spareLanes_le (s : State) (c : Nat) : (s.spareLanes c).length ≤ 4 := List.length_filter_le _ (upto 0 4)

theorem tabFind_foldl_tabSet_of_notMem {α β : Type} (key : β → Nat) (v : β → α) (l : List β) (t : Tab α) {n : Nat} (hn : n ∉ l.map key) :
    tabFind (l.foldl (fun t e => tabSet t (key e) (v e)) t) n = tabFind t n := by
  induction l generalizing t with
  | nil => rfl
  | cons e l ih =>
    rw [List.map_cons, List.mem_cons, not_or] at hn
    obtain ⟨hne, hrest⟩ := hn
    rw [List.foldl_cons, ih _ hrest, tabFind_tabSet, if_neg hne]

/-- A key that a series of replacements names holds one of their values. -/
theorem tabFind_foldl_tabSet_of_mem {α β : Type} (key : β → Nat) (v : β → α) (l : List β) (t : Tab α) {n : Nat} (hn : n ∈ l.map key) :
    ∃ e ∈ l, tabFind (l.foldl (fun t e => tabSet t (key e) (v e)) t) n = some (v e) := by
  induction l generalizing t with
  | nil => exact absurd hn (List.not_mem_nil)
  | cons e l ih =>
    rw [List.foldl_cons]
    by_cases hrest : n ∈ l.map key
    · obtain ⟨e', hmem, hfind⟩ := ih (tabSet t (key e) (v e)) hrest
      exact ⟨e', List.mem_cons_of_mem e hmem, hfind⟩
    · have hkey : n = key e := by
        rw [List.map_cons, List.mem_cons] at hn
        exact hn.resolve_right hrest
      refine ⟨e, List.mem_cons_self, ?_⟩
      rw [tabFind_foldl_tabSet_of_notMem key v l _ hrest, tabFind_tabSet, if_pos hkey]

/-- The lanes that a CHAIN at unit `g` with stages `st` takes: the lowest spare ones, as many as its hand-overs need (R228). -/
def State.chainTakes (s : State) (g : Nat) (st : List (Nat × TInstr × Bool × Bool)) : List Nat :=
  (s.spareLanes (clusterOf g)).take (chainLanes st).length

/-- The chain lanes of the cluster once the CHAIN has those that it takes, each with the unit that the hand-over on it goes to. -/
def State.lanesTaken (s : State) (g : Nat) (st : List (Nat × TInstr × Bool × Bool)) : Tab Lane :=
  ((s.chainTakes g st).zip (upto 0 (chainLanes st).length)).foldl (fun t e => tabSet t e.1
    { owner := some g, dst := (((chainLanes st)[e.2]?).bind (fun j => (st[j + 1]?).map (·.1))).getD 0 }) (s.sw (clusterOf g)).lanes

theorem State.chainTakes_keys (s : State) (g : Nat) (st : List (Nat × TInstr × Bool × Bool)) :
    ((s.chainTakes g st).zip (upto 0 (chainLanes st).length)).map (·.1) = s.chainTakes g st :=
  List.map_fst_zip (by rw [length_upto]; exact List.length_take_le _ _)

theorem State.lanesTaken_owner {s : State} {g n : Nat} {st : List (Nat × TInstr × Bool × Bool)} (hn : n ∈ s.chainTakes g st) :
    (tabGet ({} : Lane) (s.lanesTaken g st) n).owner = some g := by
  rw [← s.chainTakes_keys g st] at hn
  obtain ⟨e, -, hfind⟩ := tabFind_foldl_tabSet_of_mem _ _ _ (s.sw (clusterOf g)).lanes hn
  rw [tabGet_of_tabFind, State.lanesTaken, hfind]
  rfl

theorem State.lanesTaken_other {s : State} {g n : Nat} {st : List (Nat × TInstr × Bool × Bool)} (hn : n ∉ s.chainTakes g st) :
    tabFind (s.lanesTaken g st) n = tabFind (s.sw (clusterOf g)).lanes n := by
  rw [← s.chainTakes_keys g st] at hn
  exact tabFind_foldl_tabSet_of_notMem _ _ _ _ hn

theorem State.beginRun_sw (s : State) (g : Nat) (r : Run) (c : Nat) : (s.beginRun g r).sw c = s.sw c := by
  simp only [State.beginRun, State.setTu_frame]

/-- A CHAIN that passes its checks leaves the queue with the lanes that it takes (R293). -/
theorem chainIssue_of_ok {s : State} {g : Nat} {h : Issued} {p : BitVec 256} {st : List (Nat × TInstr × Bool × Bool)}
    (hc : s.issueCheck g h = none) (hp : s.recordOf g h.i = p) (hst : (chainEntries p).map (s.chainStage (clusterOf g)) = st)
    (hwords : st.any (fun e => e.2.2.2) = false) (hrec : chainRecOk p = true) (hok : chainOk (localOf g) st = true)
    (hfree : (chainLanes st).length ≤ (s.spareLanes (clusterOf g)).length) :
    chainIssue s g h = (s.setSw (clusterOf g) { s.sw (clusterOf g) with lanes := s.lanesTaken g st }).beginRun g
      { iss := h, prm := p, lanes := s.chainTakes g st, phase := 1 } := by
  have hfour : ¬ 4 < (chainLanes st).length := Nat.not_lt.2 (hfree.trans (s.length_spareLanes_le _))
  have hlack : ¬ (s.spareLanes (clusterOf g)).length < (chainLanes st).length := Nat.not_lt.2 hfree
  unfold State.spareLanes at hlack
  unfold chainIssue
  simp only [hc, hp, hst, hwords, hrec, hok, hfour, hlack, Bool.not_true, Bool.or_self, decide_false, Bool.false_eq_true, if_false]
  rfl

/-! ### CHAIN in turn -/

/-- An issue queue holds what was put in it; another of the cluster keeps what it holds. -/
theorem State.issueQ_setIssueQ (s : State) (c i j : Nat) (l : List Issued) :
    (s.setIssueQ c i l).issueQ c j = if j = i then l else s.issueQ c j := by
  have hgid : gidOf c j = gidOf c i ↔ j = i := Nat.add_left_cancel_iff
  unfold State.issueQ State.setIssueQ
  by_cases hi : i = 24
  · subst hi
    simp only [if_true, State.setSw_sw, State.setSw_frame]
    by_cases hj : j = 24
    · simp only [hj, if_true]
    · simp only [hj, if_false]
  · rw [if_neg hi, State.setTu_tu]
    simp only [State.setTu_frame, hgid]
    by_cases hj : j = i
    · subst hj
      simp only [hi, if_false, if_true]
    · simp only [hj, if_false]

theorem State.setIssueQ_mus_hbm (s : State) (c i : Nat) (l : List Issued) :
    (s.setIssueQ c i l).mus = s.mus ∧ (s.setIssueQ c i l).hbm = s.hbm := by
  unfold State.setIssueQ
  split
  · exact ⟨rfl, rfl⟩
  · exact ⟨rfl, rfl⟩

/-- Instructions join the issue queues of units of a cluster, one after another. -/
def State.enqueueAll (s : State) (c : Nat) (l : List (Nat × Issued)) : State :=
  l.foldl (fun s e => s.setIssueQ c e.1 (s.issueQ c e.1 ++ [e.2])) s

theorem State.enqueueAll_issueQ (s : State) (c k : Nat) (l : List (Nat × Issued)) :
    (s.enqueueAll c l).issueQ c k = s.issueQ c k ++ (l.filter (·.1 == k)).map (·.2) := by
  unfold State.enqueueAll
  induction l generalizing s with
  | nil => exact (List.append_nil _).symm
  | cons e l ih =>
    rw [List.foldl_cons, ih, State.issueQ_setIssueQ]
    by_cases hk : k = e.1
    · subst hk
      simp
    · simp [hk, Ne.symm hk]

theorem State.enqueueAll_mus_hbm (s : State) (c : Nat) (l : List (Nat × Issued)) :
    (s.enqueueAll c l).mus = s.mus ∧ (s.enqueueAll c l).hbm = s.hbm := by
  unfold State.enqueueAll
  induction l generalizing s with
  | nil => exact ⟨rfl, rfl⟩
  | cons e l ih =>
    obtain ⟨hmus, hhbm⟩ := ih (s.setIssueQ c e.1 (s.issueQ c e.1 ++ [e.2]))
    obtain ⟨hmus', hhbm'⟩ := s.setIssueQ_mus_hbm c e.1 (s.issueQ c e.1 ++ [e.2])
    exact ⟨hmus.trans hmus', hhbm.trans hhbm'⟩

/-- Stage `j` of a run of a CHAIN at unit `g`, as it stands in its unit's issue queue (R293). -/
def stageIssued (g : Nat) (r : Run) (sr : List (Nat × TInstr × Bool × Bool)) (e : Nat × TInstr × Bool × Bool) (j : Nat) : Issued :=
  { i := { e.2.1 with tag := 0, count := if r.iss.i.count = 0 then 0 else e.2.1.count }, scu := r.iss.scu, ctx := r.iss.ctx
    chain := some { head := g, id := r.id, stage := j, last := decide (j + 1 = sr.length), run := r.run
                    outTo := (sr[j + 1]?).map (·.1)
                    outLane := ((chainLanes sr).findIdx? (· == j)).bind (fun q => r.lanes[q]?), idle := r.iss.i.count == 0 } }

/-- The stages of a run of a CHAIN, in stage order, with the local indices of their units. -/
def stagesIssued (g : Nat) (r : Run) (sr : List (Nat × TInstr × Bool × Bool)) : List (Nat × Issued) :=
  (sr.zip (upto 0 sr.length)).map fun x => (x.1.1, stageIssued g r sr x.1 x.2)

/-- In turn, with good words and room in every queue, the next run's stages join the queues (R293). -/
theorem chainAdvance_placed {s : State} {g : Nat} {r : Run} {sr : List (Nat × TInstr × Bool × Bool)}
    (hsr : (chainEntries r.prm).map (s.chainStage (clusterOf g)) = sr) (hphase : r.phase = 1) (hwords : sr.any (fun e => e.2.2.2) = false)
    (hroom : ∀ e ∈ sr, (s.issueQ (clusterOf g) e.1).length < 8) :
    chainAdvance s g r = some ((s.enqueueAll (clusterOf g) (stagesIssued g r sr)).putRun g { r with phase := 2 }) := by
  have hfull : sr.any (fun e => decide (8 ≤ (s.issueQ (clusterOf g) e.1).length)) = false := by
    rw [List.any_eq_false]
    intro e he
    rw [decide_eq_true_eq, Nat.not_le]
    exact hroom e he
  simp only [chainAdvance, hsr, hphase, hfull, hwords, ne_eq, not_true_eq_false, Bool.false_eq_true, if_false, beq_iff_eq]
  unfold State.enqueueAll stagesIssued stageIssued
  rw [List.foldl_map]
  rfl

theorem getElem?_upto {a n j : Nat} (hj : j < n) : (upto a n)[j]? = some (a + j) := by
  induction n generalizing a j with
  | zero => exact absurd hj (Nat.not_lt_zero j)
  | succ n ih =>
    cases j with
    | zero => rfl
    | succ j =>
      rw [upto, List.getElem?_cons_succ, ih (Nat.lt_of_succ_lt_succ hj), Nat.add_right_comm, Nat.add_assoc]

theorem stagesIssued_getElem? {g j : Nat} {r : Run} {sr : List (Nat × TInstr × Bool × Bool)} {e : Nat × TInstr × Bool × Bool}
    (he : sr[j]? = some e) : (stagesIssued g r sr)[j]? = some (e.1, stageIssued g r sr e j) := by
  obtain ⟨hj, -⟩ := List.getElem?_eq_some_iff.1 he
  have hn : (upto 0 sr.length)[j]? = some j := (getElem?_upto hj).trans (congrArg some (Nat.zero_add j))
  have hzip : (sr.zip (upto 0 sr.length))[j]? = some (e, j) := List.getElem?_zip_eq_some.2 ⟨he, hn⟩
  rw [stagesIssued, List.getElem?_map, hzip]
  rfl

theorem stagesIssued_units (g : Nat) (r : Run) (sr : List (Nat × TInstr × Bool × Bool)) :
    (stagesIssued g r sr).map (·.1) = sr.map (·.1) := by
  have hfst : (sr.zip (upto 0 sr.length)).map (·.1) = sr := List.map_fst_zip (length_upto 0 sr.length).ge
  conv_rhs => rw [← hfst]
  rw [stagesIssued, List.map_map, List.map_map]
  rfl

/-- A CHAIN that passes its checks has each unit once (R291). -/
theorem chainOk.unit_once {u : Nat} {sr : List (Nat × TInstr × Bool × Bool)} {e : Nat × TInstr × Bool × Bool} (hok : chainOk u sr = true)
    (he : e ∈ sr) : ((sr.map (·.1)).filter (· == e.1)).length = 1 := by
  simp only [chainOk, Bool.and_eq_true, List.all_eq_true, decide_eq_true_eq, beq_iff_eq] at hok
  obtain ⟨⟨⟨-, hunits⟩, -⟩, -⟩ := hok
  exact (hunits e.1 (List.mem_map_of_mem he)).2

/-- Each stage joins its own queue, where no other stage of the CHAIN goes. -/
theorem stagesIssued_filter {g u j : Nat} {r : Run} {sr : List (Nat × TInstr × Bool × Bool)} {e : Nat × TInstr × Bool × Bool}
    (hok : chainOk u sr = true) (he : sr[j]? = some e) :
    (stagesIssued g r sr).filter (·.1 == e.1) = [(e.1, stageIssued g r sr e j)] := by
  have hone : ((stagesIssued g r sr).filter (·.1 == e.1)).length = 1 := by
    have honce := chainOk.unit_once hok (List.mem_of_getElem? he)
    rw [← stagesIssued_units g r sr, List.filter_map, List.length_map] at honce
    exact honce
  obtain ⟨x, hx⟩ := List.length_eq_one_iff.1 hone
  have hmem : (e.1, stageIssued g r sr e j) ∈ (stagesIssued g r sr).filter (·.1 == e.1) :=
    List.mem_filter.2 ⟨List.mem_of_getElem? (stagesIssued_getElem? he), beq_self_eq_true _⟩
  rw [hx, List.mem_singleton] at hmem
  rw [hx, hmem]

theorem State.putRun_issueQ (s : State) (g c k : Nat) (r : Run) : (s.putRun g r).issueQ c k = s.issueQ c k := by
  unfold State.issueQ State.putRun
  simp only [State.setTu_frame, State.setTu_tu]
  split
  · rfl
  · split
    next hk => rw [hk]
    · rfl

theorem State.progress_issueQ (s : State) (c c' k : Nat) : (s.progress c).issueQ c' k = s.issueQ c' k := by
  simp only [State.issueQ, State.progress_frame]

/-- Settles O24: a head that is ready issues, and the one run in turn advances; the lanes and the queues change one by one. -/
theorem commonTensorInstructions : Obligations.CommonTensorInstructions := by
  intro u h r s g c p st d read bytes free need sr
  have hcluster : clusterOf g = c := clusterOf_tuGid u
  refine ⟨fun hr hquiet => ?_, fun hr hda hsout hepoch hwired hquiet => ?_, fun hr hwords hrec hok hfree => ?_,
    fun hr hphase hok hwords hroom => ?_, fun hr hturn hawake hroom hclear => ?_⟩
  · exact (exec_fence u s).trans (tensorCmd_issues hr (fenceIssue_of_quiet hr.check hquiet))
  · rw [← hcluster] at hepoch hwired
    exact (exec_daymark u s).trans (tensorCmd_issues hr (daymarkIssue_token hr.check hda hsout hepoch hwired hquiet))
  · have hstages : (chainEntries p).map (s.chainStage (clusterOf g)) = st := by rw [hcluster]
    have hspare : s.spareLanes (clusterOf g) = free := by rw [hcluster]; rfl
    have htakes : s.chainTakes g st = free.take need := by rw [State.chainTakes, hspare]
    have hissue := chainIssue_of_ok hr.check rfl hstages hwords hrec hok (hspare ▸ hfree)
    refine ⟨_, (exec_chain u s).trans (tensorCmd_issues hr hissue), ?_, ?_, fun n hn => ?_, fun n hn => ?_, rfl, rfl⟩
    · simp only [State.beginRun_tu, if_true, State.setSw_frame]
    · simp only [State.beginRun_tu, if_true, State.setSw_frame, htakes]
      rfl
    · simp only [State.beginRun_sw, State.setSw_sw, hcluster, if_true]
      exact State.lanesTaken_owner (htakes ▸ hn)
    · simp only [State.beginRun_sw, State.setSw_sw, hcluster, if_true]
      exact (State.lanesTaken_other (htakes ▸ hn)).trans (by rw [hcluster])
  · have hstages : (chainEntries r.prm).map (s.chainStage (clusterOf g)) = sr := by rw [hcluster]
    have hadv := chainAdvance_placed hstages hphase hwords (hcluster ▸ hroom)
    obtain ⟨hmus, hhbm⟩ := s.enqueueAll_mus_hbm (clusterOf g) (stagesIssued g r sr)
    refine ⟨_, (exec_chain u s).trans (tensorCmd_advances hr hadv), ?_, ?_, fun j e he => ?_⟩
    · simpa only [State.progress_frame, State.putRun, State.setTu_frame] using hmus
    · simpa only [State.progress_frame, State.putRun, State.setTu_frame] using hhbm
    · rw [State.progress_issueQ, State.putRun_issueQ, hcluster, State.enqueueAll_issueQ, stagesIssued_filter hok he]
      rfl
  · rw [exec_qsendTensor, tensorCmd_advances hr (qsendAdvance_placed hturn hawake hroom hclear), hcluster]

end Sys2Proof.Machine
end

section
/-!
PROOFS. Native reconfiguration, the forced drain, waiting slot tables and the daymarks at circuits and units (R305, R313, R314, R318).
-/

namespace Sys2Proof.Machine

/-! ### The region's step boundary (R305, R313) -/

theorem exec_nativeReconfiguration_staged {sec : Fin 64} {g : Region} {place : Fin 2} {disc : Bool} {x : Sector} {imgs : List (Nat × Staged)}
    {s : State} (hphase : s.phase = .ready) (hsec : s.sector sec.val = some x) (hholds : x.holds g = true)
    (hboundary : (regionClusters g).all s.atBoundary = true) (hstaged : s.stagedIn (regionClusters g) place.val = some imgs) :
    exec (.nativeReconfiguration sec g place disc) s = .next (s.reconfigure sec.val imgs place.val disc none).1 := by
  simp only [exec, execNativeReconfiguration, hsec, hstaged, hphase, hholds, hboundary, ne_eq, not_true_eq_false, decide_false, Bool.not_true,
    Bool.or_self, Bool.false_eq_true, if_false]

/-- The epoch `e` becomes the quiet one of clusters (R313). -/
def State.setQuietEpochs (s : State) (cs : List Nat) (e : Nat) : State :=
  cs.foldl (fun (s : State) c => s.setCl c { s.cl c with quietEpoch := e }) s

theorem State.setQuietEpochs_ctxs (cs : List Nat) (e : Nat) (s : State) : (s.setQuietEpochs cs e).ctxs = s.ctxs := by
  induction cs generalizing s with
  | nil => rfl
  | cons c cs ih => exact ih (s.setCl c { s.cl c with quietEpoch := e })

/-- A cluster has the quiet epoch that is set when it is one of those named, or had it before. -/
theorem State.setQuietEpochs_quietEpoch {cs : List Nat} {e k : Nat} {s : State} (h : k ∈ cs ∨ (s.cl k).quietEpoch = e) :
    ((s.setQuietEpochs cs e).cl k).quietEpoch = e := by
  induction cs generalizing s with
  | nil => exact h.resolve_left List.not_mem_nil
  | cons c cs ih =>
    refine ih (s := s.setCl c { s.cl c with quietEpoch := e }) ?_
    rw [State.setCl_cl]
    by_cases hk : k = c
    · exact .inr (by rw [if_pos hk])
    · rw [if_neg hk]
      exact h.imp_left fun hmem => (List.mem_cons.1 hmem).resolve_left hk

/-- A drain finds nothing to discard in a quiet region: its newest epoch becomes its quiet one (R313). -/
theorem exec_forcedDrain_quiet {sec : Fin 64} {g : Region} {x : Sector} {s : State} (hphase : s.phase = .ready)
    (hsec : s.sector sec.val = some x) (hholds : x.holds g = true) (hdrain : (regionClusters g).all s.drainable = true)
    (hquiet : (regionClusters g).all (s.quiet (regionClusters g)) = true) (hage : 512 ≤ s.drainAge (regionClusters g)) :
    exec (.forcedDrain sec g) s = .next (s.setQuietEpochs (regionClusters g) (s.newestEpoch (regionClusters g))) := by
  have hbusy : (regionClusters g).filter (fun c => !s.quiet (regionClusters g) c) = [] := by
    rw [List.filter_eq_nil_iff]
    intro c hc
    rw [List.all_eq_true.1 hquiet c hc]
    exact Bool.false_ne_true
  simp only [exec, execForcedDrain, hsec, hphase, hholds, hdrain, hbusy, Nat.not_lt.2 hage, List.foldl_nil, ne_eq, not_true_eq_false,
    decide_false, Bool.not_true, Bool.or_self, Bool.false_eq_true, if_false]
  rfl

/-! ### Slot tables (R318) -/

/-- A waiting table is in force once its daymark has passed every circuit that owns a slot in the old one. -/
theorem exec_slotTableSwitch_passed {c : Fin 2048} {link : Fin 4} {lane : Fin 2} {e : Nat} {l : List Nat} {s : State}
    (hacts : s.acts (gidOf c.val 24) = true) (hnext : tabFind (s.sw c.val).nextTab (2 * link.val + lane.val) = some (e, l))
    (hpassed : ∀ n ∈ (tabGet [] (s.sw c.val).slotTab (2 * link.val + lane.val)).filterMap (slotEntry lane.val), n < 64 →
      s.hasPassed c.val n link.val e = true) :
    exec (.slotTableSwitch c link lane) s = .next (s.setSw c.val { s.sw c.val with
      slotTab := tabSet (s.sw c.val).slotTab (2 * link.val + lane.val) l
      nextTab := tabDel (s.sw c.val).nextTab (2 * link.val + lane.val) }) := by
  have hall : (((tabGet [] (s.sw c.val).slotTab (2 * link.val + lane.val)).filterMap (slotEntry lane.val)).filter
      (fun n => decide (n < 64))).all (fun n => s.hasPassed c.val n link.val e) = true := by
    rw [List.all_eq_true]
    intro n hn
    obtain ⟨hmem, hlt⟩ := List.mem_filter.1 hn
    exact hpassed n hmem (of_decide_eq_true hlt)
  simp only [exec, execSlotTableSwitch, hnext, hacts, hall, Bool.not_true, Bool.or_self, Bool.false_eq_true, if_false]

/-! ### Daymarks (R314, R318) -/

section Daymark
variable {f : Flit} {l : List Flit} {s : State} (hkind : f.kind = .daymark) (hside : f.sideBad = false) (hclear : f.settle.fogged = false)
include hkind hside hclear

/-- A newer daymark at the head of a circuit's buffer gives the circuit its epoch, and stays where it is. -/
theorem exec_daymarkTokenArrival_circuit {c : Fin 2048} {n : Fin 64} (hacts : s.acts (gidOf c.val 24) = true)
    (hbuf : tabGet [] (s.sw c.val).bufs n.val = f :: l) (hne : f.dmEpoch ≠ tabGet 0 (s.sw c.val).circEpoch n.val)
    (hnewer : newer (tabGet 0 (s.sw c.val).circEpoch n.val) f.dmEpoch = true) :
    exec (.daymarkTokenArrival c (.circuit n)) s
      = .next (((s.setSw c.val { s.sw c.val with circEpoch := tabSet (s.sw c.val).circEpoch n.val f.dmEpoch }).setCl c.val
          { s.cl c.val with epoch := if newer (s.cl c.val).epoch f.dmEpoch then f.dmEpoch else (s.cl c.val).epoch }).progress c.val) := by
  simp only [exec, execDaymarkTokenArrival, dmCircuit, hacts, hbuf, hkind, hside, hclear, hne, hnewer, ne_eq, not_true_eq_false, or_self,
    Bool.not_true, Bool.false_eq_true, if_false, if_true]

/-- A unit with nothing in progress takes a newer daymark off its channel, and its epoch with it. -/
theorem exec_unitSwitchover_quiet {u : TuId} {ch : Fin 2} (hacts : s.acts (tuGid u) = true) (hinq : (s.tu (tuGid u)).inq ch.val = f :: l)
    (hconf : (if ch.val = 0 then (s.tu (tuGid u)).conf0 else (s.tu (tuGid u)).conf1) = 0)
    (hnewer : newer (s.tu (tuGid u)).epoch f.dmEpoch = true) (hidle : (s.tu (tuGid u)).running = []) :
    exec (.unitSwitchover u ch) s
      = .next ((((s.setTu (tuGid u) { (s.tu (tuGid u)).takeMark ch.val f.dmConf true with epoch := f.dmEpoch }).countWords u.cluster.val
          [f]).switched u.cluster.val f.dmEpoch).progress u.cluster.val) := by
  simp only [exec, execUnitSwitchover, hacts, hinq, hkind, hconf, hnewer, hside, hclear, hidle, List.any_nil, ne_eq, not_true_eq_false,
    or_self, and_false, Bool.not_true, Bool.false_eq_true, if_false]

end Daymark

/-- Settles O34: at its boundary a region is loaded, a quiet one has nothing to discard, a waiting table is switched, and a newer daymark
is taken. -/
theorem reconfiguresAndMarks : Obligations.ReconfiguresAndMarks := by
  refine ⟨fun sec g place disc x imgs c link lane e l s => ?_, fun c n u f l s => ?_⟩
  · refine ⟨exec_nativeReconfiguration_staged, fun hphase hsec hholds hdrain hquiet hage => ?_, exec_slotTableSwitch_passed⟩
    exact ⟨_, exec_forcedDrain_quiet hphase hsec hholds hdrain hquiet hage, fun k hk => State.setQuietEpochs_quietEpoch (.inl hk),
      State.setQuietEpochs_ctxs _ _ s⟩
  · exact ⟨fun hacts hbuf hkind hside hclear => exec_daymarkTokenArrival_circuit hkind hside hclear hacts hbuf,
      fun ch hacts hinq hkind hconf hnewer hside hclear => exec_unitSwitchover_quiet hkind hside hclear hacts hinq hconf hnewer⟩

end Sys2Proof.Machine
end

section
/-!
PROOFS. State scan: what is written to device memory reads back there, the header of an image, and the operations of `CL_SCAN_CTL` (R319 to
R327).
-/

namespace Sys2Proof.Machine

/-! ### What a write of device memory leaves there (R336 to R339) -/

@[simp] theorem State.setHbm_hbm (s : State) (b : Hbm) : (s.setHbm b).hbm = b := rfl

theorem State.rcDrop_mem (s : State) (addr n : Nat) : (s.rcDrop addr n).hbm.mem = s.hbm.mem := by
  unfold State.rcDrop
  split
  · rfl
  · rfl

theorem State.hbmUncheck_mem (s : State) (addr n : Nat) : (s.hbmUncheck addr n).hbm.mem = s.hbm.mem := by
  unfold State.hbmUncheck
  split
  · rfl
  · rfl

theorem State.countWr_mem (s : State) (l : Nat) : (s.countWr l).hbm.mem = s.hbm.mem := rfl

theorem State.poisonLine_mem (s : State) (l : Nat) : (s.poisonLine l).hbm.mem = s.hbm.mem :=
  State.rcDrop_mem (s.setHbm { s.hbm with fogLines := setAdd s.hbm.fogLines l }) (l * 64) 64

theorem State.dieRead_mem (s : State) (k : Nat) : (s.dieRead k).hbm.mem = s.hbm.mem := by
  unfold State.dieRead
  split
  · rfl
  · rfl

/-- Decoding rewrites at most a line, which keeps the canonical form. -/
theorem State.decodeHalf_mem_wf {s : State} (h : Memory.wf s.hbm.mem = true) (w : Who) (k : Nat) :
    Memory.wf (s.decodeHalf w k).hbm.mem = true := by
  rw [← s.dieRead_mem k] at h
  unfold State.decodeHalf
  generalize s.dieRead k = t at h
  dsimp only
  split
  · simp only [State.corrected_frame, State.setCtrl_frame, State.setHbm_hbm]
    exact h
  · split
    · simp only [State.record_frame, State.poisonLine_mem, State.setCtrl_frame, State.setHbm_hbm]
      exact memWrite_wf _ _ _ h
    · exact h

theorem State.readLine_mem_wf {s : State} (h : Memory.wf s.hbm.mem = true) (w : Who) (l : Nat) : Memory.wf (s.readLine w l).hbm.mem = true := by
  unfold State.readLine State.decodeLine
  simp only [State.setCtrl_frame]
  exact State.decodeHalf_mem_wf (State.decodeHalf_mem_wf h w (2 * l)) w (2 * l + 1)

/-- The bytes of a write are written once the lines of its range are merged. -/
theorem State.hbmWrite_mem {s : State} (h : Memory.wf s.hbm.mem = true) (w : Who) (addr : Nat) (bytes : List Byte) (fog : List Bool) :
    ∃ m, Memory.wf m = true ∧ (s.hbmWrite w addr bytes fog).hbm.mem = memWrite m addr bytes := by
  unfold State.hbmWrite State.hbmWriteKeep
  dsimp only
  split
  next hnone =>
    rw [List.eq_nil_of_length_eq_zero hnone]
    exact ⟨s.hbm.mem, h, rfl⟩
  next =>
    refine ⟨_, ?_, (State.rcDrop_mem _ _ _).trans (State.hbmUncheck_mem _ _ _)⟩
    refine List.foldlRecOn (motive := fun t : State => Memory.wf t.hbm.mem = true) _ _ h fun t ht l _ => ?_
    dsimp only [State.setHbm]
    rw [State.countWr_mem]
    split
    · exact ht
    · exact State.readLine_mem_wf ht w l

theorem State.memRead_hbmWrite {s : State} (h : Memory.wf s.hbm.mem = true) (w : Who) (addr : Nat) (bytes : List Byte) (fog : List Bool) :
    memRead (s.hbmWrite w addr bytes fog).hbm.mem addr bytes.length = bytes := by
  obtain ⟨m, hm, hmem⟩ := State.hbmWrite_mem h w addr bytes fog
  rw [hmem, memRead_memWrite m addr bytes hm]

/-! ### Reading the accumulators (R143, R320) -/

theorem State.readTile_hbm (s : State) (g t : Nat) : (s.readTile g t).hbm = s.hbm := by
  unfold State.readTile
  dsimp only
  split
  · rfl
  · refine List.foldlRecOn (motive := fun u : State => u.hbm = s.hbm) _ _ ?_ fun u hu e _ => ?_
    · refine List.foldlRecOn (motive := fun u : State => u.hbm = s.hbm) _ _ ?_ fun u hu e _ => ?_
      · simp only [State.setMcu_frame]
      · simp only [State.corrected_frame, hu]
    · simp only [State.recordUnit_frame, hu]

theorem State.readTiles_hbm (s : State) (c : Nat) : (s.readTiles c).hbm = s.hbm :=
  List.foldlRecOn (motive := fun u : State => u.hbm = s.hbm) _ _ rfl fun _ hu _ _ =>
    List.foldlRecOn (motive := fun u : State => u.hbm = s.hbm) _ _ hu fun v hv t _ => (v.readTile_hbm _ t).trans hv

/-! ### The image (R319, R321) -/

/-- The first bytes of a number are those of the number modulo what they can hold. -/
theorem take_toBytes (k n x : Nat) : (toBytes (k + n) x).take k = toBytes k (x % 2 ^ (8 * k)) := by
  induction k generalizing x with
  | zero => rfl
  | succ k ih =>
    have hpow : (2 : Nat) ^ (8 * (k + 1)) = 256 * 2 ^ (8 * k) := by rw [Nat.mul_add, Nat.pow_add, Nat.mul_comm]
    have hhead : BitVec.ofNat 8 (x % 2 ^ (8 * (k + 1))) = BitVec.ofNat 8 x := by
      apply BitVec.eq_of_toNat_eq
      simp only [BitVec.toNat_ofNat]
      rw [hpow]
      exact Nat.mod_mul_right_mod x 256 (2 ^ (8 * k))
    have htail : x % 2 ^ (8 * (k + 1)) / 256 = x / 256 % 2 ^ (8 * k) := by rw [hpow, Nat.mod_mul_right_div_self]
    rw [Nat.add_right_comm, toBytes, toBytes, List.take_succ_cons, ih, hhead, htail]

/-- Fields from bit `k` on leave the bits below as they are. -/
theorem foldl_word_mod {k : Nat} (l : List (Nat × Nat)) (hl : ∀ e ∈ l, k ≤ e.1) (a : Nat) :
    l.foldl (fun a e => a + e.2 * 2 ^ e.1) a % 2 ^ k = a % 2 ^ k := by
  induction l generalizing a with
  | nil => rfl
  | cons e l ih =>
    obtain ⟨he, hl⟩ := List.forall_mem_cons.1 hl
    have hdvd : 2 ^ k ∣ e.2 * 2 ^ e.1 := Dvd.dvd.mul_left (Nat.pow_dvd_pow 2 he) e.2
    rw [List.foldl_cons, ih hl, Nat.add_mod, Nat.mod_eq_zero_of_dvd hdvd, Nat.add_zero, Nat.mod_mod]

/-- The first four bytes of a header are its magic, whatever its CRC field holds. -/
theorem ScanImg.headerWith_magic (i : ScanImg) (crc : BitVec 32) : (i.headerWith crc).take 4 = toBytes 4 0x4B525343 := by
  rw [ScanImg.headerWith, take_toBytes 4 60, word, List.foldl_cons, foldl_word_mod (k := 8 * 4) _ (by simp)]
  rfl

theorem ScanImg.bytes_magic (i : ScanImg) : i.bytes.take 4 = toBytes 4 0x4B525343 := by
  have hlen : 4 ≤ i.header.length := by
    rw [ScanImg.header, ScanImg.headerWith, length_toBytes]
    decide
  rw [ScanImg.bytes, List.take_append_of_le_length hlen, ScanImg.header, ScanImg.headerWith_magic]

theorem ScanImg.kib_le (i : ScanImg) : i.kib ≤ 3200 := by
  have hlen : i.length ≤ 51200 := Nat.min_le_left _ _
  rw [ScanImg.kib, ceilDiv, if_neg (by decide)]
  omega

/-- The image, as it has been laid out, is written at the page of its buffer and noted there (R322). -/
theorem State.putImage_writes {i : ScanImg} {b : Nat} (s : State) (hbuf : i.buf = some b) :
    ∃ (t : State) (j : ScanImg), t.hbm.mem = s.hbm.mem
      ∧ s.putImage i = ({ t.hbmWrite { unit := gidOf i.cluster 26 } (b * 4096) j.bytes [] with
          scanImgs := tabSet (t.hbmWrite { unit := gidOf i.cluster 26 } (b * 4096) j.bytes []).scanImgs b j }, j) := by
  unfold State.putImage
  simp only [hbuf]
  refine ⟨_, _, ?_, rfl⟩
  rfl

theorem State.putImage_found {i : ScanImg} {b : Nat} (s : State) (hbuf : i.buf = some b) :
    tabFind (s.putImage i).1.scanImgs b = some (s.putImage i).2 := by
  obtain ⟨t, j, -, hput⟩ := s.putImage_writes hbuf
  rw [hput, tabFind_tabSet, if_pos rfl]

theorem State.memRead_putImage {i : ScanImg} {b : Nat} {s : State} (hbuf : i.buf = some b) (h : Memory.wf s.hbm.mem = true) :
    memRead (s.putImage i).1.hbm.mem (b * 4096) (s.putImage i).2.bytes.length = (s.putImage i).2.bytes := by
  obtain ⟨t, j, hmem, hput⟩ := s.putImage_writes hbuf
  rw [← hmem] at h
  rw [hput]
  exact State.memRead_hbmWrite h _ _ _ _

/-! ### The operations of `CL_SCAN_CTL` (R322, R323, R327) -/

/-- Only the Keeper's writes of `CL_SCAN_CTL` count (R327). -/
theorem exec_scanCtl_other {r : Requester} (hr : r ≠ .keeper) (c : Fin 2048) (v : Word) (x : Fin 4096) (s : State) :
    ∀ e ∈ [Instr.scanFreeze r c v, .scanOut r c v, .scanIn r c v x, .scanRelease r c v], exec e s = .next s := by
  intro e he
  simp only [List.mem_cons, List.not_mem_nil, or_false] at he
  obtain rfl | rfl | rfl | rfl := he
  · exact if_pos hr
  · exact if_pos hr
  · exact if_pos hr
  · exact if_pos hr

theorem exec_scanFreeze_running {c : Fin 2048} {v : Word} {s : State} (hscan : ((s.scanCtl c.val v).cl c.val).scan = .running)
    (hload : ((s.scanCtl c.val v).cl c.val).loading = false) :
    exec (.scanFreeze .keeper c v) s = .next ((s.scanCtl c.val v).setCl c.val
      { (s.scanCtl c.val v).cl c.val with scan := .freezing, scanned := true, pendingOp := 1 }) := by
  simp only [exec, execScanFreeze, hscan, hload, ne_eq, not_true_eq_false, reduceCtorEq, decide_false, Bool.or_self,
    Bool.false_eq_true, if_false]

theorem exec_safePointStop_freezing {u : TuId} {s : State} (hscan : (s.cl u.cluster.val).scan = .freezing) :
    exec (.safePointStop u) s = .next (s.setTu (tuGid u) { s.tu (tuGid u) with stopped := true }) := by
  simp only [exec, execSafePointStop, hscan, ne_eq, not_true_eq_false, if_false]

theorem exec_scanOpDone_freezing {c : Fin 2048} {s : State} (hscan : (s.cl c.val).scan = .freezing)
    (hstopped : ∀ k < 20, (s.tu (gidOf c.val k)).stopped = true) :
    exec (.scanOpDone c) s = .next (((s.landAll c.val).sendTransit c.val).setCl c.val
      { ((s.landAll c.val).sendTransit c.val).cl c.val with scan := .frozen, done := true, pendingOp := 0 }) := by
  have hall : (upto 0 20).all (fun u => (s.tu (gidOf c.val u)).stopped) = true := by
    rw [List.all_eq_true]
    intro k hk
    obtain ⟨-, hlt⟩ := (mem_upto 0 20 k).1 hk
    exact hstopped k (by omega)
  simp only [exec, execScanOpDone, hscan, hall, if_true]

theorem exec_scanOpDone_moving {c : Fin 2048} {s : State} (hscan : (s.cl c.val).scan = .moving) (hstacks : s.retrains = false) :
    exec (.scanOpDone c) s = .next (s.setCl c.val { s.cl c.val with scan := .frozen, done := true, pendingOp := 0 }) := by
  simp only [exec, execScanOpDone, hscan, hstacks, Bool.false_eq_true, if_false]

section Frozen
variable {c : Fin 2048} {v : Word} {s a : State} (ha : a = s.scanCtl c.val v) (hscan : (a.cl c.val).scan = .frozen)
include ha hscan

theorem exec_scanOut_frozen {y : State × ScanImg}
    (hy : y = (a.readTiles c.val).putImage ((a.readTiles c.val).takeScan c.val (a.cl c.val).prog (some (a.cl c.val).buf))) :
    exec (.scanOut .keeper c v) s
      = .next (y.1.setCl c.val { a.cl c.val with scan := .moving, pendingOp := 2, kib := y.2.kib }) := by
  subst ha hy
  simp only [exec, execScanOut, hscan, ne_eq, not_true_eq_false, if_false]

theorem exec_scanRelease_frozen {d : State} (hd : d = if a.parked c.val then a else a.release c.val) :
    exec (.scanRelease .keeper c v) s = .next (d.setCl c.val { d.cl c.val with done := true, scanned := false }) := by
  subst ha hd
  simp only [exec, execScanRelease, hscan, ne_eq, not_true_eq_false, if_false]

section In
variable {b d : State} {x : Fin 4096} (hb : b = a.setCl c.val { a.cl c.val with scan := .moving, pendingOp := 3 })
include hb

theorem exec_scanIn_noImage (hat : b.scanAt c.val (a.cl c.val).buf = (d, none)) :
    exec (.scanIn .keeper c v x) s
      = .next (d.failCtx x.val stFoggedControl { unit := gidOf c.val 26, cls := 5, sev := 3, cause := 0x04 }) := by
  subst ha hb
  simp only [exec, execScanIn, hscan, hat, ne_eq, not_true_eq_false, if_false]

/-- The image found is handed to `scanInto`, where its context fails if its bytes have changed; an unchanged one only if it is of this sector
and context (R323). -/
theorem exec_scanIn_image {i : ScanImg} (hat : b.scanAt c.val (a.cl c.val).buf = (d, some i)) :
    exec (.scanIn .keeper c v x) s =
      if i.crcBad || ((b.sectorOf i.cluster).isSome && b.sectorOf i.cluster == b.sectorOf c.val && i.context == x.val) then
        .next (((d.dropRequests c.val).scanInto c.val x.val i).admitOther c.val)
      else .next ((d.setCl c.val { d.cl c.val with bad := true }).failCtx x.val stContextFault
        { unit := gidOf c.val 26, cls := 7, sev := 3, cause := 0x0C }) := by
  subst ha hb
  simp only [exec, execScanIn, hscan, hat, ne_eq, not_true_eq_false, if_false]

theorem exec_scanIn_taken {i : ScanImg} (hat : b.scanAt c.val (a.cl c.val).buf = (d, some i))
    (htake : i.crcBad = true ∨ ((b.sectorOf i.cluster).isSome = true ∧ b.sectorOf i.cluster = b.sectorOf c.val ∧ i.context = x.val)) :
    exec (.scanIn .keeper c v x) s = .next (((d.dropRequests c.val).scanInto c.val x.val i).admitOther c.val) := by
  rw [exec_scanIn_image ha hscan hb hat]
  apply if_pos
  simpa only [Bool.or_eq_true, Bool.and_eq_true, beq_iff_eq, and_assoc] using htake

theorem exec_scanIn_refused {i : ScanImg} (hat : b.scanAt c.val (a.cl c.val).buf = (d, some i)) (hcrc : i.crcBad = false)
    (hother : (b.sectorOf i.cluster).isSome = false ∨ b.sectorOf i.cluster ≠ b.sectorOf c.val ∨ i.context ≠ x.val) :
    exec (.scanIn .keeper c v x) s = .next ((d.setCl c.val { d.cl c.val with bad := true }).failCtx x.val stContextFault
      { unit := gidOf c.val 26, cls := 7, sev := 3, cause := 0x0C }) := by
  rw [exec_scanIn_image ha hscan hb hat]
  apply if_neg
  rw [hcrc, Bool.false_or, Bool.and_eq_true, Bool.and_eq_true, beq_iff_eq, beq_iff_eq]
  rintro ⟨⟨hsome, hsector⟩, hcontext⟩
  obtain hnone | hsector' | hcontext' := hother
  · exact Bool.false_ne_true (hnone.symm.trans hsome)
  · exact hsector' hsector
  · exact hcontext' hcontext

end In
end Frozen

/-! ### An image put back (R323) -/

section Into
variable {c x : Nat} {i : ScanImg} {y : Ctx} {s : State} (hctx : s.ctx x = some y)
include hctx

theorem State.scanInto_crcBad (hcrc : i.crcBad = true) (hgood : y.state ≠ .failed) :
    (s.scanInto c x i).ctx x = some { y with state := .failed, status := stFoggedControl, tearing := true } := by
  simp only [State.scanInto, hctx, hcrc, if_true, State.failCtx_ctx, Option.map_some, if_neg hgood]

theorem State.scanInto_prog (hcrc : i.crcBad = false) (hprog : i.prog = true) : s.scanInto c x i = s.putScan c i := by
  simp only [State.scanInto, hctx, hcrc, hprog, Bool.false_eq_true, if_false, if_true]

theorem State.scanInto_named {p : Nat} {g : Staged} (hcrc : i.crcBad = false) (hprog : i.prog = false)
    (himage : y.imageWith c i.imageCrc = some (p, g)) : s.scanInto c x i = (s.loadCluster c g p i.epoch).putScan c i := by
  simp only [State.scanInto, hctx, hcrc, hprog, himage, Bool.false_eq_true, if_false]

end Into

/-- Settles O35: the state of the cluster's scan and what is found at the page choose what each operation does. -/
theorem scanOperations : Obligations.ScanOperations := by
  refine ⟨fun c u v x s => ?_, fun c x i y s hctx =>
    ⟨State.scanInto_crcBad hctx, State.scanInto_prog hctx, fun hcrc hprog p g => State.scanInto_named hctx hcrc hprog⟩⟩
  intro a k b z
  refine ⟨exec_scanFreeze_running, exec_safePointStop_freezing, exec_scanOpDone_freezing, exec_scanOpDone_moving, fun hscan => ?_,
    fun hscan => ?_, fun hscan => exec_scanRelease_frozen rfl hscan rfl, fun r hr => exec_scanCtl_other hr c v x s⟩
  · intro y
    have hbuf : ((a.readTiles c.val).takeScan c.val k.prog (some k.buf)).buf = some k.buf := rfl
    refine ⟨exec_scanOut_frozen rfl hscan rfl, State.putImage_found _ hbuf, y.2.kib_le, y.2.bytes_magic, fun hwf => ?_⟩
    refine State.memRead_putImage hbuf ?_
    rw [State.readTiles_hbm]
    exact hwf
  · intro d
    refine ⟨fun i hfound => ?_, fun hnone => exec_scanIn_noImage rfl hscan rfl (Prod.ext rfl hnone)⟩
    have hat : b.scanAt c.val k.buf = (d, some i) := Prod.ext rfl hfound
    exact ⟨exec_scanIn_taken rfl hscan rfl hat, exec_scanIn_refused rfl hscan rfl hat⟩

end Sys2Proof.Machine
end

section
/-!
PROOFS. What no command takes away: the queue of the commands that wait behind it, and the anti-rollback floor of the flash (R481, R521).
What it means for each kind of answer, and the operations that replace one part of the state.
-/

namespace Sys2Proof.Machine

/-! ### The queue and the floor in the answers of operations -/

/-- What a run of the model starts from: a state, and whether its sectors stay as they are besides. -/
structure Before where
  state : State
  sectors : Bool

/-- The same run, where sectors may come, change and go. -/
def Before.loose (b : Before) : Before := { b with sectors := false }

/-- The queue of waiting commands is that of `s₀`, the rollback floor is not below that of `s₀`, and so are its sectors if they stay. -/
def State.keeps (s : State) (s₀ : Before) : Prop :=
  s.pending = s₀.state.pending ∧ s₀.state.flash.floor ≤ s.flash.floor ∧ (s₀.sectors = true → s.sectors = s₀.state.sectors)

theorem State.keeps_refl (s : State) (b : Bool) : s.keeps ⟨s, b⟩ := ⟨rfl, Nat.le_refl _, fun _ => rfl⟩

/-- So do all states in an answer. -/
def optKeeps : Option State → Before → Prop
  | none, _ => True
  | some t, s₀ => t.keeps s₀

def Res.keeps : Res → Before → Prop
  | .next t, s₀ => t.keeps s₀
  | .fault _, _ => True
  | .refused _, _ => True

def Sent.keeps : Sent → Before → Prop
  | .ok t _, s₀ => t.keeps s₀
  | .fail t, s₀ => t.keeps s₀
  | .fault t _, s₀ => t.keeps s₀
  | .wait t, s₀ => t.keeps s₀

def Push.keeps : Push → Before → Prop
  | .ok t _, s₀ => t.keeps s₀
  | .fail t, s₀ => t.keeps s₀
  | .fault t _ _ _, s₀ => t.keeps s₀

def QStep.keeps : QStep → Before → Prop
  | .wait, _ => True
  | .woke t, s₀ => t.keeps s₀
  | .did t, s₀ => t.keeps s₀

def Delivered.keeps : Delivered → Before → Prop
  | .yes t, s₀ => t.keeps s₀
  | .refused _, _ => True
  | .waits t, s₀ => t.keeps s₀
  | .failed t, s₀ => t.keeps s₀

def SOut.keeps : SOut → Before → Prop
  | .retire t _, s₀ => t.keeps s₀
  | .halted t, s₀ => t.keeps s₀
  | .block t _, s₀ => t.keeps s₀
  | .fault _ _, _ => True
  | .faultAt t _ _, s₀ => t.keeps s₀

section Keeps
variable {s : State} {s₀ : Before}

/-! An answer that is known by an equation. -/

theorem optKeeps.of_eq {o : Option State} {t : State} (h : optKeeps o s₀) (e : o = some t) : t.keeps s₀ := by
  rw [e] at h
  exact h
theorem keeps_of_fst {α : Type} {p : State × α} {t : State} {a : α} (h : p.1.keeps s₀) (e : p = (t, a)) : t.keeps s₀ := by
  rw [e] at h
  exact h
theorem optKeeps_map {α : Type} {o : Option α} {f : α → State} (h : ∀ a, o = some a → (f a).keeps s₀) : optKeeps (o.map f) s₀ := by
  cases o with
  | none => trivial
  | some a => exact h a rfl
theorem optKeeps_bind {α : Type} {o : Option α} {f : α → Option State} (h : ∀ a, o = some a → optKeeps (f a) s₀) : optKeeps (o.bind f) s₀ := by
  cases o with
  | none => trivial
  | some a => exact h a rfl
theorem optKeeps.getD {o : Option State} {t : State} (h : optKeeps o s₀) (ht : t.keeps s₀) : (o.getD t).keeps s₀ := by
  cases o with
  | none => exact ht
  | some _ => exact h
theorem SOut.keeps.of_eq {a b : SOut} (h : a.keeps s₀) (e : a = b) : b.keeps s₀ := e ▸ h
theorem Sent.keeps.of_eq {a b : Sent} (h : a.keeps s₀) (e : a = b) : b.keeps s₀ := e ▸ h
theorem Push.keeps.of_eq {a b : Push} (h : a.keeps s₀) (e : a = b) : b.keeps s₀ := e ▸ h
theorem QStep.keeps.of_eq {a b : QStep} (h : a.keeps s₀) (e : a = b) : b.keeps s₀ := e ▸ h
theorem Delivered.keeps.of_eq {a b : Delivered} (h : a.keeps s₀) (e : a = b) : b.keeps s₀ := e ▸ h

/-! ### Replacing one part of the state -/

/-- A slot of the flash is written beside the floor. -/
theorem Flash.floor_setSlot (f : Flash) (k : Nat) (x : FwSlot) : (f.setSlot k x).floor = f.floor := by
  unfold Flash.setSlot
  split <;> rfl

/-- Every other part of the state may change freely, the flash beside its floor, and the sectors where they need not stay. The record is written
out, so that the rule meets every `{ s with … }`. -/
theorem State.keeps.updateSectors {time phase trigger triggerAt pins tus mus mcus vcus scus sws rts cls mesh groups pmFlush sfs remap placed
    quadBad hbm pageReqs atc snoops ports fns sectors ctxs err aud sec flash pwr kpr txn held scanImgs out
    fresh} (h : s.keeps s₀.loose) (hf : s.flash.floor ≤ flash.floor) :
    State.keeps { pending := s.pending, time := time, phase := phase, trigger := trigger, triggerAt := triggerAt, pins := pins, tus := tus
                  mus := mus, mcus := mcus, vcus := vcus, scus := scus, sws := sws, rts := rts, cls := cls, mesh := mesh, groups := groups
                  pmFlush := pmFlush, sfs := sfs, remap := remap, placed := placed, quadBad := quadBad, hbm := hbm, pageReqs := pageReqs
                  atc := atc, snoops := snoops, ports := ports, fns := fns, sectors := sectors, ctxs := ctxs, err := err, aud := aud
                  sec := sec, flash := flash, pwr := pwr, kpr := kpr, txn := txn, held := held, scanImgs := scanImgs, out := out
                  fresh := fresh } s₀.loose := by
  obtain ⟨hpending, hfloor, -⟩ := h
  exact ⟨hpending, Nat.le_trans hfloor hf, nofun⟩

theorem State.keeps.updateFlash {time phase trigger triggerAt pins tus mus mcus vcus scus sws rts cls mesh groups pmFlush sfs remap placed
    quadBad hbm pageReqs atc snoops ports fns ctxs err aud sec flash pwr kpr txn held scanImgs out fresh} (h : s.keeps s₀) (hf : s.flash.floor ≤ flash.floor) :
    State.keeps { pending := s.pending, time := time, phase := phase, trigger := trigger, triggerAt := triggerAt, pins := pins, tus := tus
                  mus := mus, mcus := mcus, vcus := vcus, scus := scus, sws := sws, rts := rts, cls := cls, mesh := mesh, groups := groups
                  pmFlush := pmFlush, sfs := sfs, remap := remap, placed := placed, quadBad := quadBad, hbm := hbm, pageReqs := pageReqs
                  atc := atc, snoops := snoops, ports := ports, fns := fns, sectors := s.sectors, ctxs := ctxs, err := err, aud := aud
                  sec := sec, flash := flash, pwr := pwr, kpr := kpr, txn := txn, held := held, scanImgs := scanImgs, out := out
                  fresh := fresh } s₀ := by
  obtain ⟨hpending, hfloor, hsectors⟩ := h
  exact ⟨hpending, Nat.le_trans hfloor hf, hsectors⟩

theorem State.keeps.update {time phase trigger triggerAt pins tus mus mcus vcus scus sws rts cls mesh groups pmFlush sfs remap placed
    quadBad hbm pageReqs atc snoops ports fns ctxs err aud sec pwr kpr txn held scanImgs out fresh} (h : s.keeps s₀) :
    State.keeps { pending := s.pending, time := time, phase := phase, trigger := trigger, triggerAt := triggerAt, pins := pins, tus := tus
                  mus := mus, mcus := mcus, vcus := vcus, scus := scus, sws := sws, rts := rts, cls := cls, mesh := mesh, groups := groups
                  pmFlush := pmFlush, sfs := sfs, remap := remap, placed := placed, quadBad := quadBad, hbm := hbm, pageReqs := pageReqs
                  atc := atc, snoops := snoops, ports := ports, fns := fns, sectors := s.sectors, ctxs := ctxs, err := err, aud := aud
                  sec := sec, flash := s.flash, pwr := pwr, kpr := kpr, txn := txn, held := held, scanImgs := scanImgs, out := out
                  fresh := fresh } s₀ := h

theorem State.keeps.setTu {i v} (h : s.keeps s₀) : (s.setTu i v).keeps s₀ := h
theorem State.keeps.setMu {i v} (h : s.keeps s₀) : (s.setMu i v).keeps s₀ := h
theorem State.keeps.setMcu {i v} (h : s.keeps s₀) : (s.setMcu i v).keeps s₀ := h
theorem State.keeps.setVcu {i v} (h : s.keeps s₀) : (s.setVcu i v).keeps s₀ := h
theorem State.keeps.setScu {i v} (h : s.keeps s₀) : (s.setScu i v).keeps s₀ := h
theorem State.keeps.setSw {c v} (h : s.keeps s₀) : (s.setSw c v).keeps s₀ := h
theorem State.keeps.setRt {c v} (h : s.keeps s₀) : (s.setRt c v).keeps s₀ := h
theorem State.keeps.setCl {c v} (h : s.keeps s₀) : (s.setCl c v).keeps s₀ := h
theorem State.keeps.setGrp {g v} (h : s.keeps s₀) : (s.setGrp g v).keeps s₀ := h
theorem State.keeps.setSf {r v} (h : s.keeps s₀) : (s.setSf r v).keeps s₀ := h
theorem State.keeps.setPort {p v} (h : s.keeps s₀) : (s.setPort p v).keeps s₀ := h
theorem State.keeps.setFn {f v} (h : s.keeps s₀) : (s.setFn f v).keeps s₀ := h
theorem State.keeps.setHbm {b} (h : s.keeps s₀) : (s.setHbm b).keeps s₀ := h
theorem State.keeps.setCtrl {n v} (h : s.keeps s₀) : (s.setCtrl n v).keeps s₀ := h
theorem State.keeps.setCtx {x v} (h : s.keeps s₀) : (s.setCtx x v).keeps s₀ := h
theorem State.keeps.setSector {r v} (h : s.keeps s₀.loose) : (s.setSector r v).keeps s₀.loose := h.updateSectors (Nat.le_refl _)
theorem State.keeps.setDie {d v} (h : s.keeps s₀) : (s.setDie d v).keeps s₀ := h
theorem State.keeps.setRing {f r v} (h : s.keeps s₀) : (s.setRing f r v).keeps s₀ := h
theorem State.keeps.emit {o} (h : s.keeps s₀) : (s.emit o).keeps s₀ := h
theorem State.keeps.modErr {f} (h : s.keeps s₀) : (s.modErr f).keeps s₀ := h
theorem State.keeps.draw (h : s.keeps s₀) : s.draw.2.keeps s₀ := h
theorem State.keeps.draw_eq {t w} (h : s.keeps s₀) (e : s.draw = (w, t)) : t.keeps s₀ := by
  cases e
  exact h.draw
theorem State.keeps.advance {d} (h : s.keeps s₀) : (s.advance d).keeps s₀ := h

/-- A fold of steps that each keep the queue and the floor does. -/
theorem State.keeps.foldl {α : Type} {f : State → α → State} {l : List α} (h : s.keeps s₀) (hf : ∀ t a, t.keeps s₀ → (f t a).keeps s₀) :
    (l.foldl f s).keeps s₀ := by
  induction l generalizing s with
  | nil => exact h
  | cons a l ih => exact ih (hf s a h)

/-- So does one that gathers something beside the state. -/
theorem State.keeps.foldl_fst {α β : Type} {p : State × β} {f : State × β → α → State × β} {l : List α} (h : p.1.keeps s₀)
    (hf : ∀ q a, q.1.keeps s₀ → (f q a).1.keeps s₀) : (l.foldl f p).1.keeps s₀ := by
  induction l generalizing p with
  | nil => exact h
  | cons a l ih => exact ih (hf p a h)

end Keeps

end Sys2Proof.Machine
end

section
/-!
PROOFS. What no command takes away: progress, error records, failing contexts, resets and device time.
-/

namespace Sys2Proof.Machine

section Keeps
variable {s : State} {s₀ : Before}

/-! ### Whom a cluster belongs to -/

theorem State.keeps.progress {c} (h : s.keeps s₀) : (s.progress c).keeps s₀ := by
  unfold State.progress
  split <;> exact h

/-! ### Error records (R436 to R441, R459) -/

theorem State.keeps.queueSwap {c} (h : s.keeps s₀) : (s.queueSwap c).keeps s₀ := by
  unfold State.queueSwap
  split <;> exact h

theorem State.keeps.noteUe {c} (h : s.keeps s₀) : (s.noteUe c).keeps s₀ := by
  unfold State.noteUe
  extract_lets +onlyGivenNames l _ t
  have ht : t.keeps s₀ := h.update
  split
  · exact ht.queueSwap
  · exact ht

theorem State.keeps.noteRec {r} (h : s.keeps s₀) : (s.noteRec r).keeps s₀ := by
  unfold State.noteRec
  split
  · exact h.noteUe
  · exact h

theorem State.keeps.recordAt {t b r} (h : s.keeps s₀) : (s.recordAt t b r).keeps s₀ := h.draw.noteRec.modErr

theorem State.keeps.disarm (h : s.keeps s₀) : s.disarm.keeps s₀ := h

theorem State.keeps.record {r} (h : s.keeps s₀) : (s.record r).keeps s₀ := h.recordAt

theorem State.keeps.recordUnit {gid r} (h : s.keeps s₀) : (s.recordUnit gid r).keeps s₀ := h.record

theorem State.keeps.endCorrRun {c} (h : s.keeps s₀) : (s.endCorrRun c).keeps s₀ := by
  unfold State.endCorrRun
  extract_lets +onlyGivenNames t
  have ht : t.keeps s₀ := h.modErr
  split
  · exact ht
  · exact ht.recordAt

theorem State.keeps.endOldRun {r} (h : s.keeps s₀) : (s.endOldRun r).keeps s₀ := by
  unfold State.endOldRun
  split
  · split
    · exact h.endCorrRun
    · exact h
  · exact h

theorem State.keeps.countCorr {r} (h : s.keeps s₀) : (s.countCorr r).keeps s₀ := by
  unfold State.countCorr
  split
  · exact h.modErr
  · exact h.record.modErr

theorem State.keeps.corrected {r} (h : s.keeps s₀) : (s.corrected r).keeps s₀ := h.endOldRun.countCorr

theorem State.keeps.failCtx {x status r} (h : s.keeps s₀) : (s.failCtx x status r).keeps s₀ := by
  unfold State.failCtx
  split
  · exact h
  next heq =>
    extract_lets +onlyGivenNames t
    have ht : t.keeps s₀ := h.record
    split
    · exact ht
    · exact ht.setCtx

theorem State.keeps.failUnit {gid status cause op scalar} (h : s.keeps s₀) : (s.failUnit gid status cause op scalar).keeps s₀ := by
  unfold State.failUnit
  split
  · exact h.failCtx
  · exact h

theorem State.keeps.latchReset {cause} (h : s.keeps s₀) : (s.latchReset cause).keeps s₀ := by
  unfold State.latchReset
  split <;> exact h

theorem State.keeps.latchAs {cause why} (h : s.keeps s₀) : (s.latchAs cause why).keeps s₀ := by
  unfold State.latchAs
  extract_lets +onlyGivenNames t
  have ht : t.keeps s₀ := h.latchReset
  split
  · exact ht.modErr
  · exact ht

theorem State.keeps.parityReset (h : s.keeps s₀) : s.parityReset.keeps s₀ := h.latchAs

/-! ### Device time (R510) and the frames of the dies (R213) -/

theorem State.keeps.advanceTo {t} (h : s.keeps s₀) : (s.advanceTo t).keeps s₀ := by
  unfold State.advanceTo
  split <;> exact h

theorem State.keeps.idle (h : s.keeps s₀) : (idle s).keeps s₀ := by
  unfold Machine.idle
  split <;> exact h

end Keeps

end Sys2Proof.Machine
end

section
/-!
PROOFS. What no command takes away: access to a scratchpad, message queues, the packet mesh.
-/

namespace Sys2Proof.Machine

section Keeps
variable {s : State} {s₀ : Before}

theorem State.keeps.readWords {gid sel} (h : s.keeps s₀) : (s.readWords gid sel).keeps s₀ := by
  unfold State.readWords
  extract_lets +onlyGivenNames m ce ue m' t t1 t2
  have ht : t.keeps s₀ := h.setMu
  have ht1 : t1.keeps s₀ := ht.foldl fun _ _ hu => hu.corrected
  have ht2 : t2.keeps s₀ := ht1.foldl fun _ _ hu => hu.recordUnit
  split
  · exact ht2.latchReset
  · exact ht2

theorem State.keeps.touchRead {gid off n} (h : s.keeps s₀) : (s.touchRead gid off n).keeps s₀ := by
  unfold State.touchRead
  extract_lets +onlyGivenNames t
  have ht : t.keeps s₀ := h.readWords
  split
  · exact ht.latchReset
  · exact ht

theorem State.keeps.muWrite {gid off bytes fog} (h : s.keeps s₀) : (s.muWrite gid off bytes fog).keeps s₀ := by
  unfold State.muWrite
  extract_lets +onlyGivenNames n
  split
  · exact h
  · extract_lets +onlyGivenNames t m granules fogged fog'
    have ht : t.keeps s₀ := h.readWords
    exact ht.setMu

theorem State.keeps.muWritePlain {gid off bytes fog} (h : s.keeps s₀) : (s.muWritePlain gid off bytes fog).keeps s₀ := by
  unfold State.muWritePlain
  extract_lets +onlyGivenNames t
  have ht : t.keeps s₀ := h.muWrite
  exact ht.setMu

/-! ### Rings (R193 to R197) -/

theorem State.keeps.ringPlace {mu q m} (h : s.keeps s₀) : (s.ringPlace mu q m).1.keeps s₀ := by
  unfold State.ringPlace
  extract_lets +onlyGivenNames len hdr bytes fogs size
  split
  · exact h.muWritePlain
  · exact h.muWritePlain
  · exact h.muWritePlain.muWritePlain
  · exact h

/-! ### Combining (R205 to R207) -/

theorem State.keeps.placeResult {mu q} (h : s.keeps s₀) : (s.placeResult mu q).1.keeps s₀ := by
  unfold State.placeResult
  split
  · exact h
  · extract_lets +onlyGivenNames m
    split
    · exact h
    · exact h
    · exact h.ringPlace

/-! ### The checks of R200 -/

theorem State.keeps.accept {scu m} (h : s.keeps s₀) : (s.accept scu m).keeps s₀ := by
  unfold State.accept
  extract_lets +onlyGivenNames mu u q
  split
  · exact h.setScu
  · split
    next heq1 => exact (keeps_of_fst h.ringPlace heq1).setScu
  · extract_lets +onlyGivenNames accs senders fog
    split
    · exact h.setScu
    · extract_lets +onlyGivenNames r
      split
      next heq1 => exact (keeps_of_fst h.placeResult heq1).setScu
  · exact h

theorem State.keeps.failSender {m status cause} (h : s.keeps s₀) : (s.failSender m status cause).keeps s₀ := h.failCtx

theorem State.keeps.offer {m} (h : s.keeps s₀) : (s.offer m).1.keeps s₀ := by
  unfold State.offer
  extract_lets +onlyGivenNames u
  split
  · exact h.accept.progress
  · exact h.failSender
  · exact h

/-! ### What a sender learns (R199, R201) -/

theorem State.keeps.setSendBuf {gid l} (h : s.keeps s₀) : (s.setSendBuf gid l).keeps s₀ := by
  unfold State.setSendBuf
  split <;> exact h

theorem State.keeps.sendRefused {gid e status} (h : s.keeps s₀) : (s.sendRefused gid e status).keeps s₀ := by
  unfold State.sendRefused
  extract_lets +onlyGivenNames scu u t
  have ht : t.keeps s₀ := h.setScu
  split
  · exact ht.failSender
  · exact ht

/-! ### Addresses and issue queues shared by scalar and tensor instructions -/

theorem State.keeps.setIssueQ {c i l} (h : s.keeps s₀) : (s.setIssueQ c i l).keeps s₀ := by
  unfold State.setIssueQ
  split <;> exact h

/-! ### Positions (R21, R247) -/

theorem State.keeps.setPos {k v} (h : s.keeps s₀) : (s.setPos k v).keeps s₀ := h

/-! ### Sending packets -/

theorem State.keeps.sendPacket {c p} (h : s.keeps s₀) : (s.sendPacket c p).keeps s₀ := h

theorem State.keeps.breakHeader {c p} (h : s.keeps s₀) : (s.breakHeader c p).1.keeps s₀ := by
  unfold State.breakHeader
  split <;> exact h

theorem State.keeps.takeInbox_eq {c f p t} (h : s.keeps s₀) (e : s.takeInbox c f = some (p, t)) : t.keeps s₀ := by
  unfold State.takeInbox at e
  extract_lets r at e
  split at e
  · nomatch e
  · obtain ⟨q, -, hq⟩ := Option.map_eq_some_iff.1 e
    cases hq
    exact h.setRt

theorem State.keeps.beginInject {c p} (h : s.keeps s₀) : (s.beginInject c p).keeps s₀ := by
  unfold State.beginInject
  split
  next heq => exact (keeps_of_fst h.breakHeader heq).setRt

theorem State.keeps.startInjection {c n} (h : s.keeps s₀) : (s.startInjection c n).keeps s₀ := by
  unfold State.startInjection
  extract_lets +onlyGivenNames r
  split
  · exact h.parityReset
  · split
    · extract_lets +onlyGivenNames gid l
      split
      · exact h
      · extract_lets +onlyGivenNames p
        split
        · exact h
        · exact h.setSendBuf.beginInject.setRt
    · split
      · exact h
      · split
        · exact h.setRt.failCtx
        · split
          · exact h
          · exact h.setRt.beginInject

theorem State.keeps.continueInjection {c cls} (h : s.keeps s₀) : (s.continueInjection c cls).keeps s₀ := by
  unfold State.continueInjection
  split <;> exact h

/-! ### Ejection (R31, R106, R258) -/

theorem State.keeps.reply {c from_ to_ ctx b} (h : s.keeps s₀) : (s.reply c from_ to_ ctx b).keeps s₀ := h

theorem State.keeps.discard {c} (h : s.keeps s₀) : (s.discard c).keeps s₀ := h

theorem State.keeps.noteOutcome {c queue unit status heldBack} (h : s.keeps s₀) : (s.noteOutcome c queue unit status heldBack).keeps s₀ := by
  unfold State.noteOutcome
  extract_lets +onlyGivenNames r
  split
  · exact h
  · split
    · exact h.sendPacket
    · extract_lets +onlyGivenNames t
      have ht : t.keeps s₀ := h.setRt
      split
      · exact ht.failCtx
      · exact ht

theorem State.keeps.eject {c p} (h : s.keeps s₀) : (s.eject c p).keeps s₀ := by
  unfold State.eject
  extract_lets +onlyGivenNames body l bad
  split
  · exact h
  · clear_value body
    split
    · split
      · split
        · exact h.discard
        · exact h.discard.reply
      · exact h.setRt
    · split
      · exact h.discard.reply
      · exact h.setRt
    · split
      · exact h.noteOutcome
      · split
        · exact h.discard.failCtx
        · exact h.setRt
    · split
      · exact h.discard.failCtx
      · exact h.setRt
    · split
      · exact h.discard.failCtx
      · exact h.setRt

theorem State.keeps.voidPackets {gone} (h : s.keeps s₀) : (s.voidPackets gone).keeps s₀ := h

theorem State.keeps.voidMessages {cs} (h : s.keeps s₀) : (s.voidMessages cs).keeps s₀ := h

theorem State.keeps.countEcc {c ce ue} (h : s.keeps s₀) : (s.countEcc c ce ue).keeps s₀ := by
  unfold State.countEcc
  split <;> exact h

theorem State.keeps.eccError {c ce ue} (h : s.keeps s₀) : (s.eccError c ce ue).keeps s₀ := by
  unfold State.eccError
  extract_lets +onlyGivenNames t t1
  have ht : t.keeps s₀ := h.countEcc
  have ht1 : t1.keeps s₀ := by
    unfold t1
    split
    · exact ht.corrected
    · exact ht
  split
  · exact ht1.recordUnit
  · exact ht1

theorem State.keeps.badHeader {c p} (h : s.keeps s₀) : (s.badHeader c p).keeps s₀ := by
  unfold State.badHeader
  extract_lets +onlyGivenNames t
  have ht : t.keeps s₀ := by
    unfold t
    split
    · exact h.discard.countEcc
    · exact h
  split
  · exact ht.failCtx
  · exact ht.failCtx
  · exact ht.record.latchReset

theorem State.keeps.flitOut {c key f last} (h : s.keeps s₀) : (s.flitOut c key f last).keeps s₀ := by
  unfold State.flitOut
  extract_lets +onlyGivenNames r fog t
  have ht : t.keeps s₀ := h.setRt
  split
  · exact ht.eject
  · exact ht

theorem State.keeps.passed {c cls n f} (h : s.keeps s₀) : (s.passed c cls n f).keeps s₀ := h.eccError.setRt

theorem State.keeps.hop {px py side cls} (h : s.keeps s₀) : (s.hop px py side cls).keeps s₀ := by
  unfold State.hop
  extract_lets +onlyGivenNames here key q
  split
  · exact h
  · extract_lets +onlyGivenNames logical
    split
    · extract_lets +onlyGivenNames drop t
      have ht : t.keeps s₀ := h.setPos
      split
      · exact ht
      · exact ht.badHeader.voidPackets
    · clear_value logical
      split
      · split
        · exact h.parityReset
        · extract_lets +onlyGivenNames outs
          split
          · exact h
          · extract_lets +onlyGivenNames _ pkt last locks links spent t t1
            have ht : t.keeps s₀ := h.setPos
            have ht1 : t1.keeps s₀ := by
              refine ht.foldl fun u _ hu => ?_
              split
              · exact hu.flitOut
              · exact hu.setPos
            exact ht1.passed
      · split
        · exact h.parityReset
        · extract_lets +onlyGivenNames outs
          split
          · exact h
          · extract_lets +onlyGivenNames _ pkt last locks links spent t t1
            have ht : t.keeps s₀ := h.setPos
            have ht1 : t1.keeps s₀ := by
              refine ht.foldl fun u _ hu => ?_
              split
              · exact hu
              · exact hu.setPos
            split
            · exact ht1.passed
            · exact ht1

theorem State.keeps.execPacketForward {h'} (h : s.keeps s₀) : Res.keeps (execPacketForward h' s) s₀ := by
  unfold Machine.execPacketForward
  extract_lets +onlyGivenNames waits at_
  split
  · exact h
  · split
    · split
      · exact h.continueInjection
      · exact h.startInjection
    · exact h.hop

/-! ### Messages at their ends (R199 to R201) -/

theorem State.keeps.execMessageArrival {u} (h : s.keeps s₀) : Res.keeps (execMessageArrival u s) s₀ := by
  unfold Machine.execMessageArrival
  extract_lets +onlyGivenNames g c
  split
  · exact h
  · split
    · exact h
    next heq =>
      split
      · extract_lets +onlyGivenNames l mu
        split
        · exact h.takeInbox_eq heq
        · split
          · exact h
          · split
            · exact h.setMu
            · split
              next heq2 =>
                split
                · exact (keeps_of_fst (h.takeInbox_eq heq).offer heq2).reply
                · exact (keeps_of_fst (h.takeInbox_eq heq).offer heq2).reply
                · exact (keeps_of_fst (h.takeInbox_eq heq).offer heq2).reply
                · exact keeps_of_fst (h.takeInbox_eq heq).offer heq2
      · exact h

theorem State.keeps.noteRun {gid run status} (h : s.keeps s₀) : (s.noteRun gid run status).keeps s₀ := by
  unfold State.noteRun
  split <;> exact h

theorem State.keeps.takeOutcome {g queue unit status heldBack} (h : s.keeps s₀) : (s.takeOutcome g queue unit status heldBack).keeps s₀ := by
  unfold State.takeOutcome
  extract_lets +onlyGivenNames l
  split
  · exact h
  · split
    · exact h
    · split
      · exact h.setSendBuf
      · extract_lets +onlyGivenNames t
        have ht : t.keeps s₀ := h.setSendBuf
        split
        · exact ht
        · exact ht.noteRun.sendRefused

theorem State.keeps.inImage {x c} {f : State → State} (h : s.keeps s₀) (hf : ∀ t : State, t.keeps s₀ → (f t).keeps s₀) : (s.inImage x c f).keeps s₀ := by
  unfold State.inImage
  extract_lets +onlyGivenNames mine rest
  split
  · exact h
  next i heq =>
    extract_lets +onlyGivenNames tus scus t j t'
    have ht : t.keeps s₀ := hf _ h.update
    have ht' : t'.keeps s₀ := ht.update
    split
    next k hk => exact ht'.setCtx
    next => exact ht'

theorem State.keeps.execMessageOutcome {u} (h : s.keeps s₀) : Res.keeps (execMessageOutcome u s) s₀ := by
  unfold Machine.execMessageOutcome
  extract_lets g c
  split
  · exact h
  · split
    · exact h
    next heq =>
      have ht := h.takeInbox_eq heq
      split
      · extract_lets f
        have hf : ∀ t : State, t.keeps s₀ → (f t).keeps s₀ := fun t ht => ht.takeOutcome
        split
        · exact hf _ ht
        · exact ht.inImage hf
      · exact ht

theorem State.keeps.execMessageReoffer {u n} (h : s.keeps s₀) : Res.keeps (execMessageReoffer u n s) s₀ := by
  unfold Machine.execMessageReoffer
  extract_lets +onlyGivenNames g l
  split
  · exact h
  · split
    · split
      · exact h.setSendBuf
      · exact h
    · exact h

theorem State.keeps.execCombiningResultPlace {u q} (h : s.keeps s₀) : Res.keeps (execCombiningResultPlace u q s) s₀ := by
  unfold Machine.execCombiningResultPlace
  extract_lets +onlyGivenNames g mu qu
  split
  · exact h
  · extract_lets +onlyGivenNames l
    split
    · exact h
    · split
      · exact h.setMu
      · split
        next heq1 => exact (keeps_of_fst h.placeResult heq1).setScu.progress

end Keeps

end Sys2Proof.Machine
end

section
/-!
PROOFS. What no command takes away: the audit's work in the units, device memory, translation and snoops.
-/

namespace Sys2Proof.Machine

section Keeps
variable {s : State} {s₀ : Before}

theorem State.keeps.nextPartner {sec g avoid} (h : s.keeps s₀) : (s.nextPartner sec g avoid).1.keeps s₀ := by
  unfold State.nextPartner
  split
  · exact h
  · extract_lets +onlyGivenNames base l at_ order
    split
    · exact h
    · exact h.update

theorem State.keeps.reportUnit {g} (h : s.keeps s₀) : (s.reportUnit g).keeps s₀ := h

theorem State.keeps.skipSample (h : s.keeps s₀) : s.skipSample.keeps s₀ := h

theorem State.keeps.markRun {g} (h : s.keeps s₀) : (s.markRun g).keeps s₀ := by
  unfold State.markRun
  extract_lets +onlyGivenNames c
  split
  · exact h
  · exact h.update

theorem State.keeps.eligible_snd {g gen forced fog words} (h : s.keeps s₀) : (s.eligible g gen forced fog words).2.keeps s₀ := by
  unfold State.eligible
  extract_lets +onlyGivenNames gen' t p left sel b t1
  have ht1 : t1.keeps s₀ := by
    unfold t1
    split
    · exact h.markRun
    · exact State.keeps.update h.markRun
  split
  · exact ht1
  · split
    · exact ht1.skipSample
    · split
      · exact ht1
      next sec _ =>
        have hn := ht1.nextPartner (sec := sec) (g := g) (avoid := [])
        split
        next heq => exact (keeps_of_fst hn heq).skipSample
        next heq =>
          split
          · exact (keeps_of_fst hn heq).skipSample
          · exact (keeps_of_fst hn heq).update

theorem State.keeps.eligible_eq {g gen forced fog words w t} (h : s.keeps s₀) (e : s.eligible g gen forced fog words = (w, t)) : t.keeps s₀ := by
  have ht := h.eligible_snd (g := g) (gen := gen) (forced := forced) (fog := fog) (words := words)
  rw [e] at ht
  exact ht

/-! ### Lines (R336 to R338, R346) -/

theorem State.keeps.rcDrop {addr n} (h : s.keeps s₀) : (s.rcDrop addr n).keeps s₀ := by
  unfold State.rcDrop
  split <;> exact h

theorem State.keeps.countWr {l} (h : s.keeps s₀) : (s.countWr l).keeps s₀ := h

theorem State.keeps.poisonLine {l} (h : s.keeps s₀) : (s.poisonLine l).keeps s₀ := h

theorem State.keeps.dieRead {k} (h : s.keeps s₀) : (s.dieRead k).keeps s₀ := by
  unfold State.dieRead
  split <;> exact h

theorem State.keeps.decodeHalf {w k} (h : s.keeps s₀) : (s.decodeHalf w k).keeps s₀ := by
  unfold State.decodeHalf
  extract_lets +onlyGivenNames t l n c r
  have ht : t.keeps s₀ := h.dieRead
  split
  · extract_lets +onlyGivenNames _ t1
    have ht1 : t1.keeps s₀ := ht.setHbm
    exact ht1.setCtrl.corrected
  · split
    · extract_lets +onlyGivenNames _ t1 t2
      have ht1 : t1.keeps s₀ := ht.setHbm
      have ht2 : t2.keeps s₀ := ht1.setCtrl.poisonLine
      exact ht2.record
    · exact ht

theorem State.keeps.decodeLine {w l} (h : s.keeps s₀) : (s.decodeLine w l).keeps s₀ := h.decodeHalf.decodeHalf

theorem State.keeps.readLine {w l} (h : s.keeps s₀) : (s.readLine w l).keeps s₀ := h.decodeLine.setCtrl

theorem State.keeps.hbmRead {w addr n} (h : s.keeps s₀) : (s.hbmRead w addr n).1.keeps s₀ := h.foldl fun _ _ ht => ht.readLine

theorem State.keeps.hbmUncheck {addr n} (h : s.keeps s₀) : (s.hbmUncheck addr n).keeps s₀ := by
  unfold State.hbmUncheck
  split <;> exact h

theorem State.keeps.hbmWriteKeep {w addr bytes keep fog} (h : s.keeps s₀) : (s.hbmWriteKeep w addr bytes keep fog).keeps s₀ := by
  unfold State.hbmWriteKeep
  extract_lets +onlyGivenNames n
  split
  · exact h
  · extract_lets +onlyGivenNames whole fogged t _ t1
    have ht : t.keeps s₀ := by
      refine h.foldl fun u _ hu => ?_
      extract_lets +onlyGivenNames t2
      have ht2 : t2.keeps s₀ := by
        refine State.keeps.countWr ?_
        split
        · exact hu
        · exact hu.readLine
      exact ht2.setHbm
    have ht1 : t1.keeps s₀ := ht.setHbm
    exact ht1.hbmUncheck.rcDrop

theorem State.keeps.hbmWrite {w addr bytes fog} (h : s.keeps s₀) : (s.hbmWrite w addr bytes fog).keeps s₀ := h.hbmWriteKeep

theorem State.keeps.countGranule {g} (h : s.keeps s₀) : (s.countGranule g).keeps s₀ := h.foldl fun _ _ ht => ht.setCtrl

theorem State.keeps.initGranule {g} (h : s.keeps s₀) : (s.initGranule g).keeps s₀ := by
  unfold State.initGranule
  extract_lets +onlyGivenNames t lo inG
  have ht : t.keeps s₀ := h.countGranule
  exact State.keeps.rcDrop (ht.setHbm)

theorem State.keeps.rcDropSector {sec} (h : s.keeps s₀) : (s.rcDropSector sec).keeps s₀ := h

/-! ### Block checks (R98 to R100, R339, R463) -/

theorem State.keeps.crcMismatch {r want got} (h : s.keeps s₀) : (s.crcMismatch r want got).keeps s₀ := h

theorem State.keeps.hbmBadBlock {w cls a len want got} (h : s.keeps s₀) : (s.hbmBadBlock w cls a len want got).keeps s₀ := by
  unfold State.hbmBadBlock
  extract_lets +onlyGivenNames _ t
  have ht : t.keeps s₀ := h.crcMismatch
  exact State.keeps.foldl (ht.setHbm) fun _ _ hu => hu.poisonLine

theorem State.keeps.hbmVerify {w addr n} (h : s.keeps s₀) : (s.hbmVerify w addr n).keeps s₀ := by
  unfold State.hbmVerify
  refine h.foldl fun t _ ht => ?_
  extract_lets +onlyGivenNames a1 len
  split
  · exact ht
  · split
    · exact ht
    · split
      · exact ht.setHbm
      · extract_lets +onlyGivenNames got
        split
        · exact ht
        · exact ht.hbmBadBlock

theorem State.keeps.hbmStoreCheck {w addr len came} (h : s.keeps s₀) : (s.hbmStoreCheck w addr len came).keeps s₀ := by
  unfold State.hbmStoreCheck
  split
  · exact h.setHbm
  · extract_lets +onlyGivenNames got
    split
    · split
      · exact h.setHbm
      · exact h.hbmBadBlock
    · exact h.setHbm

/-! ### Translation (R331 to R334) -/

theorem State.keeps.readTables {w x va} (h : s.keeps s₀) : (s.readTables w x va).keeps s₀ := by
  unfold State.readTables
  split
  · exact h
  · exact h.foldl fun _ _ ht => ht.readLine

/-! ### The translation cache of a memory unit (R334) -/

theorem State.keeps.xlateFill {g x c va write k} (h : s.keeps s₀) : (s.xlateFill g x c va write k).1.keeps s₀ := by
  unfold State.xlateFill
  extract_lets +onlyGivenNames o
  split
  · exact h
  · extract_lets +onlyGivenNames s'
    have hs' : s'.keeps s₀ := h.readTables
    split
    · exact hs'
    · exact hs'.setMu

/-! ### Host translations (R351) -/

theorem State.keeps.atcAdd {e} (h : s.keeps s₀) : (s.atcAdd e).keeps s₀ := h

theorem State.keeps.ats {c page write} (h : s.keeps s₀) : (s.ats c page write).1.keeps s₀ := by
  unfold State.ats
  split
  · exact h
  · extract_lets +onlyGivenNames n t
    have ht : t.keeps s₀ := State.keeps.emit (h.update)
    split
    · exact ht
    · exact ht.atcAdd

/-! ### Snoops (R405), and accesses that pass no controller's queue (R343) -/

theorem State.keeps.sendSnoops {who l inv} (h : s.keeps s₀) : (s.sendSnoops who l inv).keeps s₀ :=
  h.foldl fun _ _ ht => State.keeps.emit (ht.setPort.update)

theorem State.keeps.mayAccess {who rd wr} (h : s.keeps s₀) : (s.mayAccess who rd wr).1.keeps s₀ := by
  unfold State.mayAccess
  extract_lets +onlyGivenNames a b
  split
  · exact h.sendSnoops.sendSnoops
  · split
    · exact h
    · exact h.update

theorem State.keeps.directAccess {who rd wr} (h : s.keeps s₀) : (s.directAccess who rd wr).1.keeps s₀ := by
  unfold State.directAccess
  split
  · exact h
  · exact h.mayAccess

end Keeps

end Sys2Proof.Machine
end

section
/-!
PROOFS. What no command takes away: walks of a scratchpad and what tensor instructions have alike.
-/

namespace Sys2Proof.Machine

section Keeps
variable {s : State} {s₀ : Before}

/-! ### Reading a walk of the scratchpad -/

theorem State.keeps.muBadBlock {gid cls a len want got} (h : s.keeps s₀) : (s.muBadBlock gid cls a len want got).keeps s₀ := h

theorem State.keeps.muVerify {gid cls addr n} (h : s.keeps s₀) : (s.muVerify gid cls addr n).keeps s₀ := by
  unfold State.muVerify
  refine h.foldl fun t _ ht => ?_
  extract_lets +onlyGivenNames m a1 len
  split
  · exact ht
  · split
    · exact ht
    · split
      · exact ht.setMu
      · extract_lets +onlyGivenNames got
        split
        · exact ht
        · exact ht.muBadBlock

theorem State.keeps.muStoreCheck {gid addr len came} (h : s.keeps s₀) : (s.muStoreCheck gid addr len came).keeps s₀ := by
  unfold State.muStoreCheck
  extract_lets +onlyGivenNames m
  split
  · exact h.setMu
  · extract_lets +onlyGivenNames got
    split
    · split
      · exact h.setMu
      · exact h.muBadBlock
    · exact h.setMu

theorem State.keeps.touchRuns {gid d c base rs} (h : s.keeps s₀) : (s.touchRuns gid d c base rs).keeps s₀ := by
  unfold State.touchRuns
  refine h.foldl fun t _ ht => ?_
  extract_lets +onlyGivenNames t1
  have ht1 : t1.keeps s₀ := ht.foldl fun _ _ hu => hu.touchRead
  split
  · exact ht1.foldl fun _ _ hu => hu.touchRead
  · exact ht1

theorem State.keeps.verifyRuns {gid d rs} (h : s.keeps s₀) : (s.verifyRuns gid d rs).keeps s₀ := by
  unfold State.verifyRuns
  split
  · exact h
  · exact h.foldl fun _ _ ht => ht.muVerify

theorem State.keeps.readRuns {gid d c ks} (h : s.keeps s₀) : (s.readRuns gid d c ks).1.keeps s₀ := h.touchRuns.verifyRuns

theorem State.keeps.readRaw {gid d base rs} (h : s.keeps s₀) : (s.readRaw gid d base rs).1.keeps s₀ := by
  unfold State.readRaw
  extract_lets +onlyGivenNames t t1 m
  have ht : t.keeps s₀ := h.foldl fun _ _ hu => hu.touchRead
  have ht1 : t1.keeps s₀ := by
    unfold t1
    split
    · exact ht.muVerify
    · exact ht
  exact ht1

theorem State.keeps.readPlain {gid d base} (h : s.keeps s₀) : (s.readPlain gid d base).1.keeps s₀ := h.readRaw

/-! ### Writing a walk of the scratchpad -/

theorem State.keeps.writeRuns {gid d base runs} (h : s.keeps s₀) : (s.writeRuns gid d base runs).keeps s₀ :=
  h.foldl fun _ _ ht => ht.foldl fun _ _ hu => hu.muWritePlain

theorem State.keeps.writeWalk {gid d base runs came} (h : s.keeps s₀) : (s.writeWalk gid d base runs came).keeps s₀ := by
  unfold State.writeWalk
  extract_lets +onlyGivenNames t
  have ht : t.keeps s₀ := h.writeRuns
  split
  · exact ht.foldl fun _ _ hu => hu.muStoreCheck
  · exact ht

/-! ### Instructions of a unit -/

theorem State.keeps.putRun {g r} (h : s.keeps s₀) : (s.putRun g r).keeps s₀ := h

theorem State.keeps.dropRun {g id} (h : s.keeps s₀) : (s.dropRun g id).keeps s₀ := by
  unfold State.dropRun
  split <;> exact h

theorem State.keeps.beginRun {g r} (h : s.keeps s₀) : (s.beginRun g r).keeps s₀ := h

theorem State.keeps.tensorFail {g iss status cause} (h : s.keeps s₀) : (s.tensorFail g iss status cause).keeps s₀ := h.failCtx

theorem State.keeps.tensorFault {g iss status} (h : s.keeps s₀) : (s.tensorFault g iss status).keeps s₀ := h.tensorFail

/-! ### Streams and hand-overs (R222, R227, R292) -/

theorem State.keeps.countWords {c fl} (h : s.keeps s₀) : (s.countWords c fl).keeps s₀ := by
  unfold State.countWords
  extract_lets +onlyGivenNames n m
  split
  · exact h
  · extract_lets +onlyGivenNames w t g
    have ht : t.keeps s₀ := h.setSw
    refine ht.foldl fun u _ hu => ?_
    extract_lets +onlyGivenNames t1
    have ht1 : t1.keeps s₀ := by
      unfold t1
      split
      · exact hu.corrected
      · exact hu
    exact ht1.foldl fun _ _ hv => hv.recordUnit

theorem State.keeps.deliver {g r fl} (h : s.keeps s₀) : (s.deliver g r fl).keeps s₀ := by
  unfold State.deliver
  extract_lets +onlyGivenNames c plain _ toChannel
  split
  · unfold toChannel
    extract_lets +onlyGivenNames t
    split
    · exact h.setTu
    · split
      · exact h.setTu
      · exact h
  · split
    · unfold toChannel
      extract_lets +onlyGivenNames t
      split
      · exact h.setTu
      · split
        · exact h.setTu
        · exact h
    · exact h.setSw
    · exact h.setTu

theorem State.keeps.deliverEmpty {g r} (h : s.keeps s₀) : (s.deliverEmpty g r).keeps s₀ := by
  unfold State.deliverEmpty
  split
  · exact h
  · exact h.deliver

theorem State.keeps.takeSource {g r n} (h : s.keeps s₀) : (s.takeSource g r n).keeps s₀ := by
  unfold State.takeSource
  extract_lets +onlyGivenNames t c
  split
  · exact h.countWords.setTu
  · split
    · exact h.countWords.setTu
    · split
      · exact h.countWords.setTu
      · exact h

theorem State.keeps.sideFault {g r} (h : s.keeps s₀) : (s.sideFault g r).keeps s₀ := h.takeSource.failCtx

/-! ### The driver of a tensor command -/

theorem optKeeps_firstAdvance {f : Run → Option State} {l : List Run} (hf : ∀ r, optKeeps (f r) s₀) : optKeeps (firstAdvance f l) s₀ := by
  induction l with
  | nil => trivial
  | cons r l ih =>
    unfold firstAdvance
    split
    next t heq => exact (hf r).of_eq heq
    next => exact ih

theorem State.keeps.issueHead {g : Nat} {ops : Nat → Bool} {issue : State → Issued → State} (h : s.keeps s₀) (hi : ∀ i, (issue s i).keeps s₀) :
    Res.keeps (issueHead s g ops issue) s₀ := by
  unfold Machine.issueHead
  extract_lets t
  split
  · split
    · exact h
    · split
      · exact hi _
      · split
        · exact h
        · exact h.tensorFault
  · exact h

theorem State.keeps.tensorCmd {g : Nat} {ops : Nat → Bool} {issue : State → Issued → State} {adv : State → Run → Option State} (h : s.keeps s₀)
    (hi : ∀ i, (issue s i).keeps s₀) (ha : ∀ r, optKeeps (adv s r) s₀) : Res.keeps (tensorCmd s g ops issue adv) s₀ := by
  unfold Machine.tensorCmd
  extract_lets t
  split
  · exact h
  · split
    next t heq =>
      refine State.keeps.progress (optKeeps.of_eq (optKeeps_firstAdvance fun r => ?_) heq)
      split
      · exact h.sideFault
      · exact ha r
    next => exact h.issueHead hi

/-! ### Completion (R184, R286, R294) -/

theorem State.keeps.postTag {g iss status} (h : s.keeps s₀) : (s.postTag g iss status).keeps s₀ := by
  unfold State.postTag
  split <;> exact h

theorem State.keeps.freeLanes {c lanes} (h : s.keeps s₀) : (s.freeLanes c lanes).keeps s₀ := h

theorem State.keeps.headDone {g iss} (h : s.keeps s₀) : (s.headDone g iss).keeps s₀ := h.setTu.postTag.progress

theorem State.keeps.stageDone {st status} (h : s.keeps s₀) : (s.stageDone st status).keeps s₀ := by
  unfold State.stageDone
  split
  · exact h
  · extract_lets +onlyGivenNames r
    split
    · exact h.putRun
    · extract_lets +onlyGivenNames bad r1
      split
      · exact h.putRun
      · exact h.dropRun.freeLanes.postTag

theorem State.keeps.complete {g r} (h : s.keeps s₀) : (s.complete g r).keeps s₀ := by
  unfold State.complete
  extract_lets +onlyGivenNames t t1
  have ht : t.keeps s₀ := h.dropRun
  have ht1 : t1.keeps s₀ := by
    unfold t1
    split
    · exact ht.stageDone
    · exact ht.postTag
  exact ht1.progress

theorem State.keeps.execInstructionComplete {u} (h : s.keeps s₀) : Res.keeps (execInstructionComplete u s) s₀ := by
  unfold Machine.execInstructionComplete
  extract_lets +onlyGivenNames g l l1
  split
  · exact h
  · split
    · exact h.complete
    · exact h

/-! ### QSEND (R285) -/

theorem State.keeps.qsendIssue {g iss} (h : s.keeps s₀) : (qsendIssue s g iss).keeps s₀ := by
  unfold Machine.qsendIssue
  extract_lets +onlyGivenNames i home m d p
  split
  · exact h.tensorFault
  · split
    · exact h.tensorFault
    · split
      · exact h.tensorFault
      · split
        · exact h
        · split
          · exact h
          · exact h.beginRun

theorem State.keeps.qsendAdvance {g r} (h : s.keeps s₀) : optKeeps (qsendAdvance s g r) s₀ := by
  unfold Machine.qsendAdvance
  extract_lets +onlyGivenNames home d m
  split
  · trivial
  · split
    · exact h.setMu
    · split
      · trivial
      · split
        next heq =>
          extract_lets +onlyGivenNames payload fog msg
          split
          · exact (keeps_of_fst h.readPlain heq).tensorFault
          · exact (keeps_of_fst h.readPlain heq).setTu.putRun

theorem State.keeps.execQsendTensor {u} (h : s.keeps s₀) : Res.keeps (execQsendTensor u s) s₀ :=
  h.tensorCmd (fun _ => h.qsendIssue) fun _ => h.qsendAdvance

/-! ### CHAIN (R291 to R294) -/

theorem State.keeps.chainIssue {g iss} (h : s.keeps s₀) : (chainIssue s g iss).keeps s₀ := by
  unfold Machine.chainIssue
  extract_lets +onlyGivenNames c p st
  split
  · exact h.tensorFault
  · split
    · exact h.tensorFail
    · split
      · exact h.tensorFault
      · extract_lets +onlyGivenNames w free need
        split
        · exact h
        · exact h.setSw.beginRun

theorem State.keeps.chainAdvance {g r} (h : s.keeps s₀) : optKeeps (chainAdvance s g r) s₀ := by
  unfold Machine.chainAdvance
  extract_lets +onlyGivenNames c st n need idle
  split
  · trivial
  · split
    · trivial
    · split
      · exact h.tensorFail
      · exact (h.foldl fun _ _ ht => ht.setIssueQ).putRun

theorem State.keeps.execChain {u} (h : s.keeps s₀) : Res.keeps (execChain u s) s₀ := h.tensorCmd (fun _ => h.chainIssue) fun _ => h.chainAdvance

/-! ### FENCE and DAYMARK (R289, R290) -/

theorem State.keeps.fenceIssue {g iss} (h : s.keeps s₀) : (fenceIssue s g iss).keeps s₀ := by
  unfold Machine.fenceIssue
  split
  · exact h.tensorFault
  · split
    · exact h.headDone
    · exact h

theorem State.keeps.execFence {u} (h : s.keeps s₀) : Res.keeps (execFence u s) s₀ := h.tensorCmd (fun _ => h.fenceIssue) fun _ => trivial

theorem State.keeps.daymarkIssue {g iss} (h : s.keeps s₀) : (daymarkIssue s g iss).keeps s₀ := by
  unfold Machine.daymarkIssue
  extract_lets +onlyGivenNames i c e m d chans
  split
  · exact h.tensorFault
  · split
    · exact h.tensorFault
    · split
      · exact h
      · extract_lets +onlyGivenNames put token
        split
        · exact h.setTu.beginRun
        · split
          · exact h.tensorFault
          · split
            · exact h.tensorFault
            · split
              · exact h
              · split
                · exact h.setMu
                · split
                  next heq3 => exact (keeps_of_fst h.readPlain heq3).setTu.beginRun

theorem State.keeps.execDaymark {u} (h : s.keeps s₀) : Res.keeps (execDaymark u s) s₀ := h.tensorCmd (fun _ => h.daymarkIssue) fun _ => trivial

end Keeps

end Sys2Proof.Machine
end

section
/-!
PROOFS. What no command takes away: the stream fabric and daymark epochs.
-/

namespace Sys2Proof.Machine

section Keeps
variable {s : State} {s₀ : Before}

/-! ### Queues of a switch (R214, R222, R223, R240) -/

theorem State.keeps.enqueue {c q f} (h : s.keeps s₀) : (s.enqueue c q f).keeps s₀ := by
  unfold State.enqueue
  split <;> exact h

theorem State.keeps.arrive {c q f} (h : s.keeps s₀) : (s.arrive c q f).keeps s₀ := by
  unfold State.arrive
  extract_lets +onlyGivenNames w w1 t
  have ht : t.keeps s₀ := h.setSw
  split
  · exact ht.setSw
  · exact ht.enqueue

/-! ### Circuits (R214 to R216, R302) -/

theorem State.keeps.fabricFail {c unit status cls cause} (h : s.keeps s₀) : (s.fabricFail c unit status cls cause).keeps s₀ := by
  unfold State.fabricFail
  split
  · exact h.failCtx
  · exact h

theorem State.keeps.stale {c unit} (h : s.keeps s₀) : (s.stale c unit).keeps s₀ := h.setCl.fabricFail

theorem State.keeps.sideFail {c f} (h : s.keeps s₀) : (s.sideFail c f).keeps s₀ := h.countWords.fabricFail

theorem State.keeps.leaveBuf {c buf f} (h : s.keeps s₀) : (s.leaveBuf c buf f).keeps s₀ := h.setSw.countWords

theorem State.keeps.moveBuf {c n buf f link to_ q} (h : s.keeps s₀) : (s.moveBuf c n buf f link to_ q).keeps s₀ := by
  unfold State.moveBuf
  split
  · exact h.setSw.sideFail
  · split
    · exact h
    · exact h.leaveBuf.setSw.arrive.progress

/-! ### Die crossings (R226) -/

theorem State.keeps.landOne {c l} (h : s.keeps s₀) : (s.landOne c l).keeps s₀ := by
  unfold State.landOne
  extract_lets +onlyGivenNames w
  split
  · exact h.setSw.arrive.progress
  · exact h

theorem State.keeps.landAll {c} (h : s.keeps s₀) : (s.landAll c).keeps s₀ := by
  unfold State.landAll
  refine h.foldl fun t _ ht => ?_
  extract_lets +onlyGivenNames t1
  have ht1 : t1.keeps s₀ := ht.foldl fun _ _ hu => hu.landOne
  split
  · refine ht1.foldl fun u _ hu => ?_
    split
    · exact hu.foldl fun _ _ hv => hv.landOne
    · exact hu
  · exact ht1

theorem State.keeps.crossBuf {c n buf link to_} (h : s.keeps s₀) : (s.crossBuf c n buf link to_).keeps s₀ := by
  unfold State.crossBuf
  extract_lets +onlyGivenNames w q
  clear_value q
  split
  · split
    · exact h.landOne
    · split
      · exact h
      · extract_lets +onlyGivenNames wd sent space
        split
        · exact h.setSw.sideFail
        · split
          · exact h
          · exact h.leaveBuf.setSw.progress
  · split
    · exact h.landOne
    · split
      · exact h
      · extract_lets +onlyGivenNames wd sent space
        split
        · exact h.setSw.sideFail
        · split
          · exact h
          · exact h.leaveBuf.setSw.progress

theorem State.keeps.intoCircuit {t : State} {c port f} (h : s.keeps s₀) (ht : t.keeps s₀) : (s.intoCircuit t c port f).keeps s₀ := by
  unfold State.intoCircuit
  split
  · exact h
  · split
    · exact ht.arrive.progress
    · exact h

theorem State.keeps.execStreamFlitTransfer {c mv} (h : s.keeps s₀) : Res.keeps (execStreamFlitTransfer c mv s) s₀ := by
  unfold Machine.execStreamFlitTransfer
  extract_lets +onlyGivenNames c1 w
  split
  · exact h
  · split
    · extract_lets +onlyGivenNames g t q
      clear_value q
      split
      · exact h
      · exact h.intoCircuit h.setTu
    · extract_lets +onlyGivenNames x1 q
      clear_value q
      split
      · exact h
      · exact h.intoCircuit h.setSw
    · extract_lets +onlyGivenNames l
      split
      · exact h
      · extract_lets +onlyGivenNames q
        split
        · exact h
        · exact h.setSw.arrive.progress
    · extract_lets +onlyGivenNames x1 bs
      split
      · exact h
      · split
        · exact h
        · split
          · exact h.setSw.sideFail
          · split
            · exact h
            · exact (h.leaveBuf.foldl fun _ _ ht => ht.arrive).progress
    · extract_lets +onlyGivenNames x1
      split
      · exact h
      · split
        · exact h
        · split
          · exact h.parityReset
          · split
            · exact h
            · split
              · exact h.crossBuf
              · split
                · exact h.moveBuf
                · exact h
    · extract_lets +onlyGivenNames x1
      split
      · exact h
      · split
        · exact h
        · extract_lets +onlyGivenNames u g
          split
          · exact h
          · split
            · exact h.setSw.stale
            · exact h.moveBuf

/-! ### Control lanes (R223) -/

theorem State.keeps.execControlBitTransfer {c mv} (h : s.keeps s₀) : Res.keeps (execControlBitTransfer c mv s) s₀ := by
  unfold Machine.execControlBitTransfer
  extract_lets +onlyGivenNames c1 w
  split
  · exact h
  · split
    · extract_lets +onlyGivenNames g u
      split
      · split
        · exact h.setScu.arrive.progress
        · exact h
      · exact h
    · extract_lets +onlyGivenNames x4
      split
      · split
        · split
          · exact h.parityReset
          · split
            · exact h.setSw.arrive.progress
            · exact h
        · exact h
      · exact h

/-! ### Steering instructions (R229, R231, R271, R277) -/

theorem State.keeps.steerCmd {c op} (h : s.keeps s₀) : Res.keeps (steerCmd c op s) s₀ := by
  unfold Machine.steerCmd
  extract_lets +onlyGivenNames w
  split
  · exact h
  · split
    · exact h
    · split
      · exact h.tensorFault
      · split
        · exact h
        · extract_lets +onlyGivenNames e k cfg
          split
          · exact h.tensorFault
          · extract_lets +onlyGivenNames x7
            split
            · exact h
            · exact h.setSw

theorem State.keeps.execSteerOff {c} (h : s.keeps s₀) : Res.keeps (execSteerOff c s) s₀ := h.steerCmd

theorem State.keeps.execSteerSw {c} (h : s.keeps s₀) : Res.keeps (execSteerSw c s) s₀ := h.steerCmd

theorem State.keeps.execSteerMg {c} (h : s.keeps s₀) : Res.keeps (execSteerMg c s) s₀ := h.steerCmd

theorem State.keeps.execSteerGate {c} (h : s.keeps s₀) : Res.keeps (execSteerGate c s) s₀ := h.steerCmd

theorem State.keeps.execSteerCarry {c} (h : s.keeps s₀) : Res.keeps (execSteerCarry c s) s₀ := h.steerCmd

theorem State.keeps.execSteerRep {c} (h : s.keeps s₀) : Res.keeps (execSteerRep c s) s₀ := h.steerCmd

theorem State.keeps.execSteerDec {c} (h : s.keeps s₀) : Res.keeps (execSteerDec c s) s₀ := h.steerCmd

theorem State.keeps.execSteerConfigApply {c e} (h : s.keeps s₀) : Res.keeps (execSteerConfigApply c e s) s₀ := by
  unfold Machine.execSteerConfigApply
  extract_lets +onlyGivenNames c1 w x
  split
  · exact h
  · split
    · exact h
    · exact h.setSw.postTag.progress

/-! ### Steering elements at work (R230 to R235) -/

theorem State.keeps.countIn {c e k w w'} (h : s.keeps s₀) : (s.countIn c e k w w').keeps s₀ := by
  unfold State.countIn
  split
  · split
    · exact h.countWords
    · exact h
  · exact h

theorem State.keeps.execSteerToken {c e} (h : s.keeps s₀) : Res.keeps (execSteerToken c e s) s₀ := by
  unfold Machine.execSteerToken
  extract_lets +onlyGivenNames c1 e1 w x put conf
  split
  · exact h
  · split
    · exact h.setSw.sideFail
    · exact h.setSw.countIn.countIn.progress
    · split
      · exact h
      · split
        · split
          · split
            · exact h.setSw.countIn.countIn.progress
            · exact h
          · split
            · split
              · exact h
              · split
                · exact h
                · extract_lets +onlyGivenNames w'
                  split
                  · exact h.setSw.stale
                  · split <;> exact h.setSw.countIn.countIn.progress
            · split
              · split
                · split
                  · exact h
                  · split
                    · exact h.setSw.sideFail
                    · split
                      · exact h.setSw.stale
                      · split
                        · exact h.setSw.fabricFail
                        · split
                          · exact h.setSw.countIn.countIn.progress
                          · exact h
                · exact h
        · split
          · split
            · exact h.setSw.countIn.countIn.progress
            · exact h
          · split
            · split
              · exact h
              · split
                · exact h
                · extract_lets +onlyGivenNames w'
                  split
                  · exact h.setSw.stale
                  · split <;> exact h.setSw.countIn.countIn.progress
            · split
              · split
                · split
                  · exact h
                  · split
                    · exact h.setSw.sideFail
                    · split
                      · exact h.setSw.stale
                      · split
                        · exact h.setSw.fabricFail
                        · split
                          · exact h.setSw.countIn.countIn.progress
                          · exact h
                · exact h

/-! ### Foghorn (R236, R237) -/

theorem State.keeps.execFoghornStall {sec} (h : s.keeps s₀) : Res.keeps (execFoghornStall sec s) s₀ := by
  unfold Machine.execFoghornStall
  extract_lets +onlyGivenNames r
  split
  · exact h
  · extract_lets +onlyGivenNames f limit
    split
    · exact h
    · extract_lets +onlyGivenNames rate t full any
      have ht : t.keeps s₀ := by
        unfold t
        split
        · exact h.advance
        · exact h
      extract_lets +onlyGivenNames n run rec0 f1
      split
      · exact State.keeps.record (State.keeps.setSf (ht.foldl fun _ _ hu => hu.setSw))
      · refine List.foldlRecOn (motive := fun u => State.keeps u s₀) run _ ht.setSf.record fun u hu e he => ?_
        exact hu.setCtx

/-! ### The spill ring (R238 to R241) -/

theorem State.keeps.putRecord {r x} (h : s.keeps s₀) : (s.putRecord r x).keeps s₀ := h.hbmWrite.setSf

theorem State.keeps.execSpillRecordWrite {c q} (h : s.keeps s₀) : Res.keeps (execSpillRecordWrite c q s) s₀ := by
  unfold Machine.execSpillRecordWrite
  extract_lets +onlyGivenNames c1 w
  split
  · extract_lets +onlyGivenNames b
    split
    · exact h
    · extract_lets +onlyGivenNames t
      have ht : t.keeps s₀ := h.setSw
      split
      · exact ht.setSf.fabricFail
      · exact ht.putRecord.setSf.progress
  · exact h

theorem State.keeps.execSpillRecordRead {c q} (h : s.keeps s₀) : Res.keeps (execSpillRecordRead c q s) s₀ := by
  unfold Machine.execSpillRecordRead
  extract_lets +onlyGivenNames c1 w n
  split
  · exact h
  · extract_lets +onlyGivenNames b ahead mine room next
    split
    next heq1 =>
      split
      · exact h
      · split
        · extract_lets +onlyGivenNames t1
          have ht1 : t1.keeps s₀ := by
            refine keeps_of_fst ?_ heq1
            clear_value next
            split
            · exact h.foldl fun _ _ hu => hu.readLine
            · exact h
          exact ht1.setSf.fabricFail
        · extract_lets +onlyGivenNames t1
          have ht1 : t1.keeps s₀ := by
            refine keeps_of_fst ?_ heq1
            clear_value next
            split
            · exact h.foldl fun _ _ hu => hu.readLine
            · exact h
          clear_value mine
          split
          · split
            · exact ht1.setSw
            · exact ht1
          · split
            · exact ht1.setSw.setSf.enqueue.progress
            · split
              · exact ht1.setSw.progress
              · exact ht1

/-! ### Bytes of configuration targets (R301, R316) -/

theorem State.keeps.writeTim {g off l} (h : s.keeps s₀) : (s.writeTim g off l).keeps s₀ := h

theorem State.keeps.writeDesc {g off l} (h : s.keeps s₀) : (s.writeDesc g off l).keeps s₀ := h

theorem State.keeps.writeImem {g off l} (h : s.keeps s₀) : (s.writeImem g off l).keeps s₀ := h

/-! ### Configuration flits (R316, R317) -/

theorem State.keeps.takeConf {c epoch f} (h : s.keeps s₀) : (s.takeConf c epoch f).keeps s₀ := by
  unfold State.takeConf
  extract_lets +onlyGivenNames x
  split
  · exact h.fabricFail
  · split
    · exact h.fabricFail
    · split
      · exact h
      · split
        · exact h.fabricFail
        · split
          · exact h.writeTim
          · exact h.writeDesc
          · exact h.writeImem
          · exact h.setSw

/-! ### Tokens (R314, R318) -/

theorem State.keeps.switched {c epoch} (h : s.keeps s₀) : (s.switched c epoch).keeps s₀ := h

theorem State.keeps.dmCircuit {c n} (h : s.keeps s₀) : (dmCircuit s c n).keeps s₀ := by
  unfold Machine.dmCircuit
  extract_lets +onlyGivenNames w
  split
  · extract_lets +onlyGivenNames e
    split
    · exact h
    · split
      · exact h.leaveBuf.fabricFail
      · split
        · exact h.setSw.setCl.progress
        · exact h.leaveBuf.stale
  · exact h

theorem State.keeps.dmUnit {c u ch} (h : s.keeps s₀) : (dmUnit s c u ch).keeps s₀ := by
  unfold Machine.dmUnit
  extract_lets +onlyGivenNames g t
  split
  · extract_lets +onlyGivenNames take
    split
    · exact h
    · split
      · exact h.setTu.countWords.fabricFail
      · split
        · exact h.setTu.countWords.fabricFail
        · split
          · exact h.setTu.countWords.progress
          · split
            · exact h.setTu.countWords.stale
            · exact h
  · exact h

theorem State.keeps.dmElem {c e k} (h : s.keeps s₀) : (dmElem s c e k).keeps s₀ := by
  unfold Machine.dmElem
  extract_lets +onlyGivenNames w x
  split
  · extract_lets +onlyGivenNames put drop
    split
    · split
      · exact h
      · split
        · exact h.setSw.countWords.fabricFail
        · split
          · exact h.setSw.countWords.fabricFail
          · split
            · exact h.setSw.countWords.progress
            · split
              · exact h.setSw.countWords.stale
              · split
                · exact h
                · split
                  · split
                    · split
                      · exact h.setSw.countWords.countWords.switched.progress
                      · exact h
                    · exact h
                  · exact h.setSw.countWords.switched.progress
    · split
      · exact h
      · split
        · exact h.setSw.countWords.fabricFail
        · split
          · exact h.setSw.countWords.fabricFail
          · split
            · exact h.setSw.countWords.progress
            · split
              · exact h.setSw.countWords.stale
              · split
                · exact h
                · split
                  · split
                    · split
                      · exact h.setSw.countWords.countWords.switched.progress
                      · exact h
                    · exact h
                  · exact h.setSw.countWords.switched.progress
  · exact h

theorem State.keeps.execDaymarkTokenArrival {c at_} (h : s.keeps s₀) : Res.keeps (execDaymarkTokenArrival c at_ s) s₀ := by
  unfold Machine.execDaymarkTokenArrival
  split
  · exact h
  · split
    · exact h.dmCircuit
    · exact h.dmUnit
    · exact h.dmElem

theorem State.keeps.execUnitSwitchover {u ch} (h : s.keeps s₀) : Res.keeps (execUnitSwitchover u ch s) s₀ := by
  unfold Machine.execUnitSwitchover
  extract_lets +onlyGivenNames g c t left use
  split
  · exact h
  · split
    · exact h
    · split
      · extract_lets +onlyGivenNames t1 t2
        have ht2 : t2.keeps s₀ := h.setTu.countWords
        refine State.keeps.progress ?_
        split
        · exact ht2.takeConf
        · exact ht2
      · split
        · exact h
        · split
          · exact h.setTu.countWords.fabricFail
          · split
            · exact h.setTu.countWords.fabricFail
            · split
              · exact h
              · exact h.setTu.countWords.switched.progress

theorem State.keeps.execSlotTableSwitch {c link lane} (h : s.keeps s₀) : Res.keeps (execSlotTableSwitch c link lane s) s₀ := by
  unfold Machine.execSlotTableSwitch
  extract_lets +onlyGivenNames c1 w k
  split
  · exact h
  · extract_lets +onlyGivenNames owners
    split
    · exact h
    · exact h.setSw

end Keeps

end Sys2Proof.Machine
end

section
/-!
PROOFS. What no command takes away: external requests and the instructions of a memory unit.
-/

namespace Sys2Proof.Machine

section Keeps
variable {s : State} {s₀ : Before}

/-! ### Sending (R333, R351, R352, R106) -/

theorem State.keeps.mayWalk {g x c va} (h : s.keeps s₀) : (s.mayWalk g x c va).1.keeps s₀ := by
  unfold State.mayWalk
  split
  · exact h
  · exact h.directAccess

theorem State.keeps.sendReq {g x k q bytes fog} (h : s.keeps s₀) : (s.sendReq g x k q bytes fog).keeps s₀ := by
  unfold State.sendReq
  split
  · exact h
  next c _ =>
    have hwalk := h.mayWalk (g := g) (x := x) (c := c) (va := q.va)
    split
    next heq => exact keeps_of_fst hwalk heq
    next t heq =>
      have ht : t.keeps s₀ := keeps_of_fst hwalk heq
      extract_lets +onlyGivenNames op
      have hx := ht.xlateFill (g := g) (x := x) (c := c) (va := q.va) (write := q.write) (k := k)
      cases he : t.xlateFill g x c q.va q.write k with
      | mk u o =>
        have hu : u.keeps s₀ := keeps_of_fst hx he
        cases o with
        | fail st ca => exact hu.failCtx
        | hbm a rc => exact hu.setCtrl
        | host iova =>
          dsimp only
          split
          · exact hu.failCtx
          · have ha := hu.ats (c := c) (page := iova / 4096 * 4096) (write := q.write)
            split
            next heq => exact keeps_of_fst ha heq
            next heq =>
              have hv := keeps_of_fst ha heq
              split
              · split
                · exact hv.failCtx
                · exact hv.emit
              · exact hv.emit
        | window unit win ep off => exact hu.sendPacket

theorem Push.keeps.cons {p : Push} {q} (h : p.keeps s₀) : (p.cons q).keeps s₀ := by
  cases p with
  | ok => exact h
  | fail => exact h
  | fault => exact h

theorem State.keeps.pushReqs {g x k room l} (h : s.keeps s₀) : (pushReqs g x k room l s).keeps s₀ := by
  induction l generalizing s room with
  | nil =>
    unfold Machine.pushReqs
    exact h
  | cons q l ih =>
    unfold Machine.pushReqs
    split
    · exact (ih h).cons
    · split
      · exact h
      · have hs := h.sendReq (g := g) (x := x) (k := k) (q := q) (bytes := q.data) (fog := q.fog)
        split
        next heq => exact (ih (hs.of_eq heq)).cons
        next heq => exact hs.of_eq heq
        next heq => exact hs.of_eq heq
        next heq => exact hs.of_eq heq

theorem State.keeps.pushKnown {g x k room l} (h : s.keeps s₀) : (pushKnown g x k room l s).keeps s₀ := by
  induction l generalizing s room with
  | nil =>
    unfold Machine.pushKnown
    exact h
  | cons q l ih =>
    unfold Machine.pushKnown
    extract_lets held
    split
    · exact (ih h).cons
    · split
      · exact h
      · have hs := h.sendReq (g := g) (x := x) (k := k) (q := q) (bytes := q.data) (fog := q.fog)
        split
        next heq => exact (ih (hs.of_eq heq)).cons
        next heq => exact hs.of_eq heq
        next heq => exact hs.of_eq heq
        next heq => exact hs.of_eq heq

theorem State.keeps.modReq {g id f} (h : s.keeps s₀) : (s.modReq g id f).keeps s₀ := h

theorem State.keeps.answerReq {g id bytes fog} (h : s.keeps s₀) : (s.answerReq g id bytes fog).keeps s₀ := h

/-! ### Block checks of external walks (R99, R100, R339, R357, R463) -/

theorem State.keeps.verifyExt {g x l} (h : s.keeps s₀) : (s.verifyExt g x l).keeps s₀ := by
  unfold State.verifyExt
  split
  · exact h
  · exact h.foldl fun _ _ ht => ht.hbmVerify

theorem State.keeps.verifyLanded {g x l reqs} (h : s.keeps s₀) : (s.verifyLanded g x l reqs).1.keeps s₀ := by
  unfold State.verifyLanded
  split
  · refine State.keeps.foldl_fst h fun p e hp => ?_
    obtain ⟨t, q⟩ := p
    obtain ⟨b, n⟩ := e
    replace hp : t.keeps s₀ := hp
    dsimp only
    split
    · exact hp
    · split
      · exact hp
      · split
        · exact hp.setHbm
        · split
          · exact hp
          · exact hp.hbmBadBlock
  · exact h

theorem State.keeps.storeChecks {g x l came} (h : s.keeps s₀) : (s.storeChecks g x l came).keeps s₀ := by
  unfold State.storeChecks
  split
  · split
    · exact h
    · exact h.foldl fun _ _ ht => ht.hbmStoreCheck
  · split
    · exact h.foldl fun _ _ ht => ht.muStoreCheck
    · exact h

/-! ### Slots (R102, R103) -/

theorem State.keeps.grantSlot {g k write r} (h : s.keeps s₀) : (s.grantSlot g k write r).keeps s₀ := h

theorem State.keeps.beginSlot {g k write nw r} (h : s.keeps s₀) : optKeeps (s.beginSlot g k write nw r) s₀ := by
  unfold State.beginSlot
  extract_lets +onlyGivenNames m
  split
  · trivial
  · split
    · exact h.grantSlot
    · split
      · exact h.putRun
      · exact h.setMu

theorem State.keeps.execSlotGrant {m slot} (h : s.keeps s₀) : Res.keeps (execSlotGrant m slot s) s₀ := by
  unfold Machine.execSlotGrant
  extract_lets +onlyGivenNames g u
  split
  · exact h
  · split
    · exact h
    · split
      · exact h.grantSlot.progress
      · exact h.setMu

theorem State.keeps.endRun {g r slot write} (h : s.keeps s₀) : (s.endRun g r slot write).keeps s₀ := by
  unfold State.endRun
  extract_lets +onlyGivenNames m t
  have ht : t.keeps s₀ := by
    unfold t
    split
    · split
      · exact h.setMu
      · exact h
    · exact h
  exact ht.putRun

/-! ### Issue (R83, R86, R270, R281) -/

theorem State.keeps.moveIssue {g iss} (h : s.keeps s₀) : (moveIssue s g iss).keeps s₀ := by
  unfold Machine.moveIssue
  extract_lets +onlyGivenNames i m n
  split
  · exact h.tensorFault
  · split
    · exact h.tensorFault
    · split
      · exact h
      · split
        · exact h
        · split
          · exact h
          · extract_lets +onlyGivenNames t
            have ht : t.keeps s₀ := h.beginRun
            split
            · exact ht.setMu
            · exact ht

/-! ### Moving a walk (R87, R280) -/

theorem State.keeps.wakeLegs {g l} (h : s.keeps s₀) : optKeeps (s.wakeLegs g l) s₀ := by
  unfold State.wakeLegs
  extract_lets +onlyGivenNames m z
  split
  · trivial
  · exact h.setMu

theorem State.keeps.pushRun {g r k limit} (h : s.keeps s₀) : optKeeps (s.pushRun g r k limit) s₀ := by
  unfold State.pushRun
  extract_lets +onlyGivenNames room
  split
  · trivial
  · split
    next heq =>
      split
      · trivial
      · exact (show State.keeps _ s₀ from h.pushReqs.of_eq heq).putRun
    next heq => exact show State.keeps _ s₀ from h.pushReqs.of_eq heq
    next heq => exact (show State.keeps _ s₀ from h.pushReqs.of_eq heq).tensorFault

theorem State.keeps.legChecks {g x legs came} (h : s.keeps s₀) : (s.legChecks g x legs came).keeps s₀ := by
  unfold State.legChecks
  refine h.foldl fun t _ ht => ?_
  split
  · split
    · exact ht.storeChecks
    · exact ht

theorem State.keeps.writeSome {g x c els} (h : s.keeps s₀) : (s.writeSome g x c els).keeps s₀ := by
  unfold State.writeSome
  extract_lets +onlyGivenNames runs
  split
  · split
    · exact h
    · refine h.foldl fun t _ ht => ?_
      split
      · exact ht.hbmWriteKeep
      · exact ht
  · split
    · exact h
    · exact h.writeRuns

theorem State.keeps.deliverLanded {g r legsA legsC} (h : s.keeps s₀) : (s.deliverLanded g r legsA legsC).keeps s₀ :=
  h.foldl fun _ _ ht => ht.writeSome

theorem State.keeps.moveAdvance {g r} (h : s.keeps s₀) : optKeeps (moveAdvance s g r) s₀ := by
  unfold Machine.moveAdvance
  extract_lets +onlyGivenNames i toMem slot legsA extA legsC rc
  split
  · exact h.beginSlot
  · split
    · refine State.keeps.endRun ?_
      split
      · exact h
      · exact h.deliverEmpty
    · split
      · split
        · exact h.setTu.putRun
        · split
          next heq1 => exact h.wakeLegs.of_eq heq1
          · split
            next heq2 =>
              refine State.keeps.putRun ?_
              refine keeps_of_fst ?_ heq2
              refine h.foldl_fst fun q _ hq => ?_
              split
              next heq3 => exact keeps_of_fst hq.readRaw heq3
      · split
        next heq1 =>
          split
          · exact (h.pushRun.of_eq heq1).deliverLanded
          · exact h.pushRun.of_eq heq1
        · split
          · split
            next heq3 =>
              refine State.keeps.putRun ?_
              refine keeps_of_fst ?_ heq3
              refine h.foldl_fst fun q _ hq => ?_
              split
              · split
                next heq4 => exact keeps_of_fst hq.verifyLanded heq4
          · trivial
      · split
        · exact h.deliver.endRun
        · split
          · exact h.setTu.putRun
          · split
            next heq1 => exact h.wakeLegs.of_eq heq1
            · exact (h.foldl fun _ _ ht => ht.writeWalk).endRun
      · split
        next heq => exact h.pushRun.of_eq heq
        · split
          · exact h.legChecks.endRun
          · trivial

theorem State.keeps.execLdW {m} (h : s.keeps s₀) : Res.keeps (execLdW m s) s₀ := h.tensorCmd (fun _ => h.moveIssue) fun _ => h.moveAdvance

theorem State.keeps.execImportMu {m} (h : s.keeps s₀) : Res.keeps (execImportMu m s) s₀ :=
  h.tensorCmd (fun _ => h.moveIssue) fun _ => h.moveAdvance

theorem State.keeps.stwAdvance {g r} (h : s.keeps s₀) : optKeeps (stwAdvance s g r) s₀ := by
  unfold Machine.stwAdvance
  extract_lets +onlyGivenNames i slot legs d lens need
  split
  · exact h.beginSlot
  · split
    · exact h.endRun
    · split
      · split
        · extract_lets +onlyGivenNames src
          split
          · trivial
          · split
            · extract_lets +onlyGivenNames t flits
              have ht : t.keeps s₀ := h.takeSource
              split
              · exact ht.tensorFault
              · exact ht.putRun
        · extract_lets +onlyGivenNames bytes fog
          split
          · exact h.tensorFault
          · exact h.putRun
      · split
        · exact h.setTu.putRun
        · split
          next heq1 => exact h.wakeLegs.of_eq heq1
          · exact (h.foldl fun _ _ ht => ht.writeWalk).endRun
      · split
        next heq => exact h.pushRun.of_eq heq
        · split
          · exact h.legChecks.endRun
          · trivial

theorem State.keeps.execStW {m} (h : s.keeps s₀) : Res.keeps (execStW m s) s₀ := h.tensorCmd (fun _ => h.moveIssue) fun _ => h.stwAdvance

theorem State.keeps.pfAdvance {g r} (h : s.keeps s₀) : optKeeps (pfAdvance s g r) s₀ := by
  unfold Machine.pfAdvance
  extract_lets +onlyGivenNames legs
  split
  · exact h.setTu.putRun
  · split
    next heq => exact h.pushRun.of_eq heq
    · split
      · exact h.endRun
      · trivial

theorem State.keeps.execPf {m} (h : s.keeps s₀) : Res.keeps (execPf m s) s₀ := h.tensorCmd (fun _ => h.moveIssue) fun _ => h.pfAdvance

/-! ### Contributions (R259, R284, R362, R363, R366) -/

theorem State.keeps.contribAdvance {g r} (h : s.keeps s₀) : optKeeps (contribAdvance s g r) s₀ := by
  unfold Machine.contribAdvance
  extract_lets +onlyGivenNames i c k gr d round dist blk
  split
  · exact h.endRun
  · split
    · exact h.tensorFault
    · split
      · exact h.endRun
      · split
        · trivial
        · split
          · exact h.tensorFault
          · split
            next heq => exact h.wakeLegs.of_eq heq
            · split
              next heq1 => exact (keeps_of_fst h.readPlain heq1).setRt.endRun

theorem State.keeps.execContrib {m} (h : s.keeps s₀) : Res.keeps (execContrib m s) s₀ :=
  h.tensorCmd (fun _ => h.moveIssue) fun _ => h.contribAdvance

/-! ### SLOT.DEF, SLOT.CLR (R101, R104) -/

theorem State.keeps.slotDefIssue {g iss} (h : s.keeps s₀) : (slotDefIssue s g iss).keeps s₀ := by
  unfold Machine.slotDefIssue
  extract_lets +onlyGivenNames p m
  split
  · exact h.tensorFault
  · split
    · exact h.tensorFault
    · extract_lets +onlyGivenNames x2
      exact State.keeps.headDone (h.setMu)

theorem State.keeps.execSlotDef {m} (h : s.keeps s₀) : Res.keeps (execSlotDef m s) s₀ := h.tensorCmd (fun _ => h.slotDefIssue) fun _ => trivial

theorem State.keeps.slotClrIssue {g iss} (h : s.keeps s₀) : (slotClrIssue s g iss).keeps s₀ := by
  unfold Machine.slotClrIssue
  extract_lets +onlyGivenNames m
  split
  · exact h.tensorFault
  · extract_lets +onlyGivenNames x1
    exact State.keeps.headDone (h.setMu)

theorem State.keeps.execSlotClr {m} (h : s.keeps s₀) : Res.keeps (execSlotClr m s) s₀ := h.tensorCmd (fun _ => h.slotClrIssue) fun _ => trivial

/-! ### WIN.OPEN, WIN.CLOSE (R105, R107, R108) -/

theorem State.keeps.winOpenIssue {g iss} (h : s.keeps s₀) : (winOpenIssue s g iss).keeps s₀ := by
  unfold Machine.winOpenIssue
  extract_lets +onlyGivenNames p k m base len
  split
  · exact h.tensorFault
  · split
    · exact h.tensorFault
    · split
      · exact State.keeps.tensorFault (h.setMu)
      · split
        · exact h.setMu
        · extract_lets +onlyGivenNames w hit _ m1
          exact State.keeps.headDone (h.setMu)

theorem State.keeps.execWinOpen {m} (h : s.keeps s₀) : Res.keeps (execWinOpen m s) s₀ := h.tensorCmd (fun _ => h.winOpenIssue) fun _ => trivial

theorem State.keeps.winCloseIssue {g iss} (h : s.keeps s₀) : (winCloseIssue s g iss).keeps s₀ := by
  unfold Machine.winCloseIssue
  extract_lets +onlyGivenNames m
  split
  · exact h.tensorFault
  · extract_lets +onlyGivenNames t
    have ht : t.keeps s₀ := h.setMu
    split
    · exact ht
    · exact ht.headDone

theorem State.keeps.execWinClose {m} (h : s.keeps s₀) : Res.keeps (execWinClose m s) s₀ :=
  h.tensorCmd (fun _ => h.winCloseIssue) fun _ => trivial

end Keeps

end Sys2Proof.Machine
end

section
/-!
PROOFS. What no command takes away: matrix units.
-/

namespace Sys2Proof.Machine

section Keeps
variable {s : State} {s₀ : Before}

/-! ### Binding (R117, R126, R135, R137, R278) -/

theorem State.keeps.mmIssue {g iss} (h : s.keeps s₀) : (mmIssue s g iss).keeps s₀ := by
  unfold Machine.mmIssue
  split
  · exact h.tensorFault
  · split
    · exact h
    · split
      · exact h.tensorFault
      · exact h.beginRun

theorem State.keeps.mmCmd {u op} (h : s.keeps s₀) : Res.keeps (mmCmd u op s) s₀ := h.tensorCmd (fun _ => h.mmIssue) fun _ => trivial

theorem State.keeps.execMmFwd {u} (h : s.keeps s₀) : Res.keeps (execMmFwd u s) s₀ := h.mmCmd

theorem State.keeps.execMmDual {u} (h : s.keeps s₀) : Res.keeps (execMmDual u s) s₀ := h.mmCmd

theorem State.keeps.execMmPass {u} (h : s.keeps s₀) : Res.keeps (execMmPass u s) s₀ := h.mmCmd

theorem State.keeps.execMmAdpt {u} (h : s.keeps s₀) : Res.keeps (execMmAdpt u s) s₀ := h.mmCmd

theorem State.keeps.execMcuBind {u} (h : s.keeps s₀) : Res.keeps (execMcuBind u s) s₀ := by
  unfold Machine.execMcuBind
  extract_lets +onlyGivenNames g home mm
  split
  · exact h
  · split
    · exact h
    · extract_lets +onlyGivenNames x3 m r _ others
      have hothers : others.keeps s₀ := h.update
      split
      · exact h.tensorFault
      · extract_lets +onlyGivenNames c mine
        split
        · exact h
        · split
          · exact h
          · split
            · exact h
            · split
              · exact h
              · extract_lets +onlyGivenNames _ t empty t1
                have ht : t.keeps s₀ := h.setMcu
                have ht1 : t1.keeps s₀ := by
                  unfold t1
                  split
                  · exact ht.deliverEmpty
                  · exact ht
                exact ht1.putRun

/-! ### Tiles of the accumulator (R122) -/

theorem State.keeps.readTile {g t} (h : s.keeps s₀) : (s.readTile g t).keeps s₀ := by
  unfold State.readTile
  extract_lets +onlyGivenNames m ce bad
  split
  · exact h
  · exact (h.setMcu.foldl fun _ _ hu => hu.corrected).foldl fun _ _ hu => hu.recordUnit

theorem State.keeps.groupUpdate {g t fog a b rows cols words} (h : s.keeps s₀) : (s.groupUpdate g t fog a b rows cols words).keeps s₀ := by
  unfold State.groupUpdate
  extract_lets +onlyGivenNames t1 m before after fogIn res hit fogged t2 t3 t4
  have ht1 : t1.keeps s₀ := h.readTile
  have ht2 : t2.keeps s₀ := ht1.setMcu
  have ht3 : t3.keeps s₀ := by
    unfold t3
    split
    · exact ht2.disarm.recordUnit.reportUnit
    · exact ht2
  have ht4 : t4.keeps s₀ := by
    unfold t4
    split
    · exact ht3.recordUnit.reportUnit
    · exact ht3
  split
  next heq => exact (ht4.eligible_eq heq).setMcu

/-! ### Operands of a quantum -/

theorem State.keeps.planeWords {g r i ks} (h : s.keeps s₀) : (s.planeWords g r i ks).1.keeps s₀ :=
  (h.foldl fun _ _ ht => ht.touchRead).verifyRuns

theorem State.keeps.fillStream {g r k b code need} (h : s.keeps s₀) : optKeeps (s.fillStream g r k b code need) s₀ := by
  unfold State.fillStream
  extract_lets +onlyGivenNames room
  split
  · split
    · exact h.sideFault
    · trivial
  · extract_lets +onlyGivenNames n
    split
    · trivial
    · extract_lets +onlyGivenNames els got
      split
      · exact h.tensorFault
      · exact h.takeSource.setMcu

theorem State.keeps.fetch {g r b n} (h : s.keeps s₀) : (s.fetch g r b n).1.keeps s₀ := by
  unfold State.fetch
  split
  · exact h
  · exact h.readRuns

theorem State.keeps.wakeHome {g z} (h : s.keeps s₀) : (s.wakeHome g z).keeps s₀ := h

theorem State.keeps.runQuantum {g b ready whole} (h : s.keeps s₀) (hw : (whole ()).keeps s₀) : (s.runQuantum g b ready whole).keeps s₀ := by
  unfold State.runQuantum
  split
  · exact h.wakeHome
  · trivial
  · split
    · trivial
    · exact h.setMcu
  · exact hw

/-! ### Running a quantum (R136) -/

theorem State.keeps.afterQuantum {g k r x b} (h : s.keeps s₀) : (s.afterQuantum g k r x b).keeps s₀ := by
  unfold State.afterQuantum
  extract_lets +onlyGivenNames m strm
  split
  · exact h.setMcu
  · split
    · exact h.setMcu
    · exact h.setMcu.putRun

theorem State.keeps.queueTile {g r x i idx lastOfRun} (h : s.keeps s₀) : (s.queueTile g r x i idx lastOfRun).keeps s₀ := by
  unfold State.queueTile
  split <;> exact h

theorem State.keeps.plainQuantum {g k r x b} (h : s.keeps s₀) : (s.plainQuantum g k r x b).keeps s₀ := by
  unfold State.plainQuantum
  extract_lets +onlyGivenNames pl q t first last ks pip na nb per pk clear
  split
  · trivial
  · refine h.runQuantum ?_
    split
    next heq =>
      split
      next heq1 =>
        split
        next heq2 =>
          extract_lets +onlyGivenNames as_
          split
          · extract_lets +onlyGivenNames _ t4 t5 t6
            have ht4 : t4.keeps s₀ := (keeps_of_fst (keeps_of_fst (keeps_of_fst h.fetch heq).fetch heq1).planeWords heq2).setMcu
            have ht5 : t5.keeps s₀ := ht4.groupUpdate
            have ht6 : t6.keeps s₀ := by
              unfold t6
              split
              · exact ht5.queueTile
              · exact ht5
            exact ht6.afterQuantum

theorem State.keeps.arrayWork {g t fog a b n rows cols words} (h : s.keeps s₀) : (s.arrayWork g t fog a b n rows cols words).keeps s₀ :=
  h.foldl fun _ _ hu => hu.groupUpdate

theorem State.keeps.loadShared {g k r x b others} (h : s.keeps s₀) : (s.loadShared g k r x b others).keeps s₀ := by
  unfold State.loadShared
  extract_lets +onlyGivenNames m w n clear na pk
  split
  · trivial
  · extract_lets +onlyGivenNames ready
    clear_value ready
    split
    · exact h.wakeHome
    · trivial
    · trivial
    · extract_lets +onlyGivenNames t
      have ht : t.keeps s₀ := h.setMcu
      split
      next heq =>
        extract_lets +onlyGivenNames _ b1 m1
        refine State.keeps.setMcu ?_
        refine keeps_of_fst ?_ heq
        split
        · exact ht.readTile
        · split
          next heq1 =>
            split
            · exact keeps_of_fst ht.fetch heq1
            · exact ((keeps_of_fst ht.fetch heq1).foldl fun _ _ hu => hu.touchRead).verifyRuns

theorem State.keeps.sharedQuantum {g k r x b} (h : s.keeps s₀) : (s.sharedQuantum g k r x b).keeps s₀ := by
  unfold State.sharedQuantum
  extract_lets +onlyGivenNames S W num p w t wc mi ni adpt0 do0 doV doB doX need n0 n1 n2
  split
  · trivial
  · extract_lets +onlyGivenNames tile done
    split
    · trivial
    · refine h.runQuantum ?_
      split
      next heq1 =>
        split
        next heq2 =>
          split
          next heq3 =>
            extract_lets +onlyGivenNames fog cols redN redM _ t4 c0 t5 codeT code1 code2 t6 i t7 m t8
            have ht4 : t4.keeps s₀ := (keeps_of_fst (keeps_of_fst (keeps_of_fst h.fetch heq1).fetch heq2).fetch heq3).setMcu
            have ht5 : t5.keeps s₀ := by
              unfold t5
              split
              · exact ht4.arrayWork
              · exact ht4
            have ht6 : t6.keeps s₀ := by
              unfold t6
              split
              · split
                · exact ht5.arrayWork
                · exact ht5
              · split
                · split
                  · exact ht5.arrayWork
                  · exact ht5
                · split
                  · split
                    · exact ht5.arrayWork
                    · exact ht5
                  · exact ht5
            have ht7 : t7.keeps s₀ := by
              unfold t7
              split
              · exact ht6.queueTile
              · exact ht6
            have ht8 : t8.keeps s₀ := by
              unfold t8
              split
              · exact ht7.setMcu
              · exact ht7
            exact ht8.afterQuantum

theorem State.keeps.endOfRun {g k r x b} (h : s.keeps s₀) : (s.endOfRun g k r x b).keeps s₀ := by
  unfold State.endOfRun
  extract_lets +onlyGivenNames strm
  split
  · split
    · trivial
    · split
      · split
        · exact h.deliver.afterQuantum
        · trivial
      · exact h.afterQuantum
  · split
    · split
      · trivial
      · exact (h.foldl fun _ _ ht => ht.queueTile).afterQuantum
    · split
      · exact h.afterQuantum
      · trivial

theorem State.keeps.boundStep {g k b} (h : s.keeps s₀) : (s.boundStep g k b).keeps s₀ := by
  unfold State.boundStep
  split
  · trivial
  · extract_lets +onlyGivenNames x2 m
    split
    · trivial
    · split
      · exact h.endOfRun
      · split
        · exact h.plainQuantum
        · exact h.sharedQuantum

theorem State.keeps.boundFill {g k b others} (h : s.keeps s₀) : (s.boundFill g k b others).keeps s₀ := by
  unfold State.boundFill
  split
  · trivial
  · extract_lets +onlyGivenNames x2 a strm
    split
    · trivial
    · split
      next heq1 =>
        refine QStep.keeps.of_eq (b := QStep.did _) ?_ heq1
        split
        · trivial
        · exact h.loadShared
      · split
        next heq1 =>
          refine optKeeps.of_eq ?_ heq1
          split
          · exact h.fillStream
          · trivial
        · split
          · trivial
          · exact h.loadShared

theorem State.keeps.firstStep {f l} (h : s.keeps s₀) (hf : ∀ t b, t.keeps s₀ → (f t b).keeps s₀) : (s.firstStep f l).keeps s₀ := by
  induction l generalizing s with
  | nil => trivial
  | cons b l ih =>
    unfold State.firstStep
    have hb := hf s b h
    split
    next heq => exact hb.of_eq heq
    next => exact ih h
    next t heq =>
      have ht : t.keeps s₀ := hb.of_eq heq
      split
      · exact ht
      · exact ih ht

theorem State.keeps.execMcuQuantum {u} (h : s.keeps s₀) : Res.keeps (execMcuQuantum u s) s₀ := by
  unfold Machine.execMcuQuantum
  extract_lets g l run fill
  have hrun : ∀ {t : State}, t.keeps s₀ → (t.firstStep run l).keeps s₀ := fun ht => ht.firstStep fun _ _ hu => hu.boundStep
  have hfill : (s.firstStep fill l).keeps s₀ := h.firstStep fun _ _ hu => hu.boundFill
  split
  · exact h
  · split
    next heq => exact State.keeps.progress (hfill.of_eq heq)
    next =>
      split
      next heq => exact State.keeps.progress ((hrun h).of_eq heq)
      next t heq => exact (show t.keeps s₀ from (hrun h).of_eq heq)
      next => exact h
    next t heq =>
      have ht : t.keeps s₀ := hfill.of_eq heq
      split
      next heq => exact State.keeps.progress ((hrun ht).of_eq heq)
      next u heq => exact (show u.keeps s₀ from (hrun ht).of_eq heq)
      next => exact ht

/-! ### The epilogue (R63 to R72, R134, R140, R141) -/

theorem State.keeps.scaleBias {h' e col} (h : s.keeps s₀) : (s.scaleBias h' e col).1.keeps s₀ := by
  unfold State.scaleBias
  extract_lets +onlyGivenNames one negz
  split
  · exact h
  · exact h.touchRead

theorem State.keeps.writeRow {h' d c ws xs scale fog} (h : s.keeps s₀) : (s.writeRow h' d c ws xs scale fog).keeps s₀ := by
  unfold State.writeRow
  extract_lets +onlyGivenNames t
  have ht : t.keeps s₀ := h.foldl fun _ _ hu => hu.muWritePlain
  split
  · exact ht.muWritePlain
  · exact ht

theorem State.keeps.denseDone {h' d} (h : s.keeps s₀) : (s.denseDone h' d).keeps s₀ := by
  unfold State.denseDone
  split
  · exact h
  · exact h.foldl fun _ _ ht => ht.muStoreCheck

theorem State.keeps.tileOut {g r t} (h : s.keeps s₀) : (s.tileOut g r t).keeps s₀ := h

theorem State.keeps.execEpilogueTile {u} (h : s.keeps s₀) : Res.keeps (execEpilogueTile u s) s₀ := by
  unfold Machine.execEpilogueTile
  extract_lets +onlyGivenNames g home m
  split
  · exact h
  · split
    · exact h
    · split
      · exact h.setMcu
      · extract_lets +onlyGivenNames e x6 toMem d c rows mu pd em en inRows pe z
        split
        · exact h.setMu
        · extract_lets +onlyGivenNames t fogT
          have ht : t.keeps s₀ := h.readTile
          split
          next heq2 =>
            extract_lets +onlyGivenNames fog ys masks out written t2 els t3 t4
            have ht2 : t2.keeps s₀ := (keeps_of_fst ht.scaleBias heq2).setMcu
            have ht3 : t3.keeps s₀ := by
              unfold t3
              split
              · refine ht2.foldl fun v _ hv => ?_
                split
                · split
                  · exact hv
                  · exact hv.muWritePlain
              · exact ht2
            have ht4 : t4.keeps s₀ := by
              unfold t4
              split
              · exact ht3.denseDone
              · exact ht3
            split
            · extract_lets +onlyGivenNames t5 t6 t7
              have ht5 : t5.keeps s₀ := ht4.foldl fun _ _ hv => hv.writeRow
              have ht6 : t6.keeps s₀ := by
                unfold t6
                split
                · exact ht5.denseDone
                · exact ht5
              have ht7 : t7.keeps s₀ := by
                unfold t7
                split
                · exact ht6.denseDone
                · exact ht6
              exact ht7.tileOut.progress
            · split
              exact ht4.deliver.tileOut.progress

/-! ### EPI (R137, R140) -/

theorem State.keeps.epiIssue {g iss} (h : s.keeps s₀) : (epiIssue s g iss).keeps s₀ := by
  unfold Machine.epiIssue
  extract_lets +onlyGivenNames home i p e tiles
  split
  · exact h.tensorFault
  · split
    · exact h.tensorFault
    · split
      · exact h.tensorFault
      · split
        · exact h.tensorFault
        · split
          · exact h
          · exact h.beginRun

theorem State.keeps.epiAdvance {g r} (h : s.keeps s₀) : optKeeps (epiAdvance s g r) s₀ := by
  unfold Machine.epiAdvance
  extract_lets +onlyGivenNames e nt tiles earlier clash
  split
  · extract_lets +onlyGivenNames t
    have ht : t.keeps s₀ := by
      unfold t
      split
      · exact h.deliverEmpty
      · exact h
    exact ht.putRun
  · split
    · trivial
    · split
      · trivial
      · split
        · extract_lets +onlyGivenNames t
          have ht : t.keeps s₀ := by
            unfold t
            split
            · exact h.deliver
            · exact h
          exact ht.endRun
        · exact h.setMcu.putRun

theorem State.keeps.execEpi {u} (h : s.keeps s₀) : Res.keeps (execEpi u s) s₀ := h.tensorCmd (fun _ => h.epiIssue) fun _ => h.epiAdvance

end Keeps

end Sys2Proof.Machine
end

section
/-!
PROOFS. What no command takes away: vector units.
-/

namespace Sys2Proof.Machine

section Keeps
variable {s : State} {s₀ : Before}

/-! ### Shapes and checks at issue (R148, R151, R165, R168, R278) -/

theorem State.keeps.vecIssue {g iss bad more writes} (h : s.keeps s₀) : (vecIssue s g iss bad more writes).keeps s₀ := by
  unfold Machine.vecIssue
  extract_lets +onlyGivenNames h' p
  split
  · exact h.tensorFault
  · split
    · exact h
    · split
      · exact h.tensorFault
      · split
        · exact h
        · extract_lets +onlyGivenNames r
          split
          · exact h
          · exact h.beginRun

/-! ### Operands (R149 to R151, R160) -/

theorem State.keeps.readPart {h' d c first fl} (h : s.keeps s₀) : (s.readPart h' d c first fl).1.keeps s₀ := by
  unfold State.readPart
  extract_lets +onlyGivenNames t t1
  have ht : t.keeps s₀ := h.touchRuns
  have ht1 : t1.keeps s₀ := by
    unfold t1
    split
    · exact ht.muVerify
    · exact ht
  exact ht1

theorem State.keeps.gatherOne {h' d c codeA x} (h : s.keeps s₀) : (s.gatherOne h' d c codeA x).1.keeps s₀ := by
  unfold State.gatherOne
  split
  · extract_lets +onlyGivenNames pad
    split
    · exact h
    · extract_lets +onlyGivenNames i
      split
      · split
        · exact h.touchRuns
        · exact h
      · exact h

theorem State.keeps.gatherAll {h' d c codeA l} (h : s.keeps s₀) : (s.gatherAll h' d c codeA l).1.keeps s₀ := by
  unfold State.gatherAll
  refine h.foldl_fst fun q _ hq => ?_
  split
  next heq => exact keeps_of_fst hq.gatherOne heq

theorem State.keeps.readB {h' d c l} (h : s.keeps s₀) : (s.readB h' d c l).1.keeps s₀ := h.touchRuns.verifyRuns

/-! ### S6 and the outputs (R71, R150, R161, R165, R169) -/

theorem State.keeps.vecWrite {h' d c els} (h : s.keeps s₀) : (s.vecWrite h' d c els).keeps s₀ := by
  unfold State.vecWrite
  extract_lets +onlyGivenNames t t1
  have ht : t.keeps s₀ := h.foldl fun _ _ hu => hu.foldl fun _ _ hv => hv.muWritePlain
  have ht1 : t1.keeps s₀ := by
    unfold t1
    split
    · refine ht.foldl fun u _ hu => ?_
      split
      · split
        · exact hu
        · exact hu.muWritePlain
    · exact ht
  split
  · exact ht1
  · extract_lets +onlyGivenNames t2
    have ht2 : t2.keeps s₀ := ht1.denseDone
    split
    · exact ht2.denseDone
    · exact ht2

theorem State.keeps.wordsOut {h' d ws} (h : s.keeps s₀) : (s.wordsOut h' d ws).keeps s₀ := h.vecWrite

theorem State.keeps.auditSpans {g l} (h : s.keeps s₀) : (s.auditSpans g l).keeps s₀ := by
  unfold State.auditSpans
  refine h.foldl fun t _ ht => ?_
  split
  · extract_lets +onlyGivenNames m
    split
    next heq => exact (ht.eligible_eq heq).setVcu

theorem State.keeps.tableError {g v res} (h : s.keeps s₀) : (s.tableError g v res).1.keeps s₀ := by
  unfold State.tableError
  extract_lets +onlyGivenNames m
  split
  · exact h.setVcu.recordUnit.reportUnit
  · exact h

theorem State.keeps.vecEnd {g r} (h : s.keeps s₀) : (s.vecEnd g r).keeps s₀ := h

theorem State.keeps.vecFinish {g r v red} (h : s.keeps s₀) : (s.vecFinish g r v red).keeps s₀ := by
  unfold State.vecFinish
  extract_lets +onlyGivenNames home i d c pd all
  split
  · extract_lets +onlyGivenNames fromS
    split
    · exact h.tensorFault
    · split
      · extract_lets +onlyGivenNames t t1 t2
        have ht : t.keeps s₀ := h.setVcu
        have ht1 : t1.keeps s₀ := by
          unfold t1
          split
          · exact ht.wordsOut
          · exact ht
        have ht2 : t2.keeps s₀ := by
          unfold t2
          split
          · exact ht1.deliver
          · exact ht1.vecWrite
        exact ht2.vecEnd

theorem State.keeps.vecEmit {g r v red} (h : s.keeps s₀) : (s.vecEmit g r v red).1.keeps s₀ := by
  unfold State.vecEmit
  extract_lets +onlyGivenNames i
  split
  · exact h
  · exact h.setVcu.deliver

theorem State.keeps.vecFlits {g r v red fl sfl} (h : s.keeps s₀) : (s.vecFlits g r v red fl sfl).1.keeps s₀ := by
  unfold State.vecFlits
  extract_lets +onlyGivenNames home i fromS codeA db hasB all
  split
  next heq =>
    extract_lets +onlyGivenNames starts lanes m seen t1 out flags t2
    have ht1 : t1.keeps s₀ := by
      refine State.keeps.setVcu ?_
      refine keeps_of_fst ?_ heq
      split
      · exact h.gatherAll
      · split
        · exact h.readB
        · exact h
    have ht2 : t2.keeps s₀ := ht1.setVcu
    split
    next heq1 =>
      extract_lets +onlyGivenNames t4 vals
      have ht4 : t4.keeps s₀ := by
        unfold t4
        split
        · exact (keeps_of_fst ht2.tableError heq1).auditSpans
        · exact keeps_of_fst ht2.tableError heq1
      exact ht4

theorem State.keeps.vecPart {g r v red fin fl sfl} (h : s.keeps s₀) : (s.vecPart g r v red fin fl sfl).keeps s₀ := by
  unfold State.vecPart
  split
  · extract_lets +onlyGivenNames n
    split
    next heq1 =>
      split
      next heq2 => exact (keeps_of_fst (keeps_of_fst h.vecFlits heq1).vecFlits heq2).setVcu.tensorFault
  · split
    next heq1 =>
      split
      · exact (keeps_of_fst h.vecFlits heq1).vecFinish
      · split
        next heq2 => exact (keeps_of_fst (keeps_of_fst h.vecFlits heq1).vecEmit heq2).putRun

theorem State.keeps.vecFromHome {g r v red} (h : s.keeps s₀) : optKeeps (s.vecFromHome g r v red) s₀ := by
  unfold State.vecFromHome
  extract_lets +onlyGivenNames home i d plan left src wrong
  split
  · clear_value src
    split
    · trivial
    · split
      · exact h.takeSource.vecPart
      · exact h.tensorFault
  · extract_lets +onlyGivenNames have_ k mine fin
    split
    · trivial
    · split
      · exact h.tensorFault
      · extract_lets +onlyGivenNames t
        have ht : t.keeps s₀ := by
          unfold t
          split
          · exact h.takeSource
          · exact h
        split
        next heq => exact (keeps_of_fst ht.readPart heq).vecPart

theorem State.keeps.vecFromStream {g r v red} (h : s.keeps s₀) : optKeeps (s.vecFromStream g r v red) s₀ := by
  unfold State.vecFromStream
  extract_lets +onlyGivenNames i db src upTo ended k mine fin data runs n fits
  split
  · trivial
  · split
    · exact h.tensorFault
    · exact h.takeSource.vecPart

theorem State.keeps.vecAdvance {g red r} (h : s.keeps s₀) : optKeeps (vecAdvance s g red r) s₀ := by
  unfold Machine.vecAdvance
  extract_lets +onlyGivenNames home v i m z
  split
  · trivial
  · split
    · extract_lets +onlyGivenNames t
      have ht : t.keeps s₀ := by
        unfold t
        split
        · exact h.deliverEmpty
        · exact h
      exact ht.putRun
    · split
      · exact h.setMu
      · split
        · exact h.vecFromStream
        · exact h.vecFromHome

theorem State.keeps.execVop {u} (h : s.keeps s₀) : Res.keeps (execVop u s) s₀ := by
  unfold Machine.execVop
  exact h.tensorCmd (fun _ => h.vecIssue) fun _ => h.vecAdvance

theorem State.keeps.execVred {u} (h : s.keeps s₀) : Res.keeps (execVred u s) s₀ := by
  unfold Machine.execVred
  exact h.tensorCmd (fun _ => h.vecIssue) fun _ => h.vecAdvance

/-! ### EXPORT.SIGN (R374 to R377) -/

theorem State.keeps.readBlocks {h' d c first bl} (h : s.keeps s₀) : (s.readBlocks h' d c first bl).1.keeps s₀ := by
  unfold State.readBlocks
  extract_lets +onlyGivenNames t t1
  have ht : t.keeps s₀ := h.touchRuns
  have ht1 : t1.keeps s₀ := by
    unfold t1
    split
    · exact ht.muVerify
    · exact ht
  exact ht1

theorem State.keeps.signPart {g r} (h : s.keeps s₀) : (s.signPart g r).keeps s₀ := by
  unfold State.signPart
  extract_lets +onlyGivenNames home i d
  split
  · split
    next heq1 =>
      split
      next heq2 =>
        extract_lets +onlyGivenNames out m flits t2 words scales news pos
        have ht2 : t2.keeps s₀ := (keeps_of_fst (keeps_of_fst h.readBlocks heq1).readBlocks heq2).setVcu
        split
        · exact ht2.putRun
        · exact ht2.vecWrite.vecWrite.vecWrite.vecEnd

theorem State.keeps.signAdvance {g r} (h : s.keeps s₀) : optKeeps (signAdvance s g r) s₀ := by
  unfold Machine.signAdvance
  extract_lets +onlyGivenNames home m i z
  split
  · trivial
  · split
    · exact h.putRun
    · split
      · exact h.setMu
      · exact h.signPart

theorem State.keeps.execExportSign {u} (h : s.keeps s₀) : Res.keeps (execExportSign u s) s₀ := by
  unfold Machine.execExportSign
  exact h.tensorCmd (fun _ => h.vecIssue) fun _ => h.signAdvance

end Keeps

end Sys2Proof.Machine
end

section
/-!
PROOFS. What no command takes away: the transfer engine and the events of a memory unit.
-/

namespace Sys2Proof.Machine

section Keeps
variable {s : State} {s₀ : Before}

/-! ### Rows (R348, R349) -/

theorem State.keeps.rowDone {g r k} (h : s.keeps s₀) : (s.rowDone g r k).keeps s₀ := h

theorem State.keeps.rowWrite {g r k x els} (h : s.keeps s₀) : (s.rowWrite g r k x els).keeps s₀ := by
  unfold State.rowWrite
  split
  · extract_lets +onlyGivenNames t l t1
    have ht1 : t1.keeps s₀ := h.setTu
    split
    · exact ht1.rowDone
    · exact ht1.putRun
  · exact (h.foldl fun _ _ ht => ht.muWritePlain).rowDone

theorem State.keeps.rowStart {g r k x} (h : s.keeps s₀) : (s.rowStart g r k x).keeps s₀ := by
  unfold State.rowStart
  split
  · exact h.tensorFault
  · split
    · extract_lets +onlyGivenNames t l t1
      have ht1 : t1.keeps s₀ := h.setTu
      split
      · exact ht1.rowWrite
      · exact ht1.putRun
    · exact (h.foldl fun _ _ ht => ht.touchRead).rowWrite

theorem State.keeps.xferChecks {g r} (h : s.keeps s₀) : (s.xferChecks g r).keeps s₀ := by
  unfold State.xferChecks
  extract_lets +onlyGivenNames pairs
  refine h.foldl fun t _ ht => ?_
  split
  · split
    · exact ht.storeChecks
    · exact ht

theorem State.keeps.faultStep {g r} (h : s.keeps s₀) : optKeeps (s.faultStep g r) s₀ := by
  unfold State.faultStep
  extract_lets +onlyGivenNames m x
  split
  · trivial
  · split
    · split
      · exact h.failCtx
      · split
        · trivial
        · extract_lets +onlyGivenNames p
          exact State.keeps.emit (h.update)
    · split
      · split
        · trivial
        · extract_lets +onlyGivenNames rows e t _ t1
          have ht : t.keeps s₀ := State.keeps.atcAdd (h.update)
          have ht1 : t1.keeps s₀ := ht.setMu
          exact ht1.putRun
      · trivial

theorem State.keeps.xferStart {g r legs} (h : s.keeps s₀) : (s.xferStart g r legs).keeps s₀ := by
  unfold State.xferStart
  extract_lets +onlyGivenNames _ _ t t1 came
  have ht : t.keeps s₀ := by
    unfold t
    split
    · exact h
    · exact h.setMu
  have ht1 : t1.keeps s₀ := by
    refine ht.foldl fun u _ hu => ?_
    split
    · exact hu.verifyExt
    · split
      · exact hu.muVerify
      · exact hu
  exact ht1.putRun

theorem State.keeps.xferEnd {g r slot} (h : s.keeps s₀) : (s.xferEnd g r slot).keeps s₀ := by
  unfold State.xferEnd
  extract_lets +onlyGivenNames t
  have ht : t.keeps s₀ := by
    refine State.keeps.endRun ?_
    split
    · exact h
    · exact h.xferChecks
  split
  · exact ht.setMu
  · exact ht

theorem State.keeps.xferPush {g r} (h : s.keeps s₀) : optKeeps (s.xferPush g r) s₀ := by
  unfold State.xferPush
  extract_lets +onlyGivenNames room
  split
  · trivial
  · extract_lets +onlyGivenNames wait
    have hp : Push.keeps (if wait then Machine.pushKnown g r.iss.ctx .xfer room r.reqs s else Machine.pushReqs g r.iss.ctx .xfer room r.reqs s) s₀ := by
      split
      · exact h.pushKnown
      · exact h.pushReqs
    split
    next heq =>
      split
      · trivial
      · exact State.keeps.putRun (hp.of_eq heq)
    next t heq => exact (show t.keeps s₀ from hp.of_eq heq)
    next t _ q iova heq =>
      have ht : t.keeps s₀ := hp.of_eq heq
      exact State.keeps.putRun (ht.setMu)

theorem State.keeps.xferAdvance {g r} (h : s.keeps s₀) : optKeeps (xferAdvance s g r) s₀ := by
  unfold Machine.xferAdvance
  extract_lets +onlyGivenNames m slot legsA rows full writes ks
  split
  · exact h.beginSlot
  · split
    · exact h.xferEnd
    · split
      · split
        next heq => exact h.wakeLegs.of_eq heq
        next => exact h.xferStart
      · split
        · exact h.rowDone
        · split
          · exact h.xferEnd
          · split
            next heq => exact h.wakeLegs.of_eq heq
            next =>
              split
              · exact optKeeps_map fun _ _ => h.rowWrite
              · split
                next heq => exact h.xferPush.of_eq heq
                next =>
                  split
                  · exact h.faultStep
                  · split
                    · trivial
                    · exact optKeeps_bind fun _ _ => optKeeps_map fun _ _ => h.rowStart

theorem State.keeps.execXfer {m} (h : s.keeps s₀) : Res.keeps (execXfer m s) s₀ := h.tensorCmd (fun _ => h.moveIssue) fun _ => h.xferAdvance

theorem State.keeps.execGeneratorAcquire {m} (h : s.keeps s₀) : Res.keeps (execGeneratorAcquire m s) s₀ := by
  unfold Machine.execGeneratorAcquire
  extract_lets g ops
  split
  · exact h
  · refine h.issueHead fun i => ?_
    split
    · exact h.qsendIssue
    · exact h.moveIssue

/-! ### Page responses (R353) and ATS invalidation (R351) -/

theorem State.keeps.pageFail {i p status cause} (h : s.keeps s₀) : (s.pageFail i p status cause).keeps s₀ := by
  unfold State.pageFail
  exact State.keeps.failCtx (h.update)

theorem State.keeps.execPageResponse {f n code} (h : s.keeps s₀) : Res.keeps (execPageResponse f n code s) s₀ := by
  unfold Machine.execPageResponse
  split
  · exact h
  · split
    · exact h.update
    · exact h.pageFail
    · exact h.pageFail
    · exact h.setFn.pageFail

theorem State.keeps.execPageRequestTimeout {f n} (h : s.keeps s₀) : Res.keeps (execPageRequestTimeout f n s) s₀ := by
  unfold Machine.execPageRequestTimeout
  split
  · exact h
  · exact h.advanceTo.pageFail

theorem State.keeps.execAtsInvalidation {p iova len} (h : s.keeps s₀) : Res.keeps (execAtsInvalidation p iova len s) s₀ := by
  unfold Machine.execAtsInvalidation
  extract_lets +onlyGivenNames hit used
  split
  · exact h
  · exact State.keeps.emit (h.update)

/-! ### Window writes (R106) -/

theorem State.keeps.performWin {g a} (h : s.keeps s₀) : (s.performWin g a).keeps s₀ := h.muWritePlain

theorem State.keeps.windowWrite {g epoch right a} (h : s.keeps s₀) : (s.windowWrite g epoch right a).1.keeps s₀ := by
  unfold State.windowWrite
  extract_lets +onlyGivenNames m w
  split
  · extract_lets +onlyGivenNames a1
    split
    · exact h.performWin
    · exact h.setMu
  · exact h.setMu

theorem State.keeps.performAccepted {g a} (h : s.keeps s₀) : (s.performAccepted g a).keeps s₀ := by
  unfold State.performAccepted
  extract_lets +onlyGivenNames m
  exact State.keeps.reply (State.keeps.performWin (h.setMu))

theorem State.keeps.execWindowWrite {m} (h : s.keeps s₀) : Res.keeps (execWindowWrite m s) s₀ := by
  unfold Machine.execWindowWrite
  extract_lets +onlyGivenNames g c
  split
  · exact h
  · split
    · exact h.performAccepted.progress
    · split
      · exact h
      next heq1 =>
        split
        · split
          next heq3 => exact (keeps_of_fst (h.takeInbox_eq heq1).windowWrite heq3).reply.progress
          next heq3 => exact keeps_of_fst (h.takeInbox_eq heq1).windowWrite heq3
          next heq3 => exact (keeps_of_fst (h.takeInbox_eq heq1).windowWrite heq3).reply
          next heq3 => exact (keeps_of_fst (h.takeInbox_eq heq1).windowWrite heq3).failCtx
        · exact h.takeInbox_eq heq1

/-! ### External data and acknowledgements (R87) -/

theorem State.keeps.execExternalReadData {m n host poison} (h : s.keeps s₀) : Res.keeps (execExternalReadData m n host poison s) s₀ := by
  unfold Machine.execExternalReadData
  extract_lets +onlyGivenNames g
  split
  · exact h
  · extract_lets +onlyGivenNames t
    have ht : t.keeps s₀ := h.progress
    split <;> exact ht.modReq

theorem State.keeps.execWriteAcknowledgement {m} (h : s.keeps s₀) : Res.keeps (execWriteAcknowledgement m s) s₀ := by
  unfold Machine.execWriteAcknowledgement
  extract_lets +onlyGivenNames g
  split
  next heq =>
    split
    · exact (h.takeInbox_eq heq).modReq.progress
    · exact h.takeInbox_eq heq
  · split
    · exact h
    · exact h.modReq.progress

/-! ### Scrubbing and bank groups (R97, R108, R109) -/

theorem State.keeps.execMuScrubRead {m} (h : s.keeps s₀) : Res.keeps (execMuScrubRead m s) s₀ := by
  unfold Machine.execMuScrubRead
  extract_lets +onlyGivenNames g u
  split
  · exact h
  · split
    · exact h
    · extract_lets +onlyGivenNames t u1 q wrapped
      have ht : t.keeps s₀ := h.touchRead.progress
      exact ht.setMu

theorem State.keeps.execBankGroupPowerDown {m g} (h : s.keeps s₀) : Res.keeps (execBankGroupPowerDown m g s) s₀ := by
  unfold Machine.execBankGroupPowerDown
  extract_lets +onlyGivenNames u
  split
  · exact h.setMu
  · exact h

theorem State.keeps.execBankGroupWake {m g} (h : s.keeps s₀) : Res.keeps (execBankGroupWake m g s) s₀ := by
  unfold Machine.execBankGroupWake
  extract_lets +onlyGivenNames u bit
  split
  · exact h.setMu
  · exact h

end Keeps

end Sys2Proof.Machine
end

section
/-!
PROOFS. What no command takes away: program images, loading and reconfiguration, and reduction in the mesh.
-/

namespace Sys2Proof.Machine

section Keeps
variable {s : State} {s₀ : Before}

/-! ### Loading a cluster (R308) -/

theorem State.keeps.translateLinks {c} (h : s.keeps s₀) : (s.translateLinks c).keeps s₀ := h

theorem State.keeps.loadCluster {c img place epoch} (h : s.keeps s₀) : (s.loadCluster c img place epoch).keeps s₀ := by
  unfold State.loadCluster
  extract_lets +onlyGivenNames t t1 t2 t3 t4 t5 k
  have ht : t.keeps s₀ := h.foldl fun _ _ hu => hu.setTu
  have ht1 : t1.keeps s₀ := ht.foldl fun _ _ hu => hu.setMu
  have ht2 : t2.keeps s₀ := ht1.foldl fun _ _ hu => hu.setMcu
  have ht3 : t3.keeps s₀ := ht2.foldl fun _ _ hu => hu.setVcu
  have ht4 : t4.keeps s₀ := ht3.foldl fun _ _ hu => hu.setScu
  have ht5 : t5.keeps s₀ := ht4.setSw.translateLinks
  exact ht5.setCl

/-! ### Quiet, and what is discarded (R306, R307) -/

theorem State.keeps.dropRoots {g} (h : s.keeps s₀) : (s.dropRoots g).keeps s₀ := h

theorem State.keeps.dropRootsAt {c} (h : s.keeps s₀) : (s.dropRootsAt c).keeps s₀ := h

theorem State.keeps.clearLocal {c} (h : s.keeps s₀) : (s.clearLocal c).keeps s₀ := by
  unfold State.clearLocal
  extract_lets +onlyGivenNames t t1 t2 t3 w t4 r t5
  have ht : t.keeps s₀ := h.foldl fun _ _ hu => hu.setTu
  have ht1 : t1.keeps s₀ := ht.foldl fun _ _ hu => hu.setMu
  have ht2 : t2.keeps s₀ := ht1.foldl fun _ _ hu => hu.setMcu
  have ht3 : t3.keeps s₀ := ht2.foldl fun _ _ hu => hu.setScu
  have ht4 : t4.keeps s₀ := ht3.setSw
  have ht5 : t5.keeps s₀ := ht4.setRt
  split
  · exact ht5.setSf
  · exact ht5

theorem State.keeps.clearItems {cs c} (h : s.keeps s₀) : (s.clearItems cs c).keeps s₀ := (h.foldl fun _ _ ht => ht.dropRoots).clearLocal

theorem State.keeps.discardCluster {cs c} (h : s.keeps s₀) : (s.discardCluster cs c).keeps s₀ := by
  unfold State.discardCluster
  extract_lets +onlyGivenNames f n k t
  have ht : t.keeps s₀ := h.clearItems.voidMessages.setCl
  split
  · exact ht
  · exact ht.recordUnit

/-! ### Groups (R257, R267, R301) -/

theorem State.keeps.zeroRounds {g} (h : s.keeps s₀) : (s.zeroRounds g).keeps s₀ := h

theorem State.keeps.freeGroup {g} (h : s.keeps s₀) : (s.freeGroup g).keeps s₀ := h

theorem State.keeps.bindGroups {sec ctx imgs rest} (h : s.keeps s₀) : (s.bindGroups sec ctx imgs rest).keeps s₀ := by
  unfold State.bindGroups
  split
  · extract_lets +onlyGivenNames stays kept free t defs fresh binds t1
    have ht : t.keeps s₀ := h.foldl fun _ _ hu => hu.freeGroup
    have ht1 : t1.keeps s₀ := by
      refine ht.foldl fun u _ hu => ?_
      split
      · split
        · exact hu
        · exact hu.zeroRounds.setGrp
    split
    next heq2 => exact ht1.setCtx
    · exact ht1
  · exact h

/-! ### Queues open to another context (R190, R431) -/

theorem State.keeps.admitOther {c} (h : s.keeps s₀) : (s.admitOther c).keeps s₀ := by
  unfold State.admitOther
  split <;> exact h

/-! ### Native reconfiguration (R305 to R311) -/

theorem State.keeps.stage {c place img} (h : s.keeps s₀) : (s.stage c place img).keeps s₀ := by
  unfold State.stage
  extract_lets +onlyGivenNames m t t1 k
  have ht : t.keeps s₀ := h.setMu
  have ht1 : t1.keeps s₀ := ht.muWritePlain
  exact ht1.setCl

theorem State.keeps.loadRegion {sec imgs place ctx} (h : s.keeps s₀) : (s.loadRegion sec imgs place ctx).keeps s₀ := by
  unfold State.loadRegion
  extract_lets +onlyGivenNames cs e t
  have ht : t.keeps s₀ := by
    refine h.foldl fun u _ hu => ?_
    split
    · extract_lets +onlyGivenNames t1
      have ht1 : t1.keeps s₀ := hu.clearItems.loadCluster
      split
      · exact ht1.setCl
      · exact ht1
  split
  · exact ht
  · extract_lets +onlyGivenNames rest t1 bad
    have ht1 : t1.keeps s₀ := ht.bindGroups.foldl fun _ _ hu => hu.admitOther
    clear_value bad
    split
    · exact ht1
    · exact ht1.failCtx

theorem State.keeps.reconfigure {sec imgs place disc ctx} (h : s.keeps s₀) : (s.reconfigure sec imgs place disc ctx).1.keeps s₀ := by
  unfold State.reconfigure
  extract_lets +onlyGivenNames look
  split
  · exact h
  · extract_lets +onlyGivenNames t
    have ht : t.keeps s₀ := by
      unfold t
      split
      · exact h
      · exact h.foldl fun _ _ hu => hu.discardCluster
    exact ht.loadRegion

theorem State.keeps.execNativeReconfiguration {sec g place disc} (h : s.keeps s₀) : Res.keeps (execNativeReconfiguration sec g place disc s) s₀ := by
  unfold Machine.execNativeReconfiguration
  extract_lets +onlyGivenNames cs
  split
  · split
    · exact h
    · exact h.reconfigure
  · exact h

theorem State.keeps.execForcedDrain {sec g} (h : s.keeps s₀) : Res.keeps (execForcedDrain sec g s) s₀ := by
  unfold Machine.execForcedDrain
  extract_lets +onlyGivenNames cs newest
  split
  · exact h
  · split
    · exact h
    · exact (h.foldl fun _ _ ht => ht.discardCluster.fabricFail).foldl fun _ _ ht => ht.setCl

/-! ### Combiner slots (R260) -/

theorem State.keeps.readSlot {c n} (h : s.keeps s₀) : (s.readSlot c n).keeps s₀ := by
  unfold State.readSlot
  extract_lets +onlyGivenNames r
  split
  · split
    · exact h.setRt.eccError
    · exact h
  · exact h

theorem State.keeps.sendPartial {c n} (h : s.keeps s₀) : (s.sendPartial c n).keeps s₀ := by
  unfold State.sendPartial
  extract_lets +onlyGivenNames t r
  have ht : t.keeps s₀ := h.readSlot
  split
  · exact ht
  · exact ht.setRt.sendPacket

theorem State.keeps.execContributionMerge {c} (h : s.keeps s₀) : Res.keeps (execContributionMerge c s) s₀ := by
  unfold Machine.execContributionMerge
  extract_lets +onlyGivenNames c1
  split
  · exact h
  · split
    · exact h
    next heq =>
      split
      · exact h
      · extract_lets +onlyGivenNames gr r spot
        split
        · exact h.parityReset
        · split
          · exact (h.takeInbox_eq heq).setRt
          · clear_value spot
            split
            · split
              · exact h
              · exact h.setRt
            · extract_lets +onlyGivenNames s' _ r1 t1 full
              have hs' : s'.keeps s₀ := (h.takeInbox_eq heq).readSlot
              have ht1 : t1.keeps s₀ := hs'.setRt.progress
              split
              · exact ht1.sendPartial
              · exact ht1

theorem State.keeps.execTransitSlotFlush {c slot} (h : s.keeps s₀) : Res.keeps (execTransitSlotFlush c slot s) s₀ := by
  unfold Machine.execTransitSlotFlush
  extract_lets +onlyGivenNames c1
  split
  · exact h
  · split
    · exact h
    · exact h.advanceTo.setRt.sendPartial

/-! ### The root (R262, R367) -/

theorem State.keeps.blockDone {c k status} (h : s.keeps s₀) : (s.blockDone c k status).keeps s₀ := by
  unfold State.blockDone
  extract_lets +onlyGivenNames g g1
  split
  · exact h.setGrp
  · exact h.setRt.sendPacket.setGrp.sendPacket

theorem State.keeps.overCount {c x} (h : s.keeps s₀) : (s.overCount c x).keeps s₀ := h.failCtx

theorem State.keeps.putBlock {c k} (h : s.keeps s₀) : (s.putBlock c k).keeps s₀ := by
  unfold State.putBlock
  extract_lets +onlyGivenNames g w
  split
  next heq => exact (keeps_of_fst h.windowWrite heq).blockDone
  next heq => exact keeps_of_fst h.windowWrite heq
  next heq => exact (keeps_of_fst h.windowWrite heq).blockDone
  next heq => exact (keeps_of_fst h.windowWrite heq).failCtx

theorem State.keeps.rootMerge {c n x} (h : s.keeps s₀) : (s.rootMerge c n x).keeps s₀ := by
  unfold State.rootMerge
  extract_lets +onlyGivenNames g
  split
  · exact h.overCount
  · extract_lets +onlyGivenNames t r t1
    have ht : t.keeps s₀ := h.readSlot
    have ht1 : t1.keeps s₀ := ht.setRt.progress
    split
    · exact ht1
    · split
      · exact ht1.overCount
      · split
        · exact ht1
        · exact ht1.putBlock

theorem State.keeps.execRootMerge {c} (h : s.keeps s₀) : Res.keeps (execRootMerge c s) s₀ := by
  unfold Machine.execRootMerge
  extract_lets +onlyGivenNames c1
  split
  · exact h
  · split
    next heq =>
      split
      · split
        · exact (h.takeInbox_eq heq).blockDone
        · exact h.takeInbox_eq heq
      · exact h.takeInbox_eq heq
    · split
      · exact h
      next heq1 =>
        split
        · exact h
        · extract_lets +onlyGivenNames r
          split
          · exact h.parityReset
          · split
            · exact h.takeInbox_eq heq1
            · split
              · exact h
              · exact (h.takeInbox_eq heq1).rootMerge

theorem State.keeps.takeRound {c g round} (h : s.keeps s₀) : (s.takeRound c g round).keeps s₀ := h

theorem State.keeps.imageRound {c g round} (h : s.keeps s₀) : (s.imageRound c g round).keeps s₀ := by
  unfold State.imageRound
  extract_lets n
  split
  next k heq =>
    exact h.setCtx
  next => exact h

theorem State.keeps.execRoundAdvance {c} (h : s.keeps s₀) : Res.keeps (execRoundAdvance c s) s₀ := by
  unfold Machine.execRoundAdvance
  extract_lets +onlyGivenNames c1
  split
  · exact h
  · split
    · exact h
    next heq =>
      split
      · split
        · exact (h.takeInbox_eq heq).takeRound.imageRound.progress
        · exact h.takeInbox_eq heq
      · exact h.takeInbox_eq heq

end Keeps

end Sys2Proof.Machine
end

section
/-!
PROOFS. What no command takes away: register accesses.
-/

namespace Sys2Proof.Machine

section Keeps
variable {s : State} {s₀ : Before}

/-! ### Writes in a cluster window (R540) -/

theorem State.keeps.writeRp {g r v} (h : s.keeps s₀) : (s.writeRp g r v).keeps s₀ := by
  unfold State.writeRp
  extract_lets +onlyGivenNames u k q p
  split
  · exact h.failUnit
  · exact h.setScu

theorem State.keeps.writeScu {g k r o v} (h : s.keeps s₀) : (s.writeScu g k r o v).keeps s₀ := by
  unfold State.writeScu
  extract_lets +onlyGivenNames u
  split
  · exact h.setScu
  · split
    · exact h.setScu
    · split
      · exact h.setScu
      · split
        · split
          · exact h.writeRp
          · exact h
        · split
          · exact h.setScu
          · split
            · exact h.setScu
            · split
              · exact h.setScu
              · exact h

theorem State.keeps.writeCluster {c x r v} (h : s.keeps s₀) : (s.writeCluster c x r v).keeps s₀ := by
  unfold State.writeCluster
  extract_lets +onlyGivenNames k u o g
  split
  · exact h
  · split
    · exact h.discard
    · split
      · exact h
      · split
        · exact h.setMu
        · split
          · exact h.setMcu
          · split
            · exact h.setVcu
            · split
              · exact h.writeScu
              · split
                · exact h.setSw
                · split
                  · exact h.setRt
                  · split
                    · exact h.setCl
                    · exact h

theorem State.keeps.holdAccess {c x r v write} (h : s.keeps s₀) : (s.holdAccess c x r v write).keeps s₀ := h

theorem State.keeps.clusterWrite {c x r v} (h : s.keeps s₀) : (s.clusterWrite c x r v).keeps s₀ := by
  unfold State.clusterWrite
  split
  · exact h.holdAccess
  · exact h.writeCluster

theorem State.keeps.loseEntry {x} (h : s.keeps s₀) : (s.loseEntry x).keeps s₀ := by
  unfold State.loseEntry
  extract_lets +onlyGivenNames p
  split
  next heq =>
    split
    · exact (keeps_of_fst h.hbmRead heq).modErr
    · exact keeps_of_fst h.hbmRead heq

theorem State.keeps.answerRead {r a} (h : s.keeps s₀) : (s.answerRead r a).keeps s₀ := by
  unfold State.answerRead
  split
  · exact h
  · split
    · exact h.emit
    · extract_lets +onlyGivenNames v t
      have ht : t.keeps s₀ := by
        unfold t
        split
        · split
          · exact h.discard
          · split
            · exact h.loseEntry
            · exact h
        · exact h
      exact ht.emit

theorem State.keeps.performHeld {c} (h : s.keeps s₀) : (s.performHeld c).keeps s₀ := by
  unfold State.performHeld
  extract_lets +onlyGivenNames mine t
  have ht : t.keeps s₀ := h.update
  refine ht.foldl fun u _ hu => ?_
  split
  · exact hu.writeCluster
  · exact hu.answerRead

/-! ### Writes of the global blocks (R541) -/

theorem State.keeps.writeLogRd {v} (h : s.keeps s₀) : (s.writeLogRd v).keeps s₀ := by
  unfold State.writeLogRd
  extract_lets +onlyGivenNames n
  split
  · exact h.modErr
  · exact h

theorem State.keeps.inject {unit kind off} (h : s.keeps s₀) : (s.inject unit kind off).keeps s₀ := by
  unfold State.inject
  split
  · exact h.setMu
  · split
    · exact h.setMcu
    · exact h

theorem State.keeps.writeInject {v} (h : s.keeps s₀) : (s.writeInject v).keeps s₀ := by
  unfold State.writeInject
  extract_lets +onlyGivenNames x unit kind arm
  split
  · exact h
  · extract_lets +onlyGivenNames t
    have ht : t.keeps s₀ := h.modErr
    split
    · exact ht.inject
    · exact ht

theorem State.keeps.writeErr {o v} (h : s.keeps s₀) : (s.writeErr o v).keeps s₀ := by
  unfold State.writeErr
  split
  · exact h.modErr
  · split
    · exact h.writeLogRd
    · split
      · exact h.modErr
      · split
        · exact h.modErr
        · split
          · exact h.writeInject
          · exact h

theorem State.keeps.reseed {v} (h : s.keeps s₀) : (s.reseed v).keeps s₀ := by
  unfold State.reseed
  extract_lets +onlyGivenNames seed units
  refine h.foldl fun t _ ht => ?_
  split
  · exact ht.setMcu
  · exact ht.setVcu

theorem State.keeps.writeAud {o v} (h : s.keeps s₀) : (s.writeAud o v).keeps s₀ := by
  unfold State.writeAud
  extract_lets +onlyGivenNames x a
  split
  · extract_lets +onlyGivenNames a1
    exact h.update
  · split
    · exact h.reseed
    · split
      · exact h.update
      · split
        · exact h.update
        · split
          · exact h.update
          · split
            · exact h.update
            · split
              · split
                · exact h.update
                · exact h
              · exact h

theorem State.keeps.invalidated {p g} (h : s.keeps s₀) : (s.invalidated p g).1.keeps s₀ := h.sendSnoops

theorem State.keeps.writeMap {p i v} (h : s.keeps s₀) : (s.writeMap p i v).keeps s₀ := by
  unfold State.writeMap
  split
  · split
    next heq1 => exact (keeps_of_fst h.invalidated heq1).setPort
    next heq1 => exact (keeps_of_fst h.invalidated heq1).setPort
  · exact h.setPort

theorem State.keeps.settleMap {p} (h : s.keeps s₀) : (s.settleMap p).keeps s₀ := h.foldl fun _ _ ht => ht.writeMap

theorem State.keeps.writeCx {p o v} (h : s.keeps s₀) : (s.writeCx p o v).keeps s₀ := by
  unfold State.writeCx
  extract_lets +onlyGivenNames x c
  split
  · exact h.setPort
  · split
    · exact h.setPort
    · split
      · exact h.setPort
      · split
        · extract_lets +onlyGivenNames i
          split
          · exact h
          · exact h.writeMap
        · exact h

theorem State.keeps.writePm {o v} (h : s.keeps s₀) : (s.writePm o v).keeps s₀ := by
  unfold State.writePm
  extract_lets +onlyGivenNames k g
  split
  · exact h.update
  · split
    · exact h
    · split
      · exact h.setGrp
      · split
        · exact h.setGrp
        · split
          · exact h.setGrp
          · exact h

theorem State.keeps.keeperWrite {x v} (h : s.keeps s₀) : (s.keeperWrite x v).keeps s₀ := by
  unfold State.keeperWrite
  extract_lets +onlyGivenNames o
  split
  · split
    · exact h.update
    · split
      · exact h.update
      · split
        · exact h.update
        · split
          · exact h.update
          · exact h
  · split
    · exact h.writeErr
    · split
      · exact h.update
      · split
        · exact h
        · split
          · split
            · exact h.update
            · exact h
          · split
            · exact h.writeAud
            · split
              · exact h.writeCx
              · split
                · exact h.setCtrl
                · split
                  · exact h.setSf
                  · split
                    · exact h.writePm
                    · exact h

theorem State.keeps.blockWrite {r x v} (h : s.keeps s₀) : (s.blockWrite r x v).keeps s₀ := by
  unfold State.blockWrite
  split
  · exact h.keeperWrite
  · split
    · exact h.update
    · split
      · exact h.update
      · split
        · exact h.update
        · split
          · exact h.update
          · exact h
  · exact h

/-! ### Accesses that are refused (R5, R536) -/

theorem State.keeps.logAccess {r off} (h : s.keeps s₀) : (s.logAccess r off).keeps s₀ := by
  unfold State.logAccess
  extract_lets +onlyGivenNames rec_
  split
  · extract_lets +onlyGivenNames x2
    split
    · split
      · exact h
      · exact h.setFn.record
    · exact h.setFn.record
  · exact h.record

theorem State.keeps.badAccess {r off} (h : s.keeps s₀) : (s.badAccess r off).keeps s₀ := by
  unfold State.badAccess
  exact State.keeps.logAccess (h.update)

/-! ### Interrupts (R383, R401; log 8) -/

theorem State.keeps.signal {f v} (h : s.keeps s₀) : (s.signal f v).keeps s₀ := by
  unfold State.signal
  extract_lets +onlyGivenNames x
  split
  · exact h.setFn
  · exact h.emit

theorem State.keeps.writeMsix {f k v} (h : s.keeps s₀) : (s.writeMsix f k v).keeps s₀ := by
  unfold State.writeMsix
  extract_lets +onlyGivenNames x t n
  have ht : t.keeps s₀ := h.setFn
  split
  · exact ht.setFn.signal
  · exact ht

/-! ### BAR0 (R383 to R389, R410) -/

theorem State.keeps.writeBar0 {f o v} (h : s.keeps s₀) : (s.writeBar0 f o v).keeps s₀ := by
  unfold State.writeBar0
  extract_lets +onlyGivenNames x n
  split
  · exact h.setFn
  · split
    · exact h.setFn
    · split
      · exact h.setRing
      · split
        · exact h.setRing
        · split
          · exact h.setRing
          · split
            · exact h.setFn
            · split
              · exact h.setFn
              · split
                · exact h.setFn
                · split
                  · exact h.setFn
                  · split
                    · exact h.writeMsix
                    · exact h

/-! ### One register write -/

theorem State.keeps.regWrite {r a v} (h : s.keeps s₀) : (s.regWrite r a v).keeps s₀ := by
  unfold State.regWrite
  split
  · exact h
  · split
    · exact h.emit
    · split
      · exact h.writeBar0
      · exact h
    · split
      · exact h
      · split
        · exact h
        · split
          · exact h.badAccess
          · split
            · exact h.clusterWrite
            · split
              · split
                · extract_lets +onlyGivenNames q
                  split
                  · exact h.clusterWrite
                  · exact h
                · exact h
              · exact h.blockWrite

theorem State.keeps.execRegisterWrite {r a v} (h : s.keeps s₀) : Res.keeps (execRegisterWrite r a v s) s₀ := h.regWrite

theorem State.keeps.execRegisterAccessMisaligned {r a _size write} (h : s.keeps s₀) : Res.keeps (execRegisterAccessMisaligned r a _size write s) s₀ := by
  unfold Machine.execRegisterAccessMisaligned
  split
  · exact h
  · split
    · exact h.emit
    · extract_lets +onlyGivenNames t
      have ht : t.keeps s₀ := h.badAccess
      split
      · exact ht
      · exact ht.emit

theorem State.keeps.execHeldAccessTimeout {n} (h : s.keeps s₀) : Res.keeps (execHeldAccessTimeout n s) s₀ := by
  unfold Machine.execHeldAccessTimeout
  split
  · exact h
  · extract_lets +onlyGivenNames t _ t1
    have ht : t.keeps s₀ := h.advanceTo
    have ht1 : t1.keeps s₀ := ht.update
    split
    · exact ht1
    · exact ht1.emit

theorem State.keeps.execMuDtSelWrite {r m v} (h : s.keeps s₀) : Res.keeps (execMuDtSelWrite r m v s) s₀ := h.regWrite

theorem State.keeps.execMuDtWordStage {r m k v} (h : s.keeps s₀) : Res.keeps (execMuDtWordStage r m k v s) s₀ := h.regWrite

theorem State.keeps.execMuDtWord7Write {r m v} (h : s.keeps s₀) : Res.keeps (execMuDtWord7Write r m v s) s₀ := h.regWrite

theorem State.keeps.execMuBgCtlWrite {r m v} (h : s.keeps s₀) : Res.keeps (execMuBgCtlWrite r m v s) s₀ := h.regWrite

theorem State.keeps.execScuQPtrWrite {r u v} (h : s.keeps s₀) : Res.keeps (execScuQPtrWrite r u v s) s₀ := h.regWrite

theorem State.keeps.execNfFlagClear {r u v} (h : s.keeps s₀) : Res.keeps (execNfFlagClear r u v s) s₀ := h.regWrite

theorem State.keeps.execVcuFlagClear {r u v} (h : s.keeps s₀) : Res.keeps (execVcuFlagClear r u v s) s₀ := h.regWrite

theorem State.keeps.execCxDbTailWrite {f r v} (h : s.keeps s₀) : Res.keeps (execCxDbTailWrite f r v s) s₀ := h.regWrite

theorem State.keeps.execCxDbCplheadWrite {f r v} (h : s.keeps s₀) : Res.keeps (execCxDbCplheadWrite f r v s) s₀ := h.regWrite

theorem State.keeps.execCxRingSeqWrite {f r v} (h : s.keeps s₀) : Res.keeps (execCxRingSeqWrite f r v s) s₀ := h.regWrite

theorem State.keeps.execRingEnable {f r v} (h : s.keeps s₀) : Res.keeps (execRingEnable f r v s) s₀ := h.regWrite

theorem State.keeps.execRingDisable {f r v} (h : s.keeps s₀) : Res.keeps (execRingDisable f r v s) s₀ := h.regWrite

theorem State.keeps.execStalledClear {f r} (h : s.keeps s₀) : Res.keeps (execStalledClear f r s) s₀ := h.regWrite

theorem State.keeps.execOverrunClear {f r} (h : s.keeps s₀) : Res.keeps (execOverrunClear f r s) s₀ := h.regWrite

theorem State.keeps.execShadowDoorbell {f words} (h : s.keeps s₀) : Res.keeps (execShadowDoorbell f words s) s₀ := by
  unfold Machine.execShadowDoorbell
  extract_lets +onlyGivenNames k l t
  have ht : t.keeps s₀ := h.foldl fun _ _ hu => hu.emit
  refine ht.foldl fun u _ hu => ?_
  split
  · extract_lets +onlyGivenNames x3
    split
    · exact hu.setRing
    · exact hu

theorem State.keeps.execErrLogRdWrite {r v} (h : s.keeps s₀) : Res.keeps (execErrLogRdWrite r v s) s₀ := h.regWrite

theorem State.keeps.execHbmRcQuotaWrite {r n sec v} (h : s.keeps s₀) : Res.keeps (execHbmRcQuotaWrite r n sec v s) s₀ := h.regWrite

theorem State.keeps.execAudSeedWrite {r v} (h : s.keeps s₀) : Res.keeps (execAudSeedWrite r v s) s₀ := h.regWrite

theorem State.keeps.execErrInjectArm {r v} (h : s.keeps s₀) : Res.keeps (execErrInjectArm r v s) s₀ := h.regWrite

/-! ### Wraps of performance counters (R146, R532) -/

theorem State.keeps.takeSignal {c u o} (h : s.keeps s₀) : optKeeps (s.takeSignal c u o) s₀ := by
  unfold State.takeSignal
  extract_lets +onlyGivenNames g
  split
  · refine optKeeps_map fun a _ => ?_
    exact h.setVcu
  · split
    · refine optKeeps_map fun a _ => ?_
      exact h.setScu
    · split
      · extract_lets +onlyGivenNames k
        refine optKeeps_map fun a _ => ?_
        exact h.setSw
      · split
        · extract_lets +onlyGivenNames k
          refine optKeeps_map fun a _ => ?_
          exact h.setRt
        · trivial

theorem State.keeps.wrapCycles {c u o} (h : s.keeps s₀) : (s.wrapCycles c u o).keeps s₀ := by
  unfold State.wrapCycles
  extract_lets +onlyGivenNames g
  split
  · exact h.setMcu
  · split
    · exact h.setVcu
    · split
      · exact h.setScu
      · exact h.setSw

theorem State.keeps.wrapped {off} (h : s.keeps s₀) : optKeeps (s.wrapped off) s₀ := by
  unfold State.wrapped
  extract_lets +onlyGivenNames c u
  split
  · extract_lets +onlyGivenNames n
    refine optKeeps_map fun a _ => ?_
    exact h.setCtrl
  · split
    · exact h.wrapCycles
    · exact h.takeSignal

theorem State.keeps.execPerfCounterWrap {off} (h : s.keeps s₀) : Res.keeps (execPerfCounterWrap off s) s₀ := by
  unfold Machine.execPerfCounterWrap
  split
  · exact h
  · split
    · exact h
    next heq => exact (h.wrapped.of_eq heq).update

end Keeps

end Sys2Proof.Machine
end

section
/-!
PROOFS. What no command takes away: state scan, command rings.
-/

namespace Sys2Proof.Machine

section Keeps
variable {s : State} {s₀ : Before}

/-! ### Taking a cluster's state out (R319) -/

theorem State.keeps.dropRequests {c} (h : s.keeps s₀) : (s.dropRequests c).keeps s₀ := h

theorem State.keeps.putImage {i} (h : s.keeps s₀) : (s.putImage i).1.keeps s₀ := by
  unfold State.putImage
  split
  next heq =>
    extract_lets +onlyGivenNames i1
    split
    · exact h.draw_eq heq
    · extract_lets +onlyGivenNames a n _ t1 t2
      have ht1 : t1.keeps s₀ := (h.draw_eq heq).setHbm
      have ht2 : t2.keeps s₀ := ht1.hbmWrite
      exact ht2.update

theorem State.keeps.readTiles {c} (h : s.keeps s₀) : (s.readTiles c).keeps s₀ := h.foldl fun _ _ ht => ht.foldl fun _ _ hu => hu.readTile

/-! ### Putting it back (R320, R323, R355) -/

theorem State.keeps.movePages {img c} (h : s.keeps s₀) : (s.movePages img c).keeps s₀ := h

theorem State.keeps.putScan {c img} (h : s.keeps s₀) : (s.putScan c img).keeps s₀ := by
  unfold State.putScan
  extract_lets +onlyGivenNames key tu t t1 t2 t3 t4 t5 t6
  have ht : t.keeps s₀ := h.foldl fun _ _ hu => hu.setTu
  have ht1 : t1.keeps s₀ := ht.foldl fun _ _ hu => hu.setMu
  have ht2 : t2.keeps s₀ := ht1.foldl fun _ _ hu => hu.setMcu
  have ht3 : t3.keeps s₀ := ht2.foldl fun _ _ hu => hu.setVcu
  have ht4 : t4.keeps s₀ := ht3.foldl fun _ _ hu => hu.setScu
  have ht5 : t5.keeps s₀ := ht4.setSw
  have ht6 : t6.keeps s₀ := ht5.setRt
  exact ht6.movePages.setCl

theorem State.keeps.scanInto {c x img} (h : s.keeps s₀) : (s.scanInto c x img).keeps s₀ := by
  unfold State.scanInto
  split
  · exact h
  · extract_lets +onlyGivenNames rec_
    split
    · exact h.failCtx
    · split
      · exact h.putScan
      · split
        · exact h.loadCluster.putScan
        · exact h.putScan

/-! ### The operations of `CL_SCAN_CTL` (R322, R327) -/

theorem State.keeps.setStopped {c b} (h : s.keeps s₀) : (s.setStopped c b).keeps s₀ := h.foldl fun _ _ ht => ht.setTu

theorem State.keeps.scanCtl {c v} (h : s.keeps s₀) : (s.scanCtl c v).keeps s₀ := h

theorem State.keeps.execScanFreeze {r c v} (h : s.keeps s₀) : Res.keeps (execScanFreeze r c v s) s₀ := by
  unfold Machine.execScanFreeze
  split
  · exact h
  · extract_lets +onlyGivenNames t k
    have ht : t.keeps s₀ := h.scanCtl
    split
    · exact ht.setCl
    · split
      · exact ht
      · exact ht.setCl

theorem State.keeps.execSafePointStop {u} (h : s.keeps s₀) : Res.keeps (execSafePointStop u s) s₀ := by
  unfold Machine.execSafePointStop
  split <;> exact h

theorem State.keeps.execScanOut {r c v} (h : s.keeps s₀) : Res.keeps (execScanOut r c v s) s₀ := by
  unfold Machine.execScanOut
  split
  · exact h
  · extract_lets +onlyGivenNames t
    have ht : t.keeps s₀ := h.scanCtl
    split
    · exact ht
    · extract_lets +onlyGivenNames k t1
      have ht1 : t1.keeps s₀ := ht.readTiles
      split
      next heq => exact (keeps_of_fst ht1.putImage heq).setCl

theorem State.keeps.scanAt {c buf} (h : s.keeps s₀) : (s.scanAt c buf).1.keeps s₀ := by
  unfold State.scanAt
  split
  · exact h
  · exact h.foldl fun _ _ ht => ht.readLine

theorem State.keeps.execScanIn {r c v ctx} (h : s.keeps s₀) : Res.keeps (execScanIn r c v ctx s) s₀ := by
  unfold Machine.execScanIn
  split
  · exact h
  · extract_lets +onlyGivenNames t k
    have ht : t.keeps s₀ := h.scanCtl
    split
    · exact ht
    · extract_lets +onlyGivenNames t1 fits
      have ht1 : t1.keeps s₀ := ht.setCl
      split
      next heq => exact (keeps_of_fst ht1.scanAt heq).failCtx
      next heq =>
        split
        · exact (keeps_of_fst ht1.scanAt heq).dropRequests.scanInto.admitOther
        · exact (keeps_of_fst ht1.scanAt heq).setCl.failCtx

theorem State.keeps.release {c} (h : s.keeps s₀) : (s.release c).keeps s₀ := h.setStopped.setCl.performHeld

theorem State.keeps.execScanRelease {r c v} (h : s.keeps s₀) : Res.keeps (execScanRelease r c v s) s₀ := by
  unfold Machine.execScanRelease
  split
  · exact h
  · extract_lets +onlyGivenNames t
    have ht : t.keeps s₀ := h.scanCtl
    split
    · exact ht
    · extract_lets +onlyGivenNames t1
      have ht1 : t1.keeps s₀ := by
        unfold t1
        split
        · exact ht
        · exact ht.release
      exact ht1.setCl

theorem State.keeps.sendTransit {c} (h : s.keeps s₀) : (s.sendTransit c).keeps s₀ := h.foldl fun _ _ ht => ht.sendPartial

theorem State.keeps.execScanOpDone {c} (h : s.keeps s₀) : Res.keeps (execScanOpDone c s) s₀ := by
  unfold Machine.execScanOpDone
  extract_lets +onlyGivenNames k
  split
  · split
    · exact h.landAll.sendTransit.setCl
    · exact h
  · split
    · exact h
    · exact h.setCl
  · exact h

/-! ### Fetching (R385, R386, R388) -/

theorem State.keeps.execCommandFetch {f r entry} (h : s.keeps s₀) : Res.keeps (execCommandFetch f r entry s) s₀ := by
  unfold Machine.execCommandFetch
  extract_lets +onlyGivenNames x c c1
  split
  · exact h
  · extract_lets +onlyGivenNames t
    have ht : t.keeps s₀ := h.emit
    split
    · exact ht.setRing.signal
    · exact ht.setRing

/-! ### The command at the front (R390) -/

theorem State.keeps.setFront {f r g} (h : s.keeps s₀) : (s.setFront f r g).keeps s₀ := by
  unfold State.setFront
  extract_lets +onlyGivenNames x
  split
  · exact h
  · exact h.setRing

theorem State.keeps.finish {f r status value} (h : s.keeps s₀) : (s.finish f r status value).keeps s₀ := h.setFront

/-! ### Completions (R399, R400, R401) -/

theorem State.keeps.coalesce {f r irq} (h : s.keeps s₀) : (s.coalesce f r irq).keeps s₀ := by
  unfold State.coalesce
  extract_lets +onlyGivenNames x
  split
  · exact h
  · extract_lets +onlyGivenNames n
    split
    · exact h.setRing.signal
    · exact h.setRing

theorem State.keeps.writeCompletion {f r} (h : s.keeps s₀) : (s.writeCompletion f r).keeps s₀ := by
  unfold State.writeCompletion
  extract_lets +onlyGivenNames x
  split
  · exact h.setRing.emit.emit.coalesce
  · exact h

theorem State.keeps.execCompletionWrite {f r} (h : s.keeps s₀) : Res.keeps (execCompletionWrite f r s) s₀ := by
  unfold Machine.execCompletionWrite
  split
  · extract_lets +onlyGivenNames noted
    split
    · exact h
    · exact h.writeCompletion
  · exact h

theorem State.keeps.execCoalescingTimer {f r} (h : s.keeps s₀) : Res.keeps (execCoalescingTimer f r s) s₀ := by
  unfold Machine.execCoalescingTimer
  extract_lets +onlyGivenNames x
  split
  · exact h
  · split
    · exact h
    · exact h.advanceTo.setRing.signal

theorem State.keeps.execCompletionHoldTimeout {f r} (h : s.keeps s₀) : Res.keeps (execCompletionHoldTimeout f r s) s₀ := by
  unfold Machine.execCompletionHoldTimeout
  split
  · split
    · exact h
    · exact h.advanceTo.setRing.writeCompletion
  · exact h

/-! ### FENCE and QUERY (R398) -/

theorem State.keeps.execFenceCommand {f r} (h : s.keeps s₀) : Res.keeps (execFenceCommand f r s) s₀ := by
  unfold Machine.execFenceCommand
  extract_lets +onlyGivenNames k
  split
  · exact h
  · split
    · exact h.finish
    · exact h

theorem State.keeps.query {f r what v} (h : s.keeps s₀) : (s.query f r what v).keeps s₀ := by
  unfold State.query
  split
  · exact h
  · split
    · exact h
    · split <;> exact h.finish

theorem State.keeps.execQueryDeviceTime {f r} (h : s.keeps s₀) : Res.keeps (execQueryDeviceTime f r s) s₀ := h.query

theorem State.keeps.execQueryBeacon {f r} (h : s.keeps s₀) : Res.keeps (execQueryBeacon f r s) s₀ := h.query

theorem State.keeps.execQueryEngineTime {f r} (h : s.keeps s₀) : Res.keeps (execQueryEngineTime f r s) s₀ := h.query

theorem State.keeps.execQueryContextState {f r} (h : s.keeps s₀) : Res.keeps (execQueryContextState f r s) s₀ := h.query

theorem State.keeps.execQueryMailboxRecords {f r} (h : s.keeps s₀) : Res.keeps (execQueryMailboxRecords f r s) s₀ := h.query

end Keeps

end Sys2Proof.Machine
end

section
/-!
PROOFS. What no command takes away: contexts and steps.
-/

namespace Sys2Proof.Machine

section Keeps
variable {s : State} {s₀ : Before}

/-! ### Time (R422, R424) -/

theorem State.keeps.boundV {n} (h : s.keeps s₀) : (s.boundV n).keeps s₀ := by
  unfold State.boundV
  split
  · exact h
  next heq =>
    split
    · exact h
    · split
      · split
        · exact h.setCtx
        · exact h
      · exact h

theorem State.keeps.chargeCtx {n} (h : s.keeps s₀) : (s.chargeCtx n).keeps s₀ := by
  unfold State.chargeCtx
  split
  · exact h
  next heq =>
    split
    · exact h
    · extract_lets +onlyGivenNames e
      exact State.keeps.boundV (h.setCtx)

theorem State.keeps.becomeWaiting {n} (h : s.keeps s₀) : (s.becomeWaiting n).keeps s₀ := by
  unfold State.becomeWaiting
  split
  · exact h
  next heq =>
    split
    · extract_lets +onlyGivenNames v
      exact State.keeps.boundV (h.setCtx)
    · extract_lets +onlyGivenNames v
      exact State.keeps.boundV (h.setCtx)
    · exact h

/-! ### Taking a context off clusters and putting it on (R428) -/

theorem State.keeps.zeroizeCluster {c} (h : s.keeps s₀) : (s.zeroizeCluster c).keeps s₀ :=
  (h.foldl fun _ _ ht => ht.setMu).foldl fun _ _ ht => ht.setMcu

theorem State.keeps.closeMu {g} (h : s.keeps s₀) : (s.closeMu g).keeps s₀ := by
  unfold State.closeMu
  extract_lets +onlyGivenNames l t m
  have ht : t.keeps s₀ := h.foldl fun _ _ hu => State.keeps.performAccepted (hu.setMu)
  exact ht.setMu

theorem State.keeps.closeWindows {c} (h : s.keeps s₀) : (s.closeWindows c).keeps s₀ := h.foldl fun _ _ ht => ht.closeMu

theorem State.keeps.wipeCluster {c} (h : s.keeps s₀) : (s.wipeCluster c).keeps s₀ :=
  (h.dropRequests.dropRootsAt.clearLocal.zeroizeCluster.loadCluster.foldl fun _ _ ht => ht.setScu).setCl.setStopped

theorem State.keeps.readScratch {g} (h : s.keeps s₀) : (s.readScratch g).keeps s₀ := h.readWords

theorem State.keeps.saveScan {c} (h : s.keeps s₀) : (s.saveScan c).keeps s₀ := by
  unfold State.saveScan
  extract_lets t t1 img t2
  have ht2 : t2.keeps s₀ := h.landAll.sendTransit.readTiles.closeWindows
  split
  · exact ht2
  next y k heq =>
    split
    · exact ht2
    · exact ht2.setCtx

theorem State.keeps.switchOut {c} (h : s.keeps s₀) : (s.switchOut c).keeps s₀ := by
  unfold State.switchOut
  extract_lets +onlyGivenNames t
  have ht : t.keeps s₀ := h.saveScan
  split
  · exact ht
  next y k heq =>
    split
    · exact ht.dropRequests
    · extract_lets t1
      have ht1 : t1.keeps s₀ := ht.foldl fun _ _ ht => ht.readScratch
      split
      next k' heq1 => exact State.keeps.dropRequests (ht1.setCtx)
      next => exact ht1

theorem State.keeps.saveSpill {n cs} (h : s.keeps s₀) : (s.saveSpill n cs).keeps s₀ := by
  unfold State.saveSpill
  split <;> exact h

theorem State.keeps.restoreScratch {c t} (h : s.keeps s₀) : (s.restoreScratch c t).keeps s₀ := by
  unfold State.restoreScratch
  refine h.foldl fun u _ hu => ?_
  split
  · exact hu.setMu
  · exact hu

theorem State.keeps.switchIn {c n epoch} (h : s.keeps s₀) : (s.switchIn c n epoch).keeps s₀ := by
  unfold State.switchIn
  split
  · exact h
  · extract_lets +onlyGivenNames t t1 t2 _ t3
    have ht : t.keeps s₀ := by
      unfold t
      split
      · exact h.stage
      · exact h
    have ht1 : t1.keeps s₀ := by
      unfold t1
      split
      · exact ht.scanInto
      · split
        · exact ht
        · exact ht.loadCluster
      · exact ht
    have ht2 : t2.keeps s₀ := by
      unfold t2
      split
      · exact ht1.restoreScratch
      · exact ht1
    have ht3 : t3.keeps s₀ := ht2.setCl
    exact ht3.setStopped.admitOther

theorem State.keeps.chargeSwitch {t n} (h : s.keeps s₀) : (s.chargeSwitch t n).keeps s₀ := by
  unfold State.chargeSwitch
  split
  next heq => exact State.keeps.boundV (h.setCtx)
  next => exact h

theorem State.keeps.switchOutAll {cs n t} (h : s.keeps s₀) : (s.switchOutAll cs n t).keeps s₀ := by
  unfold State.switchOutAll
  extract_lets +onlyGivenNames ys t1
  have ht1 : t1.keeps s₀ := (h.foldl fun _ _ hu => hu.switchOut).foldl fun _ _ hu => hu.saveSpill
  split
  · exact ht1
  · exact ht1.advance.foldl fun _ _ hu => hu.chargeSwitch

theorem State.keeps.switchInAll {cs n t} (h : s.keeps s₀) : (s.switchInAll cs n t).keeps s₀ := by
  unfold State.switchInAll
  split
  · exact h
  · extract_lets epoch t1 t2
    have ht2 : t2.keeps s₀ := (h.foldl fun _ _ ht => ht.wipeCluster).foldl fun _ _ ht => ht.switchIn
    split
    · exact ht2
    next k heq =>
      extract_lets back t3 t4
      have ht3 : t3.keeps s₀ := ht2.setCtx
      have ht4 : t4.keeps s₀ := ht3.foldl fun _ _ ht => ht.putRecord
      split
      · exact ht4
      · exact ht4.advance.chargeSwitch

theorem State.keeps.execFootprintSwitch {x} (h : s.keeps s₀) : Res.keeps (execFootprintSwitch x s) s₀ := by
  unfold Machine.execFootprintSwitch
  extract_lets +onlyGivenNames n
  split
  · exact h
  · extract_lets +onlyGivenNames cs
    split
    · exact h
    · exact h.draw.switchOutAll.switchInAll

/-! ### The end of a step (R421, R422, R475, R476) -/

theorem State.keeps.finishFor {f r n status value held} (h : s.keeps s₀) : (s.finishFor f r n status value held).keeps s₀ := by
  unfold State.finishFor
  extract_lets +onlyGivenNames x
  split
  · split
    · exact h.setFront
    · exact h
  · exact h

theorem State.keeps.dropTlb {n} (h : s.keeps s₀) : (s.dropTlb n).keeps s₀ := h

theorem State.keeps.takeBind {n} (h : s.keeps s₀) : (s.takeBind n).keeps s₀ := by
  unfold State.takeBind
  split <;> exact h

theorem State.keeps.endStep {n status} (h : s.keeps s₀) : (s.endStep n status).keeps s₀ := by
  unfold State.endStep
  extract_lets +onlyGivenNames t
  have ht : t.keeps s₀ := h.chargeCtx.takeBind
  split
  · exact ht
  next heq =>
    split
    · exact ht
    · extract_lets +onlyGivenNames load status1 held t1
      have ht1 : t1.keeps s₀ := ht.finishFor
      exact ht1.setCtx

theorem State.keeps.abandonStep {n} (h : s.keeps s₀) : (s.abandonStep n).keeps s₀ := by
  unfold State.abandonStep
  split
  · exact h
  · extract_lets +onlyGivenNames all mine t t1 t2 t3
    have ht : t.keeps s₀ := by
      refine h.foldl fun u _ hu => ?_
      split
      · exact hu.dropRequests
      · exact hu
    have ht1 : t1.keeps s₀ := ht.update
    have ht2 : t2.keeps s₀ := ht1.reconfigure.voidMessages
    have ht3 : t3.keeps s₀ := by
      unfold t3
      split
      · exact ht2
      · exact ht2.bindGroups
    split
    · exact State.keeps.endStep (ht3.setCtx)
    · exact ht3

theorem State.keeps.doubtStep {n} (h : s.keeps s₀) : (s.doubtStep n).keeps s₀ := by
  unfold State.doubtStep
  split
  · exact h
  next heq =>
    split
    · exact h.setCtx
    · exact h.abandonStep

theorem State.keeps.execStepEnd {x} (h : s.keeps s₀) : Res.keeps (execStepEnd x s) s₀ := by
  unfold Machine.execStepEnd
  split
  · exact h
  · split
    · exact h
    · split
      · split
        · exact h
        · exact h.abandonStep
      · split
        · exact h
        · split
          · exact h
          · exact h.endStep

theorem State.keeps.execStepLimitTimeout {x} (h : s.keeps s₀) : Res.keeps (execStepLimitTimeout x s) s₀ := by
  unfold Machine.execStepLimitTimeout
  split
  · exact h
  · split
    · exact h
    · exact h.advanceTo.chargeCtx.failCtx

/-! ### The dispatcher (R425 to R427) -/

theorem State.keeps.freeze {c} (h : s.keeps s₀) : (s.freeze c).keeps s₀ := h.landAll.sendTransit.setStopped.setCl

theorem State.keeps.preempt {n} (h : s.keeps s₀) : (s.preempt n).keeps s₀ := by
  unfold State.preempt
  extract_lets +onlyGivenNames t
  have ht : t.keeps s₀ := h.chargeCtx
  split
  · exact ht
  next heq =>
    extract_lets +onlyGivenNames t1
    have ht1 : t1.keeps s₀ := ht.setCtx
    refine ht1.foldl fun u _ hu => ?_
    split
    · exact hu.freeze
    · exact hu

theorem State.keeps.preemptAll {sec} (h : s.keeps s₀) : (s.preemptAll sec).keeps s₀ := by
  unfold State.preemptAll
  refine h.foldl fun t _ ht => ?_
  split
  · split
    · exact ht.preempt
    · exact ht
  · exact ht

theorem State.keeps.consider {n res} (h : s.keeps s₀) : (s.consider n res).1.keeps s₀ := by
  unfold State.consider
  split
  · exact h
  next x g heq =>
    extract_lets cs busy away
    obtain ⟨y, hy, hxg⟩ := Option.bind_eq_some_iff.1 heq
    obtain ⟨_, -, hyx⟩ := Option.map_eq_some_iff.1 hxg
    cases hyx
    split
    · exact h.failCtx
    · split
      · exact h
      · split
        · exact h
        · exact h.setCtx

theorem State.keeps.pass {sec} (h : s.keeps s₀) : (s.pass sec).keeps s₀ := h.foldl_fst fun _ _ hq => hq.consider

theorem State.keeps.execDispatchPass {sec} (h : s.keeps s₀) : Res.keeps (execDispatchPass sec s) s₀ := by
  unfold Machine.execDispatchPass
  split
  · exact h
  · split
    · exact h
    · extract_lets +onlyGivenNames t
      have ht : t.keeps s₀ := h.preemptAll
      split
      · exact ht
      · exact ht.pass

theorem State.keeps.execDispatchTick {sec} (h : s.keeps s₀) : Res.keeps (execDispatchTick sec s) s₀ := by
  unfold Machine.execDispatchTick
  split
  · exact h
  · split
    · exact h
    · exact (h.foldl fun _ _ ht => ht.chargeCtx).preemptAll

/-! ### The start of a step (R419, R420) -/

theorem State.keeps.noteStep {c n seq} (h : s.keeps s₀) : (s.noteStep c n seq).keeps s₀ := by
  unfold State.noteStep
  extract_lets +onlyGivenNames l l1 _ t
  have ht : t.keeps s₀ := h.update
  refine ht.foldl fun u _ hu => ?_
  split
  · exact hu
  · split
    · exact hu.setMcu
    · exact hu.setVcu

theorem State.keeps.deliverPayload {n c} (h : s.keeps s₀) : (s.deliverPayload n c).keeps s₀ := by
  unfold State.deliverPayload
  extract_lets +onlyGivenNames q unit bytes m
  split
  · exact h
  · split
    · trivial
    · split
      · exact h.failCtx
      · extract_lets +onlyGivenNames l mu
        split
        · exact h.setMu
        · split
          next heq => exact keeps_of_fst h.offer heq
          · trivial
          next heq => exact keeps_of_fst h.offer heq
          next heq => exact keeps_of_fst h.offer heq

theorem State.keeps.releaseScus {c} (h : s.keeps s₀) : (s.releaseScus c).keeps s₀ := by
  unfold State.releaseScus
  refine h.foldl fun t _ ht => ?_
  extract_lets +onlyGivenNames x
  split
  · exact ht.setScu
  · exact ht

theorem State.keeps.takeUp {n} (h : s.keeps s₀) : (s.takeUp n).keeps s₀ := by
  unfold State.takeUp
  split
  · exact h
  next x heq =>
    extract_lets +onlyGivenNames cs t back t1
    have ht : t.keeps s₀ := by
      refine h.foldl fun u c hu => ?_
      split
      · exact hu.foldl fun _ _ hv => hv.setMu
      · exact hu
    have ht1 : t1.keeps s₀ := ht.setCtx
    exact ht1.foldl fun _ _ hu => hu.putRecord

theorem State.keeps.run {n fresh seq} (h : s.keeps s₀) : (s.run n fresh seq).keeps s₀ := by
  unfold State.run
  extract_lets +onlyGivenNames t
  have ht : t.keeps s₀ := h.takeUp
  split
  · exact ht
  next heq =>
    extract_lets +onlyGivenNames t1 t2 t3
    have ht1 : t1.keeps s₀ := ht.setCtx
    have ht2 : t2.keeps s₀ := ht1.foldl fun _ _ hu => hu.noteStep
    have ht3 : t3.keeps s₀ := ht2.foldl fun _ _ hu => hu.release
    split
    · exact ht3.foldl fun _ _ hu => hu.releaseScus
    · exact ht3

theorem State.keeps.stageAll {place imgs} (h : s.keeps s₀) : (s.stageAll place imgs).keeps s₀ := by
  unfold State.stageAll
  refine h.foldl fun t _ ht => ?_
  split
  · split
    · exact ht.stage
    · exact ht

theorem State.keeps.loadStep {n l} (h : s.keeps s₀) : (s.loadStep n l).keeps s₀ := by
  unfold State.loadStep
  split
  · exact h
  · extract_lets +onlyGivenNames cs imgs t t1
    have ht : t.keeps s₀ := h.stageAll
    have ht1 : t1.keeps s₀ := by
      refine ht.foldl fun u _ hu => ?_
      split
      · exact hu.release
      · exact hu
    split
    next heq1 =>
      split
      · exact keeps_of_fst ht1.reconfigure heq1
      · split
        · exact keeps_of_fst ht1.reconfigure heq1
        · split
          · exact (keeps_of_fst ht1.reconfigure heq1).endStep
          · extract_lets +onlyGivenNames old t3 save t4
            have ht3 : t3.keeps s₀ := (keeps_of_fst ht1.reconfigure heq1).foldl fun _ _ hu => hu.closeWindows.wipeCluster
            have ht4 : t4.keeps s₀ := ht3.setCtx
            exact ht4.stageAll.endStep

theorem State.keeps.execStepStart {x} (h : s.keeps s₀) : Res.keeps (execStepStart x s) s₀ := by
  unfold Machine.execStepStart
  extract_lets +onlyGivenNames n
  split
  · exact h
  · split
    · exact h
    · split
      · split
        · exact h
        · exact h.loadStep
      · split
        · exact h
        · split
          · exact h.run
          · split
            · exact h
            · split
              · exact h
              · split
                next heq3 => exact (show State.keeps _ s₀ from h.deliverPayload.of_eq heq3).run
                · exact h.endStep
                next heq3 => exact show State.keeps _ s₀ from h.deliverPayload.of_eq heq3
                next heq3 => exact show State.keeps _ s₀ from h.deliverPayload.of_eq heq3

/-! ### Teardown (R433) -/

theorem State.keeps.dropGrants {n} (h : s.keeps s₀) : (s.dropGrants n).keeps s₀ := by
  unfold State.dropGrants
  extract_lets +onlyGivenNames gone _ t
  have ht : t.keeps s₀ := h.update
  split
  · exact ht
  · exact ht.update

theorem State.keeps.failCommands {n x} (h : s.keeps s₀) : (s.failCommands n x).keeps s₀ := by
  unfold State.failCommands
  extract_lets +onlyGivenNames f first
  refine h.foldl fun t _ ht => ?_
  extract_lets +onlyGivenNames q
  split
  · split
    · exact ht
    · split <;> exact ht.finish
  · exact ht

theorem State.keeps.dropContext {n} (h : s.keeps s₀) : (s.dropContext n).keeps s₀ := by
  unfold State.dropContext
  split
  · exact h
  · extract_lets +onlyGivenNames mine t t1 t2 t3 f t4 t5
    have ht : t.keeps s₀ := (h.foldl fun _ _ hu => hu.closeWindows.wipeCluster).voidMessages
    have ht1 : t1.keeps s₀ := by
      refine ht.foldl fun u _ hu => ?_
      split
      · exact hu.release
      · exact hu
    have ht2 : t2.keeps s₀ := ht1.foldl fun _ _ hu => hu.freeGroup
    have ht3 : t3.keeps s₀ := ht2.update
    have ht4 : t4.keeps s₀ := ht3.setSf
    have ht5 : t5.keeps s₀ := ht4.dropGrants
    split
    · exact ht5
    · exact ht5.setCtx

theorem State.keeps.teardown {n} (h : s.keeps s₀) : (s.teardown n).keeps s₀ := by
  unfold State.teardown
  split
  · exact h
  next x heq =>
    extract_lets ran x' t t1
    have ht1 : t1.keeps s₀ := h.setCtx.failCommands.dropContext.takeBind
    split
    · exact ht1
    next y heq1 => exact ht1.setCtx

theorem State.keeps.execContextTeardown {x} (h : s.keeps s₀) : Res.keeps (execContextTeardown x s) s₀ := by
  unfold Machine.execContextTeardown
  split
  · exact h
  · split
    · exact h
    · exact h.teardown

end Keeps

end Sys2Proof.Machine
end

section
/-!
PROOFS. What no command takes away: the device log, samples and verdicts, the controllers.
-/

namespace Sys2Proof.Machine

section Keeps
variable {s : State} {s₀ : Before}

/-! ### The device log (R440, R458 to R460) -/

theorem State.keeps.toMailbox {f r} (h : s.keeps s₀) : (s.toMailbox f r).keeps s₀ := by
  unfold State.toMailbox
  extract_lets +onlyGivenNames x m
  split
  · exact h
  · split
    · exact h.setFn
    · exact h.emit.setFn.signal

theorem State.keeps.writeLog {r} (h : s.keeps s₀) : (s.writeLog r).keeps s₀ := by
  unfold State.writeLog
  extract_lets +onlyGivenNames e r1 full e1 t
  have ht : t.keeps s₀ := State.keeps.hbmWrite (h.update)
  exact ht.foldl fun _ _ hu => hu.toMailbox

theorem State.keeps.flushLog (h : s.keeps s₀) : s.flushLog.keeps s₀ := h.modErr.foldl fun _ _ ht => ht.writeLog

theorem State.keeps.execLogRecordWrite (h : s.keeps s₀) : Res.keeps (execLogRecordWrite s) s₀ := by
  unfold Machine.execLogRecordWrite
  split
  · exact h
  · split
    · exact h
    · exact h.modErr.writeLog

theorem State.keeps.execCorrectedErrorSummary {unit cls cause} (h : s.keeps s₀) : Res.keeps (execCorrectedErrorSummary unit cls cause s) s₀ := by
  unfold Machine.execCorrectedErrorSummary
  split
  · exact h
  · exact h.advanceTo.endCorrRun

/-! ### Watch (R468) -/

theorem State.keeps.execUnitWatch {unit} (h : s.keeps s₀) : Res.keeps (execUnitWatch unit s) s₀ := by
  unfold Machine.execUnitWatch
  split
  · exact h
  · extract_lets +onlyGivenNames _ a p t
    have ht : t.keeps s₀ := h.update
    split
    · split
      · exact ht.queueSwap
      · exact ht
    · exact ht

/-! ### Samples (R473, R474) -/

theorem State.keeps.cleanAudit {x} (h : s.keeps s₀) : (s.cleanAudit x).keeps s₀ := by
  unfold State.cleanAudit
  extract_lets +onlyGivenNames _ a
  split <;> exact h.update

theorem State.keeps.holdSteps {c} (h : s.keeps s₀) : (s.holdSteps c).keeps s₀ := h

theorem State.keeps.releaseSteps {c bad} (h : s.keeps s₀) : (s.releaseSteps c bad).keeps s₀ := h

theorem State.keeps.suspectSteps {c} (h : s.keeps s₀) : (s.suspectSteps c).keeps s₀ := h

theorem State.keeps.execAuditSampleRun {n agree} (h : s.keeps s₀) : Res.keeps (execAuditSampleRun n agree s) s₀ := by
  unfold Machine.execAuditSampleRun
  split
  · exact h
  · extract_lets +onlyGivenNames before
    split
    · exact h
    · split
      · exact State.keeps.cleanAudit (h.update)
      · extract_lets +onlyGivenNames c
        split
        next heq1 =>
          extract_lets +onlyGivenNames y a t1
          have ht1 : t1.keeps s₀ := (keeps_of_fst h.nextPartner heq1).update
          exact ht1.holdSteps

/-! ### Exposure windows (R476, R478) -/

theorem State.keeps.exposureReport {g} (h : s.keeps s₀) : (s.exposureReport g).keeps s₀ := by
  unfold State.exposureReport
  extract_lets +onlyGivenNames c l t _ t1
  have ht : t.keeps s₀ := by
    refine h.foldl fun u _ hu => ?_
    split
    · extract_lets +onlyGivenNames t2
      have ht2 : t2.keeps s₀ := hu.record
      split
      next heq =>
        split
        · exact ht2.setCtx
        · exact ht2
      · exact ht2
  have ht1 : t1.keeps s₀ := ht.update
  exact ht1.releaseSteps

theorem State.keeps.verdictRec {x} (h : s.keeps s₀) : (s.verdictRec x).keeps s₀ := h

theorem State.keeps.unitFaulty {x} (h : s.keeps s₀) : (s.unitFaulty x).keeps s₀ := by
  unfold State.unitFaulty
  extract_lets +onlyGivenNames c t _ t1
  have ht : t.keeps s₀ := h.verdictRec.queueSwap.suspectSteps
  have ht1 : t1.keeps s₀ := ht.update
  refine ht1.foldl fun u _ hu => ?_
  split
  next heq =>
    split
    · exact hu.setCtx
    · exact hu
  · exact hu

theorem State.keeps.partnerFaulty {x} (h : s.keeps s₀) : (s.partnerFaulty x).keeps s₀ := by
  unfold State.partnerFaulty
  extract_lets +onlyGivenNames p
  split
  · exact h.recordUnit.queueSwap
  · exact State.keeps.record (h.update)

theorem State.keeps.endSample {n c} (h : s.keeps s₀) : (s.endSample n c).keeps s₀ := h

theorem State.keeps.execAuditVerdict {n v} (h : s.keeps s₀) : Res.keeps (execAuditVerdict n v s) s₀ := by
  unfold Machine.execAuditVerdict
  split
  · exact h
  · extract_lets +onlyGivenNames c
    split
    · exact h
    · extract_lets +onlyGivenNames t
      have ht : t.keeps s₀ := h.endSample
      split
      · exact State.keeps.unitFaulty (ht.update)
      · exact State.keeps.releaseSteps (State.keeps.partnerFaulty (ht.update))
      · exact State.keeps.unitFaulty (State.keeps.partnerFaulty (ht.update))

theorem State.keeps.execAuditSecondPartnerTimeout {n} (h : s.keeps s₀) : Res.keeps (execAuditSecondPartnerTimeout n s) s₀ := by
  unfold Machine.execAuditSecondPartnerTimeout
  split
  · exact h
  · split
    · exact h
    · extract_lets +onlyGivenNames t
      have ht : t.keeps s₀ := h.advanceTo.endSample
      exact State.keeps.unitFaulty (ht.update)

/-! ### Queues -/

theorem State.keeps.popHead {n} (h : s.keeps s₀) : (s.popHead n).keeps s₀ := h

/-! ### The repeat cache (R344 to R347) -/

theorem State.keeps.rcRead {w n sec line} (h : s.keeps s₀) : (s.rcRead w n sec line).keeps s₀ := by
  unfold State.rcRead
  extract_lets +onlyGivenNames c
  split
  · exact h.setCtrl
  · exact (h.foldl fun _ _ ht => ht.readLine).setCtrl

theorem State.keeps.serveRead {n h'} (h : s.keeps s₀) : (s.serveRead n h').1.keeps s₀ := by
  unfold State.serveRead
  extract_lets +onlyGivenNames sec
  split
  · extract_lets +onlyGivenNames t
    have ht : t.keeps s₀ := by
      refine h.foldl fun u _ hu => ?_
      split
      · exact hu
      · exact hu.rcRead
    exact ht
  · split
    · exact h
    · exact h.hbmRead

/-! ### Requests of hosts (R343, R404, R405) -/

theorem State.keeps.track {p l} (h : s.keeps s₀) : (s.track p l).keeps s₀ := by
  unfold State.track
  extract_lets +onlyGivenNames t v
  have ht : t.keeps s₀ := h.update
  split
  · exact ht
  · split
    · exact ht.setPort
    · exact ht.setPort.sendSnoops

theorem State.keeps.hostRead {p off a} (h : s.keeps s₀) : (s.hostRead p off a).keeps s₀ := (h.foldl fun _ _ ht => ht.readLine).track.emit

theorem State.keeps.hostWrite {a data keep poison} (h : s.keeps s₀) : (s.hostWrite a data keep poison).keeps s₀ := h.hbmWriteKeep

theorem State.keeps.holdHost {h'} (h : s.keeps s₀) : (s.holdHost h').keeps s₀ := h

theorem State.keeps.performHost {p h'} (h : s.keeps s₀) : (s.performHost p h').keeps s₀ := by
  unfold State.performHost
  split
  · exact h.hostWrite
  · exact h.hostRead

theorem State.keeps.execHbmRead {n} (h : s.keeps s₀) : Res.keeps (execHbmRead n s) s₀ := by
  unfold Machine.execHbmRead
  split
  · exact h
  · split
    · exact h
    · split
      · exact h
      · split
        · exact h.popHead.performHost
        · split
          next heq1 => exact keeps_of_fst h.mayAccess heq1
          next heq1 =>
            split
            next heq2 => exact (keeps_of_fst (keeps_of_fst h.mayAccess heq1).popHead.serveRead heq2).answerReq

theorem State.keeps.execHbmWrite {n} (h : s.keeps s₀) : Res.keeps (execHbmWrite n s) s₀ := by
  unfold Machine.execHbmWrite
  split
  · exact h
  · split
    · exact h
    · split
      · exact h
      · split
        · exact h.popHead.performHost
        · split
          next heq1 => exact keeps_of_fst h.mayAccess heq1
          next heq1 => exact (keeps_of_fst h.mayAccess heq1).popHead.hbmWriteKeep.answerReq

/-! ### Scrubbing (R340) -/

theorem State.keeps.execHbmScrubRead {n} (h : s.keeps s₀) : Res.keeps (execHbmScrubRead n s) s₀ := by
  unfold Machine.execHbmScrubRead
  extract_lets +onlyGivenNames c
  split
  · exact h
  · extract_lets +onlyGivenNames l
    split
    · exact h
    · exact h.readLine.setCtrl

end Keeps

end Sys2Proof.Machine
end

section
/-!
PROOFS. What no command takes away: the commands of the rings.
-/

namespace Sys2Proof.Machine

section Keeps
variable {s : State} {s₀ : Before}

/-! ### Residency (R430) -/

theorem State.keeps.evict {v} (h : s.keeps s₀) : (s.evict v).keeps s₀ := by
  unfold State.evict
  split
  · exact h
  next heq =>
    extract_lets +onlyGivenNames t cs
    have ht : t.keeps s₀ := h.setCtx
    exact (ht.foldl fun _ _ hu => hu.freeze.saveScan).saveSpill

theorem State.keeps.takeIn {n x} (h : s.keeps s₀) : optKeeps (s.takeIn n x) s₀ := by
  unfold State.takeIn
  split
  · exact h
  · split
    · trivial
    · refine optKeeps_map fun a _ => ?_
      split
      · exact h
      · exact h.evict

/-! ### STEP (R394, R420) -/

theorem State.keeps.addStep {n p} (h : s.keeps s₀) : (s.addStep n p).keeps s₀ := by
  unfold State.addStep
  split
  next heq => exact State.keeps.becomeWaiting (h.setCtx)
  · exact h

theorem State.keeps.execStepCmd {f r} (h : s.keeps s₀) : Res.keeps (execStepCmd f r s) s₀ := by
  unfold Machine.execStepCmd
  extract_lets +onlyGivenNames k
  split
  · exact h
  · split
    · exact h
    · split
      · exact h.finish
      · split
        · exact h.finish
        · split
          · exact h.finish
          · split
            · exact h.finish
            · split
              · exact h
              next heq2 => exact (h.takeIn.of_eq heq2).setFront.addStep

/-! ### The program loader (R303, R395, R432, R489) -/

theorem State.keeps.vaRead {w x va n} (h : s.keeps s₀) : (s.vaRead w x va n).1.keeps s₀ := by
  induction n generalizing s va with
  | zero => exact h
  | succ n ih =>
    unfold State.vaRead
    extract_lets t
    have ht : t.keeps s₀ := h.readTables
    split
    next a _ _ =>
      have hr := ht.hbmRead (w := w) (addr := a) (n := 64 - a % 64)
      split
      next heq =>
        have hc := ih (va := va + 64) (keeps_of_fst hr heq)
        split
        next heq => exact keeps_of_fst hc heq
        next => exact hc
    · exact ht
    · exact ht

theorem State.keeps.vaBytes {w x va n} (h : s.keeps s₀) : (s.vaBytes w x va n).1.keeps s₀ := by
  unfold State.vaBytes
  have hr := h.vaRead (w := w) (x := x) (va := va / 64 * 64) (n := ceilDiv (va % 64 + n) 64)
  split
  next heq => exact keeps_of_fst hr heq
  next => exact hr

theorem State.keeps.readImage {w x c va place} (h : s.keeps s₀) : (s.readImage w x c va place).1.keeps s₀ := by
  unfold State.readImage
  split
  next heq => exact keeps_of_fst h.vaBytes heq
  next heq =>
    extract_lets +onlyGivenNames n
    split
    · exact keeps_of_fst h.vaBytes heq
    · split
      next heq1 => exact keeps_of_fst (keeps_of_fst h.vaBytes heq).vaBytes heq1
      next heq1 => exact keeps_of_fst (keeps_of_fst h.vaBytes heq).vaBytes heq1

theorem State.keeps.readSet {w x place l} (h : s.keeps s₀) : (s.readSet w x place l).1.keeps s₀ := by
  induction l generalizing s with
  | nil => exact h
  | cons e l ih =>
    unfold State.readSet
    have hr := h.readImage (w := w) (x := x) (c := e.1) (va := e.2) (place := place)
    split
    next heq =>
      have hc := ih (keeps_of_fst hr heq)
      split
      next heq => exact keeps_of_fst hc heq
      next => exact hc
    next => exact hr

theorem State.keeps.loadSet {x n r g set place} (h : s.keeps s₀) : (s.loadSet x n r g set place).1.keeps s₀ := by
  unfold State.loadSet
  extract_lets +onlyGivenNames cs w
  split
  next heq => exact keeps_of_fst h.vaBytes heq
  next heq =>
    extract_lets +onlyGivenNames vas
    split
    · exact keeps_of_fst h.vaBytes heq
    · split
      next heq1 => exact keeps_of_fst (keeps_of_fst h.vaBytes heq).readSet heq1
      · exact (keeps_of_fst h.vaBytes heq).readSet

theorem State.keeps.chainLoad {sec g imgs} (h : s.keeps s₀.loose) : (s.chainLoad sec g imgs).keeps s₀.loose := by
  unfold State.chainLoad
  split
  · exact h
  · exact h.setSector

theorem State.keeps.keepImages {n place imgs} (h : s.keeps s₀) : (s.keepImages n place imgs).keeps s₀ := by
  unfold State.keepImages
  split
  · exact h
  next heq =>
    extract_lets +onlyGivenNames t
    have ht : t.keeps s₀ := h.setCtx
    exact ht.stageAll

theorem State.keeps.startLoad {k r c} (h : s.keeps s₀.loose) : (s.startLoad k r c).keeps s₀.loose := by
  unfold State.startLoad
  split
  · exact h.finish
  · extract_lets +onlyGivenNames n
    split
    · exact h.finish
    · extract_lets +onlyGivenNames g disjoint
      split
      · exact h.finish
      · split
        · exact h.finish
        · split
          · exact h
          · split
            next heq2 => exact keeps_of_fst h.directAccess heq2
            next heq2 =>
              split
              next heq3 => exact (keeps_of_fst (keeps_of_fst h.directAccess heq2).loadSet heq3).finish
              next heq3 => exact (keeps_of_fst (keeps_of_fst h.directAccess heq2).loadSet heq3).setFront.failCtx
              next heq3 =>
                split
                · exact (keeps_of_fst (keeps_of_fst h.directAccess heq2).loadSet heq3).chainLoad.keepImages.finish
                · split
                  · exact (keeps_of_fst (keeps_of_fst h.directAccess heq2).loadSet heq3).finish
                  · split
                    · exact keeps_of_fst (keeps_of_fst h.directAccess heq2).loadSet heq3
                    next heq4 =>
                      extract_lets +onlyGivenNames t3
                      have ht3 : t3.keeps s₀.loose := ((keeps_of_fst (keeps_of_fst h.directAccess heq2).loadSet heq3).takeIn.of_eq heq4).chainLoad.keepImages
                      exact ht3.setFront.addStep

theorem State.keeps.execLoadProgram {f r} (h : s.keeps s₀.loose) : Res.keeps (execLoadProgram f r s) s₀.loose := by
  unfold Machine.execLoadProgram
  split
  · exact h
  · split
    · exact h
    · exact h.startLoad

theorem State.keeps.execLoadProgramStageOnly {f r} (h : s.keeps s₀.loose) : Res.keeps (execLoadProgramStageOnly f r s) s₀.loose := by
  unfold Machine.execLoadProgramStageOnly
  split
  · exact h
  · split
    · exact h
    · exact h.startLoad

/-! ### BIND (R396, R414, R435) -/

theorem State.keeps.execBind {f r} (h : s.keeps s₀) : Res.keeps (execBind f r s) s₀ := by
  unfold Machine.execBind
  extract_lets k
  split
  · exact h
  next c _ =>
    split
    · exact h
    · split
      · exact h.finish
      next x _ heq =>
        extract_lets +onlyGivenNames root turn
        split
        · exact h.finish
        · split
          · exact h
          · extract_lets +onlyGivenNames b
            split
            · exact h.setCtx.finish
            · extract_lets +onlyGivenNames x1 back x2
              exact h.setCtx.dropTlb.finish

/-! ### The copy engine (R397) -/

theorem State.keeps.copySide {n x write host l} (h : s.keeps s₀) : (s.copySide n x write host l).1.keeps s₀ := by
  induction l generalizing s with
  | nil => exact h
  | cons e l ih =>
    unfold State.copySide
    extract_lets t
    have ht : t.keeps s₀ := h.readTables
    split
    · exact ht
    · split
      · exact ht
      · have hc := ih ht
        split
        next heq => exact keeps_of_fst hc heq
        next => exact hc
    · split
      · exact ht
      · split
        next heq => exact keeps_of_fst ht.ats heq
        next heq =>
          have hc := ih (keeps_of_fst ht.ats heq)
          split
          next heq => exact keeps_of_fst hc heq
          next => exact hc
    · exact ht

theorem State.keeps.copyPage {f r n x iova write} (h : s.keeps s₀) : (s.copyPage f r n x iova write).keeps s₀ := by
  unfold State.copyPage
  extract_lets +onlyGivenNames u
  split
  · split
    · extract_lets +onlyGivenNames e
      exact State.keeps.atcAdd (h.update)
    · exact h
  · split
    · exact h.failCtx
    · split
      · exact h
      · extract_lets +onlyGivenNames p
        exact State.keeps.emit (h.update)

theorem State.keeps.readSide {w l} (h : s.keeps s₀) : (s.readSide w l).1.keeps s₀ := by
  induction l generalizing s with
  | nil => exact h
  | cons e l ih => exact ih h.hbmRead

theorem State.keeps.writeSide {w bytes fog l} (h : s.keeps s₀) : (s.writeSide w bytes fog l).keeps s₀ := by
  induction l generalizing s bytes fog with
  | nil => exact h
  | cons e l ih => exact ih h.hbmWrite

theorem State.keeps.hostSide {port bytes l} (h : s.keeps s₀) : (s.hostSide port bytes l).keeps s₀ := by
  induction l generalizing s bytes with
  | nil => exact h
  | cons e l ih => exact ih h.emit

theorem State.keeps.copyChecks {n x dst pos m} (h : s.keeps s₀) : (s.copyChecks n x dst pos m).keeps s₀ := by
  unfold State.copyChecks
  refine h.foldl fun t _ ht => ?_
  split
  · exact ht.hbmStoreCheck
  · exact ht

theorem State.keeps.copyVerify {ctx x src n lo m} (h : s.keeps s₀) : (s.copyVerify ctx x src n lo m).keeps s₀ := by
  unfold State.copyVerify
  refine h.foldl fun t _ ht => ?_
  split
  · split
    · split
      · exact ht.hbmVerify
      · exact ht
    · exact ht
  · exact ht

theorem State.keeps.copyFail {n st ca va} (h : s.keeps s₀) : (s.copyFail n st ca va).keeps s₀ := h.failCtx

theorem State.keeps.copySides {f r n x c m data poison a b} (h : s.keeps s₀) : (s.copySides f r n x c m data poison a b).keeps s₀ := by
  unfold State.copySides
  split
  · exact h.copyFail
  · exact h.copyFail
  · exact h.copyPage
  · exact h.copyPage
  · exact h.copyVerify.readSide.writeSide.copyChecks.setFront
  next a b =>
    extract_lets t
    have ht : t.keeps s₀ := h.copyVerify
    have hr := ht.readSide (w := { ctx := some n }) (l := a)
    split
    next heq =>
      have hu := keeps_of_fst hr heq
      split
      · exact hu.failCtx
      · exact hu.hostSide.setFront
  · extract_lets t
    have ht : t.keeps s₀ := h.foldl fun _ _ hu => hu.emit
    exact ht.writeSide.copyChecks.setFront
  · exact h.copyFail

theorem State.keeps.copyRow {f r n x c toHost fromHost data poison} (h : s.keeps s₀) : (s.copyRow f r n x c toHost fromHost data poison).keeps s₀ := by
  unfold State.copyRow
  extract_lets +onlyGivenNames m src dst sides tables
  split
  next heq => exact keeps_of_fst h.directAccess heq
  next heq => exact (keeps_of_fst h.directAccess heq).copySide.copySide.copySides

theorem State.keeps.copyCmd {f r t toHost fromHost data poison} (h : s.keeps s₀) : (s.copyCmd f r t toHost fromHost data poison).keeps s₀ := by
  unfold State.copyCmd
  split
  · exact h
  · split
    · exact h
    · split
      · exact h.finish
      · split
        · split
          · exact h.finish
          · split
            · exact h.finish
            · exact h.setFront
        · split
          · exact h
          · split
            · exact h.finish
            · exact h.copyRow

theorem State.keeps.execCopy {f r} (h : s.keeps s₀) : Res.keeps (execCopy f r s) s₀ := h.copyCmd

theorem State.keeps.execExportCmd {f r} (h : s.keeps s₀) : Res.keeps (execExportCmd f r s) s₀ := h.copyCmd

theorem State.keeps.execImportCommand {f r data poison} (h : s.keeps s₀) : Res.keeps (execImportCommand f r data poison s) s₀ := h.copyCmd

end Keeps

end Sys2Proof.Machine
end

section
/-!
PROOFS. What no command takes away: sectors, contexts, swaps and retirement, the ports.
-/

namespace Sys2Proof.Machine

section Keeps
variable {s : State} {s₀ : Before}

/-! ### Granules and the room in the stacks (R329, R330, R413, R527) -/

theorem State.keeps.setGranule {g x} (h : s.keeps s₀) : (s.setGranule g x).keeps s₀ := h

/-! ### Creating a sector (R412, R413) -/

theorem State.keeps.drawKey {r} (h : s.keeps s₀) : (s.drawKey r).keeps s₀ := h

theorem State.keeps.initSector {r x} (h : s.keeps s₀) : (s.initSector r x).keeps s₀ := (h.foldl fun _ _ ht => ht.initGranule).rcDropSector

theorem State.keeps.setQuotas {r q} (h : s.keeps s₀) : (s.setQuotas r q).keeps s₀ := h.foldl fun _ _ ht => ht.setCtrl

theorem State.keeps.mapHost {x} (h : s.keeps s₀) : (s.mapHost x).keeps s₀ := by
  unfold State.mapHost
  split
  · exact h
  · exact h.foldl fun _ _ ht => ht.setPort

theorem State.keeps.openSf {r x} (h : s.keeps s₀) : (s.openSf r x).keeps s₀ := h

theorem State.keeps.createSector {w0 w1} (h : s.keeps s₀.loose) : optKeeps (s.createSector w0 w1) s₀.loose := by
  unfold State.createSector
  extract_lets +onlyGivenNames r n gs groups
  split
  next heq =>
    extract_lets +onlyGivenNames x2
    split
    · trivial
    · extract_lets +onlyGivenNames t1
      have ht1 : t1.keeps s₀.loose := (h.draw_eq heq).setSector
      split
      · trivial
      · extract_lets +onlyGivenNames t2 t3 t4
        have ht2 : t2.keeps s₀.loose := ht1.foldl fun _ _ hu => hu.setGranule
        have ht3 : t3.keeps s₀.loose := ht2.drawKey.initSector
        have ht4 : t4.keeps s₀.loose := ht3.openSf.setQuotas
        exact State.keeps.mapHost (ht4.update)

/-! ### Contexts (R416, R417, R435) -/

theorem State.keeps.createContext {r p f n} (h : s.keeps s₀) : optKeeps (s.createContext r p f n) s₀ := by
  unfold State.createContext
  split
  · trivial
  · split
    · trivial
    · extract_lets +onlyGivenNames st
      exact h.update

theorem State.keeps.takeDown {n r} (h : s.keeps s₀) : (s.takeDown n r).keeps s₀ := by
  unfold State.takeDown
  split
  · exact h
  next heq =>
    extract_lets +onlyGivenNames t
    have ht : t.keeps s₀ := by
      unfold t
      split
      · exact h
      · split
        · exact h.setCtx
        · exact h.failCtx
    exact ht.teardown

theorem State.keeps.destroyContext {n} (h : s.keeps s₀) : (s.destroyContext n).keeps s₀ := by
  unfold State.destroyContext
  exact h.takeDown.update

/-! ### Releasing a sector (R415) -/

theorem State.keeps.hostsLetGo {x} (h : s.keeps s₀) : (s.hostsLetGo x).1.keeps s₀ := by
  unfold State.hostsLetGo
  refine h.foldl_fst fun q _ hq => ?_
  refine hq.foldl_fst fun p _ hp => ?_
  split
  · exact hp.invalidated
  · exact hp

theorem State.keeps.unmapHost {g} (h : s.keeps s₀) : (s.unmapHost g).keeps s₀ := by
  unfold State.unmapHost
  refine h.foldl fun t _ ht => ?_
  split
  · exact ht.invalidated.setPort
  · exact ht

theorem State.keeps.wipeRegion {g} (h : s.keeps s₀) : (s.wipeRegion g).keeps s₀ := h.foldl fun _ _ ht => ht.wipeCluster.setCl

theorem State.keeps.releaseSector {r} (h : s.keeps s₀.loose) : (s.releaseSector r).keeps s₀.loose := by
  unfold State.releaseSector
  split
  · exact h
  · extract_lets +onlyGivenNames t t1 t2 t3 t4 b t5 f
    have ht4 : t4.keeps s₀.loose :=
      (State.keeps.setQuotas ((h.foldl fun _ _ ht => ht.destroyContext).wipeRegion.foldl fun _ _ ht => ht.freeGroup)).foldl
        fun _ _ ht => ht.unmapHost.setGranule
    have hdrop := ht4.rcDropSector (sec := r)
    have ht5 : t5.keeps s₀.loose := hdrop.setHbm
    exact ht5.setSf.updateSectors (Nat.le_refl _)

theorem State.keeps.releaseAll (h : s.keeps s₀.loose) : s.releaseAll.keeps s₀.loose := h.foldl fun _ _ ht => ht.releaseSector

/-! ### Lightship swap (R522 to R525, R25) -/

theorem State.keeps.placeWay {c p way} (h : s.keeps s₀) : optKeeps (s.placeWay c p way) s₀ := by
  unfold State.placeWay
  extract_lets +onlyGivenNames hops fits
  split
  · exact h.update
  · trivial

theorem State.keeps.placeOn {c p} (h : s.keeps s₀) : optKeeps (s.placeOn c p) s₀ := by
  unfold State.placeOn
  refine List.foldlRecOn (motive := fun o => optKeeps o s₀) _ _ (b := some _) (State.keeps.update h) fun o ho way _ => ?_
  exact optKeeps_bind fun t heq => (ho.of_eq heq).placeWay

theorem State.keeps.placeOn_getD {c p} (h : s.keeps s₀) : ((s.placeOn c p).getD s).keeps s₀ := h.placeOn.getD h

theorem State.keeps.retireLogical {c} (h : s.keeps s₀.loose) : (s.retireLogical c).keeps s₀.loose := by
  unfold State.retireLogical
  extract_lets +onlyGivenNames _ t _ t1
  have ht : t.keeps s₀.loose := h.update
  have ht1 : t1.keeps s₀.loose := ht.setCl
  split
  · split
    · exact ht1.setSector.emit
    · exact ht1
  · exact ht1

theorem State.keeps.reportSwap {c} (h : s.keeps s₀) : (s.reportSwap c).keeps s₀ := by
  unfold State.reportSwap
  split
  · exact State.keeps.exposureReport (h.update)
  · exact h

theorem State.keeps.rescan {c} (h : s.keeps s₀) : (s.rescan c).keeps s₀ := by
  unfold State.rescan
  extract_lets +onlyGivenNames t t1 t2 t3 t4 t5
  have ht : t.keeps s₀ := h.landAll.sendTransit.dropRequests
  have ht1 : t1.keeps s₀ := by
    refine ht.foldl fun u _ hu => ?_
    extract_lets +onlyGivenNames m
    split
    · exact hu.setMu
    · exact hu
  have ht2 : t2.keeps s₀ := ht1.foldl fun _ _ hu => hu.setTu
  have ht3 : t3.keeps s₀ := ht2.foldl fun _ _ hu => hu.setMu
  have ht4 : t4.keeps s₀ := ht3.readTiles.foldl fun _ _ hu => hu.setMcu
  have ht5 : t5.keeps s₀ := ht4.foldl fun _ _ hu => hu.setScu
  exact ht5.setSw

theorem State.keeps.swapNow {c} (h : s.keeps s₀.loose) : (s.swapNow c).keeps s₀.loose := by
  unfold State.swapNow
  split
  · exact h.retireLogical.reportSwap.performHeld
  · extract_lets +onlyGivenNames old t f t1
    have ht : t.keeps s₀.loose := h.rescan.placeOn_getD
    clear_value t
    have ht1 : t1.keeps s₀.loose := ht.update
    exact ht1.reportSwap.performHeld

/-! ### Retiring HBM (R526, R527) -/

theorem State.keeps.withdraw_eq {k t l} (h : s.keeps s₀) (e : s.withdraw k = some (t, l)) : t.keeps s₀ := by
  unfold State.withdraw at e
  extract_lets gs t' at e
  have ht' : t'.keeps s₀ := h.foldl fun _ _ ht => ht.setGranule
  split at e
  · nomatch e
  · split at e
    · exact (Prod.mk.inj (Option.some.inj e)).1 ▸ ht'
    · nomatch e

theorem State.keeps.moveLines {n f} (h : s.keeps s₀) : (s.moveLines n f).keeps s₀ := h.foldl fun _ _ ht => ht.decodeLine

theorem State.keeps.retirePart {n pc} (h : s.keeps s₀) : optKeeps (s.retirePart n pc) s₀ := by
  unfold State.retirePart
  split
  · refine optKeeps_map fun ⟨t, gs⟩ heq => ?_
    exact State.keeps.update (h.withdraw_eq heq).moveLines.setCtrl
  · refine optKeeps_map fun ⟨t, gs⟩ heq => ?_
    exact State.keeps.update (h.withdraw_eq heq).moveLines.setCtrl

theorem State.keeps.retireOrFail {n pc} (h : s.keeps s₀) : (s.retireOrFail n pc).keeps s₀ := by
  unfold State.retireOrFail
  split
  next heq => exact h.retirePart.of_eq heq
  · exact State.keeps.modErr (h.update)

/-! ### The operations of R529 -/

theorem State.keeps.opApply {ws} (h : s.keeps s₀.loose) : optKeeps (s.opApply ws) s₀.loose := by
  unfold State.opApply
  extract_lets +onlyGivenNames a n c
  split
  · trivial
  · split
    · exact h.createSector
    · split
      · exact h.releaseSector
      · trivial
    · exact h.createContext
    · split
      · exact h.destroyContext
      · trivial
    · split
      · trivial
      · exact h.swapNow
    · split
      · trivial
      · exact h
    · split
      · trivial
      · exact h.retirePart
    · split
      · trivial
      · exact h.retirePart
    · exact h

/-! ### Host access to sector memory (R403 to R406) -/

theorem State.keeps.execCxlMemRead {p off} (h : s.keeps s₀) : Res.keeps (execCxlMemRead p off s) s₀ := by
  unfold Machine.execCxlMemRead
  extract_lets +onlyGivenNames v off1
  split
  · exact h
  · split
    · exact h.emit
    · split
      · exact h.setPort.emit
      · split
        · exact h.setPort.emit
        · split
          · exact h.holdHost
          · exact h.hostRead

theorem State.keeps.execCxlMemWrite {p off data mask poison} (h : s.keeps s₀) : Res.keeps (execCxlMemWrite p off data mask poison s) s₀ := by
  unfold Machine.execCxlMemWrite
  extract_lets +onlyGivenNames v off1
  split
  · exact h
  · split
    · exact h.emit
    · split
      · exact h.setPort
      · split
        · exact h.setPort
        · extract_lets +onlyGivenNames keep
          split
          · exact h.holdHost
          · exact h.hostWrite

theorem State.keeps.answerSnoop {p l} (h : s.keeps s₀) : (s.answerSnoop p l).keeps s₀ := h

theorem State.keeps.execBiResponse {p line wb} (h : s.keeps s₀) : Res.keeps (execBiResponse p line wb s) s₀ := by
  unfold Machine.execBiResponse
  split
  · exact h
  · extract_lets +onlyGivenNames t t1
    have ht : t.keeps s₀ := h.answerSnoop
    have ht1 : t1.keeps s₀ := by
      unfold t1
      split
      · split
        · exact ht.hbmWrite
        · exact ht
      · exact ht
    exact ht1.settleMap

theorem State.keeps.execBisnpTimeout {p line} (h : s.keeps s₀) : Res.keeps (execBisnpTimeout p line s) s₀ := by
  unfold Machine.execBisnpTimeout
  split
  · exact h
  · exact h.advanceTo.answerSnoop.setPort.poisonLine.settleMap.record

/-! ### Links (R381) -/

theorem State.keeps.execLinkUp {p rate width flit256} (h : s.keeps s₀) : Res.keeps (execLinkUp p rate width flit256 s) s₀ := by
  unfold Machine.execLinkUp
  extract_lets +onlyGivenNames v
  split
  · exact h
  · split <;> exact h.setPort

/-! ### Failing what a reset takes down -/

theorem State.keeps.takeDownAll {l} (h : s.keeps s₀) : (s.takeDownAll l).keeps s₀ := h.foldl fun _ _ ht => State.keeps.takeDown (ht.update)

theorem State.keeps.stopRings {f} (h : s.keeps s₀) : (s.stopRings f).keeps s₀ := h

theorem State.keeps.flr {p f} (h : s.keeps s₀) : (s.flr p f).keeps s₀ := h.stopRings.takeDownAll

theorem State.keeps.countFlr {p n} (h : s.keeps s₀) : (s.countFlr p n).keeps s₀ := h

theorem State.keeps.execFlrVf {f} (h : s.keeps s₀) : Res.keeps (execFlrVf f s) s₀ := by
  unfold Machine.execFlrVf
  split
  · exact h
  · exact h.flr.countFlr

theorem State.keeps.execFlrPf {p} (h : s.keeps s₀) : Res.keeps (execFlrPf p s) s₀ := by
  unfold Machine.execFlrPf
  split
  · exact h
  · exact (h.foldl fun _ _ ht => ht.setFn.stopRings).takeDownAll.countFlr

theorem State.keeps.execVfEnableClear {p} (h : s.keeps s₀) : Res.keeps (execVfEnableClear p s) s₀ := by
  unfold Machine.execVfEnableClear
  split
  · exact h
  · exact (h.foldl fun _ _ ht => ht.flr).countFlr

/-! ### Port resets (R408) -/

theorem State.keeps.rekeySector {r} (h : s.keeps s₀.loose) : (s.rekeySector r).keeps s₀.loose := by
  unfold State.rekeySector
  split
  · exact h
  · exact h.wipeRegion.setSector.drawKey.initSector

theorem State.keeps.portReset {p} (h : s.keeps s₀.loose) : (s.portReset p).keeps s₀.loose := by
  unfold State.portReset
  extract_lets +onlyGivenNames secs t t1 t2 t3 v u
  have ht : t.keeps s₀.loose := h.foldl fun _ _ hu => hu.setFn
  have ht1 : t1.keeps s₀.loose := ht.takeDownAll
  have ht2 : t2.keeps s₀.loose := ht1.takeDownAll
  have ht3 : t3.keeps s₀.loose := ht2.foldl fun _ _ hu => hu.rekeySector
  have hu : u.keeps s₀.loose := ht3.setPort
  exact hu.update

theorem State.keeps.resetPort {p} (h : s.keeps s₀.loose) : (s.resetPort p).keeps s₀.loose := by
  unfold State.resetPort
  split
  · exact h.setPort
  · exact h.portReset

theorem State.keeps.execPerstN {p us} (h : s.keeps s₀.loose) : Res.keeps (execPerstN p us s) s₀.loose := by
  unfold Machine.execPerstN
  split
  · exact h
  · exact h.resetPort.setPort

theorem State.keeps.hotReset {p} (h : s.keeps s₀.loose) : (s.hotReset p).keeps s₀.loose := h.resetPort.setPort

theorem State.keeps.execHotReset {p} (h : s.keeps s₀.loose) : Res.keeps (execHotReset p s) s₀.loose := by
  unfold Machine.execHotReset
  split
  · exact h.hotReset
  · exact h

theorem State.keeps.execDlDown {p ms} (h : s.keeps s₀.loose) : Res.keeps (execDlDown p ms s) s₀.loose := by
  unfold Machine.execDlDown
  split
  · exact h.resetPort
  · exact h

theorem State.keeps.execViralIndication {p} (h : s.keeps s₀.loose) : Res.keeps (execViralIndication p s) s₀.loose := by
  unfold Machine.execViralIndication
  split
  · exact h.hotReset
  · exact h

theorem State.keeps.execIdeIntegrityFailure {p} (h : s.keeps s₀.loose) : Res.keeps (execIdeIntegrityFailure p s) s₀.loose := by
  unfold Machine.execIdeIntegrityFailure
  split
  · exact h
  · exact h.setPort.hotReset

/-! ### Link security (R407) -/

theorem State.keeps.execCxlKeyExchange {p ses} (h : s.keeps s₀) : Res.keeps (execCxlKeyExchange p ses s) s₀ := by
  unfold Machine.execCxlKeyExchange
  extract_lets +onlyGivenNames ok t
  have ht : t.keeps s₀ := h.emit
  split
  · exact ht.setPort
  · exact ht

theorem State.keeps.execTspAssignment {f} (h : s.keeps s₀) : Res.keeps (execTspAssignment f s) s₀ := h

end Keeps

end Sys2Proof.Machine
end

section
/-!
PROOFS. What no command takes away: configuration transactions and the Keeper's updates, power and supply, identity and keys.
-/

namespace Sys2Proof.Machine

section Keeps
variable {s : State} {s₀ : Before}

/-! ### Opening, staging, discarding -/

theorem State.keeps.execTxnBegin {r} (h : s.keeps s₀) : Res.keeps (execTxnBegin r s) s₀ := by
  unfold Machine.execTxnBegin
  split <;> exact h

theorem State.keeps.stageEntry {e} (h : s.keeps s₀) : (s.stageEntry e).keeps s₀ := by
  unfold State.stageEntry
  extract_lets +onlyGivenNames t
  repeat' split
  all_goals exact h.update

theorem State.keeps.execTxnStageWrite {r v} (h : s.keeps s₀) : Res.keeps (execTxnStageWrite r v s) s₀ := by
  unfold Machine.execTxnStageWrite
  split
  · exact h.stageEntry
  · exact h

theorem State.keeps.execTxnStageOp {r v} (h : s.keeps s₀) : Res.keeps (execTxnStageOp r v s) s₀ := by
  unfold Machine.execTxnStageOp
  split
  · exact h.stageEntry
  · exact h

theorem State.keeps.dropTxn (h : s.keeps s₀) : s.dropTxn.keeps s₀ := h

theorem State.keeps.execTxnRollback {r} (h : s.keeps s₀) : Res.keeps (execTxnRollback r s) s₀ := by
  unfold Machine.execTxnRollback
  split <;> exact h

theorem State.keeps.execTxnTimeout (h : s.keeps s₀) : Res.keeps (execTxnTimeout s) s₀ := by
  unfold Machine.execTxnTimeout
  split
  · exact h
  · exact h.advanceTo.dropTxn

/-! ### Committing (R530) -/

theorem State.keeps.txnDone (h : s.keeps s₀) : s.txnDone.keeps s₀ := h

theorem State.keeps.safePoint (h : s.keeps s₀) : s.safePoint.keeps s₀ := by
  unfold State.safePoint
  extract_lets +onlyGivenNames l t ops _ t1
  have ht : t.keeps s₀ := by
    refine h.foldl fun u _ hu => ?_
    split
    · exact hu.keeperWrite
    · exact hu
  have ht1 : t1.keeps s₀ := ht.update
  split
  · exact ht1.txnDone
  · exact ht1

theorem State.keeps.commitPoint (h : s.keeps s₀) : s.commitPoint.keeps s₀ := by
  unfold State.commitPoint
  split
  · exact h.safePoint
  · exact h

theorem State.keeps.execTxnCommit {r} (h : s.keeps s₀) : Res.keeps (execTxnCommit r s) s₀ := by
  unfold Machine.execTxnCommit
  split
  · exact h
  · split
    · exact h.update
    · extract_lets +onlyGivenNames _ t
      have ht : t.keeps s₀ := h.update
      split
      · exact ht.txnDone
      · exact ht.commitPoint

/-! ### The operations of a commit, in staging order -/

theorem State.keeps.popOp (h : s.keeps s₀) : s.popOp.keeps s₀ := by
  unfold State.popOp
  extract_lets +onlyGivenNames t
  split
  · exact h.txnDone
  · exact h.update

theorem State.keeps.runOp {k} (h : s.keeps s₀.loose) : (s.runOp k).keeps s₀.loose := by
  unfold State.runOp
  split
  · exact h
  · split
    next heq1 => exact (h.opApply.of_eq heq1).popOp
    · exact h.popOp

theorem State.keeps.execCreateSector (h : s.keeps s₀.loose) : Res.keeps (execCreateSector s) s₀.loose := h.runOp

theorem State.keeps.execReleaseSector (h : s.keeps s₀.loose) : Res.keeps (execReleaseSector s) s₀.loose := by
  unfold Machine.execReleaseSector
  split
  · exact h.runOp
  · split
    next heq1 => exact (keeps_of_fst h.hostsLetGo heq1).runOp
    next heq1 => exact keeps_of_fst h.hostsLetGo heq1

theorem State.keeps.execCreateContext (h : s.keeps s₀.loose) : Res.keeps (execCreateContext s) s₀.loose := h.runOp

theorem State.keeps.execDestroyContext (h : s.keeps s₀.loose) : Res.keeps (execDestroyContext s) s₀.loose := h.runOp

theorem State.keeps.execSwapCluster (h : s.keeps s₀) : Res.keeps (execSwapCluster s) s₀ := by
  unfold Machine.execSwapCluster
  split
  · exact h
  · exact h.queueSwap

theorem State.keeps.execRetrainStack (h : s.keeps s₀) : Res.keeps (execRetrainStack s) s₀ := by
  unfold Machine.execRetrainStack
  split
  · exact h
  · extract_lets +onlyGivenNames n
    split
    · exact h
    · extract_lets +onlyGivenNames _
      extract_lets +onlyGivenNames u
      have hu : u.keeps s₀ := h.setCtrl
      exact hu.update

theorem State.keeps.execRetirePseudoChannel (h : s.keeps s₀.loose) : Res.keeps (execRetirePseudoChannel s) s₀.loose := h.runOp

theorem State.keeps.execRetireStack (h : s.keeps s₀.loose) : Res.keeps (execRetireStack s) s₀.loose := h.runOp

theorem State.keeps.execOperatorDeviceReset (h : s.keeps s₀) : Res.keeps (execOperatorDeviceReset s) s₀ := by
  unfold Machine.execOperatorDeviceReset
  split
  · exact h
  · extract_lets +onlyGivenNames _ t
    have ht : t.keeps s₀ := h.update
    exact ht.latchReset

/-! ### Swaps, retraining, retirement as they happen -/

theorem State.keeps.execLightshipSwap {c} (h : s.keeps s₀.loose) : Res.keeps (execLightshipSwap c s) s₀.loose := by
  unfold Machine.execLightshipSwap
  extract_lets +onlyGivenNames q k
  split
  · exact h
  · extract_lets +onlyGivenNames t _ t1 t2
    have ht : t.keeps s₀.loose := h.swapNow
    have ht1 : t1.keeps s₀.loose := ht.update
    have ht2 : t2.keeps s₀.loose := by
      unfold t2
      split
      · split
        · exact ht1.popOp
        · exact ht1
      · exact ht1
    exact ht2.commitPoint

theorem State.keeps.execHbmRetrain {n result} (h : s.keeps s₀) : Res.keeps (execHbmRetrain n result s) s₀ := by
  unfold Machine.execHbmRetrain
  extract_lets +onlyGivenNames c other
  split
  · exact h
  · extract_lets +onlyGivenNames _ _ t t1 t2
    have ht : t.keeps s₀ := h.setCtrl.update
    have ht1 : t1.keeps s₀ := by
      unfold t1
      split
      · exact ht.retireOrFail
      · exact ht
    have ht2 : t2.keeps s₀ := by
      unfold t2
      split
      · split
        · exact ht1.popOp
        · exact ht1
      · exact ht1
    exact ht2.commitPoint

theorem State.keeps.execRetirementProceed (h : s.keeps s₀) : Res.keeps (execRetirementProceed s) s₀ := by
  unfold Machine.execRetirementProceed
  split
  · exact h
  · split
    · exact h
    · split
      · exact h
      next heq1 => exact (h.retirePart.of_eq heq1).update

/-! ### Beacon and watchdog (R518, R519) -/

theorem State.keeps.takeover (h : s.keeps s₀) : s.takeover.keeps s₀ := h

theorem State.keeps.execBeaconTick (h : s.keeps s₀) : Res.keeps (execBeaconTick s) s₀ := by
  unfold Machine.execBeaconTick
  extract_lets +onlyGivenNames k
  split
  · exact h
  · extract_lets +onlyGivenNames t t1
    have ht : t.keeps s₀ := h.advanceTo
    have ht1 : t1.keeps s₀ := ht.update
    split
    · exact ht1.takeover
    · exact ht1

theorem State.keeps.execWatchdogExpiry (h : s.keeps s₀) : Res.keeps (execWatchdogExpiry s) s₀ := by
  unfold Machine.execWatchdogExpiry
  extract_lets +onlyGivenNames k
  split
  · exact h
  · exact h.advanceTo.latchReset

theorem State.keeps.execDieAgentTimeout {die} (h : s.keeps s₀) : Res.keeps (execDieAgentTimeout die s) s₀ := by
  unfold Machine.execDieAgentTimeout
  split
  · exact h
  · exact h.latchAs

/-! ### Live firmware update (R520, R521) -/

theorem State.keeps.execFirmwareImageWrite {slot img} (h : s.keeps s₀) : Res.keeps (execFirmwareImageWrite slot img s) s₀ := by
  unfold Machine.execFirmwareImageWrite
  split
  · exact h
  · extract_lets +onlyGivenNames good low x1
    exact h.updateFlash (Flash.floor_setSlot _ _ _).ge

theorem State.keeps.execFirmwareUpdateGo {r v} (h : s.keeps s₀) : Res.keeps (execFirmwareUpdateGo r v s) s₀ := by
  unfold Machine.execFirmwareUpdateGo
  extract_lets +onlyGivenNames k
  split
  · exact h
  · split <;> exact h.update

theorem State.keeps.execHotRestartTimeout (h : s.keeps s₀) : Res.keeps (execHotRestartTimeout s) s₀ := by
  unfold Machine.execHotRestartTimeout
  split
  · exact h
  · extract_lets +onlyGivenNames t
    have ht : t.keeps s₀ := h.advanceTo
    exact ht.update

theorem State.keeps.execTrialEnd (h : s.keeps s₀) : Res.keeps (execTrialEnd s) s₀ := by
  unfold Machine.execTrialEnd
  split
  · exact h
  · extract_lets +onlyGivenNames t f
    have ht : t.keeps s₀ := h.advanceTo
    clear_value t
    exact ht.updateFlash (Nat.le_max_left _ _)

/-! ### The array clock step (R501, R502) -/

theorem State.keeps.decideStep (h : s.keeps s₀) : s.decideStep.keeps s₀ := by
  unfold State.decideStep
  extract_lets +onlyGivenNames w
  split
  · split
    · exact h
    · exact h.update
  · split
    · exact h
    · exact h.update

theorem State.keeps.execClockStepChange (h : s.keeps s₀) : Res.keeps (execClockStepChange s) s₀ := by
  unfold Machine.execClockStepChange
  split
  · exact h
  · split
    · exact h
    · extract_lets +onlyGivenNames t
      have ht : t.keeps s₀ := h.advanceTo
      extract_lets +onlyGivenNames u
      have hu : u.keeps s₀ := ht.advance
      exact hu.update

/-! ### The power manager's samples (R501, R507) -/

theorem State.keeps.powerRule {ms1 s1} (h : s.keeps s₀) : (s.powerRule ms1 s1).keeps s₀ := h

theorem State.keeps.supplyBack (h : s.keeps s₀) : s.supplyBack.keeps s₀ := by
  unfold State.supplyBack
  extract_lets +onlyGivenNames p
  split
  · exact h
  · exact h.update

theorem State.keeps.execPowerSample {mv da avg1ms avg1s peak10ms} (h : s.keeps s₀) : Res.keeps (execPowerSample mv da avg1ms avg1s peak10ms s) s₀ := by
  unfold Machine.execPowerSample
  split
  · exact h
  · extract_lets +onlyGivenNames p t
    have ht : t.keeps s₀ := h.update
    exact ht.powerRule.supplyBack.decideStep

/-! ### Supply levels (R505 to R508) -/

theorem State.keeps.execWarningCrossed {rail} (h : s.keeps s₀) : Res.keeps (execWarningCrossed rail s) s₀ := by
  unfold Machine.execWarningCrossed
  split
  · exact h
  · extract_lets +onlyGivenNames _ p t
    have ht : t.keeps s₀ := h.update
    split
    · split
      · exact ht
      · exact State.keeps.record (State.keeps.decideStep (ht.update))
    · split
      · exact ht
      · exact State.keeps.record (State.keeps.decideStep (State.keeps.setDie (ht.update)))

theorem State.keeps.doubt {rail} (h : s.keeps s₀) : (s.doubt rail).keeps s₀ := by
  unfold State.doubt
  extract_lets +onlyGivenNames l
  split
  · exact h.record
  · exact h.foldl fun _ _ ht => ht.record.doubtStep

theorem State.keeps.execDoubtCrossed {rail} (h : s.keeps s₀) : Res.keeps (execDoubtCrossed rail s) s₀ := by
  unfold Machine.execDoubtCrossed
  split
  · exact h
  · extract_lets +onlyGivenNames b p t act
    have ht : t.keeps s₀ := h.update
    have hact : ∀ u : State, u.keeps s₀ → (act u).keeps s₀ := by
      intro u hu
      unfold act
      split
      · exact hu.doubt
      · exact hu.record
    split
    · split
      · exact ht
      · exact hact _ ht.update
    · split
      · exact ht
      · exact hact _ ht.setDie

theorem State.keeps.execResetLevelCrossed {rail} (h : s.keeps s₀) : Res.keeps (execResetLevelCrossed rail s) s₀ := by
  unfold Machine.execResetLevelCrossed
  split <;> exact h.latchReset

theorem State.keeps.warnCleared (h : s.keeps s₀) : s.warnCleared.keeps s₀ := by
  unfold State.warnCleared
  extract_lets +onlyGivenNames t
  have ht : t.keeps s₀ := h.record
  split
  · exact ht
  · exact State.keeps.decideStep (ht.update)

theorem State.keeps.execLevelCleared {rail lvl} (h : s.keeps s₀) : Res.keeps (execLevelCleared rail lvl s) s₀ := by
  unfold Machine.execLevelCleared
  split
  · exact h
  · split
    · split
      · exact State.keeps.commitPoint (State.keeps.warnCleared (h.update))
      · exact h
    · split
      · exact State.keeps.commitPoint (State.keeps.record (h.update))
      · exact h
    · split
      · exact h.setDie.warnCleared.commitPoint
      · exact h
    · split
      · exact h.setDie.record.commitPoint
      · exact h

/-! ### Junction temperature (R512) -/

theorem State.keeps.readJunctions {tj} (h : s.keeps s₀) : (s.readJunctions tj).keeps s₀ := by
  unfold State.readJunctions
  refine h.foldl fun t _ ht => ?_
  split
  · exact ht.setDie
  · exact ht

theorem State.keeps.thermRule {hot} (h : s.keeps s₀) : (s.thermRule hot).keeps s₀ := by
  unfold State.thermRule
  extract_lets +onlyGivenNames p
  split
  · split
    · exact h.update
    · exact State.keeps.record (h.update)
  · extract_lets +onlyGivenNames p1
    split
    · exact h.update
    · split
      · repeat' split
        all_goals exact h.update
      · exact h.update

theorem State.keeps.execJunctionSample {tj} (h : s.keeps s₀) : Res.keeps (execJunctionSample tj s) s₀ := by
  unfold Machine.execJunctionSample
  split
  · exact h
  · split
    · exact h
    · exact h.readJunctions.thermRule.decideStep

/-! ### Cooling (R514) -/

theorem State.keeps.coolAlarm (h : s.keeps s₀) : s.coolAlarm.keeps s₀ := by
  unfold State.coolAlarm
  exact State.keeps.record (State.keeps.decideStep (h.update))

theorem State.keeps.execCoolFault (h : s.keeps s₀) : Res.keeps (execCoolFault s) s₀ := by
  unfold Machine.execCoolFault
  split
  · exact h
  · exact State.keeps.coolAlarm (h.update)

theorem State.keeps.execLeakSense (h : s.keeps s₀) : Res.keeps (execLeakSense s) s₀ := by
  unfold Machine.execLeakSense
  split
  · exact h
  · exact State.keeps.coolAlarm (h.update)

theorem State.keeps.execCoolingResume (h : s.keeps s₀) : Res.keeps (execCoolingResume s) s₀ := by
  unfold Machine.execCoolingResume
  exact State.keeps.decideStep (h.update)

/-! ### SPDM sessions (R487) -/

theorem State.keeps.execSpdmKeyExchange {p} (h : s.keeps s₀) : Res.keeps (execSpdmKeyExchange p s) s₀ := by
  unfold Machine.execSpdmKeyExchange
  extract_lets +onlyGivenNames n
  split
  · exact h
  · split
    · exact h.emit
    · extract_lets +onlyGivenNames _ t
      have ht : t.keeps s₀ := h.update
      exact ht.emit

theorem State.keeps.execSpdmEndSession {ses} (h : s.keeps s₀) : Res.keeps (execSpdmEndSession ses s) s₀ := h

/-! ### Measurements (R488) -/

theorem State.keeps.execGetMeasurements {p index} (h : s.keeps s₀) : Res.keeps (execGetMeasurements p index s) s₀ := by
  unfold Machine.execGetMeasurements
  extract_lets +onlyGivenNames known
  split
  · exact h
  · split <;> exact h.emit

/-! ### Sector keys (R490, R491) -/

theorem State.keeps.setKey {r x key} (h : s.keeps s₀.loose) : (s.setKey r x key).keeps s₀.loose := by
  unfold State.setKey
  extract_lets +onlyGivenNames b t t1 f t2 mine t3 t4
  have ht : t.keeps s₀.loose := h.setHbm
  have ht2 : t2.keeps s₀.loose := ht.setSector.initSector.setSf
  have ht3 : t3.keeps s₀.loose := ht2.foldl fun _ _ hu => hu.closeWindows.wipeCluster
  have ht4 : t4.keeps s₀.loose := by
    refine ht3.foldl fun u c hu => ?_
    split
    · exact hu
    · exact hu.release
  exact ht4.update

theorem State.keeps.execSetSectorKey {ses sec key claim} (h : s.keeps s₀.loose) : Res.keeps (execSetSectorKey ses sec key claim s) s₀.loose := by
  unfold Machine.execSetSectorKey
  extract_lets +onlyGivenNames no
  have hno : no.keeps s₀.loose := h.emit
  split
  · exact h
  · split
    · exact hno
    · split
      · exact hno
      · split
        · exact hno
        · exact h.setKey.emit

/-! ### Queue grants (R431, R492) -/

theorem State.keeps.execGrantQueue {ses recv admitted} (h : s.keeps s₀) : Res.keeps (execGrantQueue ses recv admitted s) s₀ := by
  unfold Machine.execGrantQueue
  split
  · exact h
  · split
    · exact h.emit
    · extract_lets +onlyGivenNames _ t
      have ht : t.keeps s₀ := h.update
      exact ht.emit

theorem State.keeps.execRevokeQueue {ses recv admitted} (h : s.keeps s₀) : Res.keeps (execRevokeQueue ses recv admitted s) s₀ := by
  unfold Machine.execRevokeQueue
  extract_lets +onlyGivenNames g
  split
  · exact h
  · split
    · exact h.emit
    · extract_lets +onlyGivenNames _ t t1
      have ht : t.keeps s₀ := h.update
      have ht1 : t1.keeps s₀ := ht.foldl fun _ _ hu => hu.admitOther
      exact ht1.emit

/-! ### Debug unlock (R495 to R497) -/

theorem State.keeps.execDebugNonceRead {r} (h : s.keeps s₀) : Res.keeps (execDebugNonceRead r s) s₀ := by
  unfold Machine.execDebugNonceRead
  extract_lets +onlyGivenNames k
  split
  · exact h
  · split
    · exact h.emit
    · split
      next heq =>
        extract_lets +onlyGivenNames n
        exact State.keeps.emit ((h.draw_eq heq).update)

theorem State.keeps.redrawKeys (h : s.keeps s₀) : s.redrawKeys.keeps s₀ := h.foldl fun _ _ ht => ht.drawKey

theorem State.keeps.execDebugToken {p t} (h : s.keeps s₀.loose) : Res.keeps (execDebugToken p t s) s₀.loose := by
  unfold Machine.execDebugToken
  split
  · exact h
  · split
    · exact h.emit
    · split
      · exact State.keeps.emit (h.update)
      · extract_lets +onlyGivenNames t1
        have ht1 : t1.keeps s₀.loose := h.releaseAll.redrawKeys
        exact State.keeps.emit (ht1.update)

theorem State.keeps.relock (h : s.keeps s₀.loose) : s.relock.keeps s₀.loose := by
  unfold State.relock
  extract_lets +onlyGivenNames t
  have ht : t.keeps s₀.loose := h.releaseAll.redrawKeys
  exact ht.update

theorem State.keeps.execRelock {r v} (h : s.keeps s₀.loose) : Res.keeps (execRelock r v s) s₀.loose := by
  unfold Machine.execRelock
  extract_lets +onlyGivenNames k
  split
  · exact h
  · exact h.relock

theorem State.keeps.execUnlockExpiry (h : s.keeps s₀.loose) : Res.keeps (execUnlockExpiry s) s₀.loose := by
  unfold Machine.execUnlockExpiry
  split
  · exact h
  · exact h.advanceTo.relock

/-! ### Recovery (R482) and the I3C endpoint (R555) -/

theorem State.keeps.execRecoveryReadBootStatus (h : s.keeps s₀) : Res.keeps (execRecoveryReadBootStatus s) s₀ := by
  unfold Machine.execRecoveryReadBootStatus
  split <;> exact h

theorem State.keeps.execRecoveryWriteFirmware {slot img} (h : s.keeps s₀) : Res.keeps (execRecoveryWriteFirmware slot img s) s₀ := by
  unfold Machine.execRecoveryWriteFirmware
  split
  · exact h
  · extract_lets +onlyGivenNames old x1
    exact h.updateFlash (Flash.floor_setSlot _ _ _).ge

theorem State.keeps.execDynamicAddressAssignment {how addr} (h : s.keeps s₀) : Res.keeps (execDynamicAddressAssignment how addr s) s₀ := by
  unfold Machine.execDynamicAddressAssignment
  extract_lets +onlyGivenNames ok
  split
  · exact h
  · exact h.update

end Keeps

end Sys2Proof.Machine
end

section
/-!
PROOFS. What no command takes away: device reset, boot, power and reset pins.
-/

namespace Sys2Proof.Machine

section Keeps
variable {s : State} {s₀ : Before}

/-! ### The remap and the self-test (R22, R25, R449, R480) -/

theorem State.keeps.remapCluster {c} (h : s.keeps s₀.loose) : (s.remapCluster c).keeps s₀.loose := by
  unfold State.remapCluster
  extract_lets +onlyGivenNames bad
  split
  · exact h
  · split
    · exact h.retireLogical
    · exact h.update

theorem State.keeps.selfTest {bad} (h : s.keeps s₀.loose) : (s.selfTest bad).keeps s₀.loose := by
  unfold State.selfTest
  extract_lets +onlyGivenNames _ t hit
  have ht : t.keeps s₀.loose := by
    unfold t
    split
    · exact h
    · exact h.update
  exact ht.foldl fun _ _ hu => hu.remapCluster

/-! ### Device reset -/

theorem State.keeps.resetCompletions (h : s.keeps s₀) : s.resetCompletions.keeps s₀ := by
  unfold State.resetCompletions
  refine h.foldl fun t _ ht => ?_
  split
  · refine ht.foldl fun u _ hu => ?_
    split
    · split
      · exact hu
      · exact hu.setRing.foldl fun _ _ hv => hv.writeCompletion

theorem State.keeps.markFns (h : s.keeps s₀) : s.markFns.keeps s₀ := h

theorem State.keeps.resetUnits (h : s.keeps s₀) : s.resetUnits.keeps s₀ := h

theorem State.keeps.backToForce (h : s.keeps s₀) : s.backToForce.keeps s₀ := by
  unfold State.backToForce
  extract_lets +onlyGivenNames f k _ t
  have ht : t.keeps s₀ := h.update
  split
  · exact ht
  · exact ht.updateFlash (Flash.floor_setSlot _ _ _).ge

theorem State.keeps.txnReset (h : s.keeps s₀) : s.txnReset.keeps s₀ := h

theorem State.keeps.finishTxn (h : s.keeps s₀.loose) : s.finishTxn.keeps s₀.loose := by
  unfold State.finishTxn
  split
  · exact h.txnReset
  · extract_lets +onlyGivenNames l t ops
    have ht : t.keeps s₀.loose := by
      refine h.foldl fun u _ hu => ?_
      split
      · exact hu.keeperWrite
      · exact hu
    refine State.keeps.txnReset ?_
    refine ht.foldl fun u _ hu => ?_
    split
    next heq => exact hu.opApply.of_eq heq
    · exact hu

theorem State.keeps.relockAtReset (h : s.keeps s₀.loose) : s.relockAtReset.keeps s₀.loose := by
  unfold State.relockAtReset
  split
  · exact h.relock
  · exact h

theorem State.keeps.latchedPorts (h : s.keeps s₀.loose) : s.latchedPorts.keeps s₀.loose := by
  unfold State.latchedPorts
  refine h.foldl fun t _ ht => ?_
  split
  · exact ht.portReset
  · exact ht

theorem State.keeps.deviceReset {cause k bad tablesOk} (h : s.keeps s₀.loose) : (s.deviceReset cause k bad tablesOk).keeps s₀.loose := by
  unfold State.deviceReset
  extract_lets +onlyGivenNames recent at_ why t t1 _ t2
  have ht : t.keeps s₀.loose := h.modErr
  have ht1 : t1.keeps s₀.loose := ht.resetUnits.backToForce
  have ht2 : t2.keeps s₀.loose := ht1.update
  split
  · extract_lets +onlyGivenNames u
    have hu : u.keeps s₀.loose := ht2.resetCompletions.modErr
    exact hu.update
  · extract_lets +onlyGivenNames t3 t4 t5 t6
    have ht3 : t3.keeps s₀.loose := by
      refine State.keeps.modErr ?_
      split
      · exact ht2
      · exact ht2.releaseAll
    have ht4 : t4.keeps s₀.loose := ht3.relockAtReset.selfTest.finishTxn.latchedPorts
    have ht5 : t5.keeps s₀.loose := ht4.resetCompletions.markFns
    have ht6 : t6.keeps s₀.loose := ht5.recordAt.flushLog
    exact State.keeps.update (ht6.update)

theorem State.keeps.execDeviceReset {cause bad tablesOk} (h : s.keeps s₀.loose) : Res.keeps (execDeviceReset cause bad tablesOk s) s₀.loose := by
  unfold Machine.execDeviceReset
  split
  · exact h
  · split
    · exact h.deviceReset
    · split
      · exact h
      · exact h.latchReset.deviceReset

/-! ### Power and reset pins (R499, R500, R513, R556) -/

theorem State.keeps.bare {ph} (h : s.keeps s₀.loose) : (s.bare ph).keeps s₀.loose := h.updateSectors (Nat.le_refl _)

theorem State.keeps.railsOff (h : s.keeps s₀.loose) : s.railsOff.keeps s₀.loose := h.bare (ph := .off)

theorem State.keeps.railsOn (h : s.keeps s₀.loose) : s.railsOn.keeps s₀.loose := by
  unfold State.railsOn
  split
  · exact h.bare (ph := .booting)
  · exact h

theorem State.keeps.execThermalTrip (h : s.keeps s₀.loose) : Res.keeps (execThermalTrip s) s₀.loose := by
  unfold Machine.execThermalTrip
  split
  · exact h
  · exact h.update.railsOff

theorem State.keeps.execInputOvervoltage (h : s.keeps s₀.loose) : Res.keeps (execInputOvervoltage s) s₀.loose := h.railsOff

theorem State.keeps.execModPwrenAssert (h : s.keeps s₀.loose) : Res.keeps (execModPwrenAssert s) s₀.loose := by
  unfold Machine.execModPwrenAssert
  exact State.keeps.railsOn (h.update)

theorem State.keeps.execModPwrenDeassert (h : s.keeps s₀.loose) : Res.keeps (execModPwrenDeassert s) s₀.loose := h.update.railsOff

theorem State.keeps.execInputPowerLoss (h : s.keeps s₀.loose) : Res.keeps (execInputPowerLoss s) s₀.loose := h.railsOff.update

theorem State.keeps.execInputPowerApplied (h : s.keeps s₀.loose) : Res.keeps (execInputPowerApplied s) s₀.loose := by
  unfold Machine.execInputPowerApplied
  split
  · exact h
  · exact State.keeps.railsOn (h.update)

theorem State.keeps.execModResetNAssert {us} (h : s.keeps s₀.loose) : Res.keeps (execModResetNAssert us s) s₀.loose := by
  unfold Machine.execModResetNAssert
  split
  · exact h
  · exact h.bare

/-! ### Boot (R480, R481) -/

theorem State.keeps.toRecovery {step} (h : s.keeps s₀) : (s.toRecovery step).keeps s₀ := h

theorem State.keeps.bootRest {r} (h : s.keeps s₀.loose) : (s.bootRest r).keeps s₀.loose := by
  unfold State.bootRest
  extract_lets +onlyGivenNames b t t1 t2 t3 t4
  have ht : t.keeps s₀.loose := h.update
  have ht1 : t1.keeps s₀.loose := by
    unfold t1
    cases hw : t.withdraw (36 * t.flash.stacksRetired.length + 23 * t.flash.pcRetired.length) with
    | none => exact ht
    | some x => exact ht.withdraw_eq hw
  have ht3 : t3.keeps s₀.loose := State.keeps.selfTest (ht1.foldl fun _ _ ht => ht.retireOrFail)
  have ht4 : t4.keeps s₀.loose := by
    unfold t4
    split
    · exact ht3
    · exact ht3.releaseAll.modErr
  split
  · exact ht4.toRecovery
  · exact State.keeps.update ht4.draw

theorem State.keeps.execBoot {r} (h : s.keeps s₀.loose) : Res.keeps (execBoot r s) s₀.loose := by
  unfold Machine.execBoot
  split
  · exact h
  · split
    · exact h.toRecovery
    · split
      · exact h.toRecovery
      · extract_lets +onlyGivenNames f _ t
        have ht : t.keeps s₀.loose := h.update
        split
        · exact ht.toRecovery
        · extract_lets +onlyGivenNames _ t1
          have ht1 : t1.keeps s₀.loose := ht.update
          split
          · exact ht1.toRecovery
          · exact ht1.backToForce.bootRest

end Keeps

end Sys2Proof.Machine
end

section
/-!
PROOFS. What no command takes away: scalar units.
-/

namespace Sys2Proof.Machine

section Keeps
variable {s : State} {s₀ : Before}

theorem State.keeps.narrowAccess {g pc store sz r ra imm} (h : s.keeps s₀) : (narrowAccess s g pc store sz r ra imm).keeps s₀ := by
  unfold Machine.narrowAccess
  extract_lets +onlyGivenNames u mu m n base off
  split
  · trivial
  · split
    · trivial
    · split
      · trivial
      · split
        · exact h
        · split
          · exact h.setMu
          · split
            · exact h.muWritePlain
            · exact h.touchRead.setScu

theorem State.keeps.queueReceive {g pc rd q} (h : s.keeps s₀) : (queueReceive s g pc rd q).keeps s₀ := by
  unfold Machine.queueReceive
  extract_lets +onlyGivenNames u qu
  split
  · trivial
  · split
    · split
      · exact h
      · exact h.setScu
    · exact h.setScu
  · split
    · split
      · exact h
      · exact h.setScu
    · exact h.setScu

theorem State.keeps.queueSelect {g pc rd ra rb pd rot} (h : s.keeps s₀) : (queueSelect s g pc rd ra rb pd rot).keeps s₀ := by
  unfold Machine.queueSelect
  extract_lets +onlyGivenNames u mask tmo
  split
  · trivial
  · split
    · trivial
    · split
      · exact h.setScu
      · split
        · exact h.setScu
        · exact h

theorem State.keeps.queueSend {g pc ra rb rc tag m} (h : s.keeps s₀) : (queueSend s g pc ra rb rc tag m).keeps s₀ := by
  unfold Machine.queueSend
  extract_lets +onlyGivenNames u mu a b c unit queue n off own foreign put
  split
  · trivial
  · split
    · trivial
    · split
      · split
        · trivial
        · unfold put
          extract_lets +onlyGivenNames msg
          split
          · exact h
          · split
            · exact h
            · exact h.setScu
      · split
        · trivial
        · split
          · trivial
          · split
            · exact h
            · split
              · exact h.setMu
              · extract_lets +onlyGivenNames t
                have ht : t.keeps s₀ := h.touchRead
                unfold put
                extract_lets +onlyGivenNames msg
                split
                · exact ht
                · split
                  · exact ht
                  · exact ht.setScu

theorem State.keeps.tensorIssue {g pc i w rc rs} (h : s.keeps s₀) : (tensorIssue s g pc i w rc rs).keeps s₀ := by
  unfold Machine.tensorIssue
  extract_lets +onlyGivenNames u c cv sv hold t t1 t2
  split
  · trivial
  · split
    · trivial
    · split
      · trivial
      · split
        · trivial
        · split
          · trivial
          · split
            · exact h
            · split
              · exact h
              · exact h.setTu.setIssueQ.setScu

theorem State.keeps.tagWait {g pc rd tag} (h : s.keeps s₀) : (tagWait s g pc rd tag).keeps s₀ := by
  unfold Machine.tagWait
  extract_lets +onlyGivenNames u
  split
  · exact h.setScu
  · split
    · exact h
    · exact h.setScu

theorem State.keeps.scalarEffect {g pc i} (h : s.keeps s₀) : (scalarEffect s g pc i).keeps s₀ := by
  unfold Machine.scalarEffect
  extract_lets +onlyGivenNames u write
  split
  · extract_lets +onlyGivenNames a b
    exact h.setScu
  · extract_lets +onlyGivenNames a b q
    exact h.setScu
  · extract_lets +onlyGivenNames a v
    exact h.setScu
  · extract_lets +onlyGivenNames a
    exact h.setScu
  · exact h.setScu
  · exact h.setScu
  · exact h.setScu
  · exact h.setScu
  · exact h.narrowAccess
  · exact h.narrowAccess
  · extract_lets +onlyGivenNames q
    split
    · exact h
    · split
      · trivial
      · split <;> exact h
  · exact h.setScu
  · extract_lets +onlyGivenNames a
    split
    · trivial
    · split
      · trivial
      · exact h
  · exact h
  · exact h.queueReceive
  · extract_lets +onlyGivenNames a
    split
    · trivial
    · exact h.queueReceive
  · exact h.queueSelect
  · exact h.queueSend
  · exact h.setScu
  · extract_lets +onlyGivenNames a qu
    split
    · trivial
    · split
      · trivial
      · exact h.setScu
  · exact h.setScu
  · exact h.tensorIssue
  · exact h.tagWait
  · extract_lets +onlyGivenNames q l
    split
    · trivial
    · split
      · exact h
      · exact h.setScu
  · exact h.setScu

theorem State.keeps.scuFail {g status cause op} (h : s.keeps s₀) : (s.scuFail g status cause op).keeps s₀ := by
  unfold State.scuFail
  split
  · exact h.failCtx
  · exact h

theorem State.keeps.retireScalar {g pc st} (h : s.keeps s₀) : (s.retireScalar g pc st).keeps s₀ := h.setScu.progress

theorem State.keeps.blockScalar {g i cause u now} (h : s.keeps s₀) : (s.blockScalar g i cause u now).keeps s₀ := h

theorem State.keeps.runScalarAt {g i} (h : s.keeps s₀) : (s.runScalarAt g i).keeps s₀ := by
  unfold State.runScalarAt
  extract_lets +onlyGivenNames u
  split
  next heq => exact (show State.keeps _ s₀ from h.scalarEffect.of_eq heq).retireScalar
  next heq => exact (show State.keeps _ s₀ from h.scalarEffect.of_eq heq).retireScalar
  next heq => exact (show State.keeps _ s₀ from h.scalarEffect.of_eq heq).blockScalar
  · exact h.scuFail
  next heq => exact (show State.keeps _ s₀ from h.scalarEffect.of_eq heq).scuFail

theorem State.keeps.fetchScalar {g} (h : s.keeps s₀) : (s.fetchScalar g).1.keeps s₀ := by
  unfold State.fetchScalar
  extract_lets +onlyGivenNames u
  split
  · exact h.scuFail
  · split
    · extract_lets +onlyGivenNames t
      have ht : t.keeps s₀ := h.setScu
      split
      · exact ht.failCtx
      · exact ht
    · split
      · exact h.scuFail
      · split
        · exact h.setScu.corrected
        · exact h

theorem State.keeps.runScalar {u i} (h : s.keeps s₀) : Res.keeps (runScalar u i s) s₀ := by
  unfold Machine.runScalar
  extract_lets +onlyGivenNames g
  split
  · split
    next heq1 => exact keeps_of_fst h.fetchScalar heq1
    next heq1 =>
      split
      · exact (keeps_of_fst h.fetchScalar heq1).runScalarAt
      · exact h
  · exact h

/-! ### Words that hold no instruction, and blocked units -/

theorem State.keeps.execScalarReservedOpcode {u} (h : s.keeps s₀) : Res.keeps (execScalarReservedOpcode u s) s₀ := by
  unfold Machine.execScalarReservedOpcode
  extract_lets +onlyGivenNames g
  split
  · split
    next heq1 => exact keeps_of_fst h.fetchScalar heq1
    next heq1 =>
      split
      · exact (keeps_of_fst h.fetchScalar heq1).scuFail
      · exact h
  · exact h

theorem State.keeps.execScuUnblock {u} (h : s.keeps s₀) : Res.keeps (execScuUnblock u s) s₀ := by
  unfold Machine.execScuUnblock
  extract_lets +onlyGivenNames g v
  split
  · split
    · exact h.runScalarAt
    · exact h
  · exact h

theorem State.keeps.execQselTimeout {u} (h : s.keeps s₀) : Res.keeps (execQselTimeout u s) s₀ := by
  unfold Machine.execQselTimeout
  extract_lets +onlyGivenNames g v
  split
  · split
    · split
      · exact h
      · exact h.advanceTo.setScu.retireScalar
    · exact h
  · exact h

end Keeps

end Sys2Proof.Machine
end

section
/-!
PROOFS. What no command takes away: every command.
-/

namespace Sys2Proof.Machine

section Keeps
variable {s : State} {s₀ : Before}

theorem State.keeps.exec {i} (h : s.keeps s₀.loose) : Res.keeps (exec i s) s₀.loose := by
  unfold Machine.exec
  split
  · exact h.execRegisterWrite
  · exact h.execRegisterAccessMisaligned
  · exact h.execHeldAccessTimeout
  · exact h.execMuDtSelWrite
  · exact h.execMuDtWordStage
  · exact h.execMuDtWord7Write
  · exact h.execMuBgCtlWrite
  · exact h.execScuQPtrWrite
  · exact h.execNfFlagClear
  · exact h.execVcuFlagClear
  · exact h.execCxDbTailWrite
  · exact h.execCxDbCplheadWrite
  · exact h.execCxRingSeqWrite
  · exact h.execRingEnable
  · exact h.execRingDisable
  · exact h.execStalledClear
  · exact h.execOverrunClear
  · exact h.execShadowDoorbell
  · exact h.execErrLogRdWrite
  · exact h.execHbmRcQuotaWrite
  · exact h.execAudSeedWrite
  · exact h.execErrInjectArm
  · exact h.execDebugNonceRead
  · exact h.execRelock
  · exact h.execPerfCounterWrap
  · exact h.runScalar
  · exact h.runScalar
  · exact h.runScalar
  · exact h.runScalar
  · exact h.runScalar
  · exact h.runScalar
  · exact h.runScalar
  · exact h.runScalar
  · exact h.runScalar
  · exact h.runScalar
  · exact h.runScalar
  · exact h.runScalar
  · exact h.runScalar
  · exact h.runScalar
  · exact h.runScalar
  · exact h.runScalar
  · exact h.runScalar
  · exact h.runScalar
  · exact h.runScalar
  · exact h.runScalar
  · exact h.runScalar
  · exact h.runScalar
  · exact h.runScalar
  · exact h.runScalar
  · exact h.runScalar
  · exact h.runScalar
  · exact h.runScalar
  · exact h.runScalar
  · exact h.runScalar
  · exact h.runScalar
  · exact h.runScalar
  · exact h.runScalar
  · exact h.runScalar
  · exact h.runScalar
  · exact h.runScalar
  · exact h.runScalar
  · exact h.runScalar
  · exact h.runScalar
  · exact h.runScalar
  · exact h.runScalar
  · exact h.runScalar
  · exact h.runScalar
  · exact h.runScalar
  · exact h.runScalar
  · exact h.runScalar
  · exact h.runScalar
  · exact h.runScalar
  · exact h.runScalar
  · exact h.execScalarReservedOpcode
  · exact h.execScuUnblock
  · exact h.execQselTimeout
  · exact h.execLdW
  · exact h.execStW
  · exact h.execPf
  · exact h.execXfer
  · exact h.execSlotDef
  · exact h.execSlotClr
  · exact h.execWinOpen
  · exact h.execWinClose
  · exact h.execImportMu
  · exact h.execContrib
  · exact h.execMmFwd
  · exact h.execMmDual
  · exact h.execMmPass
  · exact h.execMmAdpt
  · exact h.execEpi
  · exact h.execVop
  · exact h.execVred
  · exact h.execExportSign
  · exact h.execQsendTensor
  · exact h.execChain
  · exact h.execFence
  · exact h.execDaymark
  · exact h.execSteerOff
  · exact h.execSteerSw
  · exact h.execSteerMg
  · exact h.execSteerGate
  · exact h.execSteerCarry
  · exact h.execSteerRep
  · exact h.execSteerDec
  · exact h.execSteerConfigApply
  · exact h.execInstructionComplete
  · exact h.execGeneratorAcquire
  · exact h.execSlotGrant
  · exact h.execWindowWrite
  · exact h.execMuScrubRead
  · exact h.execBankGroupPowerDown
  · exact h.execBankGroupWake
  · exact h.execExternalReadData
  · exact h.execWriteAcknowledgement
  · exact h.execMcuBind
  · exact h.execMcuQuantum
  · exact h.execEpilogueTile
  · exact h.execMessageArrival
  · exact h.execMessageOutcome
  · exact h.execMessageReoffer
  · exact h.execCombiningResultPlace
  · exact h.execStreamFlitTransfer
  · exact h.execControlBitTransfer
  · exact h.execSteerToken
  · exact h.execFoghornStall
  · exact h.execSpillRecordWrite
  · exact h.execSpillRecordRead
  · exact h.execPacketForward
  · exact h.execContributionMerge
  · exact h.execTransitSlotFlush
  · exact h.execRootMerge
  · exact h.execRoundAdvance
  · exact h.execNativeReconfiguration
  · exact h.execForcedDrain
  · exact h.execDaymarkTokenArrival
  · exact h.execUnitSwitchover
  · exact h.execSlotTableSwitch
  · exact h.execScanFreeze
  · exact h.execSafePointStop
  · exact h.execScanOut
  · exact h.execScanIn
  · exact h.execScanRelease
  · exact h.execScanOpDone
  · exact h.execHbmRead
  · exact h.execHbmWrite
  · exact h.execHbmScrubRead
  · exact h.execPageResponse
  · exact h.execPageRequestTimeout
  · exact h.execAtsInvalidation
  · exact h.execHbmRetrain
  · exact h.execRetirementProceed
  · exact h.execCommandFetch
  · exact h.execStepCmd
  · exact h.execLoadProgram
  · exact h.execLoadProgramStageOnly
  · exact h.execBind
  · exact h.execCopy
  · exact h.execExportCmd
  · exact h.execImportCommand
  · exact h.execFenceCommand
  · exact h.execQueryDeviceTime
  · exact h.execQueryBeacon
  · exact h.execQueryEngineTime
  · exact h.execQueryContextState
  · exact h.execQueryMailboxRecords
  · exact h.execCompletionWrite
  · exact h.execCoalescingTimer
  · exact h.execCxlMemRead
  · exact h.execCxlMemWrite
  · exact h.execBiResponse
  · exact h.execBisnpTimeout
  · exact h.execLinkUp
  · exact h.execPerstN
  · exact h.execHotReset
  · exact h.execDlDown
  · exact h.execViralIndication
  · exact h.execIdeIntegrityFailure
  · exact h.execFlrVf
  · exact h.execFlrPf
  · exact h.execVfEnableClear
  · exact h.execCxlKeyExchange
  · exact h.execGetMeasurements
  · exact h.execSetSectorKey
  · exact h.execGrantQueue
  · exact h.execRevokeQueue
  · exact h.execDebugToken
  · exact h.execUnlockExpiry
  · exact h.execRecoveryReadBootStatus
  · exact h.execRecoveryWriteFirmware
  · exact h.execDispatchPass
  · exact h.execStepStart
  · exact h.execStepEnd
  · exact h.execDispatchTick
  · exact h.execStepLimitTimeout
  · exact h.execFootprintSwitch
  · exact h.execContextTeardown
  · exact h.execLogRecordWrite
  · exact h.execCorrectedErrorSummary
  · exact h.execDeviceReset
  · exact h.execUnitWatch
  · exact h.execAuditSampleRun
  · exact h.execAuditVerdict
  · exact h.execAuditSecondPartnerTimeout
  · exact h.execCompletionHoldTimeout
  · exact h.execLightshipSwap
  · exact h.execBeaconTick
  · exact h.execWatchdogExpiry
  · exact h.execDieAgentTimeout
  · exact h.execFirmwareUpdateGo
  · exact h.execHotRestartTimeout
  · exact h.execTrialEnd
  · exact h.execTxnBegin
  · exact h.execTxnStageWrite
  · exact h.execTxnStageOp
  · exact h.execTxnCommit
  · exact h.execTxnRollback
  · exact h.execTxnTimeout
  · exact h.execCreateSector
  · exact h.execReleaseSector
  · exact h.execCreateContext
  · exact h.execDestroyContext
  · exact h.execSwapCluster
  · exact h.execRetrainStack
  · exact h.execRetirePseudoChannel
  · exact h.execRetireStack
  · exact h.execOperatorDeviceReset
  · exact h.execPowerSample
  · exact h.execClockStepChange
  · exact h.execWarningCrossed
  · exact h.execDoubtCrossed
  · exact h.execResetLevelCrossed
  · exact h.execLevelCleared
  · exact h.execJunctionSample
  · exact h.execThermalTrip
  · exact h.execCoolFault
  · exact h.execLeakSense
  · exact h.execCoolingResume
  · exact h.execInputOvervoltage
  · exact h.execModPwrenAssert
  · exact h.execModPwrenDeassert
  · exact h.execInputPowerLoss
  · exact h.execModResetNAssert
  · exact h.execBoot
  · exact h.execFirmwareImageWrite
  · exact h.execInputPowerApplied
  · exact h.execSpdmKeyExchange
  · exact h.execSpdmEndSession
  · exact h.execTspAssignment
  · exact h.execDynamicAddressAssignment

end Keeps

theorem keeps_of_exec {c : Instr} {s t : State} (h : exec c s = .next t) : t.keeps ⟨s, false⟩ := by
  have hc : Res.keeps (exec c s) (Before.loose ⟨s, false⟩) := State.keeps.exec (s.keeps_refl false)
  rw [h] at hc
  exact hc

/-- Settles O3: each operation of the state leaves the queue as it is, so each command does. -/
theorem commandsLeaveQueue : Obligations.CommandsLeaveQueue := by
  intro c s t h
  obtain ⟨hpending, -, -⟩ := keeps_of_exec h
  exact hpending

/-- Settles O6: the end of a trial raises the floor to the version in force where that is above it, and no other operation writes it. -/
theorem rollbackFloorNeverFalls : Obligations.RollbackFloorNeverFalls := by
  intro c s t h
  obtain ⟨-, hfloor, -⟩ := keeps_of_exec h
  exact hfloor

end Sys2Proof.Machine
end

section
/-!
PROOFS. The queue of the commands, and a step on an empty one.
-/

namespace Sys2Proof.Machine

/-- Settles O1: the step is defined by the queue's front. -/
theorem stepRunsFrontCommand : Obligations.StepRunsFrontCommand := by
  intro c rest s hs
  unfold step
  rw [hs]

theorem step_of_empty {s : State} (h : s.pending = []) : step s = .next (idle s) := by
  unfold step
  rw [h]

theorem idle_of_on {s : State} (h : s.pins.inputOn = true) : idle s = s.advance 1 := if_pos h

theorem idle_of_off {s : State} (h : s.pins.inputOn = false) : idle s = s := if_neg (by simp [h])

/-- Settles O2: an idle step is the passing of one nanosecond while input power is on, and nothing without it. -/
theorem emptyQueuePassesOneTick : Obligations.EmptyQueuePassesOneTick := by
  intro s hs
  refine ⟨idle s, step_of_empty hs, fun hon => by rw [idle_of_on hon]; rfl, idle_of_off, ?_⟩
  cases hon : s.pins.inputOn with
  | true => rw [idle_of_on hon]; rfl
  | false => rw [idle_of_off hon]

end Sys2Proof.Machine
end

section
/-!
PROOFS. The registers of a ring, and the shadow doorbells (R385 to R390, R410).
-/

namespace Sys2Proof.Machine

/-! ### What a written value does to a ring -/

theorem Ring.tail_new {x : Ring} {v : Nat} (he : x.enable = true) (ht : x.t < v) (hd : v ≤ x.d + ringEntries x.size) :
    x.tail v = { x with t := v } := by
  simp [Ring.tail, he, Nat.not_le.2 ht, Nat.not_lt.2 hd]

theorem Ring.tail_overrun {x : Ring} {v : Nat} (he : x.enable = true) (ht : x.t < v) (hd : x.d + ringEntries x.size < v) :
    x.tail v = { x with overrun := true } := by
  simp [Ring.tail, he, Nat.not_le.2 ht, hd]

theorem Ring.tail_ignored {x : Ring} {v : Nat} (h : x.enable = false ∨ v ≤ x.t) : x.tail v = x := by
  simp [Ring.tail, h]

theorem Ring.cplHead_new {x : Ring} {v : Nat} (he : x.enable = true) (hh : x.h < v) (hd : v ≤ x.d) : x.cplHead v = { x with h := v } := by
  simp [Ring.cplHead, he, hh, hd]

theorem Ring.cplHead_ignored {x : Ring} {v : Nat} (h : x.enable = false ∨ v ≤ x.h ∨ x.d < v) : x.cplHead v = x := by
  have hno : ¬ ((x.enable && decide (x.h < v) && decide (v ≤ x.d)) = true) := by
    simp only [Bool.and_eq_true, decide_eq_true_eq]
    rintro ⟨⟨he, hh⟩, hd⟩
    rcases h with h | h | h
    · exact Bool.noConfusion (he.symm.trans h)
    · omega
    · omega
  exact if_neg hno

theorem Ring.setSeq_disabled {x : Ring} {v : Nat} (he : x.enable = false) :
    x.setSeq v = { x with f := v, d := v, t := v, h := v, odd := [], cmds := [] } := by
  simp [Ring.setSeq, he]

theorem Ring.setSeq_enabled {x : Ring} {v : Nat} (he : x.enable = true) : x.setSeq v = x := by
  simp [Ring.setSeq, he]

/-- Setting bit 0 of a word changes no field above it. -/
theorem fld_or_one (n hi lo : Nat) (h : 0 < lo) : fld (n ||| 1) hi lo = n / 2 ^ lo % 2 ^ (hi + 1 - lo) := by
  have hone : 1 >>> lo = 0 := by rw [Nat.shiftRight_eq_div_pow]; exact Nat.div_eq_of_lt (Nat.one_lt_two_pow h.ne')
  rw [fld, Nat.shiftRight_or_distrib, hone, Nat.or_zero, Nat.shiftRight_eq_div_pow]

theorem bitOf_or_one (n i : Nat) : bitOf (n ||| 1) i = (n.testBit i || decide (i = 0)) := by
  rw [bitOf, Nat.testBit_or]
  congr 1
  rw [Bool.eq_iff_iff, decide_eq_true_iff]
  exact Nat.testBit_one_eq_true_iff_self_eq_zero

theorem bitOf_clear_zero (v : Word) : bitOf (v &&& ~~~ 1#64).toNat 0 = false := by
  rw [bitOf, BitVec.testBit_toNat, BitVec.getLsbD_and]
  simp

/-- Enabling takes the setup from the word written. -/
theorem Ring.setCtl_enable {x : Ring} {v : Word} (he : x.enable = false) :
    x.setCtl (v ||| 1#64).toNat = { x with
      enable := decide (ringEntries (v.toNat / 2 % 16) ≠ 0), size := v.toNat / 2 % 16, vec := v.toNat / 32 % 16, shadow := v.getLsbD 9
      coalN := v.toNat / 2 ^ 10 % 2 ^ 8, coalUs := v.toNat / 2 ^ 18 % 2 ^ 16, intEn := v.getLsbD 34 } := by
  rw [BitVec.toNat_or, show (1#64).toNat = 1 from rfl]
  simp only [Ring.setCtl, he, fld_or_one _ _ _ (by decide : 0 < 1), fld_or_one _ _ _ (by decide : 0 < 5),
    fld_or_one _ _ _ (by decide : 0 < 10), fld_or_one _ _ _ (by decide : 0 < 18), bitOf_or_one]
  simp [BitVec.getLsbD, bne, beq_eq_decide]

theorem Ring.setCtl_enabled {x : Ring} {v : Word} (he : x.enable = true) : x.setCtl (v ||| 1#64).toNat = x := by
  have hbit : bitOf (v ||| 1#64).toNat 0 = true := by
    rw [BitVec.toNat_or]
    exact (bitOf_or_one v.toNat 0).trans (Bool.or_true _)
  simp only [Ring.setCtl, he, hbit, if_true]

theorem Ring.setCtl_disable {x : Ring} {v : Word} (he : x.enable = true) :
    x.setCtl (v &&& ~~~ 1#64).toNat = { x with enable := false, stopped := false } := by
  simp only [Ring.setCtl, he, bitOf_clear_zero, if_true, Bool.false_eq_true, if_false]

theorem Ring.regWrite_stalled (x : Ring) : x.regWrite 0x18 (2#64).toNat = { x with stalled := false } := by
  have h1 : bitOf (2#64).toNat 1 = true := rfl
  have h2 : bitOf (2#64).toNat 2 = false := rfl
  simp only [Ring.regWrite, h1, h2]
  simp

theorem Ring.regWrite_overrun (x : Ring) : x.regWrite 0x18 (4#64).toNat = { x with overrun := false } := by
  have h1 : bitOf (4#64).toNat 1 = false := rfl
  have h2 : bitOf (4#64).toNat 2 = true := rfl
  simp only [Ring.regWrite, h1, h2]
  simp

/-! ### The writes of a function's driver -/

section Driver
variable {f : FnId} {r : Fin 16} {v : Word} {s : State} (hcxl : (s.port f.port.val).cxl = true) (href : s.refused (.fn f) = none)
  (hp : s.phase ≠ .off)
include hcxl href hp

theorem regWrite_ringReg {o x : Nat} (ho : o < 0x40) (hx : x = 0x1000 + 0x40 * r.val + o) :
    s.regWrite (.fn f) (.bar0 f x) v = s.setRing (fnKey f) r.val ((s.ring (fnKey f) r.val).regWrite o v.toNat) := by
  rw [regWrite_bar0 s f x v hcxl href hp, hx, writeBar0_ring _ _ _ _ _ ho]

theorem exec_cxDbTailWrite :
    exec (.cxDbTailWrite f r v) s = .next (s.setRing (fnKey f) r.val ((s.ring (fnKey f) r.val).tail v.toNat)) :=
  congrArg Host.Outcome.next ((regWrite_bar0 s f _ v hcxl href hp).trans (writeBar0_tail s _ r v))

theorem exec_cxDbCplheadWrite :
    exec (.cxDbCplheadWrite f r v) s = .next (s.setRing (fnKey f) r.val ((s.ring (fnKey f) r.val).cplHead v.toNat)) :=
  congrArg Host.Outcome.next ((regWrite_bar0 s f _ v hcxl href hp).trans (writeBar0_cplHead s _ r v))

theorem exec_cxRingSeqWrite :
    exec (.cxRingSeqWrite f r v) s = .next (s.setRing (fnKey f) r.val ((s.ring (fnKey f) r.val).setSeq v.toNat)) :=
  congrArg Host.Outcome.next (regWrite_ringReg hcxl href hp (o := 0x20) (by decide) (by omega))

theorem exec_ringEnable :
    exec (.ringEnable f r v) s = .next (s.setRing (fnKey f) r.val ((s.ring (fnKey f) r.val).setCtl (v ||| 1#64).toNat)) :=
  congrArg Host.Outcome.next (regWrite_ringReg hcxl href hp (o := 0x10) (by decide) (by omega))

theorem exec_ringDisable :
    exec (.ringDisable f r v) s = .next (s.setRing (fnKey f) r.val ((s.ring (fnKey f) r.val).setCtl (v &&& ~~~ 1#64).toNat)) :=
  congrArg Host.Outcome.next (regWrite_ringReg hcxl href hp (o := 0x10) (by decide) (by omega))

theorem exec_stalledClear :
    exec (.stalledClear f r) s = .next (s.setRing (fnKey f) r.val { s.ring (fnKey f) r.val with stalled := false }) := by
  have hw := regWrite_ringReg hcxl href hp (r := r) (v := 2#64) (o := 0x18) (by decide) (by omega : 0x1018 + 0x40 * r.val = _)
  rw [Ring.regWrite_stalled] at hw
  exact congrArg Host.Outcome.next hw

theorem exec_overrunClear :
    exec (.overrunClear f r) s = .next (s.setRing (fnKey f) r.val { s.ring (fnKey f) r.val with overrun := false }) := by
  have hw := regWrite_ringReg hcxl href hp (r := r) (v := 4#64) (o := 0x18) (by decide) (by omega : 0x1018 + 0x40 * r.val = _)
  rw [Ring.regWrite_overrun] at hw
  exact congrArg Host.Outcome.next hw

end Driver

/-! ### The shadow doorbells (R387) -/

theorem mem_setAdd {l : List Nat} {i k : Nat} : k ∈ setAdd l i ↔ k = i ∨ k ∈ l := by
  induction l with
  | nil => simp [setAdd]
  | cons a l ih =>
    unfold setAdd
    split
    next h => simp [h]
    next =>
      split
      · simp
      · simp [ih, or_left_comm]

theorem mem_foldl_setAdd {α : Type} {l : List α} {g : α → Nat} {a : List Nat} {k : Nat} :
    k ∈ l.foldl (fun a x => setAdd a (g x)) a ↔ k ∈ a ∨ ∃ x ∈ l, g x = k := by
  induction l generalizing a with
  | nil => simp
  | cons x l ih => rw [List.foldl_cons, ih, mem_setAdd, List.exists_mem_cons_iff]; tauto

/-- The line that holds the word of a ring with `shadow` set is one that the port holds. -/
theorem State.mem_shadowLines {s : State} {k r : Nat} (hc : (s.port (k / 128)).cacheEn = true) (hr : r < 16)
    (h : (s.ring k r).shadow = true) : ((s.fn k).shadowBase + 8 * r) / 64 ∈ s.shadowLines k := by
  have hmem : r ∈ (upto 0 16).filter (fun r => (s.ring k r).shadow) := List.mem_filter.2 ⟨(mem_upto 0 16 r).2 ⟨Nat.zero_le r, by omega⟩, h⟩
  rw [State.shadowLines, hc]
  exact mem_foldl_setAdd.2 (.inr ⟨r, hmem, rfl⟩)

/-- The word of one ring is treated as a tail write if its line was held. -/
def State.shadowWord (l : List Nat) (k : Nat) (s : State) (e : Word × Nat) : State :=
  if (s.ring k e.2).shadow && l.contains (((s.fn k).shadowBase + 8 * e.2) / 64) then s.setRing k e.2 ((s.ring k e.2).tail e.1.toNat) else s

/-- Only the rings of one function differ. -/
def State.ringsOnly (t s : State) (k : Nat) : Prop :=
  t = { s with fns := t.fns } ∧ (∀ g, g ≠ k → t.fn g = s.fn g) ∧ t.fn k = { s.fn k with rings := (t.fn k).rings }

theorem State.ringsOnly_refl (s : State) (k : Nat) : s.ringsOnly s k := ⟨rfl, fun _ _ => rfl, rfl⟩

theorem State.ringsOnly.setRing {t s : State} {k r : Nat} {x : Ring} (h : t.ringsOnly s k) : (t.setRing k r x).ringsOnly s k := by
  obtain ⟨ht, hother, hk⟩ := h
  refine ⟨?_, fun g hg => ?_, ?_⟩
  · rw [ht]
    rfl
  · rw [State.setRing, State.setFn_fn, if_neg hg, hother g hg]
  · rw [State.setRing, State.setFn_fn, if_pos rfl, hk]

theorem State.ringsOnly.shadowWords {t s : State} {k : Nat} {l : List Nat} (ws : List (Word × Nat)) (h : t.ringsOnly s k) :
    (ws.foldl (State.shadowWord l k) t).ringsOnly s k := by
  refine List.foldlRecOn (motive := fun t => State.ringsOnly t s k) ws _ h fun u hu e _ => ?_
  unfold State.shadowWord
  split
  · exact hu.setRing
  · exact hu

theorem State.shadowWord_ring (l : List Nat) (k : Nat) (s : State) (e : Word × Nat) (j : Nat) :
    ((s.shadowWord l k e).ring k j)
      = if j = e.2 ∧ ((s.ring k j).shadow && l.contains (((s.fn k).shadowBase + 8 * j) / 64)) = true then (s.ring k j).tail e.1.toNat else s.ring k j := by
  unfold State.shadowWord
  by_cases hj : j = e.2
  · subst hj
    split <;> simp_all
  · split <;> simp [hj]

/-- Words for the rings from `a` on, one after another: each ring takes its own. -/
theorem State.shadowWords_ring (l : List Nat) (k j : Nat) (ws : List Word) : ∀ (a : Nat) (s : State),
    ((ws.zip (upto a ws.length)).foldl (State.shadowWord l k) s).ring k j
      = if a ≤ j ∧ j < a + ws.length ∧ ((s.ring k j).shadow && l.contains (((s.fn k).shadowBase + 8 * j) / 64)) = true
        then (s.ring k j).tail (ws.getD (j - a) 0).toNat else s.ring k j := by
  induction ws with
  | nil => intro a s; simp [upto]; omega
  | cons w ws ih =>
    intro a s
    have hbase : ((s.shadowWord l k (w, a)).fn k).shadowBase = (s.fn k).shadowBase := by
      unfold State.shadowWord State.setRing
      split <;> simp
    rw [List.length_cons, upto, List.zip_cons_cons, List.foldl_cons, ih, hbase, State.shadowWord_ring]
    rcases Nat.lt_trichotomy j a with h | h | h
    · simp [Nat.not_le.2 h, h.ne, show ¬ a + 1 ≤ j by omega]
    · subst h
      simp
    · obtain ⟨i, rfl⟩ := Nat.exists_eq_add_of_lt h
      simp [show a + 1 ≤ a + i + 1 by omega, show ¬ a + i + 1 = a by omega, show a ≤ a + i + 1 by omega, show a + i + 1 - a = i + 1 by omega, show a + i + 1 - (a + 1) = i by omega,
        show a + i + 1 < a + 1 + ws.length ↔ a + i + 1 < a + (ws.length + 1) by omega]

theorem foldl_emit {α : Type} (g : α → OutItem) (l : List α) (s : State) :
    l.foldl (fun (s : State) a => s.emit (g a)) s = { s with out := s.out ++ l.map g } := by
  induction l generalizing s with
  | nil => simp
  | cons a l ih => rw [List.foldl_cons, ih]; simp [State.emit]

/-- The lines held are read from the host, and then each word in its turn. -/
theorem exec_shadowDoorbell (f : FnId) (words : List Word) (s : State) :
    exec (.shadowDoorbell f words) s = .next ((words.zip (upto 0 16)).foldl (State.shadowWord (s.shadowLines (fnKey f)) (fnKey f))
      { s with out := s.out ++ (s.shadowLines (fnKey f)).map (fun a => .hostRead f.port.val (a * 64) 64) }) := by
  rw [← foldl_emit]
  rfl

theorem fnKey_div (f : FnId) : fnKey f / 128 = f.port.val := by
  have hf := f.fn.isLt
  unfold fnKey
  omega

/-- No line held, no word read. -/
theorem exec_shadowDoorbell_none {f : FnId} {words : List Word} {s : State} (hc : (s.port f.port.val).cacheEn = false) :
    exec (.shadowDoorbell f words) s = .next s := by
  have hlines : s.shadowLines (fnKey f) = [] := by simp [State.shadowLines, fnKey_div, hc]
  have hword : ∀ e, s.shadowWord [] (fnKey f) e = s := fun e => by simp [State.shadowWord]
  rw [exec_shadowDoorbell, hlines, List.map_nil, List.append_nil]
  exact congrArg Host.Outcome.next (List.foldl_fixed' hword _)

/-- Settles O39: each register is the write of a ring's field; the fold over the words of the shadow area meets each ring once. -/
theorem ringRegisters : Obligations.RingRegisters := by
  refine ⟨fun f r v s => ?_, fun f words s hw hc => ?_, fun f words s hc => ?_⟩
  · intro k x hcxl href hp
    have htail := exec_cxDbTailWrite (r := r) (v := v) hcxl href hp
    have hhead := exec_cxDbCplheadWrite (r := r) (v := v) hcxl href hp
    have hseq := exec_cxRingSeqWrite (r := r) (v := v) hcxl href hp
    have hon := exec_ringEnable (r := r) (v := v) hcxl href hp
    have hoff := exec_ringDisable (r := r) (v := v) hcxl href hp
    refine ⟨fun he ht hd => ?_, fun he hd ht => ?_, fun h => ?_, fun he hh hd => ?_, fun h => ?_, fun he => ?_, fun he => ?_, fun he => ?_,
      fun he => ?_, fun he => ?_, exec_stalledClear hcxl href hp, exec_overrunClear hcxl href hp⟩
    · rw [htail, Ring.tail_new he ht hd]
    · rw [htail, Ring.tail_overrun he ht hd]
    · rw [htail, Ring.tail_ignored h]
    · rw [hhead, Ring.cplHead_new he hh hd]
    · rw [hhead, Ring.cplHead_ignored h]
    · rw [hseq, Ring.setSeq_disabled he]
    · rw [hseq, Ring.setSeq_enabled he]
    · rw [hon, Ring.setCtl_enable he]
    · rw [hon, Ring.setCtl_enabled he]
    · rw [hoff, Ring.setCtl_disable he]
  · let s1 : State := { s with out := s.out ++ (s.shadowLines (fnKey f)).map (fun a => .hostRead f.port.val (a * 64) 64) }
    obtain ⟨hfns, hother, hrings⟩ := (State.ringsOnly_refl s1 (fnKey f)).shadowWords (l := s.shadowLines (fnKey f)) (words.zip (upto 0 16))
    refine ⟨_, exec_shadowDoorbell f words s, fun r => ?_, hfns, hother, hrings⟩
    have hr := r.isLt
    have hword := State.shadowWords_ring (s.shadowLines (fnKey f)) (fnKey f) r.val words 0 s1
    rw [hw, Nat.sub_zero] at hword
    refine hword.trans ?_
    change (if 0 ≤ r.val ∧ r.val < 0 + 16 ∧ ((s.ring (fnKey f) r.val).shadow
      && (s.shadowLines (fnKey f)).contains (((s.fn (fnKey f)).shadowBase + 8 * r.val) / 64)) = true then _ else s.ring (fnKey f) r.val) = _
    by_cases hsh : (s.ring (fnKey f) r.val).shadow = true
    · have hline := State.mem_shadowLines (s := s) (k := fnKey f) (by rw [fnKey_div]; exact hc) hr hsh
      rw [if_pos hsh, if_pos ⟨Nat.zero_le _, by omega, by rw [hsh, List.contains_iff_mem.2 hline]; rfl⟩]
      rfl
    · rw [if_neg hsh, if_neg fun h => hsh (by simpa using (Bool.and_eq_true_iff.1 h.2.2).1)]
  · exact exec_shadowDoorbell_none hc

end Sys2Proof.Machine
end

section
/-!
PROOFS. Fetching a command, FENCE and QUERY (R388, R391, R398).
-/

namespace Sys2Proof.Machine

theorem Cmd.type_eq (c : Cmd) : c.type_ = c.entry.toNat % 256 := rfl

/-- The command that an entry read at F is: a FENCE waits for what the rings of its function have fetched. -/
def State.fetchedCmd (s : State) (k r : Nat) (entry : BitVec 512) : Cmd :=
  let c : Cmd := { entry := entry, seq := (s.ring k r).f }
  if c.type_ = 7 then { c with wait := s.fetched k } else c

theorem State.fetchedCmd_eq (s : State) (k r : Nat) (entry : BitVec 512) :
    s.fetchedCmd k r entry = { entry := entry, seq := (s.ring k r).f, wait := if entry.toNat % 256 = 7 then s.fetched k else [] } := by
  unfold State.fetchedCmd
  dsimp only
  rw [Cmd.type_eq]
  split <;> rfl

/-- The state once the entry at F has been read from the host. -/
def State.readEntry (s : State) (f : FnId) (r : Fin 16) : State :=
  let x := s.ring (fnKey f) r.val
  s.emit (.hostRead f.port.val (x.cmdBase + x.f % ringEntries x.size * 64) 64)

section Fetch
variable {f : FnId} {r : Fin 16} {entry : BitVec 512} {s : State} (hmay : s.mayFetch (fnKey f) r.val = true)
include hmay

/-- An entry whose sequence is F joins the fetched commands, completed at once when it is malformed. -/
theorem exec_commandFetch_inOrder (hseq : entry.toNat / 2 ^ 32 % 2 ^ 64 = (s.ring (fnKey f) r.val).f % 2 ^ 64) :
    exec (.commandFetch f r entry) s = .next ((s.readEntry f r).setRing (fnKey f) r.val { s.ring (fnKey f) r.val with
      f := (s.ring (fnKey f) r.val).f + 1
      cmds := (s.ring (fnKey f) r.val).cmds ++ [if (s.fetchedCmd (fnKey f) r.val entry).malformed = true
        then { s.fetchedCmd (fnKey f) r.val entry with done := true, status := stVerifyReject } else s.fetchedCmd (fnKey f) r.val entry] }) := by
  have hfld : ¬ fld entry.toNat 95 32 ≠ (s.ring (fnKey f) r.val).f % 2 ^ 64 := by rw [fld_eq_div_mod]; exact not_not.2 hseq
  exact (if_neg (by rw [hmay]; decide)).trans (if_neg hfld)

theorem exec_commandFetch_joins {c : Cmd} (hseq : entry.toNat / 2 ^ 32 % 2 ^ 64 = (s.ring (fnKey f) r.val).f % 2 ^ 64)
    (hc : s.fetchedCmd (fnKey f) r.val entry = c) (hok : c.malformed = false) :
    exec (.commandFetch f r entry) s = .next ((s.readEntry f r).setRing (fnKey f) r.val { s.ring (fnKey f) r.val with
      f := (s.ring (fnKey f) r.val).f + 1, cmds := (s.ring (fnKey f) r.val).cmds ++ [c] }) := by
  rw [exec_commandFetch_inOrder hmay hseq, hc, if_neg (ne_true_of_eq_false hok)]

theorem exec_commandFetch_rejected {c : Cmd} (hseq : entry.toNat / 2 ^ 32 % 2 ^ 64 = (s.ring (fnKey f) r.val).f % 2 ^ 64)
    (hc : s.fetchedCmd (fnKey f) r.val entry = c) (hbad : c.malformed = true) :
    exec (.commandFetch f r entry) s = .next ((s.readEntry f r).setRing (fnKey f) r.val { s.ring (fnKey f) r.val with
      f := (s.ring (fnKey f) r.val).f + 1, cmds := (s.ring (fnKey f) r.val).cmds ++ [{ c with done := true, status := stVerifyReject }] }) := by
  rw [exec_commandFetch_inOrder hmay hseq, hc, if_pos hbad]

/-- One with another sequence stalls the ring. -/
theorem exec_commandFetch_outOfOrder (hseq : entry.toNat / 2 ^ 32 % 2 ^ 64 ≠ (s.ring (fnKey f) r.val).f % 2 ^ 64) :
    exec (.commandFetch f r entry) s = .next (((s.readEntry f r).setRing (fnKey f) r.val
      { s.ring (fnKey f) r.val with stalled := true }).signal (fnKey f) (s.ring (fnKey f) r.val).vec) := by
  have hfld : fld entry.toNat 95 32 ≠ (s.ring (fnKey f) r.val).f % 2 ^ 64 := by rw [fld_eq_div_mod]; exact hseq
  exact (if_neg (by rw [hmay]; decide)).trans (if_pos hfld)

end Fetch

/-- Settles O40: a fetched entry is compared with F, and one that is F is checked for reserved bits. -/
theorem commandFetchChecksSequence : Obligations.CommandFetchChecksSequence := by
  intro f r entry s k x c s' hmay
  have hc : s.fetchedCmd k r.val entry = c := s.fetchedCmd_eq k r.val entry
  exact ⟨fun hseq hok => exec_commandFetch_joins hmay hseq hc hok, fun hseq hbad => exec_commandFetch_rejected hmay hseq hc hbad,
    fun hseq => exec_commandFetch_outOfOrder hmay hseq⟩

/-! ### QUERY and FENCE -/

section Front
variable {f : FnId} {r : Fin 16} {c : Cmd} {s : State} (hp : s.phase = .ready)
include hp

/-- A QUERY of the kind asked for completes with its value. -/
theorem State.query_value {k i what n : Nat} {v : Cmd → Option Nat} (hf : s.front k i 8 = some c) (hw : c.what = what) (hv : v c = some n) :
    s.query k i what v = s.finish k i stOK n := by
  simp [State.query, hf, hp, hw, hv]

theorem exec_fenceCommand_done (hf : s.front (fnKey f) r.val 7 = some c)
    (hw : ∀ e ∈ c.wait, ∀ d ∈ (s.ring (fnKey f) e.1).cmds, d.seq < e.2 → d.done = true) :
    exec (.fenceCommand f r) s = .next (s.finish (fnKey f) r.val stOK 0) := by
  have hall : c.wait.all (fun e => (s.ring (fnKey f) e.1).cmds.all (fun d => d.done || decide (e.2 ≤ d.seq))) = true := by
    simp only [List.all_eq_true, Bool.or_eq_true, decide_eq_true_eq]
    exact fun e he d hd => (Nat.lt_or_ge d.seq e.2).imp_left (hw e he d hd)
  simp only [exec, execFenceCommand, hf, hp, hall]
  rfl

end Front

theorem exec_fenceCommand_waits {f : FnId} {r : Fin 16} {c : Cmd} {s : State} (hf : s.front (fnKey f) r.val 7 = some c)
    (hw : ∃ e ∈ c.wait, ∃ d ∈ (s.ring (fnKey f) e.1).cmds, d.seq < e.2 ∧ d.done = false) :
    exec (.fenceCommand f r) s = .next s := by
  obtain ⟨e, he, d, hd, hlt, hdone⟩ := hw
  have hall : ¬ c.wait.all (fun e => (s.ring (fnKey f) e.1).cmds.all (fun d => d.done || decide (e.2 ≤ d.seq))) = true := by
    intro h
    have hd' := List.all_eq_true.1 (List.all_eq_true.1 h e he) d hd
    rw [hdone, Bool.false_or, decide_eq_true_eq] at hd'
    omega
  simp only [exec, execFenceCommand, hf, hall]
  rw [if_neg (by simp)]

/-- Settles O41: a QUERY is finished with the value of its row, a FENCE once no command fetched before it is open. -/
theorem queryAndFence : Obligations.QueryAndFence := by
  intro f r c x s k hp
  refine ⟨fun hf => ⟨fun hw => ?_, fun hw => ?_, fun hw hx => ?_, fun hw hx => ?_, fun hw => ?_⟩, fun entry => ?_,
    exec_fenceCommand_done hp, exec_fenceCommand_waits⟩
  · exact congrArg Host.Outcome.next (State.query_value hp hf hw rfl)
  · exact congrArg Host.Outcome.next (State.query_value hp hf hw rfl)
  · exact congrArg Host.Outcome.next (State.query_value hp hf hw (by rw [hx]; rfl))
  · refine congrArg Host.Outcome.next (State.query_value hp hf hw ?_)
    rw [hx, Option.map_some]
    unfold ctxCode
    cases x.state <;> rfl
  · exact congrArg Host.Outcome.next (State.query_value hp hf hw rfl)
  · intro y hmay htype hseq hok
    have hc : s.fetchedCmd k r.val entry = { entry := entry, seq := y.f, wait := s.fetched k } := by rw [State.fetchedCmd_eq, if_pos htype]
    exact exec_commandFetch_joins hmay hseq hc hok

end Sys2Proof.Machine
end

section
/-!
PROOFS. STEP and BIND (R394, R396, R420, R433, R435).
-/

namespace Sys2Proof.Machine

/-! ### STEP -/

section Step
variable {f : FnId} {r : Fin 16} {c : Cmd} {x : Ctx} {s : State} (hp : s.phase = .ready) (hf : s.front (fnKey f) r.val 1 = some c)
  (hs : c.started = false)
include hp hf hs

theorem exec_stepCmd_unbound (hb : s.boundCtx (fnKey f) c = none) :
    exec (.stepCmd f r) s = .next (s.finish (fnKey f) r.val stVerifyReject 0) := by
  simp [exec, execStepCmd, hf, hp, hs, hb]

variable (hb : s.boundCtx (fnKey f) c = some x)
include hb

theorem exec_stepCmd_payloadBad (hq : s.payloadBad x c.qaddr = true) :
    exec (.stepCmd f r) s = .next (s.finish (fnKey f) r.val stVerifyReject 0) := by
  simp [exec, execStepCmd, hf, hp, hs, hb, hq]

variable (hq : s.payloadBad x c.qaddr = false)
include hq

theorem exec_stepCmd_failed (hx : x.state = .failed) : exec (.stepCmd f r) s = .next (s.finish (fnKey f) r.val stNotRun 0) := by
  simp [exec, execStepCmd, hf, hp, hs, hb, hq, hx]

theorem exec_stepCmd_noProgram (hx : x.state ≠ .failed) (hprog : x.program = false) :
    exec (.stepCmd f r) s = .next (s.finish (fnKey f) r.val stVerifyReject 0) := by
  simp [exec, execStepCmd, hf, hp, hs, hb, hq, hx, hprog]

theorem exec_stepCmd_taken {a : State} (hx : x.state ≠ .failed) (hprog : x.program = true) (ha : s.takeIn c.ctxN x = some a) :
    exec (.stepCmd f r) s = .next ((a.setFront (fnKey f) r.val (fun c => { c with started := true })).addStep c.ctxN
      { fn := fnKey f, ring := r.val }) := by
  simp [exec, execStepCmd, hf, hp, hs, hb, hq, hx, hprog, ha]

end Step

/-! ### BIND -/

/-- What a BIND entry binds. -/
def Cmd.binding (c : Cmd) : Binding :=
  { root := fld c.e 191 128, share := fld c.e 207 192, turn := if fld c.e 215 208 = 0 then 8 else fld c.e 215 208
    pasid := fld c.e 235 216, pasidV := c.e.testBit 236 }

theorem Ctx.bindTo_state (x : Ctx) (b : Binding) : (x.bindTo b).state = x.state := rfl

section Bind
variable {f : FnId} {r : Fin 16} {c : Cmd} {x : Ctx} {q : Sector} {s : State} (hp : s.phase = .ready)
  (hf : s.front (fnKey f) r.val 3 = some c) (hb : s.boundCtx (fnKey f) c = some x) (hq : s.sector x.sector = some q)
include hp hf hb hq

theorem exec_bind_rejected (hroot : fld c.e 191 128 % 4096 ≠ 0 ∨ s.rootOk x.sector (fld c.e 191 128) 4096 = false) :
    exec (.bind f r) s = .next (s.finish (fnKey f) r.val stVerifyReject 0) := by
  simp [exec, execBind, hf, hp, hb, hq, hroot]

variable (halign : fld c.e 191 128 % 4096 = 0) (hroot : s.rootOk x.sector (fld c.e 191 128) 4096 = true) (ht : x.tearing = false)
include halign hroot ht

theorem exec_bind_later (hx : x.state = .running ∨ x.begun = true) :
    exec (.bind f r) s = .next ((s.setCtx c.ctxN { x with rebind := some c.binding }).finish (fnKey f) r.val stOK 0) := by
  simp [exec, execBind, hf, hp, hb, hq, halign, hroot, ht, hx, Cmd.binding, bitOf]

theorem exec_bind_now (hx : x.state ≠ .running) (hfail : x.state ≠ .failed) (hbegun : x.begun = false) :
    exec (.bind f r) s = .next (((s.setCtx c.ctxN (x.bindTo c.binding)).dropTlb c.ctxN).finish (fnKey f) r.val stOK 0) := by
  simp [exec, execBind, hf, hp, hb, hq, halign, hroot, ht, hx, hfail, hbegun, Cmd.binding, bitOf, Ctx.bindTo_state]

theorem exec_bind_failed (hfail : x.state = .failed) (hbegun : x.begun = false) :
    exec (.bind f r) s = .next (((s.setCtx c.ctxN { x.bindTo c.binding with
      state := if s.residents x.sector < 64 then .idle else .notResident, status := 0, foot := none, program := false, images := []
      scans := [], savedMem := [], savedSpill := [], save := 0 }).dropTlb c.ctxN).finish (fnKey f) r.val stOK 0) := by
  simp [exec, execBind, hf, hp, hb, hq, halign, hroot, ht, hfail, hbegun, Cmd.binding, bitOf, Ctx.bindTo_state]
  rfl

end Bind

/-- Settles O42: each clause is the branch of STEP or of BIND that its conditions choose. -/
theorem stepAndBind : Obligations.StepAndBind := by
  intro f r c x q a s k e hp
  refine ⟨exec_stepCmd_unbound hp, exec_stepCmd_payloadBad hp, fun hf hs hb hq => ⟨exec_stepCmd_failed hp hf hs hb hq,
    exec_stepCmd_noProgram hp hf hs hb hq, exec_stepCmd_taken hp hf hs hb hq⟩, fun hf hb hq halign hroot ht => ?_, exec_bind_rejected hp⟩
  exact ⟨exec_bind_now hp hf hb hq halign hroot ht, exec_bind_later hp hf hb hq halign hroot ht, exec_bind_failed hp hf hb hq halign hroot ht⟩

end Sys2Proof.Machine
end

section
/-!
PROOFS. LOAD_PROGRAM, COPY, EXPORT and IMPORT (R392, R393, R395, R397).
-/

namespace Sys2Proof.Machine

/-! ### LOAD_PROGRAM -/

theorem exec_loadProgram_starts {f : FnId} {r : Fin 16} {c : Cmd} {s : State} (hp : s.phase = .ready)
    (hf : s.front (fnKey f) r.val 2 = some c) (hs : c.started = false) (hstage : c.entry.getLsbD 10 = false) :
    exec (.loadProgram f r) s = .next (s.startLoad (fnKey f) r.val c) := by
  have hbit : bitOf c.e 10 = false := hstage
  simp [exec, execLoadProgram, hf, hp, hs, hbit]

theorem exec_loadProgramStageOnly_starts {f : FnId} {r : Fin 16} {c : Cmd} {s : State} (hp : s.phase = .ready)
    (hf : s.front (fnKey f) r.val 2 = some c) (hs : c.started = false) (hstage : c.entry.getLsbD 10 = true) :
    exec (.loadProgramStageOnly f r) s = .next (s.startLoad (fnKey f) r.val c) := by
  have hbit : bitOf c.e 10 = true := hstage
  simp [exec, execLoadProgramStageOnly, hf, hp, hs, hbit]

/-- A load of a command that passes the checks of its entry, in a sector without reserved clusters. -/
structure LoadStarts (s : State) (k : Nat) (c : Cmd) (x : Ctx) (q : Sector) : Prop where
  bound : s.boundCtx k c = some x
  sector : s.sector x.sector = some q
  holds : q.holds c.region = true
  inside : s.firstOutside x c.src false false = false
  idle : x.state = .idle
  keeper : s.keeperUp = true
  open_ : q.res = false

section Load
variable {k r : Nat} {c : Cmd} {x : Ctx} {q : Sector} {imgs : List (Nat × Staged)} {s d t : State} (h : LoadStarts s k c x q)
include h

/-- The lines of the set cannot all be read now. -/
theorem State.startLoad_waits (hd : s.directAccess (copyUnit k r) (s.setLines x c.region c.src) [] = (d, false)) : s.startLoad k r c = d := by
  simp [State.startLoad, h.bound, h.sector, h.holds, h.inside, h.open_, h.idle, h.keeper, hd]

variable (hd : s.directAccess (copyUnit k r) (s.setLines x c.region c.src) [] = (d, true))
include hd

theorem State.startLoad_rejected (ho : d.loadSet x c.ctxN q c.region c.src c.place = (t, .reject)) :
    s.startLoad k r c = t.finish k r stVerifyReject 0 := by
  simp [State.startLoad, h.bound, h.sector, h.holds, h.inside, h.open_, h.idle, h.keeper, hd, ho]

variable (ho : d.loadSet x c.ctxN q c.region c.src c.place = (t, .ok imgs))
include ho

theorem State.startLoad_staged (hstage : c.entry.getLsbD 10 = true) :
    s.startLoad k r c = ((t.chainLoad x.sector c.region imgs).keepImages c.ctxN c.place imgs).finish k r stOK 0 := by
  have hbit : bitOf c.e 10 = true := hstage
  simp [State.startLoad, h.bound, h.sector, h.holds, h.inside, h.open_, h.idle, h.keeper, hd, ho, hbit]

theorem State.startLoad_step (hstage : c.entry.getLsbD 10 = false) (hfoot : x.foot = some c.region) :
    s.startLoad k r c = (((t.chainLoad x.sector c.region imgs).keepImages c.ctxN c.place imgs).setFront k r
      (fun c => { c with started := true })).addStep c.ctxN { fn := k, ring := r, load := some ⟨c.region, c.place, c.entry.getLsbD 9⟩ } := by
  have hbit : bitOf c.e 10 = false := hstage
  simp [State.startLoad, h.bound, h.sector, h.holds, h.inside, h.open_, h.idle, h.keeper, hd, ho, hbit, hfoot, State.takeIn]
  rfl

end Load

/-! ### The checks of the copy engine before a row -/

section Copy
variable {k r t : Nat} {toHost fromHost : Bool} {data : List Byte} {poison : List Nat} {c : Cmd} {x : Ctx} {s : State}
  (hp : s.phase = .ready) (hf : s.front k r t = some c)
include hp hf

theorem State.copyCmd_unbound (hb : s.boundCtx k c = none) :
    s.copyCmd k r t toHost fromHost data poison = s.finish k r stVerifyReject 0 := by
  simp [State.copyCmd, hf, hp, hb]

variable (hb : s.boundCtx k c = some x)
include hb

theorem State.copyCmd_starts (hs : c.started = false) :
    (c.len ≠ 0 ∧ (s.firstOutside x c.src false fromHost = true ∨ s.firstOutside x c.dst true toHost = true) →
      s.copyCmd k r t toHost fromHost data poison = s.finish k r stVerifyReject 0)
    ∧ (¬ (c.len ≠ 0 ∧ (s.firstOutside x c.src false fromHost = true ∨ s.firstOutside x c.dst true toHost = true)) →
      (x.state = .failed → s.copyCmd k r t toHost fromHost data poison = s.finish k r stNotRun 0)
      ∧ (x.state ≠ .failed → s.copyCmd k r t toHost fromHost data poison = s.setFront k r (fun c => { c with started := true }))) := by
  refine ⟨fun hout => ?_, fun hin => ⟨fun hx => ?_, fun hx => ?_⟩⟩
  · simp only [State.copyCmd, hf, hp, hb, hs]
    exact if_pos hout
  · simp only [State.copyCmd, hf, hp, hb, hs]
    exact (if_neg hin).trans (if_pos hx)
  · simp only [State.copyCmd, hf, hp, hb, hs]
    exact (if_neg hin).trans (if_neg hx)

theorem State.copyCmd_goesOn (hx : x.state ≠ .failed) (hs : c.started = true) :
    (c.len ≤ c.pos → s.copyCmd k r t toHost fromHost data poison = s.finish k r stOK c.pos)
    ∧ (c.pos < c.len → s.copyCmd k r t toHost fromHost data poison = s.copyRow k r c.ctxN x c toHost fromHost data poison) := by
  refine ⟨fun hend => ?_, fun hmore => ?_⟩
  · simp [State.copyCmd, hf, hp, hb, hs, hx, hend]
  · simp [State.copyCmd, hf, hp, hb, hs, hx, Nat.not_le.2 hmore]

end Copy

/-! ### One row -/

section Row
variable {k r n : Nat} {x : Ctx} {c : Cmd} {toHost fromHost : Bool} {data : List Byte} {poison : List Nat} {s d y : State}

/-- The bytes that row `c.pos` moves, and its pieces at the source and at the destination. -/
def Cmd.rowLen (c : Cmd) : Nat := min 4096 (c.len - c.pos)
def Cmd.srcPieces (c : Cmd) : List (Nat × Nat) := copyPieces (c.src + c.pos) 3 c.rowLen
def Cmd.dstPieces (c : Cmd) : List (Nat × Nat) := copyPieces (c.dst + c.pos) 3 c.rowLen

/-- Whether the lines of a row and of its tables may be accessed now, and the state once that is known. -/
def State.rowAccess (s : State) (k r n : Nat) (x : Ctx) (c : Cmd) (toHost fromHost : Bool) : State × Bool :=
  let z := (s.rowSides n x toHost fromHost c.srcPieces c.dstPieces).2
  s.directAccess (copyUnit k r) ((c.srcPieces ++ c.dstPieces).flatMap (fun e => s.tableLines x e.1) ++ z.1.lines) z.2.lines

theorem State.copyRow_waits (hd : s.rowAccess k r n x c toHost fromHost = (d, false)) :
    s.copyRow k r n x c toHost fromHost data poison = d := by
  simp only [State.rowAccess, Cmd.srcPieces, Cmd.dstPieces, Cmd.rowLen] at hd
  simp only [State.copyRow, hd]

theorem State.copyRow_moves {a b : Side2} (hd : s.rowAccess k r n x c toHost fromHost = (d, true))
    (hy : d.rowSides n x toHost fromHost c.srcPieces c.dstPieces = (y, a, b)) :
    s.copyRow k r n x c toHost fromHost data poison = y.copySides k r n x c c.rowLen data poison a b := by
  simp only [State.rowAccess, Cmd.srcPieces, Cmd.dstPieces, Cmd.rowLen] at hd hy
  simp only [State.copyRow, hd, hy, Cmd.rowLen]

end Row

/-- The three commands of the copy engine, with their type and whether they write or read host memory. -/
def copyInstrs (f : FnId) (r : Fin 16) (data : List Byte) (poison : List Nat) : List (Nat × Instr × Bool × Bool) :=
  [(4, .copy f r, false, false), (5, .exportCmd f r, true, false), (6, .importCommand f r data poison, false, true)]

/-- Each is the copy engine's command of its type; only an IMPORT has a row of the host. -/
theorem exec_copyInstr {f : FnId} {r : Fin 16} {data : List Byte} {poison : List Nat} {e : Nat × Instr × Bool × Bool}
    (he : e ∈ copyInstrs f r data poison) (s : State) :
    ∃ l p, exec e.2.1 s = .next (s.copyCmd (fnKey f) r.val e.1 e.2.2.1 e.2.2.2 l p)
      ∧ (e.1 ≠ 6 → l = [] ∧ p = []) ∧ (e.1 = 6 → l = data ∧ p = poison) := by
  simp only [copyInstrs, List.mem_cons, List.not_mem_nil, or_false] at he
  rcases he with rfl | rfl | rfl
  · exact ⟨[], [], rfl, fun _ => ⟨rfl, rfl⟩, fun h => absurd h (by simp)⟩
  · exact ⟨[], [], rfl, fun _ => ⟨rfl, rfl⟩, fun h => absurd h (by simp)⟩
  · exact ⟨data, poison, rfl, fun h => absurd rfl h, fun _ => ⟨rfl, rfl⟩⟩

/-- Settles O43: a load is the loader's answer once its lines may be read; a copy is its checks, then row after row, each between the two
sides that its translations give. -/
theorem loadAndCopy : Obligations.LoadAndCopy := by
  refine ⟨?_, fun k r c x q imgs s => ?_, fun k r c x toHost fromHost data poison a b s => ?_⟩
  · intro f r c x data poison s k hp
    refine ⟨exec_loadProgram_starts hp, exec_loadProgramStageOnly_starts hp, fun e he hf => ?_⟩
    obtain ⟨l, p, hexec, hother, himport⟩ := exec_copyInstr he s
    rw [hexec]
    refine ⟨fun hb => congrArg _ (State.copyCmd_unbound hp hf hb), fun hb hs => ?_, fun hb hx hs => ?_⟩
    · obtain ⟨hreject, hrest⟩ := State.copyCmd_starts (data := l) (poison := p) hp hf hb hs
      exact ⟨fun hout => congrArg _ (hreject hout), fun hin hx => congrArg _ ((hrest hin).1 hx), fun hin hx => congrArg _ ((hrest hin).2 hx)⟩
    · obtain ⟨hend, hrow⟩ := State.copyCmd_goesOn (data := l) (poison := p) hp hf hb hx hs
      refine ⟨fun hle => congrArg _ (hend hle), fun hlt hne => ?_, fun hlt heq => ?_⟩
      · obtain ⟨rfl, rfl⟩ := hother hne
        exact congrArg _ (hrow hlt)
      · obtain ⟨rfl, rfl⟩ := himport heq
        exact congrArg _ (hrow hlt)
  · intro d t o a hb hq hh hin hidle hkeep hres
    have h : LoadStarts s k c x q := ⟨hb, hq, hh, hin, hidle, hkeep, hres⟩
    exact ⟨fun hd => State.startLoad_waits h (Prod.ext rfl hd), fun hd ho => State.startLoad_rejected h (Prod.ext rfl hd) (Prod.ext rfl ho),
      fun hd hstage ho => State.startLoad_staged h (Prod.ext rfl hd) (Prod.ext rfl ho) hstage,
      fun hd hstage ho hfoot => State.startLoad_step h (Prod.ext rfl hd) (Prod.ext rfl ho) hstage hfoot⟩
  · intro n m src dst z d y moved v w at_
    have hmoves : ∀ {e : Side2 × Side2}, d.2 = true → y.2 = e →
        s.copyRow k r n x c toHost fromHost data poison = y.1.copySides k r n x c m data poison e.1 e.2 :=
      fun hd hy => State.copyRow_moves (Prod.ext rfl hd) (Prod.ext rfl hy)
    refine ⟨fun hd => State.copyRow_waits (Prod.ext rfl hd), fun hd hy => hmoves hd hy, fun hd hy => ⟨fun hfog => ?_, fun hfog => ?_⟩,
      fun hd hy => hmoves hd hy⟩
    · exact (hmoves hd hy).trans (if_neg (ne_true_of_eq_false hfog))
    · exact (hmoves hd hy).trans (if_pos hfog)

end Sys2Proof.Machine
end

section
/-!
PROOFS. Completions (R399 to R401, R475).
-/

namespace Sys2Proof.Machine

section Completion
variable {f : FnId} {r : Fin 16} {c : Cmd} {l : List Cmd} {s : State}

/-- The oldest command has completed, is not held, and its failure has been recorded. -/
theorem exec_completionWrite_written (hp : s.phase = .ready) (hc : (s.ring (fnKey f) r.val).cmds = c :: l)
    (hstop : (s.ring (fnKey f) r.val).stopped = false) (hdone : c.done = true) (hheld : c.heldSince = none)
    (hnoted : c.status = stOK ∨ ∀ e ∈ s.err.collector ++ s.err.held, ¬ (e.cv = true ∧ e.context = c.ctxN ∧ 3 ≤ e.sev)) :
    exec (.completionWrite f r) s = .next (s.writeCompletion (fnKey f) r.val) := by
  have hno : ¬ (c.status ≠ stOK ∧ (s.err.collector ++ s.err.held).any (fun e => e.cv && e.context == c.ctxN && decide (3 ≤ e.sev)) = true) := by
    rintro ⟨hstatus, hany⟩
    obtain ⟨e, he, hnote⟩ := List.any_eq_true.1 hany
    simp only [Bool.and_eq_true, beq_iff_eq, decide_eq_true_eq] at hnote
    obtain ⟨⟨hcv, hctx⟩, hsev⟩ := hnote
    exact hnoted.elim hstatus fun h => h e he ⟨hcv, hctx, hsev⟩
  simp only [exec, execCompletionWrite, hc, hp, hstop, hdone, hheld, hno]
  exact if_neg (by decide)

theorem State.writeCompletion_eq (hc : (s.ring (fnKey f) r.val).cmds = c :: l) (hn : ringEntries (s.ring (fnKey f) r.val).size ≠ 0) :
    let x := s.ring (fnKey f) r.val
    let j := x.d % ringEntries x.size
    let phase := !x.odd.contains j
    let v := completionBytes c phase s.flash.boot
    s.writeCompletion (fnKey f) r.val
      = ((((s.setRing (fnKey f) r.val { x with d := x.d + 1, cmds := l, odd := if phase = true then setAdd x.odd j else setDel x.odd j }).emit
          (.zeroRead f.port.val x.cplBase)).emit
            (if (s.port f.port.val).cacheEn = true then .cacheWrite f.port.val (x.cplBase + j * 32) v
             else .hostWrite f.port.val (x.cplBase + j * 32) v [])).coalesce (fnKey f) r.val (c.entry.getLsbD 8)) := by
  have hmax : max 1 (ringEntries (s.ring (fnKey f) r.val).size) = ringEntries (s.ring (fnKey f) r.val).size := by omega
  simp only [State.writeCompletion, hc, hmax, fnKey_div]
  rfl

theorem State.coalesce_off {k i : Nat} (irq : Bool) (h : (s.ring k i).intEn = false) : s.coalesce k i irq = s := by
  simp [State.coalesce, h]

theorem State.coalesce_signals {k i : Nat} {irq : Bool} (h : (s.ring k i).intEn = true)
    (hn : irq = true ∨ (s.ring k i).coalN ≤ (s.ring k i).unsig + 1) :
    s.coalesce k i irq = (s.setRing k i { s.ring k i with unsig := 0, coalSince := none }).signal k (s.ring k i).vec := by
  simp [State.coalesce, h, hn]

/-- A hold of 2 ms ends with the completion as it was (R475). -/
theorem exec_completionHoldTimeout_written {h : Nat} (hc : (s.ring (fnKey f) r.val).cmds = c :: l) (hheld : c.heldSince = some h) :
    exec (.completionHoldTimeout f r) s = .next (((s.advanceTo (h + 2000000)).setRing (fnKey f) r.val
      { (s.advanceTo (h + 2000000)).ring (fnKey f) r.val with cmds := { c with heldSince := none } :: l }).writeCompletion (fnKey f) r.val) := by
  simp only [exec, execCompletionHoldTimeout, hc, hheld]

theorem exec_coalescingTimer_signals {t : Nat} (ht : (s.ring (fnKey f) r.val).coalSince = some t)
    (hint : (s.ring (fnKey f) r.val).intEn = true) :
    exec (.coalescingTimer f r) s = .next (((s.advanceTo (t + (s.ring (fnKey f) r.val).coalUs * 1000)).setRing (fnKey f) r.val
      { s.ring (fnKey f) r.val with unsig := 0, coalSince := none }).signal (fnKey f) (s.ring (fnKey f) r.val).vec) := by
  simp only [exec, execCoalescingTimer, ht, hint]
  rfl

end Completion

/-- Settles O44: the clauses are the completion at the front, what is written of it, and the two timers. -/
theorem completionsAreWritten : Obligations.CompletionsAreWritten := by
  intro f r c l t h s k x
  exact ⟨exec_completionWrite_written, State.writeCompletion_eq, State.coalesce_off, fun irq => State.coalesce_signals,
    exec_completionHoldTimeout_written, exec_coalescingTimer_signals⟩

end Sys2Proof.Machine
end

section
/-!
PROOFS. The steps of contexts (R420 to R428, R433, R446).
-/

namespace Sys2Proof.Machine

/-! ### The dispatcher -/

section Dispatch
variable {sec : Fin 64} {x : Sector} {s : State} (hp : s.phase = .ready) (hx : s.sector sec.val = some x)
include hp hx

theorem exec_dispatchTick_charges :
    exec (.dispatchTick sec) s = .next (((s.ctxsOf sec.val).foldl (fun (s : State) e => s.chargeCtx e.1) s).preemptAll sec.val) := by
  simp [exec, execDispatchTick, hx, hp]

theorem exec_dispatchPass_eq :
    exec (.dispatchPass sec) s
      = .next (if (s.preemptAll sec.val).startsHeld x then s.preemptAll sec.val else (s.preemptAll sec.val).pass sec.val) := by
  simp [exec, execDispatchPass, hx, hp]

end Dispatch

/-! ### The start of a step -/

/-- A context that the dispatcher has given its footprint, with a pending step, on clusters that the Keeper scans not. -/
structure StepDue (s : State) (n : Nat) (k : Ctx) (p : Pend) : Prop where
  ready : s.phase = .ready
  ctx : s.ctx n = some k
  granted : k.granted = true
  noDoubt : k.doubt = false
  waiting : k.state = .waiting
  head : k.steps.head? = some p
  noScan : k.wantClusters.any (fun c => (s.cl c).scanned) = false

theorem any_eq_false_of {l : List Nat} {f : Nat → Bool} (h : ∀ c ∈ l, f c = false) : l.any f = false :=
  List.any_eq_false.2 fun c hc => ne_true_of_eq_false (h c hc)

section Start
variable {x : Fin 4096} {k : Ctx} {p : Pend} {s : State} (h : StepDue s x.val k p)
include h

/-- What a step that is due comes to. -/
theorem exec_stepStart_due :
    exec (.stepStart x) s = match p.load with
      | some l =>
        if !s.keeperUp || s.drainDue k.wantClusters || k.wantClusters.any (fun c => s.ownerOf c != some x.val && (s.ownerOf c).isSome) then .next s
        else .next (s.loadStep x.val l)
      | none =>
        if k.wantClusters.any (fun c => s.ownerOf c != some x.val) then .next s
        else if k.begun then .next (s.run x.val false 0)
        else if s.drainDue k.wantClusters then .next s
        else match s.front p.fn p.ring 1 with
          | none => .next s
          | some c =>
            match s.deliverPayload x.val c with
            | .yes s => .next (s.run x.val true c.seq)
            | .refused st => .next (s.endStep x.val st)
            | .waits s => .next s
            | .failed s => .next s := by
  simp only [exec, execStepStart, h.ctx, Option.bind_some, h.head, Option.map_some, h.ready, h.granted, h.noDoubt, h.waiting, h.noScan]
  rfl

section Own
variable (hl : p.load = none) (hown : ∀ c ∈ k.wantClusters, s.ownerOf c = some x.val)
include hl hown

theorem exec_stepStart_goesOn (hb : k.begun = true) : exec (.stepStart x) s = .next (s.run x.val false 0) := by
  have hany : k.wantClusters.any (fun c => s.ownerOf c != some x.val) = false := any_eq_false_of fun c hc => by simp [hown c hc]
  simp only [exec_stepStart_due h, hl, hany, hb]
  rfl

variable {c : Cmd} (hb : k.begun = false) (hd : s.drainDue k.wantClusters = false) (hf : s.front p.fn p.ring 1 = some c)
include hb hd hf

theorem exec_stepStart_begins {a : State} (ha : s.deliverPayload x.val c = .yes a) :
    exec (.stepStart x) s = .next (a.run x.val true c.seq) := by
  have hany : k.wantClusters.any (fun c => s.ownerOf c != some x.val) = false := any_eq_false_of fun c hc => by simp [hown c hc]
  simp only [exec_stepStart_due h, hl, hany, hb, hd, hf, ha]
  rfl

theorem exec_stepStart_refused {st : Nat} (ha : s.deliverPayload x.val c = .refused st) :
    exec (.stepStart x) s = .next (s.endStep x.val st) := by
  have hany : k.wantClusters.any (fun c => s.ownerOf c != some x.val) = false := any_eq_false_of fun c hc => by simp [hown c hc]
  simp only [exec_stepStart_due h, hl, hany, hb, hd, hf, ha]
  rfl

end Own

theorem exec_stepStart_load {l : LoadReq} (hl : p.load = some l) (hr : s.kpr.restarting = false) (hd : s.drainDue k.wantClusters = false)
    (hown : ∀ c ∈ k.wantClusters, s.ownerOf c = some x.val ∨ s.ownerOf c = none) :
    exec (.stepStart x) s = .next (s.loadStep x.val l) := by
  have hup : s.keeperUp = true := by simp [State.keeperUp, h.ready, hr]
  have hany : k.wantClusters.any (fun c => s.ownerOf c != some x.val && (s.ownerOf c).isSome) = false :=
    any_eq_false_of fun c hc => by rcases hown c hc with ho | ho <;> simp [ho]
  simp only [exec_stepStart_due h, hl, hup, hany, hd]
  rfl

end Start

/-! ### The end of a step, a switch, the limit and a teardown -/

section Ctx
variable {x : Fin 4096} {k : Ctx} {s : State} (hp : s.phase = .ready) (hk : s.ctx x.val = some k)
include hp hk

theorem exec_stepEnd_done (hd : k.doubt = false) (hrun : k.state = .running) (hdone : k.clusters.all s.clusterDone = true) :
    exec (.stepEnd x) s = .next (s.endStep x.val stOK) := by
  simp only [exec, execStepEnd, hk, hp, hd, hrun, hdone]
  rfl

theorem exec_stepEnd_abandoned (hd : k.doubt = true) (hscan : ∀ c ∈ k.clusters, (s.cl c).scanned = false) :
    exec (.stepEnd x) s = .next (s.abandonStep x.val) := by
  have hany : k.clusters.any (fun c => (s.cl c).scanned) = false := any_eq_false_of hscan
  simp only [exec, execStepEnd, hk, hp, hd, hany]
  rfl

/-- No cluster of the switch is held where no owner holds its footprint and no dedicated sector owns one. -/
theorem exec_footprintSwitch_switches (hg : k.granted = true) (hr : s.kpr.restarting = false) (ht : s.retrains = false)
    (hc : ∀ c ∈ k.wantClusters.filter (fun c => s.ownerOf c != some x.val), (s.cl c).scanned = false ∧ ∀ y z, s.ownerOf c = some y → s.ctx y = some z →
      z.holdsFoot = false ∧ ∀ r, s.sector z.sector = some r → r.res = false) :
    exec (.footprintSwitch x) s = .next ((s.draw.2.switchOutAll (k.wantClusters.filter (fun c => s.ownerOf c != some x.val)) x.val
      (s.draw.1.toNat % 2 ^ 32)).switchInAll (k.wantClusters.filter (fun c => s.ownerOf c != some x.val)) x.val
        (s.draw.1.toNat / 2 ^ 32 % 2 ^ 32)) := by
  have hup : s.keeperUp = true := by simp [State.keeperUp, hp, hr]
  have hany : (k.wantClusters.filter (fun c => s.ownerOf c != some x.val)).any (s.switchHeld x.val) = false := by
    refine any_eq_false_of fun c hmem => ?_
    obtain ⟨hscan, hfree⟩ := hc c hmem
    unfold State.switchHeld
    rw [hscan, Bool.false_or]
    split
    next z hz =>
      obtain ⟨y, hy, hyz⟩ := Option.bind_eq_some_iff.1 hz
      obtain ⟨hfoot, hres⟩ := hfree y z hy hyz
      rw [hfoot, Bool.false_or]
      split
      next r heq => rw [hres r heq, Bool.and_false]
      next => rw [Bool.and_false]
    next => rfl
  simp only [exec, execFootprintSwitch, hk, hg, hup, ht, hany]
  rfl

theorem exec_stepLimitTimeout_fails {q : Sector} (hrun : k.state = .running) (hq : s.sector k.sector = some q) (hl : q.limit ≠ 0) :
    exec (.stepLimitTimeout x) s
      = .next (((s.advanceTo (k.intervalFrom + (q.limit * 1000000 - k.onTime) + 1)).chargeCtx x.val).failCtx x.val stTimeout
          { unit := 0xFFFF, cls := 5, sev := 3, cause := 0x0B }) := by
  simp [exec, execStepLimitTimeout, hk, hq, hp, hrun, hl]

theorem exec_contextTeardown_done (hf : k.state = .failed) (ht : k.tearing = true) (hs : k.clusters.any s.swapping = false) :
    exec (.contextTeardown x) s = .next (s.teardown x.val) := by
  simp only [exec, execContextTeardown, hk, hp, hf, ht, hs]
  rfl

end Ctx

/-- Settles O45: each command is the branch that its conditions choose, and a charge adds to three counters. -/
theorem stepsRun : Obligations.StepsRun := by
  refine ⟨fun sec x s hp hx => ⟨exec_dispatchTick_charges hp hx, fun hheld => ?_, fun hheld => ?_⟩,
    fun x k p c a q s hp hk => ⟨fun hg hd hw hhead hscan => ?_, exec_stepEnd_done hp hk, exec_stepEnd_abandoned hp hk,
      exec_footprintSwitch_switches hp hk, exec_stepLimitTimeout_fails hp hk, exec_contextTeardown_done hp hk⟩, fun e k => ⟨rfl, rfl, rfl⟩⟩
  · rw [exec_dispatchPass_eq hp hx, hheld]
    rfl
  · rw [exec_dispatchPass_eq hp hx, hheld]
    rfl
  · have hdue : StepDue s x.val k p := ⟨hp, hk, hg, hd, hw, hhead, any_eq_false_of hscan⟩
    exact ⟨fun hl hown => ⟨exec_stepStart_goesOn hdue hl hown, fun hb hdrain hf => ⟨exec_stepStart_begins hdue hl hown hb hdrain hf,
      fun st => exec_stepStart_refused hdue hl hown hb hdrain hf⟩⟩, fun l => exec_stepStart_load hdue⟩

end Sys2Proof.Machine
end

section
/-!
PROOFS. Records on their way to the log, and the corrected errors of one second (O46).
-/

namespace Sys2Proof.Machine

/-- The record that reaches the collector for an event at time `t` under boot count `b`. -/
def State.stamped (s : State) (t b : Nat) (r : ErrRec) : ErrRec := { r with fn := s.fnOf r }.stamp t b s.draw.1

theorem State.recordAt_err (s : State) (t b : Nat) (r : ErrRec) : (s.recordAt t b r).err = s.err.collect (s.stamped t b r) := by
  obtain ⟨k, h⟩ := s.recordAt_eq t b r
  rw [h]; rfl

theorem Err.collect_of_room {e : Err} (h : e.collector.length < 1024) (r : ErrRec) :
    e.collect r = { e with collector := e.collector ++ [r] } := if_pos h

/-- A run whose second is not over stays. -/
theorem State.endOldRun_of_fresh {s : State} {r : ErrRec}
    (h : ∀ c, s.err.coalesce.find? (·.about r.unit r.cls r.cause) = some c → s.time ≤ c.start + 1000000000) : s.endOldRun r = s := by
  unfold State.endOldRun
  cases hf : s.err.coalesce.find? (·.about r.unit r.cls r.cause) with
  | none => rfl
  | some c => exact if_neg (Nat.not_lt.2 (h c hf))

theorem State.corrected_first {s : State} {r : ErrRec} (hc : s.err.coalesce = []) (hl : s.err.collector.length < 1024) (hr : r.rep = 1) :
    ∃ q, (s.corrected r).err.collector = s.err.collector ++ [q] ∧ q.rep = 1 ∧ q.sev = 1 ∧ q.cause = 1 ∧ q.addr = r.addr ∧ q.unit = r.unit
      ∧ (s.corrected r).err.coalesce = [{ start := s.time, count := 0, latest := { r with sev := 1, cause := 1, fn := s.fnOf r } }] := by
  let r' : ErrRec := { r with sev := 1, cause := 1, fn := s.fnOf r }
  have h1 : s.corrected r = (s.record r').modErr (fun e => { e with coalesce := e.coalesce ++ [{ start := s.time, latest := r' }] }) := by
    show (s.endOldRun r').countCorr r' = _
    rw [State.endOldRun_of_fresh (by simp [hc])]
    exact if_neg (by simp [hc])
  have h2 : (s.record r').err = { s.err with collector := s.err.collector ++ [s.stamped s.time s.flash.boot r'] } := by
    rw [State.record, State.recordAt_err, Err.collect_of_room hl]
  refine ⟨s.stamped s.time s.flash.boot r', ?_, hr, rfl, rfl, rfl, rfl, ?_⟩
  · rw [h1, State.modErr, h2]
  · rw [h1, State.modErr, h2]; simp only [hc]; rfl

theorem State.corrected_further {s : State} {r : ErrRec} {c : CorrRun} (hc : s.err.coalesce = [c]) (ha : c.about r.unit r.cls 1 = true)
    (ht : s.time ≤ c.start + 1000000000) :
    s.corrected r = { s with err := { s.err with
      coalesce := [{ c with count := min (c.count + 1) 65535, latest := { r with sev := 1, cause := 1, fn := s.fnOf r } }] } } := by
  let r' : ErrRec := { r with sev := 1, cause := 1, fn := s.fnOf r }
  have ha' : c.about r'.unit r'.cls r'.cause = true := ha
  show (s.endOldRun r').countCorr r' = _
  rw [State.endOldRun_of_fresh (by intro d hd; simp [hc, ha'] at hd; exact hd ▸ ht), State.countCorr, if_pos (by simp [hc, ha'])]
  simp only [State.modErr, hc, List.map_cons, List.map_nil, if_pos ha']
  rfl

/-- A run is about what its latest error is about. -/
theorem CorrRun.about_self (c : CorrRun) : c.about c.latest.unit c.latest.cls c.latest.cause = true := by simp [CorrRun.about]

theorem State.advanceTo_err (s : State) (t : Nat) : (s.advanceTo t).err = s.err := by
  unfold State.advanceTo; split <;> rfl

theorem State.endCorrRun_only {s : State} {c : CorrRun} (hc : s.err.coalesce = [c]) (h0 : 0 < c.count) (hl : s.err.collector.length < 1024) :
    ∃ q, (s.endCorrRun c).err.collector = s.err.collector ++ [q] ∧ q.rep = c.count ∧ q.addr = c.latest.addr ∧ q.unit = c.latest.unit
      ∧ (s.endCorrRun c).err.coalesce = [] := by
  let s' := s.modErr (fun k => { k with coalesce := k.coalesce.filter (fun x => !x.about c.latest.unit c.latest.cls c.latest.cause) })
  let r' : ErrRec := { c.latest with rep := c.count }
  have h1 : s.endCorrRun c = s'.recordAt (c.start + 1000000000) s.flash.boot r' := if_neg (Nat.ne_of_gt h0)
  have h2 : s'.err.coalesce = [] := by simp [s', State.modErr, hc, CorrRun.about_self]
  have h3 : (s.endCorrRun c).err
      = { s'.err with collector := s.err.collector ++ [s'.stamped (c.start + 1000000000) s.flash.boot r'] } := by
    rw [h1, State.recordAt_err]; exact Err.collect_of_room (e := s'.err) hl _
  exact ⟨s'.stamped (c.start + 1000000000) s.flash.boot r', congrArg Err.collector h3, rfl, rfl, rfl, (congrArg Err.coalesce h3).trans h2⟩

theorem correctedErrorSummary_only {s : State} {c : CorrRun} (hc : s.err.coalesce = [c]) (h0 : 0 < c.count)
    (hl : s.err.collector.length < 1024) :
    ∃ t q, exec (.correctedErrorSummary c.latest.unit c.latest.cls c.latest.cause) s = .next t
      ∧ t.err.collector = s.err.collector ++ [q] ∧ q.rep = c.count ∧ q.addr = c.latest.addr ∧ q.unit = c.latest.unit
      ∧ t.err.coalesce = [] ∧ c.start + 1000000000 ≤ t.time := by
  have he : (s.advanceTo (c.start + 1000000000)).err = s.err := s.advanceTo_err _
  obtain ⟨q, h1, h2, h3, h4, h5⟩ := State.endCorrRun_only (c := c) (he ▸ hc) h0 (he ▸ hl)
  refine ⟨(s.advanceTo (c.start + 1000000000)).endCorrRun c, q, ?_, he ▸ h1, h2, h3, h4, h5, ?_⟩
  · simp [exec, execCorrectedErrorSummary, hc, CorrRun.about_self]
  · rw [(State.endCorrRun_frame _ c).2.1]; exact s.advanceTo_reaches _

theorem logRecordWrite_oldest {r : ErrRec} {l : List ErrRec} {s : State} (hc : s.err.collector = r :: l) (hp : s.phase = .ready) :
    exec .logRecordWrite s
      = .next (({ s with err := { s.err with collector := l ++ s.err.held.take 1, held := s.err.held.drop 1 } } : State).writeLog r) := by
  have h1 : ¬ (s.phase ≠ .ready ∧ s.phase ≠ .resetting) := fun h => h.1 hp
  simp only [exec, execLogRecordWrite, hc, if_neg h1]
  rfl

/-- Settles O46: the collector is a queue, and of a run of corrected errors only the first is written at once. -/
theorem recordsAndCoalescing : Obligations.RecordsAndCoalescing := by
  unfold Obligations.RecordsAndCoalescing
  refine ⟨fun r l s => logRecordWrite_oldest, fun r c s => ⟨State.corrected_first, State.corrected_further, correctedErrorSummary_only⟩⟩

end Sys2Proof.Machine
end

section
/-!
PROOFS. What a device reset ends with (O47), and the verdicts of the audit (O48).
-/

namespace Sys2Proof.Machine

theorem deviceReset_latched {cause : Fin 10} {bad : List (Fin 2176)} {ok : Bool} {c : Nat} {s : State}
    (hp : s.phase = .ready ∨ s.phase = .resetting) (ht : s.trigger = some c) :
    exec (.deviceReset cause bad ok) s
      = .next (s.deviceReset c (s.err.again + (if cause.val = 0 ∨ cause.val = c then 0 else 1)) (bad.map (·.val)) ok) := by
  have h1 : ¬ (s.phase ≠ .ready ∧ s.phase ≠ .resetting) := by tauto
  simp only [exec, execDeviceReset, if_neg h1, ht]

theorem deviceReset_coming {cause : Fin 10} {bad : List (Fin 2176)} {ok : Bool} {s : State}
    (hp : s.phase = .ready ∨ s.phase = .resetting) (ht : s.trigger = none) (hc : cause.val ≠ 0) :
    exec (.deviceReset cause bad ok) s
      = .next ((s.latchReset cause.val).deviceReset cause.val 0 (bad.map (·.val)) ok) := by
  have h1 : ¬ (s.phase ≠ .ready ∧ s.phase ≠ .resetting) := by tauto
  simp only [exec, execDeviceReset, if_neg h1, ht, if_neg hc]

/-- The reset times that count against the device: those of the 600 s before this reset. -/
def State.recentResets (s : State) : List Nat := s.err.resetTimes.filter (fun t => decide (s.triggerAt ≤ t + 600000000000))

theorem State.deviceReset_of_few {s : State} {c k : Nat} {bad : List Nat} {ok : Bool} (h : s.recentResets.length < 3) :
    (s.deviceReset c k bad ok).phase = .ready ∧ (s.deviceReset c k bad ok).sec.sessions = [] := by
  have h1 : ¬ 4 ≤ (s.recentResets ++ [s.triggerAt]).length := by rw [List.length_append]; simp; omega
  have h2 : s.deviceReset c k bad ok = _ := if_neg h1
  rw [h2]
  exact ⟨rfl, rfl⟩

theorem State.deviceReset_of_many {s : State} {c k : Nat} {bad : List Nat} {ok : Bool} (h : 3 ≤ s.recentResets.length) :
    (s.deviceReset c k bad ok).phase = .halted ∧ (s.deviceReset c k bad ok).err.halted = true := by
  have h1 : 4 ≤ (s.recentResets ++ [s.triggerAt]).length := by rw [List.length_append]; simp; omega
  have h2 : s.deviceReset c k bad ok = _ := if_pos h1
  rw [h2]
  exact ⟨rfl, rfl⟩

/-- Settles O47: the triggers by the cases of DEVICE_RESET, the end by the count of resets within 600 s. -/
theorem deviceResetRuns : Obligations.DeviceResetRuns := by
  unfold Obligations.DeviceResetRuns
  intro cause bad ok c s hp
  exact ⟨deviceReset_latched hp, deviceReset_coming hp, State.deviceReset_of_few, State.deviceReset_of_many⟩

/-! ### Watch and audits (R468, R474) -/

/-- The state after the report of a unit is taken: it is under watch. -/
def State.watched (s : State) (unit : Nat) : State :=
  { s with aud := { s.aud with
    reports := s.aud.reports.erase unit, watches := tabSet s.aud.watches (s.physUnit unit) (2 ^ 24)
    events := tabSet s.aud.events (s.physUnit unit) s.time, watch := sat32 s.aud.watch 1 } }

theorem unitWatch_reported {unit : Nat} {s : State} (hp : s.phase = .ready) (hr : s.kpr.restarting = false) (hu : unit ∈ s.aud.reports) :
    exec (.unitWatch unit) s = match tabFind s.aud.events (s.physUnit unit) with
      | some t => .next (if s.time ≤ t + dayNs then (s.watched unit).queueSwap (clusterOf unit) else s.watched unit)
      | none => .next (s.watched unit) := by
  have h1 : ¬ ((!s.aud.reports.contains unit || !s.keeperUp) = true) := by simp [hu, State.keeperUp, hp, hr]
  exact if_neg h1

section
variable {n : Nat} {x : Sample} {s : State} (hp : s.phase = .ready) (hx : s.aud.samples[n]? = some x)
include hp hx

theorem auditSampleRun_agree (hm : x.mismatch = false) (hq : ∀ y ∈ s.aud.samples.take n, y.partner = x.partner → y.mismatch = true) :
    exec (.auditSampleRun n true) s = .next (({ s with aud := { s.aud with samples := s.aud.samples.eraseIdx n } } : State).cleanAudit x) := by
  have h1 : (s.aud.samples.take n).any (fun y => y.partner == x.partner && !y.mismatch) = false := by
    simpa [List.any_eq_false] using hq
  simp [exec, execAuditSampleRun, hx, hm, h1, hp, listDel]

theorem auditSampleRun_disagree (hm : x.mismatch = false) (hq : ∀ y ∈ s.aud.samples.take n, y.partner = x.partner → y.mismatch = true) :
    let z := s.nextPartner x.sector x.unit [x.partner / 32]
    let y := { x with mismatch := true, reported := z.1.time, second := z.2.getD 0xFFFFFF }
    exec (.auditSampleRun n false) s
      = .next (({ z.1 with aud := { z.1.aud with
          samples := z.1.aud.samples.set n y, mismatch := sat32 z.1.aud.mismatch 1
          pending := setAdd z.1.aud.pending (clusterOf x.unit) } } : State).holdSteps (clusterOf x.unit)) := by
  have h1 : (s.aud.samples.take n).any (fun y => y.partner == x.partner && !y.mismatch) = false := by
    simpa [List.any_eq_false] using hq
  simp [exec, execAuditSampleRun, hx, hm, h1, hp]

theorem auditVerdict_second (hm : x.mismatch = true) (h2 : x.second ≠ 0xFFFFFF) (v : ThirdResult) :
    let a := s.endSample n (clusterOf x.unit)
    exec (.auditVerdict n v) s = match v with
      | .firstPartner => .next (({ a with aud := { a.aud with unitBad := sat16 a.aud.unitBad 1 } } : State).unitFaulty x)
      | .auditedUnit =>
        .next ((({ a with aud := { a.aud with partnerBad := sat16 a.aud.partnerBad 1 } } : State).partnerFaulty x).releaseSteps (clusterOf x.unit) false)
      | .neither => .next ((({ a with aud := { a.aud with both := sat16 a.aud.both 1 } } : State).partnerFaulty x).unitFaulty x) := by
  have h1 : ¬ ((!x.mismatch || x.second == 0xFFFFFF || s.phase != .ready) = true) := by simp [hm, h2, hp]
  cases v with
  | firstPartner => simp only [exec, execAuditVerdict, hx, if_neg h1]
  | auditedUnit => simp only [exec, execAuditVerdict, hx, if_neg h1]
  | neither => simp only [exec, execAuditVerdict, hx, if_neg h1]

theorem auditSecondPartnerTimeout_mismatch (hm : x.mismatch = true) :
    let a := (s.advanceTo (x.reported + 1000000)).endSample n (clusterOf x.unit)
    exec (.auditSecondPartnerTimeout n) s = .next (({ a with aud := { a.aud with noThird := sat16 a.aud.noThird 1 } } : State).unitFaulty x) := by
  have h1 : ¬ ((!x.mismatch || s.phase != .ready) = true) := by simp [hm, hp]
  simp only [exec, execAuditSecondPartnerTimeout, hx, if_neg h1]

end

/-- Settles O48: the watch by its last event, the audit by the partners' answers. -/
theorem auditsDecide : Obligations.AuditsDecide := by
  unfold Obligations.AuditsDecide
  intro unit n x s hp
  refine ⟨fun hr hu => ?_, fun hx hm hq => ⟨auditSampleRun_agree hp hx hm hq, auditSampleRun_disagree hp hx hm hq⟩, fun hx hm => ⟨fun h2 => ?_, ?_⟩⟩
  · have h := unitWatch_reported hp hr hu
    refine ⟨fun hn => by rw [h, hn]; rfl, fun b hb => ⟨fun ht => ?_, fun ht => ?_⟩⟩
    · rw [h, hb]; exact congrArg Host.Outcome.next (if_pos ht)
    · rw [h, hb]; exact congrArg Host.Outcome.next (if_neg (Nat.not_le.2 ht))
  · have h := auditVerdict_second hp hx hm h2
    exact ⟨h .firstPartner, h .auditedUnit, h .neither⟩
  · exact auditSecondPartnerTimeout_mismatch hp hx hm

end Sys2Proof.Machine
end

section
/-!
PROOFS. What an access of device memory may rest on (O53).
-/

namespace Sys2Proof.Machine

/-- A machine whose table of ports lists a ninth port, which holds line 0. -/
def ninthPort : State := { ports := [(8, { filter := [0] })] }

/-- No port below 8 holds a line, and no snoop is under way. -/
theorem ninthPort_clear : ninthPort.snoops = [] ∧ ∀ p < 8, (ninthPort.port p).filter = [] := by decide

/-- A write of line 0 snoops the ninth port and waits. -/
theorem ninthPort_waits : (ninthPort.mayAccess 0 [] [0]).2 = false := by decide

/-- Refutes O53: its last clause asks only the ports below 8 for the lines they hold, while an access snoops every port that the table
lists, so that with line 0 held at an entry for port 8 a write of it must wait. -/
theorem not_externalMemoryServes : ¬ Obligations.ExternalMemoryServes := by
  unfold Obligations.ExternalMemoryServes
  intro h
  obtain ⟨-, -, haccess⟩ := h
  obtain ⟨-, -, hfree⟩ := haccess 0 [] [0] ninthPort
  have ht := hfree ninthPort_clear.1 ninthPort_clear.2
  exact Bool.false_ne_true (ninthPort_waits.symm.trans (congrArg Prod.snd ht))

end Sys2Proof.Machine
end

section
/-!
PROOFS. Reads and writes of device memory by a host, and the answers to snoops (O54).
-/

namespace Sys2Proof.Machine

/-! ### Lines without errors (R336 to R338) -/

/-- A state that differs in the counters of the controllers only. -/
def State.CountsOnly (s t : State) : Prop := ∃ cs, t = { s with hbm := { s.hbm with ctrls := cs } }

theorem State.CountsOnly.trans {s t u : State} (h : s.CountsOnly t) (h' : t.CountsOnly u) : s.CountsOnly u := by
  obtain ⟨cs, rfl⟩ := h
  obtain ⟨ds, rfl⟩ := h'
  exact ⟨ds, rfl⟩

theorem State.setCtrl_countsOnly (s : State) (n : Nat) (c : Ctrl) : s.CountsOnly (s.setCtrl n c) := ⟨_, rfl⟩

theorem State.dieRead_countsOnly (s : State) (k : Nat) : s.CountsOnly (s.dieRead k) := by
  unfold State.dieRead
  split
  · exact s.setCtrl_countsOnly _ _
  · exact ⟨_, rfl⟩

/-- No half-line has a symbol in error. -/
def Hbm.Clean (h : Hbm) : Prop := ∀ k, tabGet [] h.errs k = []

theorem State.CountsOnly.clean {s t : State} (h : s.CountsOnly t) (hc : s.hbm.Clean) : t.hbm.Clean := by
  obtain ⟨cs, rfl⟩ := h
  exact hc

theorem State.decodeHalf_countsOnly {s : State} (hc : s.hbm.Clean) (w : Who) (k : Nat) : s.CountsOnly (s.decodeHalf w k) := by
  have hd := s.dieRead_countsOnly k
  have hk := hd.clean hc k
  unfold State.decodeHalf
  dsimp only
  rw [if_neg (by simp [Hbm.halfCe, hk]), if_neg (by simp [Hbm.halfUe, hk])]
  exact hd

theorem State.readLine_countsOnly {s : State} (hc : s.hbm.Clean) (w : Who) (l : Nat) : s.CountsOnly (s.readLine w l) := by
  have h1 := State.decodeHalf_countsOnly hc w (2 * l)
  exact (h1.trans (State.decodeHalf_countsOnly (h1.clean hc) w (2 * l + 1))).trans (State.setCtrl_countsOnly _ _ _)

theorem State.hbmRead_countsOnly {s : State} (hc : s.hbm.Clean) (w : Who) (addr n : Nat) : s.CountsOnly (s.hbmRead w addr n).1 :=
  List.foldlRecOn (motive := fun t : State => s.CountsOnly t) _ _ ⟨_, rfl⟩ fun _ ht l _ =>
    ht.trans (State.readLine_countsOnly (ht.clean hc) w l)

theorem State.hbmRead_bytes {s : State} (hc : s.hbm.Clean) (w : Who) (addr n : Nat) : (s.hbmRead w addr n).2.1 = memRead s.hbm.mem addr n := by
  obtain ⟨cs, h⟩ := State.hbmRead_countsOnly hc w addr n
  show memRead (s.hbmRead w addr n).1.hbm.mem addr n = _
  rw [h]

/-! ### One line of a host (R403 to R405) -/

/-- A line's address lies in that line alone. -/
theorem linesOf_line {a : Nat} (h : a % 64 = 0) : linesOf a 64 = [a / 64] := by
  have h1 : (a + 64 - 1) / 64 - a / 64 + 1 = 1 := by omega
  rw [linesOf, if_neg (by decide), h1]
  rfl

theorem Port.hdm_line {v : Port} {off a : Nat} (h : v.hdm (off / 64 * 64) = some a) : a % 64 = 0 := by
  unfold Port.hdm at h
  obtain ⟨g, -, rfl⟩ := Option.map_eq_some_iff.1 h
  norm_num
  omega

theorem State.track_room {s : State} {p l : Nat} (h : (s.port p).filter.length < 262144) :
    (s.track p l).out = s.out ∧ (s.track p l).hbm = s.hbm ∧ l ∈ ((s.track p l).port p).filter := by
  unfold State.track
  dsimp only
  split
  next hin => exact ⟨rfl, rfl, List.contains_iff_mem.1 hin⟩
  next =>
    rw [if_pos (by exact h)]
    exact ⟨rfl, rfl, by simp⟩

theorem State.hostRead_clean {s : State} {p off a : Nat} (hc : s.hbm.Clean) (h : (s.port p).filter.length < 262144) :
    (s.hostRead p off a).out = s.out ++ [.memReply p off (memRead s.hbm.mem a 64) (s.hbmBad a 64)]
      ∧ (s.hostRead p off a).hbm.mem = s.hbm.mem ∧ a / 64 ∈ ((s.hostRead p off a).port p).filter := by
  obtain ⟨cs, hr⟩ := State.hbmRead_countsOnly hc {} a 64
  have hb := State.hbmRead_bytes hc {} a 64
  rw [State.hostRead]
  generalize s.hbmRead {} a 64 = z, memRead s.hbm.mem a 64 = m at hr hb ⊢
  obtain ⟨t, bytes, fog⟩ := z
  dsimp only at hr hb ⊢
  have hport : t.port p = s.port p := by rw [hr]; rfl
  obtain ⟨hout, hhbm, hin⟩ := State.track_room (s := t) (p := p) (l := a / 64) (hport ▸ h)
  refine ⟨?_, (congrArg Hbm.mem hhbm).trans (by rw [hr]), hin⟩
  show (t.track p (a / 64)).out ++ _ = _
  rw [hout, hr, hb]
/-- A write of a line that needs no merge, or that finds no error, writes its bytes over those that memory holds. -/
theorem State.hbmWriteKeep_line_mem {s : State} {w : Who} {a : Nat} {bytes keep : List Byte} {fog : List Bool} (ha : a % 64 = 0)
    (hl : bytes.length = 64) (h : coversLine a bytes keep (a / 64) = true ∨ s.hbm.Clean) :
    (s.hbmWriteKeep w a bytes keep fog).hbm.mem = memWrite s.hbm.mem a (keepBits (memGet s.hbm.mem) a bytes keep) := by
  have h1 : ((if coversLine a bytes keep (a / 64) then s else s.readLine w (a / 64)).countWr (a / 64)).hbm.mem = s.hbm.mem := by
    rw [State.countWr_mem]
    split
    · rfl
    next hw =>
      obtain ⟨cs, hr⟩ := State.readLine_countsOnly (h.resolve_left hw) w (a / 64)
      rw [hr]
  unfold State.hbmWriteKeep
  dsimp only
  rw [if_neg (by omega), hl, linesOf_line ha, State.rcDrop_mem, State.hbmUncheck_mem]
  dsimp only [List.foldl_cons, List.foldl_nil, State.setHbm]
  rw [h1]

/-! ### Masked writes (R404) -/

/-- The 64 bytes of a line that a host gives. -/
def lineBytes (data : List Byte) : List Byte := (upto 0 64).map (fun i => data.getD i 0)

theorem length_lineBytes (data : List Byte) : (lineBytes data).length = 64 := by rw [lineBytes, List.length_map, length_upto]

theorem getElem?_map_upto {α : Type} (f : Nat → α) {n i : Nat} (h : i < n) : ((upto 0 n).map f)[i]? = some (f i) := by
  rw [List.getElem?_map, getElem?_upto h, Option.map_some, Nat.zero_add]

theorem lineBytes_getD {data : List Byte} {i : Nat} (h : i < 64) : (lineBytes data).getD i 0 = data.getD i 0 := by
  rw [List.getD_eq_getElem?_getD, lineBytes, getElem?_map_upto _ h, Option.getD_some]

theorem maskKeep_of_whole {mask : List Bool} (h : ∀ i < 64, mask.getD i false = true) : maskKeep mask = [] := by
  have hall : (upto 0 64).all (fun i => mask.getD i false) = true := by
    rw [List.all_eq_true]
    intro i hi
    obtain ⟨-, hlt⟩ := (mem_upto 0 64 i).1 hi
    exact h i (by omega)
  exact if_pos hall

theorem coversLine_of_whole {a : Nat} {bytes : List Byte} (ha : a % 64 = 0) (hl : bytes.length = 64) : coversLine a bytes [] (a / 64) = true := by
  have h1 : a / 64 * 64 = a := by omega
  simp [coversLine, h1, hl]

theorem keep_nothing (b o : Byte) : (b &&& ~~~0) ||| (o &&& 0) = b := by
  show (b &&& ~~~0#8) ||| (o &&& 0#8) = b
  rw [BitVec.not_zero, BitVec.and_allOnes, BitVec.and_zero, BitVec.or_zero]

theorem keep_byte (b o : Byte) : (b &&& ~~~0xFF) ||| (o &&& 0xFF) = o := by
  show (b &&& 0#8) ||| (o &&& BitVec.allOnes 8) = o
  rw [BitVec.and_zero, BitVec.and_allOnes, BitVec.zero_or]

/-- A byte of a write whose `keep` names whole bytes: the one given where the mask is set, the one that memory holds elsewhere. -/
theorem keepBits_maskKeep {old : Nat → Byte} {a i : Nat} {data : List Byte} {mask : List Bool} (h : i < 64) :
    (keepBits old a (lineBytes data) (maskKeep mask)).getD i 0 = if mask.getD i false then data.getD i 0 else old (a + i) := by
  by_cases hall : (upto 0 64).all (fun i => mask.getD i false) = true
  · have hi : mask.getD i false = true := List.all_eq_true.1 hall i ((mem_upto 0 64 i).2 ⟨Nat.zero_le i, by omega⟩)
    rw [maskKeep, if_pos hall, if_pos hi]
    exact lineBytes_getD h
  · have hkeep : maskKeep mask = (upto 0 64).map (fun i => if mask.getD i false then 0 else 0xFF) := if_neg hall
    have hne : (maskKeep mask).isEmpty = false := by rw [hkeep]; rfl
    have hk : (maskKeep mask)[i]? = some (if mask.getD i false then 0 else 0xFF) := by rw [hkeep, getElem?_map_upto _ h]
    have hz : ((lineBytes data).zip ((maskKeep mask).zip (List.range (lineBytes data).length)))[i]?
        = some (data.getD i 0, (if mask.getD i false then 0 else 0xFF), i) :=
      List.getElem?_zip_eq_some.2 ⟨getElem?_map_upto _ h, List.getElem?_zip_eq_some.2 ⟨hk, List.getElem?_range (length_lineBytes data ▸ h)⟩⟩
    rw [keepBits, if_neg (ne_true_of_eq_false hne), List.getD_eq_getElem?_getD, List.getElem?_map, hz, Option.map_some, Option.getD_some]
    dsimp only
    split
    · exact keep_nothing _ _
    · exact keep_byte _ _

theorem length_keepBits_maskKeep (old : Nat → Byte) (a : Nat) (data : List Byte) (mask : List Bool) :
    (keepBits old a (lineBytes data) (maskKeep mask)).length = 64 := by
  by_cases hall : (upto 0 64).all (fun i => mask.getD i false) = true
  · rw [maskKeep, if_pos hall]
    exact length_lineBytes data
  · have hkeep : maskKeep mask = (upto 0 64).map (fun i => if mask.getD i false then 0 else 0xFF) := if_neg hall
    have hne : (maskKeep mask).isEmpty = false := by rw [hkeep]; rfl
    rw [keepBits, if_neg (ne_true_of_eq_false hne)]
    simp only [hkeep, List.length_map, List.length_zip, List.length_range, length_lineBytes, length_upto, Nat.min_self]

/-- A host's write of a line: the bytes that its mask names are stored, all others stay. -/
theorem State.hostWrite_mem {s : State} {a : Nat} {data : List Byte} {mask : List Bool} {poison : Bool} (ha : a % 64 = 0)
    (hwf : Memory.wf s.hbm.mem = true) (h : (∀ i < 64, mask.getD i false = true) ∨ s.hbm.Clean) :
    (∀ i < 64, memGet (s.hostWrite a data (maskKeep mask) poison).hbm.mem (a + i)
        = if mask.getD i false then data.getD i 0 else memGet s.hbm.mem (a + i))
      ∧ (∀ b, (b < a ∨ a + 64 ≤ b) → memGet (s.hostWrite a data (maskKeep mask) poison).hbm.mem b = memGet s.hbm.mem b) := by
  have hmem : (s.hostWrite a data (maskKeep mask) poison).hbm.mem
      = memWrite s.hbm.mem a (keepBits (memGet s.hbm.mem) a (lineBytes data) (maskKeep mask)) :=
    State.hbmWriteKeep_line_mem ha (length_lineBytes data)
      (h.imp_left fun hw => maskKeep_of_whole hw ▸ coversLine_of_whole ha (length_lineBytes data))
  refine ⟨fun i hi => ?_, fun b hb => ?_⟩
  · rw [hmem, memGet_memWrite _ _ _ _ hwf, length_keepBits_maskKeep, if_pos (by omega), Nat.add_sub_cancel_left, keepBits_maskKeep hi]
  · rw [hmem, memGet_memWrite _ _ _ _ hwf, length_keepBits_maskKeep, if_neg (by omega)]

section Host
variable {p : Fin 8} {off : Nat} {data : List Byte} {mask : List Bool} {poison : Bool} {s : State} (hcxl : (s.port p.val).cxl = true)
  (hen : (s.port p.val).memEn = true) (href : s.memRefused p.val = false) (hreset : s.inReset = false)
include hcxl hen href hreset

theorem cxlMemRead_unmapped (h : (s.port p.val).hdm (off / 64 * 64) = none) :
    exec (.cxlMemRead p off) s = .next ((s.setPort p.val { s.port p.val with unmapped := min ((s.port p.val).unmapped + 1) 0xFFFFFFFF }).emit
      (.memReply p.val (off / 64 * 64) (List.replicate 64 0) true)) := by
  simp [exec, execCxlMemRead, hcxl, hen, href, hreset, h, sat32]

theorem cxlMemWrite_unmapped (h : (s.port p.val).hdm (off / 64 * 64) = none) :
    exec (.cxlMemWrite p off data mask poison) s
      = .next (s.setPort p.val { s.port p.val with unmapped := min ((s.port p.val).unmapped + 1) 0xFFFFFFFF }) := by
  simp [exec, execCxlMemWrite, hcxl, hen, href, hreset, h, sat32]

theorem cxlMemRead_mapped {a : Nat} (h : (s.port p.val).hdm (off / 64 * 64) = some a) :
    exec (.cxlMemRead p off) s = .next (if s.hostWaits a = true then
        s.holdHost { unit := hostUnit p.val, req := off / 64 * 64, addr := a, len := 64, write := false }
      else s.hostRead p.val (off / 64 * 64) a) := by
  simp [exec, execCxlMemRead, hcxl, hen, href, hreset, h]

theorem cxlMemWrite_mapped {a : Nat} (h : (s.port p.val).hdm (off / 64 * 64) = some a) :
    exec (.cxlMemWrite p off data mask poison) s = .next (if s.hostWaits a = true then
        s.holdHost { unit := hostUnit p.val, req := off / 64 * 64, addr := a, len := 64, write := true, bytes := lineBytes data
                     keep := maskKeep mask, fog := [poison] }
      else s.hostWrite a data (maskKeep mask) poison) := by
  simp [exec, execCxlMemWrite, hcxl, hen, href, hreset, h, lineBytes]

end Host

/-! ### Snoops (R405) -/

section Answer
variable {s : State} {p l : Nat}

theorem State.answerSnoop_answered : ∀ y ∈ (s.answerSnoop p l).snoops, y.port = p → y.line = l → y.answered = true := by
  intro y hy hport hline
  obtain ⟨x, -, hxy⟩ := List.mem_map.1 hy
  split at hxy
  next => rw [← hxy]
  next hmine =>
    rw [← hxy] at hport hline ⊢
    simpa [hport, hline] using hmine

theorem State.mem_answerSnoop_other (y : Snoop) (hy : ¬ (y.port = p ∧ y.line = l)) : y ∈ (s.answerSnoop p l).snoops ↔ y ∈ s.snoops := by
  have hmine : (y.port == p && y.line == l && !y.answered) = false := by
    rw [Bool.and_eq_false_iff]; left; simpa using hy
  constructor
  · intro h
    obtain ⟨x, hx, hxy⟩ := List.mem_map.1 h
    split at hxy
    next hm =>
      simp only [Bool.and_eq_true, beq_iff_eq] at hm
      exact absurd (by rw [← hxy]; exact hm.1) hy
    next => exact hxy ▸ (List.mem_filter.1 hx).1
  · intro h
    refine List.mem_map.2 ⟨y, List.mem_filter.2 ⟨h, by simp [hmine]⟩, if_neg (by simp [hmine])⟩

end Answer

theorem any_of_find? {α : Type} {f : α → Bool} {l : List α} {x : α} (h : l.find? f = some x) : l.any f = true :=
  List.any_eq_true.2 ⟨x, List.mem_of_find?_eq_some h, List.find?_some h⟩

section Answered
variable {p : Fin 8} {line : Nat} {s : State} {x : Snoop}
  (hx : s.snoops.find? (fun x => x.port == p.val && x.line == line && !x.answered) = some x)
include hx

theorem biResponse_clean : exec (.biResponse p line none) s = .next ((s.answerSnoop p.val line).settleMap p.val) := by
  have h1 := any_of_find? hx
  simp only [exec, execBiResponse, h1, Bool.not_true, Bool.false_eq_true, if_false]

theorem biResponse_writeBack {wb : List Byte} (hin : (s.addrSector (line * 64)).isSome = true) :
    exec (.biResponse p line (some wb)) s = .next
      (((s.answerSnoop p.val line).hbmWrite {} (line * 64) ((upto 0 64).map (fun i => wb.getD i 0)) []).settleMap p.val) := by
  have h1 := any_of_find? hx
  have h2 : ((s.answerSnoop p.val line).addrSector (line * 64)).isSome = true := hin
  simp only [exec, execBiResponse, h1, h2, Bool.not_true, Bool.false_eq_true, if_false, if_true]

theorem biResponse_stray {wb : List Byte} (hout : (s.addrSector (line * 64)).isSome = false) :
    exec (.biResponse p line (some wb)) s = .next ((s.answerSnoop p.val line).settleMap p.val) := by
  have h1 := any_of_find? hx
  have h2 : ((s.answerSnoop p.val line).addrSector (line * 64)).isSome = false := hout
  simp only [exec, execBiResponse, h1, h2, Bool.not_true, Bool.false_eq_true, if_false]

end Answered

theorem memGet_hbmWrite_line {s : State} (hwf : Memory.wf s.hbm.mem = true) (a : Nat) (data : List Byte) {i : Nat} (hi : i < 64) :
    memGet (s.hbmWrite {} a (lineBytes data) []).hbm.mem (a + i) = data.getD i 0 := by
  obtain ⟨m, hm, hmem⟩ := State.hbmWrite_mem hwf {} a (lineBytes data) []
  rw [hmem, memGet_memWrite _ _ _ _ hm, length_lineBytes, if_pos (by omega), Nat.add_sub_cancel_left, lineBytes_getD hi]

/-- A line is fogged, its port's CXL.mem is out of service, and neither its filter nor an unanswered snoop of it names the line, from time `d` on. -/
structure State.LineGone (s : State) (d p l : Nat) : Prop where
  reached : d ≤ s.time
  fogged : l ∈ s.hbm.fogLines
  disabled : (s.port p).memEn = false
  off : (s.port p).memOff = true
  untracked : l ∉ (s.port p).filter
  answered : ∀ y ∈ s.snoops, y.port = p → y.line = l → y.answered = true

section Gone
variable {s : State} {d p l : Nat}

theorem State.LineGone.setPort (h : s.LineGone d p l) {q : Nat} {v : Port} (hen : v.memEn = (s.port q).memEn) (hoff : v.memOff = (s.port q).memOff)
    (hfilter : v.filter = (s.port q).filter) : (s.setPort q v).LineGone d p l := by
  have hport : ((s.setPort q v).port p).memEn = (s.port p).memEn ∧ ((s.setPort q v).port p).memOff = (s.port p).memOff
      ∧ ((s.setPort q v).port p).filter = (s.port p).filter := by
    rw [State.setPort_port]
    split
    next hpq => subst hpq; exact ⟨hen, hoff, hfilter⟩
    next => exact ⟨rfl, rfl, rfl⟩
  obtain ⟨h1, h2, h3⟩ := hport
  exact ⟨h.reached, h.fogged, h1.trans h.disabled, h2.trans h.off, h3 ▸ h.untracked, h.answered⟩

theorem State.LineGone.sendSnoops (h : s.LineGone d p l) {who : Option Nat} {lines : List (Nat × Nat)} {inv : Bool} (hl : (p, l) ∉ lines) :
    (s.sendSnoops who lines inv).LineGone d p l := by
  refine List.foldlRecOn (motive := fun t : State => t.LineGone d p l) _ _ h fun t ht e he => ?_
  have ht' := ht.setPort (q := e.1) (v := { t.port e.1 with bisnp := sat32 (t.port e.1).bisnp 1 }) rfl rfl rfl
  refine ⟨ht'.reached, ht'.fogged, ht'.disabled, ht'.off, ht'.untracked, fun y hy hport hline => ?_⟩
  obtain hy | hy := List.mem_append.1 hy
  · exact ht'.answered y hy hport hline
  · obtain rfl := List.mem_singleton.1 hy
    exact absurd (show (p, l) ∈ lines from hport ▸ hline ▸ he) hl

theorem State.LineGone.writeMap (h : s.LineGone d p l) (i : Nat) (v : Word) : (s.writeMap p i v).LineGone d p l := by
  have hsend : ∀ g, (s.invalidated p g).1.LineGone d p l := fun g => h.sendSnoops fun hin => by
    obtain ⟨k, hk, hkl⟩ := List.mem_map.1 hin
    obtain rfl : k = l := congrArg Prod.snd hkl
    exact h.untracked (List.mem_filter.1 (List.mem_filter.1 hk).1).1
  have hmap : ∀ {c : Port}, (c.setMap i v).memEn = c.memEn ∧ (c.setMap i v).memOff = c.memOff ∧ (c.setMap i v).filter = c.filter := by
    intro c
    unfold Port.setMap
    dsimp only
    split
    · exact ⟨rfl, rfl, rfl⟩
    · exact ⟨rfl, rfl, rfl⟩
  unfold State.writeMap
  split
  next g _ =>
    have hg := hsend g
    split
    next t hinv =>
      rw [hinv] at hg
      exact hg.setPort hmap.1 hmap.2.1 hmap.2.2
    next t hinv =>
      rw [hinv] at hg
      exact hg.setPort rfl rfl rfl
  next => exact h.setPort hmap.1 hmap.2.1 hmap.2.2

theorem State.LineGone.settleMap (h : s.LineGone d p l) : (s.settleMap p).LineGone d p l :=
  List.foldlRecOn (motive := fun t : State => t.LineGone d p l) _ _ h fun _ ht _ _ => ht.writeMap _ _

end Gone

theorem State.poisonLine_eq (s : State) (l : Nat) : s.poisonLine l = { s with hbm := (s.poisonLine l).hbm } := by
  unfold State.poisonLine State.rcDrop
  rw [if_neg (by decide)]
  rfl

theorem State.poisonLine_fogs (s : State) (l : Nat) : l ∈ (s.poisonLine l).hbm.fogLines := by
  unfold State.poisonLine State.rcDrop
  rw [if_neg (by decide)]
  exact mem_setAdd.2 (.inl rfl)

/-- The line of a snoop whose time has passed is poisoned. -/
theorem State.poisonLine_lineGone {s : State} {d p l : Nat} {v : Port} (ht : d ≤ s.time) (hen : v.memEn = false) (hoff : v.memOff = true)
    (hl : l ∉ v.filter) : (((s.answerSnoop p l).setPort p v).poisonLine l).LineGone d p l := by
  have hport : ((s.answerSnoop p l).setPort p v).port p = v := by rw [State.setPort_port, if_pos rfl]
  have hsnoops : ((s.answerSnoop p l).setPort p v).snoops = (s.answerSnoop p l).snoops := rfl
  have htime : ((s.answerSnoop p l).setPort p v).time = s.time := rfl
  generalize (s.answerSnoop p l).setPort p v = t at hport hsnoops htime
  have heq := t.poisonLine_eq l
  have hfog := t.poisonLine_fogs l
  generalize t.poisonLine l = u at heq hfog
  have hp : u.port p = v := by rw [heq]; exact hport
  exact ⟨by rw [heq]; exact htime ▸ ht, hfog, hp ▸ hen, hp ▸ hoff, hp ▸ hl, by rw [heq]; exact hsnoops ▸ s.answerSnoop_answered⟩

/-- The port gives up a line whose snoop stays unanswered. -/
def State.giveUpLine (s : State) (p line : Nat) : State :=
  let a := s.answerSnoop p line
  let v := a.port p
  ((a.setPort p { v with filter := v.filter.filter (· != line), biTimeout := sat32 v.biTimeout 1, memEn := false, memOff := true }).poisonLine
    line).settleMap p

theorem State.giveUpLine_lineGone {s : State} {d p line : Nat} (h : d ≤ s.time) : (s.giveUpLine p line).LineGone d p line :=
  (State.poisonLine_lineGone h rfl rfl (by simp)).settleMap

theorem State.LineGone.record {s : State} {d p l : Nat} (h : s.LineGone d p l) (r : ErrRec) : (s.record r).LineGone d p l := by
  obtain ⟨h1, h2, h3, h4, h5, h6⟩ := h
  exact ⟨by simpa using h1, by simpa using h2, by simpa using h3, by simpa using h4, by simpa using h5, by simpa using h6⟩

theorem bisnpTimeout_fogs {p : Fin 8} {line : Nat} {s : State} {x : Snoop}
    (hx : s.snoops.find? (fun x => x.port == p.val && x.line == line && !x.answered) = some x) :
    ∃ t, exec (.bisnpTimeout p line) s = .next t ∧ t.LineGone (x.sentAt + 10000000) p.val line := by
  have hexec : exec (.bisnpTimeout p line) s = .next (((s.advanceTo (x.sentAt + 10000000)).giveUpLine p.val line).record
      { cls := 6, sev := 2, cause := 0x0B, akind := 2, addr := line * 64
        sector := (((s.advanceTo (x.sentAt + 10000000)).giveUpLine p.val line).addrSector (line * 64)).getD 0
        sv := (((s.advanceTo (x.sentAt + 10000000)).giveUpLine p.val line).addrSector (line * 64)).isSome }) := by
    simp only [exec, execBisnpTimeout, hx, State.giveUpLine]
  exact ⟨_, hexec, (State.giveUpLine_lineGone (State.advanceTo_reaches _ _)).record _⟩

/-- Settles O54: a line is one line of its controller, a mask names the bytes of a write, and a snoop's line is left alone by the map's
pending writes. -/
theorem hostMemoryAccesses : Obligations.HostMemoryAccesses := by
  unfold Obligations.HostMemoryAccesses
  refine ⟨?_, ?_⟩
  · intro p off data mask poison s v o hcxl hen href hreset
    refine ⟨fun h => ⟨cxlMemRead_unmapped hcxl hen href hreset h, cxlMemWrite_unmapped hcxl hen href hreset h⟩, fun a ha _ => ?_⟩
    have hread := cxlMemRead_mapped hcxl hen href hreset ha
    have hwrite := cxlMemWrite_mapped (data := data) (mask := mask) (poison := poison) hcxl hen href hreset ha
    have hline := Port.hdm_line ha
    refine ⟨fun hfree => ?_, fun hwait => ⟨by rw [hread, if_pos hwait], by rw [hwrite, if_pos hwait]; rfl⟩⟩
    rw [if_neg (ne_true_of_eq_false hfree)] at hread hwrite
    refine ⟨fun hroom hclean => ⟨_, hread, State.hostRead_clean hclean hroom⟩, fun hwhole hwf => ⟨_, hwrite, ?_⟩,
      fun hwf hclean => ⟨_, hwrite, State.hostWrite_mem hline hwf (.inr hclean)⟩⟩
    obtain ⟨hin, hout⟩ := State.hostWrite_mem (data := data) (poison := poison) hline hwf (.inl hwhole)
    exact ⟨fun i hi => by rw [hin i hi, if_pos (hwhole i hi)], hout⟩
  · intro p line x wb s hx a w
    obtain ⟨t, ht, hgone⟩ := bisnpTimeout_fogs hx
    exact ⟨biResponse_clean hx, biResponse_writeBack hx, biResponse_stray hx,
      fun hwf i hi => memGet_hbmWrite_line (s := a) hwf _ wb hi, rfl, State.answerSnoop_answered, State.mem_answerSnoop_other,
      t, ht, hgone.reached, hgone.fogged, hgone.disabled, hgone.off, hgone.answered⟩

end Sys2Proof.Machine
end

section
/-!
PROOFS. Links, the resets of ports and functions, and the keys of a link (O55).
-/

namespace Sys2Proof.Machine

section Port
variable {p : Fin 8} {s : State} (hp : s.phase = .ready)
include hp

theorem State.portsUp_of_ready : s.portsUp = true := by simp [State.portsUp, hp]

theorem State.resetPort_of_ready (q : Nat) : s.resetPort q = s.portReset q := if_neg (by simp [hp])

theorem linkUp_flit {rate width : Fin 4} (hr : rate.val ≠ 0) (hw : width.val ≠ 0) :
    exec (.linkUp p rate width true) s = .next (s.setPort p.val { s.port p.val with
      rate := rate.val, width := width.val, cxl := true, cacheEn := true, memEn := !(s.port p.val).memOff
      retrains := if (s.port p.val).cxl then min ((s.port p.val).retrains + 1) 0xFFFF else (s.port p.val).retrains }) := by
  simp only [exec, execLinkUp, hp, hr, hw, beq_self_eq_true, decide_false, Bool.true_or, Bool.not_true, Bool.or_self, Bool.false_eq_true, if_false]
  rfl

theorem linkUp_out {rate width : Fin 4} {fm : Bool} (h : rate.val = 0 ∨ width.val = 0 ∨ fm = false) :
    exec (.linkUp p rate width fm) s = .next (s.setPort p.val { s.port p.val with
      rate := rate.val, width := width.val, cxl := false, cacheEn := false, memEn := false }) := by
  have h1 : (rate.val = 0 || width.val = 0 || !fm) = true := by simpa [or_assoc] using h
  simp only [exec, execLinkUp, hp, beq_self_eq_true, Bool.true_or, Bool.not_true, Bool.false_eq_true, if_false, if_pos h1]

theorem State.hotReset_of_ready : s.hotReset p.val
    = (s.portReset p.val).setPort p.val { (s.portReset p.val).port p.val with hot := min (((s.portReset p.val).port p.val).hot + 1) 0xFFFF } := by
  unfold State.hotReset
  rw [State.resetPort_of_ready hp]
  rfl

theorem exec_hotReset : ∀ e ∈ [Instr.hotReset p, .viralIndication p], exec e s = .next (s.hotReset p.val) := by
  intro e he
  simp only [List.mem_cons, List.not_mem_nil, or_false] at he
  obtain rfl | rfl := he
  · simp only [exec, execHotReset, State.portsUp_of_ready hp, if_true]
  · simp only [exec, execViralIndication, State.portsUp_of_ready hp, if_true]

theorem perstN_held {us : Nat} (h : 10 ≤ us) : exec (.perstN p us) s = .next ((s.portReset p.val).setPort p.val
    { (s.portReset p.val).port p.val with perst := min (((s.portReset p.val).port p.val).perst + 1) 0xFFFF, memOff := false }) := by
  simp only [exec, execPerstN, State.portsUp_of_ready hp, h, State.resetPort_of_ready hp, decide_true, Bool.not_true, Bool.true_or, Bool.or_self,
    Bool.false_eq_true, if_false]
  rfl

theorem dlDown_long {ms : Nat} (h : 10 < ms) : exec (.dlDown p ms) s = .next (s.portReset p.val) := by
  simp only [exec, execDlDown, State.portsUp_of_ready hp, h, State.resetPort_of_ready hp, decide_true, Bool.and_self, if_true]

theorem ideIntegrityFailure_secure (h : (s.port p.val).ideSecure = true) :
    exec (.ideIntegrityFailure p) s = .next ((s.setPort p.val { s.port p.val with ideSecure := false }).hotReset p.val) := by
  simp only [exec, execIdeIntegrityFailure, State.portsUp_of_ready hp, h, Bool.not_true, Bool.or_self, Bool.false_eq_true, if_false]

theorem cxlKeyExchange_session {ses : Nat} (h : s.sec.sessions.any (fun x => x.id == ses && x.path == .doe p) = true) :
    exec (.cxlKeyExchange p ses) s
      = .next ((s.emit (.spdm "CXL_KEY_EXCHANGE" true)).setPort p.val { s.port p.val with ideKeys := true, ideSecure := true }) := by
  simp only [exec, execCxlKeyExchange, hp, h, beq_self_eq_true, Bool.and_self, if_true]
  rfl

theorem flrVf_virtual {f : FnId} (h : f.fn.val ≠ 0) :
    exec (.flrVf f) s = .next ((s.flr f.port.val f.fn.val).countFlr f.port.val 1) := by
  simp only [exec, execFlrVf, State.portsUp_of_ready hp, h, decide_false, Bool.not_true, Bool.or_self, Bool.false_eq_true, if_false]

theorem exec_vfEnableClear :
    exec (.vfEnableClear p) s = .next (((upto 1 127).foldl (fun (t : State) n => t.flr p.val n) s).countFlr p.val 127) := by
  simp only [exec, execVfEnableClear, State.portsUp_of_ready hp, Bool.not_true, Bool.false_eq_true, if_false]

end Port

theorem cxlKeyExchange_refused {p : Fin 8} {ses : Nat} {s : State} (h : s.sec.sessions.any (fun x => x.id == ses && x.path == .doe p) = false) :
    exec (.cxlKeyExchange p ses) s = .next (s.emit (.spdm "CXL_KEY_EXCHANGE" false)) := by
  simp only [exec, execCxlKeyExchange, h, Bool.and_false, Bool.false_eq_true, if_false]

/-- A pulse of no microsecond is ignored. -/
theorem perstN_none (p : Fin 8) (s : State) : exec (.perstN p 0) s = .next s := by
  simp only [exec, execPerstN, Nat.le_zero_eq, OfNat.ofNat_ne_zero, one_ne_zero, decide_false, Bool.false_and, Bool.or_self, Bool.not_false,
    Bool.or_true, if_true]

theorem dlDown_short {p : Fin 8} {ms : Nat} {s : State} (h : ms ≤ 10) : exec (.dlDown p ms) s = .next s := by
  simp only [exec, execDlDown, Nat.not_lt.2 h, decide_false, Bool.and_false, Bool.false_eq_true, if_false]

/-! ### The resets of functions (R408) -/

theorem State.setFn_fn_self (s : State) (i : Nat) (v : Fn) : (s.setFn i v).fn i = v := by rw [State.setFn_fn, if_pos rfl]

theorem State.stopRings_fn_other {s : State} {f g : Nat} (h : g ≠ f) : (s.stopRings f).fn g = s.fn g := by
  rw [State.stopRings, State.setFn_fn, if_neg h]

theorem State.stopRings_mbx (s : State) (f : Nat) : ((s.stopRings f).fn f).mbx = (s.fn f).mbx := by
  rw [State.stopRings, State.setFn_fn_self]

theorem State.stopRings_cmds (s : State) (f r : Nat) : ((s.stopRings f).ring f r).cmds = [] := by
  rw [State.ring, State.stopRings, State.setFn_fn_self, tabGet_of_tabFind, tabFind_tabMap]
  cases tabFind (s.fn f).rings r with
  | none => rfl
  | some q => rfl

/-- A function that an FLR of its port has stopped: its mailbox and its rings. -/
def State.FnStopped (s : State) (f : Nat) : Prop := (s.fn f).mbx.stopped = true ∧ ∀ r, (s.ring f r).cmds = []

/-- The FLR of a port stops one of its functions. -/
def State.stopFn (s : State) (f : Nat) : State :=
  (s.setFn f { s.fn f with mbx := { (s.fn f).mbx with stopped := true } }).stopRings f

theorem State.stopFn_stops (s : State) (f : Nat) : (s.stopFn f).FnStopped f := by
  refine ⟨?_, State.stopRings_cmds _ f⟩
  rw [State.stopFn, State.stopRings_mbx, State.setFn_fn_self]

theorem State.stopFn_other {s : State} {f g : Nat} (h : g ≠ f) : (s.stopFn f).fn g = s.fn g := by
  rw [State.stopFn, State.stopRings_fn_other h, State.setFn_fn, if_neg h]

theorem State.foldl_stopFn_other {k : Nat} {l : List Nat} {s : State} {g : Nat} (h : ∀ n ∈ l, g ≠ k + n) :
    (l.foldl (fun t n => t.stopFn (k + n)) s).fn g = s.fn g :=
  List.foldlRecOn (motive := fun t : State => t.fn g = s.fn g) _ _ rfl fun _ ht n hn => (State.stopFn_other (h n hn)).trans ht

theorem State.foldl_stopFn_stops {k m : Nat} {l : List Nat} {s : State} (h : m ∈ l ∨ s.FnStopped (k + m)) :
    (l.foldl (fun t n => t.stopFn (k + n)) s).FnStopped (k + m) := by
  induction l generalizing s with
  | nil => exact h.resolve_left (List.not_mem_nil)
  | cons n l ih =>
    refine ih ?_
    by_cases hn : k + m = k + n
    · exact .inr (hn ▸ s.stopFn_stops (k + n))
    · obtain hm | hm := h
      · exact .inl ((List.mem_cons.1 hm).resolve_left (by omega))
      · have hfn := State.stopFn_other (s := s) hn
        exact .inr (by unfold State.FnStopped State.ring at hm ⊢; rwa [hfn])

theorem flrPf_stops {p : Fin 8} {s : State} (hp : s.phase = .ready) :
    let m := (upto 0 128).foldl (fun (t : State) n =>
      let x := t.fn (p.val * 128 + n)
      (t.setFn (p.val * 128 + n) { x with mbx := { x.mbx with stopped := true } }).stopRings (p.val * 128 + n)) s
    exec (.flrPf p) s = .next ((m.takeDownAll ((m.ctxsWhere (fun x => x.port == p.val)).map (·.1))).countFlr p.val 1)
    ∧ (∀ n < 128, (m.fn (p.val * 128 + n)).mbx.stopped = true ∧ ∀ r, (m.ring (p.val * 128 + n) r).cmds = [])
    ∧ (∀ g, (g < p.val * 128 ∨ p.val * 128 + 128 ≤ g) → m.fn g = s.fn g) := by
  intro m
  have hm : m = (upto 0 128).foldl (fun (t : State) n => t.stopFn (p.val * 128 + n)) s := rfl
  refine ⟨?_, fun n hn => hm ▸ State.foldl_stopFn_stops (.inl ((mem_upto 0 128 n).2 ⟨Nat.zero_le n, by omega⟩)),
    fun g hg => hm ▸ State.foldl_stopFn_other fun n hn => ?_⟩
  · simp only [exec, execFlrPf, State.portsUp_of_ready hp, Bool.not_true, Bool.false_eq_true, if_false]
    rfl
  · obtain ⟨-, hlt⟩ := (mem_upto 0 128 n).1 hn
    omega

/-- An FLR of a function without contexts stops its rings and does no more. -/
theorem State.flr_of_no_ctx {p f : Nat} {s : State} (h : ∀ e ∈ s.ctxs, e.2.port ≠ p ∨ e.2.fn ≠ f) : s.flr p f = s.stopRings (p * 128 + f) := by
  have hnone : (s.stopRings (p * 128 + f)).ctxsWhere (fun x => x.port == p && x.fn == f) = [] := by
    refine List.filter_eq_nil_iff.2 fun e he => ?_
    have := h e he
    simpa [imp_iff_not_or] using this
  rw [State.flr, hnone]
  rfl

/-- The registers of a port after its reset. -/
def Port.reset (v : Port) : Port :=
  { v with rate := 0, width := 0, cxl := false, cacheEn := false, memEn := false, ideSecure := false, ideKeys := false
           hdmMap := [], hdmIdle := [], hdmPend := [], filter := [], latchedReset := false }

theorem State.portReset_eq (s : State) (p : Nat) : ∃ t : State, s.portReset p = { t.setPort p (t.port p).reset with
    snoops := t.snoops.filter (fun x => x.port != p), atc := t.atc.filter (fun a => a.port != p) } := ⟨_, rfl⟩

theorem State.portReset_port (s : State) (p : Nat) :
    let v := (s.portReset p).port p
    v.cxl = false ∧ v.memEn = false ∧ v.cacheEn = false ∧ v.hdmMap = [] ∧ v.filter = [] ∧ v.ideSecure = false ∧ v.ideKeys = false
      ∧ (∀ x ∈ (s.portReset p).snoops, x.port ≠ p) ∧ (∀ x ∈ (s.portReset p).atc, x.port ≠ p) := by
  obtain ⟨t, ht⟩ := s.portReset_eq p
  intro v
  have hv : v = (t.port p).reset := by
    show (s.portReset p).port p = _
    rw [ht]
    exact (t.setPort_port p p _).trans (if_pos rfl)
  rw [hv, ht]
  exact ⟨rfl, rfl, rfl, rfl, rfl, rfl, rfl, fun x hx => bne_iff_ne.1 (List.mem_filter.1 hx).2, fun x hx => bne_iff_ne.1 (List.mem_filter.1 hx).2⟩

/-- Settles O55: the port's events by their cases, the FLR of a port by induction over its functions. -/
theorem portEvents : Obligations.PortEvents := by
  unfold Obligations.PortEvents
  refine ⟨?_, fun p s => s.portReset_port p, ?_⟩
  · intro p rate width fm us ms ses f s v r hp
    have hhot : s.hotReset p.val = _ := State.hotReset_of_ready hp
    exact ⟨linkUp_flit hp, linkUp_out hp, fun e he => hhot ▸ exec_hotReset hp e he, perstN_held hp, fun h => h ▸ perstN_none p s, dlDown_long hp,
      dlDown_short, ideIntegrityFailure_secure hp, cxlKeyExchange_session hp, cxlKeyExchange_refused, rfl, flrVf_virtual hp,
      exec_vfEnableClear hp, flrPf_stops (p := p) hp⟩
  · intro p f s _ hno t
    have ht : t = s.stopRings (p * 128 + f) := State.flr_of_no_ctx hno
    rw [ht]
    exact ⟨s.stopRings_cmds _, fun g hg => State.stopRings_fn_other hg, rfl⟩

end Sys2Proof.Machine
end

section
/-!
PROOFS. Sessions, measurements, sector keys and grants (O56), and debug unlock (O57).
-/

namespace Sys2Proof.Machine

/-! ### Sessions and measurements (R487, R488) -/

section Path
variable {p : SpdmPath} {i : Nat} {s : State} (hup : s.pathUp p = true)
include hup

theorem spdmKeyExchange_opens (h : (s.sec.sessions.filter (fun x => x.path == p)).length < sessionLimit p) :
    exec (.spdmKeyExchange p) s = .next (({ s with sec := { s.sec with
      sessions := s.sec.sessions ++ [{ id := s.sec.nextSes, path := p }], nextSes := s.sec.nextSes + 1 } } : State).emit
        (.spdm "KEY_EXCHANGE" true)) := by
  simp only [exec, execSpdmKeyExchange, hup, Nat.not_le.2 h, Bool.not_true, Bool.false_eq_true, if_false]

theorem spdmKeyExchange_full (h : sessionLimit p ≤ (s.sec.sessions.filter (fun x => x.path == p)).length) :
    exec (.spdmKeyExchange p) s = .next (s.emit (.spdm "KEY_EXCHANGE" false)) := by
  simp only [exec, execSpdmKeyExchange, hup, h, Bool.not_true, Bool.false_eq_true, if_false, if_true]

theorem getMeasurements_known (h : (1 ≤ i ∧ i ≤ 6) ∨ (64 ≤ i ∧ i < 128)) :
    exec (.getMeasurements p i) s = .next (s.emit (.measurement i (s.measure i).1 (s.measure i).2)) := by
  have h1 : ((decide (1 ≤ i) && decide (i ≤ 6)) || (decide (64 ≤ i) && decide (i < 128))) = true := by simpa using h
  simp only [exec, execGetMeasurements, hup, h1, Bool.not_true, Bool.false_eq_true, if_false]

theorem getMeasurements_unknown (h : ¬ ((1 ≤ i ∧ i ≤ 6) ∨ (64 ≤ i ∧ i < 128))) :
    exec (.getMeasurements p i) s = .next (s.emit (.spdm "GET_MEASUREMENTS" false)) := by
  have h1 : ((decide (1 ≤ i) && decide (i ≤ 6)) || (decide (64 ≤ i) && decide (i < 128))) = false := by
    rw [Bool.eq_false_iff]
    simpa using h
  simp only [exec, execGetMeasurements, hup, h1, Bool.not_true, Bool.not_false, Bool.false_eq_true, if_false, if_true]

end Path

/-- The measurement block of a sector. -/
theorem State.measure_sector {r : Nat} {x : Sector} {s : State} (h : s.sector r = some x) : s.measure (64 + r) = (x.chain, x.words) := by
  have hi : ∀ k ≤ 6, 64 + r ≠ k := fun k hk => by omega
  simp only [State.measure, hi 1 (by decide), hi 2 (by decide), hi 3 (by decide), hi 4 (by decide), hi 5 (by decide), hi 6 (by decide), if_false,
    Nat.add_sub_cancel_left, h]

/-! ### Sector keys and grants (R490 to R492) -/

section Session
variable {ses : Nat} {a b : Fin 4096} {s : State} (hses : s.hasSession ses = true)
include hses

/-- Whether a context of a sector has a step that runs or waits. -/
def State.stepsPending (s : State) (r : Nat) : Bool := (s.ctxsOf r).any (fun e => e.2.state == .running || e.2.state == .waiting)

section Key
variable {sec : Fin 64} {key : BitVec 512} {claim : BitVec 256} {x : Sector} (hx : s.sector sec.val = some x)
include hx

theorem setSectorKey_free (hkey : x.keyed = false ∨ x.keySes = some ses) (hsteps : s.stepsPending sec.val = false) :
    exec (.setSectorKey ses sec key claim) s
      = .next ((s.setKey sec.val { x with keyed := true, claim := claim, keySes := some ses } key).emit (.spdm "SET_SECTOR_KEY" true)) := by
  have h1 : (x.keyed && x.keySes != some ses) = false := by simpa [imp_iff_not_or] using hkey
  unfold State.stepsPending at hsteps
  simp only [exec, execSetSectorKey, hses, hx, h1, hsteps, Bool.not_true, Bool.false_eq_true, if_false]

theorem setSectorKey_refused (h : (x.keyed = true ∧ x.keySes ≠ some ses) ∨ s.stepsPending sec.val = true) :
    exec (.setSectorKey ses sec key claim) s = .next (s.emit (.spdm "SET_SECTOR_KEY" false)) := by
  unfold State.stepsPending at h
  simp only [exec, execSetSectorKey, hses, hx, Bool.not_true, Bool.false_eq_true, if_false]
  split
  · rfl
  next hkey => exact if_pos (h.resolve_left (by simpa using hkey))

end Key

theorem grantQueue_refused (h : s.keyedBy ses a.val = false ∨ s.ctx b.val = none) :
    exec (.grantQueue ses a b) s = .next (s.emit (.spdm "GRANT_QUEUE" false)) := by
  have h1 : (!s.keyedBy ses a.val || (s.ctx b.val).isNone) = true := by simpa using h
  simp only [exec, execGrantQueue, hses, h1, Bool.not_true, Bool.false_eq_true, if_false, if_true]

theorem revokeQueue_granted (h : ({ recv := a.val, admitted := b.val, ses := ses } : Grant) ∈ s.sec.grants) :
    let t : State := { s with sec := { s.sec with grants := s.sec.grants.filter (· != { recv := a.val, admitted := b.val, ses := ses }) } }
    exec (.revokeQueue ses a b) s
      = .next (((t.cls.filter (fun e => e.2.owner == some a.val)).foldl (fun (t : State) e => t.admitOther e.1) t).emit
          (.spdm "REVOKE_QUEUE" true)) := by
  simp only [exec, execRevokeQueue, hses, List.contains_iff_mem.2 h, Bool.not_true, Bool.false_eq_true, if_false]

theorem revokeQueue_unknown (h : ({ recv := a.val, admitted := b.val, ses := ses } : Grant) ∉ s.sec.grants) :
    exec (.revokeQueue ses a b) s = .next (s.emit (.spdm "REVOKE_QUEUE" false)) := by
  simp [exec, execRevokeQueue, hses, h]

end Session

theorem grantQueue_keyed {ses : Nat} {s : State} {a b : Fin 4096} (hkey : s.keyedBy ses a.val = true) (hctx : (s.ctx b.val).isSome = true) :
    exec (.grantQueue ses a b) s = .next (({ s with sec := { s.sec with
      grants := s.sec.grants ++ [{ recv := a.val, admitted := b.val, ses := ses }] } } : State).emit (.spdm "GRANT_QUEUE" true)) := by
  have hses : s.hasSession ses = true := (Bool.and_eq_true_iff.1 hkey).1
  have h1 : (!s.keyedBy ses a.val || (s.ctx b.val).isNone) = false := by simp [hkey, Option.isNone_eq_false_iff, hctx]
  simp only [exec, execGrantQueue, hses, h1, Bool.not_true, Bool.false_eq_true, if_false]

/-- Settles O56: by the cases of each message. -/
theorem sessionsKeysAndGrants : Obligations.SessionsKeysAndGrants := by
  unfold Obligations.SessionsKeysAndGrants
  refine ⟨?_, fun r s => ?_⟩
  · intro p i ses sec key claim a b x s most held known steps g _
    have hmost : most = sessionLimit p := by
      cases p with
      | doe k => rfl
      | i3c => rfl
    rw [hmost]
    exact ⟨spdmKeyExchange_opens, spdmKeyExchange_full, rfl, getMeasurements_known, getMeasurements_unknown,
      fun hses hx => ⟨setSectorKey_free hses hx, setSectorKey_refused hses hx⟩, grantQueue_keyed, grantQueue_refused, revokeQueue_granted,
      revokeQueue_unknown⟩
  · exact ⟨rfl, rfl, rfl, rfl, rfl, fun h => by simp [State.measure, h, b2n], fun h => by simp [State.measure, h, b2n],
      fun x hx => State.measure_sector hx⟩

/-! ### The release of sectors (R415) -/

/-- The release of a sector takes it out of the table, and leaves the others in it. -/
theorem State.releaseSector_sectors {r : Nat} {x : Sector} {s : State} (h : s.sector r = some x) :
    (s.releaseSector r).sectors = tabDel s.sectors r := by
  unfold State.releaseSector
  split
  next hnone => exact absurd (h.symm.trans hnone) nofun
  next =>
    extract_lets +onlyGivenNames t t1 t2 t3 t4 t5
    have ht4 : t4.keeps ⟨s, true⟩ :=
      (State.keeps.setQuotas (((s.keeps_refl true).foldl fun _ _ ht => ht.destroyContext).wipeRegion.foldl fun _ _ ht => ht.freeGroup)).foldl
        fun _ _ ht => ht.unmapHost.setGranule
    obtain ⟨-, -, hsectors⟩ := ht4
    exact congrArg (tabDel · r) (hsectors rfl)

theorem State.releaseSector_none {r : Nat} {s : State} (h : s.sector r = none) : s.releaseSector r = s := by
  unfold State.releaseSector
  rw [h]

theorem State.releaseSector_gone (s : State) (r : Nat) : (s.releaseSector r).sector r = none := by
  cases h : s.sector r with
  | none => rw [State.releaseSector_none h, h]
  | some x => rw [State.sector, State.releaseSector_sectors h, tabFind_tabDel, if_pos rfl]

theorem mem_tabDel {α : Type} {t : Tab α} {i : Nat} {e : Nat × α} : e ∈ tabDel t i ↔ e ∈ t ∧ e.1 ≠ i := by
  rw [tabDel, List.mem_filter, bne_iff_ne]

/-- No listed key is missing from the look-up. -/
theorem tabFind_of_mem {α : Type} {t : Tab α} {e : Nat × α} (h : e ∈ t) : (tabFind t e.1).isSome = true := by
  induction t with
  | nil => cases h
  | cons d t ih =>
    obtain ⟨k, w⟩ := d
    unfold tabFind
    split
    · rfl
    next hne =>
      refine ih ((List.mem_cons.1 h).resolve_left ?_)
      rintro rfl
      exact hne rfl

theorem State.mem_releaseSector {s : State} {r : Nat} {e : Nat × Sector} (h : e ∈ (s.releaseSector r).sectors) : e ∈ s.sectors ∧ e.1 ≠ r := by
  cases hr : s.sector r with
  | some x =>
    rw [State.releaseSector_sectors hr] at h
    exact mem_tabDel.1 h
  | none =>
    rw [State.releaseSector_none hr] at h
    refine ⟨h, fun hk => ?_⟩
    have hsome := tabFind_of_mem h
    rw [hk, show tabFind s.sectors r = none from hr] at hsome
    exact Bool.false_ne_true hsome

theorem State.mem_foldl_releaseSector {l : List (Nat × Sector)} {s : State} {e : Nat × Sector}
    (h : e ∈ (l.foldl (fun t d => t.releaseSector d.1) s).sectors) : e ∈ s.sectors ∧ e ∉ l := by
  induction l generalizing s with
  | nil => exact ⟨h, List.not_mem_nil⟩
  | cons d l ih =>
    obtain ⟨hin, hl⟩ := ih h
    obtain ⟨hs, hne⟩ := State.mem_releaseSector hin
    exact ⟨hs, fun hd => (List.mem_cons.1 hd).elim (fun hed => hne (congrArg Prod.fst hed)) hl⟩

theorem State.releaseAll_sectors (s : State) : s.releaseAll.sectors = [] := by
  refine List.eq_nil_iff_forall_not_mem.2 fun e he => ?_
  obtain ⟨hin, hout⟩ := State.mem_foldl_releaseSector he
  exact hout hin

theorem State.redrawKeys_sectors (s : State) : s.redrawKeys.sectors = s.sectors :=
  List.foldlRecOn (motive := fun t : State => t.sectors = s.sectors) _ _ rfl fun _ ht _ _ => ht

theorem State.relock_sectors (s : State) : s.relock.sectors = [] := s.releaseAll.redrawKeys_sectors.trans s.releaseAll_sectors

/-! ### Debug unlock (R495 to R497) -/

section Unlock
variable {r : Requester} {s : State} (hp : s.phase = .ready)
include hp

theorem debugNonceRead_may (hmay : s.classOf r none = .keeper ∨ s.classOf r none = .management) (hreach : reaches r 0x30020 = true) :
    exec (.debugNonceRead r) s = .next { s with
      fresh := s.fresh + 1
      sec := { s.sec with nonce := some ((Config.freeValue s.fresh).setWidth 64), nonceAt := s.time }
      out := s.out ++ [.readReply r ((Config.freeValue s.fresh).setWidth 64)] } := by
  have h1 : ¬ (s.phase ≠ .ready ∨ (!reaches r 0x30020) = true) := by simp [hp, hreach]
  have h2 : ¬ (s.classOf r none ≠ .keeper ∧ s.classOf r none ≠ .management) := by tauto
  simp only [exec, execDebugNonceRead, if_neg h1, if_neg h2]
  rfl

theorem debugNonceRead_mayNot (hmay : ¬ (s.classOf r none = .keeper ∨ s.classOf r none = .management)) (hreach : reaches r 0x30020 = true) :
    exec (.debugNonceRead r) s = .next (s.emit (.readReply r 0)) := by
  have h1 : ¬ (s.phase ≠ .ready ∨ (!reaches r 0x30020) = true) := by simp [hp, hreach]
  simp only [exec, execDebugNonceRead, if_neg h1, if_pos (not_or.1 hmay)]

section Unlocked
variable (hun : s.sec.unlocked = true)
include hun

theorem relock_may {v : Word} (hv : v.getLsbD 0 = true) (hmay : s.classOf r none = .keeper ∨ s.classOf r none = .management)
    (hreach : reaches r 0x30028 = true) : exec (.relock r v) s = .next s.relock := by
  have h1 : ¬ (s.classOf r none ≠ .keeper ∧ s.classOf r none ≠ .management) := by tauto
  refine if_neg ?_
  simp [hp, hreach, h1, hv, hun]

theorem unlockExpiry_unlocked : exec .unlockExpiry s = .next (s.advanceTo s.sec.ttlEnd).relock :=
  if_neg (by simp [hp, hun])

end Unlocked
end Unlock

/-- A write of another value relocks nothing. -/
theorem relock_zero {r : Requester} {v : Word} {s : State} (hv : v.getLsbD 0 = false) : exec (.relock r v) s = .next s :=
  if_pos (.inr (.inr (.inr (.inl (by rw [hv]; rfl)))))

section Token
variable {p : SpdmPath} {tk : Token} {s : State} (hup : s.pathUp p = true) (hses : s.sec.sessions.any (fun x => x.path == p) = true)
include hup hses

theorem debugToken_unlocked (h : s.sec.unlocked = true) : exec (.debugToken p tk) s = .next (s.emit (.spdm "DEBUG_TOKEN" false)) := by
  simp only [exec, execDebugToken, hup, hses, h, Bool.not_true, Bool.or_self, Bool.false_eq_true, if_false, if_true]

theorem debugToken_refused (h : s.sec.unlocked = false) (hok : s.tokenOk tk = false) :
    exec (.debugToken p tk) s = .next (({ s with sec := { s.sec with nonce := none } } : State).emit (.spdm "DEBUG_TOKEN" false)) := by
  simp only [exec, execDebugToken, hup, hses, h, hok, Bool.not_true, Bool.not_false, Bool.or_self, Bool.false_eq_true, if_false, if_true]

theorem debugToken_accepted (h : s.sec.unlocked = false) (hok : s.tokenOk tk = true) :
    let freed := s.releaseAll.redrawKeys
    exec (.debugToken p tk) s = .next (({ freed with sec := { freed.sec with
      sessions := [], nonce := none, unlocked := true, perms := tk.perms.toNat, ttlEnd := freed.time + tk.ttl.toNat * 1000000000
      tokenDigest := Config.sha512 ((tokenBytes tk) ++ toBytes 512 tk.sig.toNat) } } : State).emit (.spdm "DEBUG_TOKEN" true)) := by
  simp only [exec, execDebugToken, hup, hses, h, hok, Bool.not_true, Bool.or_self, Bool.false_eq_true, if_false]

end Token

/-- Settles O57: by the cases of each message, and by induction over the sectors that are released. -/
theorem debugUnlock : Obligations.DebugUnlock := by
  unfold Obligations.DebugUnlock
  refine ⟨?_, fun s => ⟨s.releaseAll_sectors, s.relock_sectors, rfl, rfl⟩⟩
  intro p tk r v s hp mayRead freed
  exact ⟨debugNonceRead_may hp, debugNonceRead_mayNot hp,
    fun hup hses => ⟨debugToken_unlocked hup hses, debugToken_refused hup hses, debugToken_accepted hup hses⟩,
    fun hun => ⟨relock_may hp hun, relock_zero, unlockExpiry_unlocked hp hun⟩⟩

end Sys2Proof.Machine
end

section
/-!
PROOFS. Boot and recovery (O58), and the power and reset pins (O59).
-/

namespace Sys2Proof.Machine

/-! ### Boot (R480, R481) -/

section Boot
variable {r : BootResult} {s : State} (hp : s.phase = .booting) (hrails : s.pins.rails = true)
include hp hrails

theorem boot_badRoot (h : r.rootKeyOk = false) : exec (.boot r) s = .next { s with phase := .recovery, sec := { s.sec with failStep := 1 } } := by
  simp [exec, execBoot, hp, hrails, h, State.toRecovery]

theorem boot_noSlot (hroot : r.rootKeyOk = true) (h : s.flash.selected = none) :
    exec (.boot r) s = .next { s with phase := .recovery, sec := { s.sec with failStep := 2 } } := by
  simp [exec, execBoot, hp, hrails, hroot, h, State.toRecovery]

/-- The state in which the boot goes on from step 5: the image runs, and the two keys of R483 are in Keeper SRAM. -/
def State.booted (s : State) (k : Nat) : State :=
  { s with sec := { s.sec with
    runSlot := k, version := (s.flash.slot k).version, svn := (s.flash.slot k).svn, digest := (s.flash.slot k).digest, idOk := true
    wrapKey := some (Config.wrapKey s.flash.helper), recordKey := some (Config.recordKey s.flash.helper) } }

theorem boot_inForce (hroot : r.rootKeyOk = true) (hsel : s.flash.selected = some s.flash.inForce) (hpuf : r.pufOk = true)
    (hrec : r.recordsOk = true) : exec (.boot r) s = .next ((s.booted s.flash.inForce).backToForce.bootRest r) := by
  simp [exec, execBoot, hp, hrails, hroot, hsel, hpuf, hrec, State.booted]

end Boot

/-- With no trial cut short the image in force runs. -/
theorem State.booted_backToForce {s : State} (h : s.flash.trialSlot = none) :
    (s.booted s.flash.inForce).backToForce = s.booted s.flash.inForce := by
  have h1 : (s.booted s.flash.inForce).flash.trialSlot = none := h
  unfold State.backToForce
  simp only [h1]
  rfl

theorem tabGet_map_upto {α : Type} (d : α) (f : Nat → α) {a n i : Nat} (hlo : a ≤ i) (hhi : i < a + n) :
    tabGet d ((upto a n).map (fun k => (k, f k))) i = f i := by
  induction n generalizing a with
  | zero => omega
  | succ n ih =>
    by_cases h : i = a
    · subst h
      exact if_pos rfl
    · exact (if_neg h).trans (ih (by omega) (by omega))

/-- No granule is withdrawn for parts that are not retired. -/
theorem State.withdraw_none (s : State) : (s.withdraw 0).elim s (·.1) = s := by
  show (if s.stacksHold = true then some (s, ([] : List Nat)) else none).elim s (·.1) = s
  by_cases h : s.stacksHold = true
  · rw [if_pos h]
    rfl
  · rw [if_neg h]
    rfl

theorem State.selfTest_good {s : State} (hfailed : s.flash.failed = []) (hship : s.flash.shipFailed = []) : s.selfTest [] = s := by
  have h1 : (upto 0 2048).filter (fun c => s.flash.failed.contains (s.physOf c) || s.flash.shipFailed.contains (s.physOf c)) = [] := by
    rw [hfailed, hship]
    exact List.filter_eq_nil_iff.2 fun _ _ => by simp
  show ((upto 0 2048).filter (fun c => s.flash.failed.contains (s.physOf c) || s.flash.shipFailed.contains (s.physOf c))).foldl
    State.remapCluster s = s
  rw [h1]
  rfl

/-- A controller whose stack has been trained, with no part retired. -/
def Ctrl.trainedUp (c : Ctrl) : Ctrl := { c with trained := true, retired := false, pcRetired := 0 }

/-- Step 5 of the boot of a device without a fault. -/
def State.trainedUp (s : State) : State :=
  { s with hbm := { s.hbm with ctrls := (upto 0 20).map (fun n => (n, (s.ctrl n).trainedUp)) } }

theorem State.trainedUp_ctrl {s : State} {n : Nat} (h : n < 20) : s.trainedUp.ctrl n = (s.ctrl n).trainedUp :=
  tabGet_map_upto ({} : Ctrl) (fun n => (s.ctrl n).trainedUp) (Nat.zero_le n) (by omega)

/-- The end of the boot of a device without a fault. -/
def State.inService (s : State) (w : BitVec 512) : State :=
  { s with
    phase := .ready
    flash := ({ s.flash with boot := (s.flash.boot + 1) % 2 ^ 16 } : Flash).commit
    ports := (upto 0 8).map (fun p => (p, { s.port p with clkreq := true }))
    sec := { s.sec with bootMs := w.toNat % 20001, failStep := 0 }
    kpr := { s.kpr with serial := s.flash.serial, beaconAt := s.time } }

theorem State.bootRest_good {r : BootResult} {s : State} (hmeasure : r.measureOk = true) (htables : r.tablesOk = true) (hstacks : r.badStacks = [])
    (hclusters : r.badClusters = []) (hretired : s.flash.stacksRetired = []) (hpc : s.flash.pcRetired = []) (hfailed : s.flash.failed = [])
    (hship : s.flash.shipFailed = []) : s.bootRest r = s.trainedUp.draw.2.inService s.trainedUp.draw.1 := by
  have hself : s.trainedUp.selfTest [] = s.trainedUp := State.selfTest_good hfailed hship
  have hwithdraw := s.trainedUp.withdraw_none
  unfold State.bootRest
  simp only [hstacks, hclusters, hretired, hpc, List.length_nil, Nat.mul_zero, Nat.add_zero, List.foldl_nil, List.filter_nil, List.map_nil,
    List.contains_nil, Bool.not_false, htables, hmeasure, Bool.not_true, Bool.false_eq_true, if_false, if_true]
  erw [hwithdraw, hself]
  rfl

/-! ### Recovery (R482) and the dynamic address (R555) -/

theorem recoveryWriteFirmware_good {slot : Fin 2} {img : FwImage} {s : State} (hp : s.phase = .recovery)
    (hgood : Config.rsaGood img.bytes img.sig = true) (hfloor : s.flash.floor ≤ img.svn.toNat) :
    ∃ t, exec (.recoveryWriteFirmware slot img) s = .next t ∧ t.phase = .booting ∧ (t.flash.slot slot.val).good = true
      ∧ (t.flash.slot slot.val).digest = Config.sha512 img.bytes ∧ (t.flash.slot (1 - slot.val)) = s.flash.slot (1 - slot.val)
      ∧ t.flash.floor = s.flash.floor := by
  have h1 : (decide (s.phase ≠ .recovery) || !Config.rsaGood img.bytes img.sig || decide (img.svn.toNat < s.flash.floor)) = false := by
    simp [hp, hgood, Nat.not_lt.2 hfloor]
  simp only [exec, execRecoveryWriteFirmware, h1, Bool.false_eq_true, if_false]
  match slot with
  | 0 => exact ⟨_, rfl, rfl, rfl, rfl, rfl, rfl⟩
  | 1 => exact ⟨_, rfl, rfl, rfl, rfl, rfl, rfl⟩

theorem dynamicAddressAssignment_given {how : I3cAssign} {addr : BitVec 7} {s : State} (hp : s.phase = .ready)
    (hhow : how = .entdaa ∨ how = .setdasa 0x3A) :
    exec (.dynamicAddressAssignment how addr) s = .next { s with sec := { s.sec with i3cAddr := some addr.toNat } } := by
  obtain rfl | rfl := hhow
  · simp [exec, execDynamicAddressAssignment, hp]
  · simp [exec, execDynamicAddressAssignment, hp]

/-- Settles O58: by the steps of the boot, of which a device without a fault passes all. -/
theorem bootAndRecovery : Obligations.BootAndRecovery := by
  unfold Obligations.BootAndRecovery
  intro r slot img addr s
  refine ⟨fun hp hrails => ⟨boot_badRoot hp hrails, boot_noSlot hp hrails, ?_⟩, fun hp => ⟨congrArg Host.Outcome.next (if_pos hp),
    recoveryWriteFirmware_good hp⟩, fun hp => ⟨dynamicAddressAssignment_given hp (.inl rfl), dynamicAddressAssignment_given hp (.inr rfl)⟩⟩
  intro hroot hsel hpuf hrec hmeasure htables hstacks hclusters htrial hretired hpc hfailed hship
  have hrest := State.bootRest_good (r := r) (s := s.booted s.flash.inForce) hmeasure htables hstacks hclusters hretired hpc hfailed hship
  refine ⟨_, by rw [boot_inForce hp hrails hroot hsel hpuf hrec, State.booted_backToForce htrial, hrest], rfl, rfl, rfl, rfl, rfl, fun n hn => ?_⟩
  have hctrl := State.trainedUp_ctrl (s := s.booted s.flash.inForce) hn
  exact ⟨congrArg Ctrl.trained hctrl, congrArg Ctrl.retired hctrl⟩

/-! ### Power and reset pins (R500, R513, R556) -/

/-- A device without supply: only the flash and what is outside the device are kept. -/
structure State.Unpowered (s t : State) : Prop where
  phase : t.phase = .off
  rails : t.pins.rails = false
  flash : t.flash = s.flash
  remap : t.remap = s.remap
  sectors : t.sectors = []
  ctxs : t.ctxs = []
  hbm : t.hbm = {}
  scus : t.scus = []
  mus : t.mus = []

theorem State.railsOff_unpowered (s : State) : s.Unpowered s.railsOff := ⟨rfl, rfl, rfl, rfl, rfl, rfl, rfl, rfl, rfl⟩

theorem State.railsOn_supplied {s : State} (hin : s.pins.inputOn = true) (hen : s.pins.pwren = true) (htherm : s.pins.thermtrip = false)
    (hp : s.phase = .off) : s.railsOn = { s.bare .booting with pins := { s.pins with rails := true } } := by
  have h1 : (s.pins.inputOn && s.pins.pwren && !s.pins.thermtrip && s.phase == .off) = true := by simp [hin, hen, htherm, hp]
  exact if_pos h1

theorem modResetNAssert_held {us : Nat} {s : State} (hp : s.phase ≠ .off) (h : 10 ≤ us) : exec (.modResetNAssert us) s = .next (s.bare .booting) := by
  simp only [exec, execModResetNAssert, hp, h, decide_false, decide_true, Bool.true_or, Bool.not_true, Bool.or_self, Bool.false_eq_true, if_false]

/-- Settles O59: every loss of power goes through the same loss of the rails. -/
theorem powerAndResetPins : Obligations.PowerAndResetPins := by
  unfold Obligations.PowerAndResetPins
  intro us s
  refine ⟨fun hin e he => ?_, fun hin htherm hp => ?_, fun hin hen htherm hp => ?_, fun hp hus => ?_⟩
  · simp only [List.mem_cons, List.not_mem_nil, or_false] at he
    obtain ⟨hphase, hrails, hflash, hremap, hsectors, hctxs, hhbm, hscus, hmus⟩ := s.railsOff_unpowered
    obtain rfl | rfl | rfl | rfl := he
    · have hexec : exec .thermalTrip s = .next ({ s with pins := { s.pins with thermtrip := true } } : State).railsOff := by
        simp [exec, execThermalTrip, hin]
      exact ⟨_, hexec, hphase, rfl, hflash, hremap, hsectors, hctxs, hhbm, hscus, hmus, fun _ => .inl rfl, by simp [State.railsOff, State.bare, hin]⟩
    · exact ⟨_, rfl, hphase, hrails, hflash, hremap, hsectors, hctxs, hhbm, hscus, hmus, .inr, by simp [State.railsOff, State.bare, hin]⟩
    · exact ⟨_, rfl, hphase, rfl, hflash, hremap, hsectors, hctxs, hhbm, hscus, hmus, .inr, by simp [State.railsOff, State.bare, hin]⟩
    · exact ⟨_, rfl, hphase, rfl, hflash, hremap, hsectors, hctxs, hhbm, hscus, hmus, nofun, by simp⟩
  · have hon := State.railsOn_supplied (s := { s with pins := { s.pins with pwren := true } }) hin rfl htherm hp
    exact ⟨_, congrArg Host.Outcome.next hon, rfl, rfl, rfl, rfl⟩
  · have hon := State.railsOn_supplied (s := { s with time := 0, pins := { s.pins with inputOn := true } }) rfl hen htherm hp
    have hexec : exec .inputPowerApplied s = .next ({ s with time := 0, pins := { s.pins with inputOn := true } } : State).railsOn := by
      simp [exec, execInputPowerApplied, hin]
    exact ⟨_, hexec.trans (congrArg Host.Outcome.next hon), rfl, rfl, rfl, rfl⟩
  · exact ⟨_, modResetNAssert_held hp hus, rfl, rfl, rfl, rfl, rfl, rfl, rfl, rfl⟩

end Sys2Proof.Machine
end

section
/-!
PROOFS. Supply levels, clock steps, samples and cooling (O60).
-/

namespace Sys2Proof.Machine

/-! ### Supply levels (R505 to R508) -/

section Level
variable {d : Fin 8} {s : State} (hp : s.phase = .ready)
include hp

theorem State.alive_of_ready : s.alive = true := by simp [State.alive, hp]

theorem warningCrossed_input :
    exec (.warningCrossed .input) s = .next (if s.pwr.inWarn = true then { s with pwr := { s.pwr with warn := sat16 s.pwr.warn 1 } }
      else (({ s with pwr := { s.pwr with warn := sat16 s.pwr.warn 1, inWarn := true, supplyStep := 4 } } : State).decideStep).record
        (levelRec 0)) := by
  simp only [exec, execWarningCrossed, State.alive_of_ready hp, Bool.not_true, Bool.false_eq_true, if_false]
  split
  · rfl
  · rfl

theorem warningCrossed_die :
    exec (.warningCrossed (.die d)) s = .next (if (s.die d.val).railWarn = true then { s with pwr := { s.pwr with warn := sat16 s.pwr.warn 1 } }
      else (({ s with pwr := { s.pwr with warn := sat16 s.pwr.warn 1, supplyStep := 4 } } : State).setDie d.val
        { s.die d.val with railWarn := true }).decideStep.record (levelRec 0)) := by
  have hdie : ({ s with pwr := { s.pwr with warn := sat16 s.pwr.warn 1 } } : State).die d.val = s.die d.val := rfl
  simp only [exec, execWarningCrossed, State.alive_of_ready hp, hdie, Bool.not_true, Bool.false_eq_true, if_false]
  split
  · rfl
  · rfl

theorem doubtCrossed_input :
    exec (.doubtCrossed .input) s = .next (if s.pwr.inDoubt = true then { s with pwr := { s.pwr with doubt := sat16 s.pwr.doubt 1 } }
      else ({ s with pwr := { s.pwr with doubt := sat16 s.pwr.doubt 1, inDoubt := true } } : State).doubt .input) := by
  simp only [exec, execDoubtCrossed, State.alive_of_ready hp, Bool.not_true, Bool.false_eq_true, if_false]
  split
  · rfl
  · rfl

theorem doubtCrossed_die :
    exec (.doubtCrossed (.die d)) s = .next (if (s.die d.val).railDoubt = true then { s with pwr := { s.pwr with doubt := sat16 s.pwr.doubt 1 } }
      else (({ s with pwr := { s.pwr with doubt := sat16 s.pwr.doubt 1 } } : State).setDie d.val
        { s.die d.val with railDoubt := true }).doubt (.die d)) := by
  have hdie : ({ s with pwr := { s.pwr with doubt := sat16 s.pwr.doubt 1 } } : State).die d.val = s.die d.val := rfl
  simp only [exec, execDoubtCrossed, State.alive_of_ready hp, hdie, Bool.not_true, Bool.false_eq_true, if_false]
  split
  · rfl
  · exact congrArg Host.Outcome.next (if_pos hp)

theorem State.latchReset_first {k : Nat} (ht : s.trigger = none) :
    s.latchReset k = { s with
      trigger := some k, triggerAt := s.time, phase := .resetting, ports := tabMap s.ports (fun _ v => { v with resetDrop := 0 }) } := by
  simp only [State.latchReset, hp, ht]

theorem levelCleared_input_warning (h : s.pwr.inWarn = true) :
    exec (.levelCleared .input .warning) s = .next ({ s with pwr := { s.pwr with inWarn := false } } : State).warnCleared.commitPoint := by
  simp only [exec, execLevelCleared, State.alive_of_ready hp, h, Bool.not_true, Bool.false_eq_true, if_false, if_true]

theorem levelCleared_input_doubt (h : s.pwr.inDoubt = true) :
    exec (.levelCleared .input .doubt) s
      = .next (({ s with pwr := { s.pwr with inDoubt := false } } : State).record (levelRec 2)).commitPoint := by
  simp only [exec, execLevelCleared, State.alive_of_ready hp, h, Bool.not_true, Bool.false_eq_true, if_false, if_true]

theorem levelCleared_die_warning (h : (s.die d.val).railWarn = true) :
    exec (.levelCleared (.die d) .warning) s
      = .next (s.setDie d.val { s.die d.val with railWarn := false }).warnCleared.commitPoint := by
  simp only [exec, execLevelCleared, State.alive_of_ready hp, h, Bool.not_true, Bool.false_eq_true, if_false, if_true]

theorem levelCleared_die_doubt (h : (s.die d.val).railDoubt = true) :
    exec (.levelCleared (.die d) .doubt) s
      = .next ((s.setDie d.val { s.die d.val with railDoubt := false }).record (levelRec 2)).commitPoint := by
  simp only [exec, execLevelCleared, State.alive_of_ready hp, h, Bool.not_true, Bool.false_eq_true, if_false, if_true]

/-! ### Samples and cooling (R501, R502, R512, R514) -/

theorem clockStepChange_decided {k at_ : Nat} (h : s.pwr.change = some (k, at_)) :
    let a := s.advanceTo (at_ + 100)
    exec .clockStepChange s = .next { a.advance 14 with pwr := { a.pwr with
      step := k, change := none, dies := (upto 0 8).map (fun d => (d, (a.die d).change k 14)) } } := by
  simp only [exec, execClockStepChange, h, hp, ne_eq, not_true_eq_false, if_false]

theorem exec_powerSample (mv da ms1 s1 peak : Nat) :
    exec (.powerSample mv da ms1 s1 peak) s = .next (((({ s with pwr := { s.pwr with
      mv := min 65535 mv, da := min 65535 da, watt := min 65535 s1, peak := max s.pwr.peak (min 65535 peak) } } : State).powerRule ms1
        s1).supplyBack).decideStep) := by
  simp only [exec, execPowerSample, hp, ne_eq, not_true_eq_false, if_false]

theorem junctionSample_dies {tj : Int} {l : List Int} (h : l.length ≤ 7) :
    exec (.junctionSample (tj :: l)) s = .next (((s.readJunctions (tj :: l)).thermRule (l.foldl max tj)).decideStep) := by
  have htake : (tj :: l).take 8 = tj :: l := List.take_of_length_le (by simpa using Nat.succ_le_succ h)
  simp only [exec, execJunctionSample, hp, htake, ne_eq, not_true_eq_false, if_false]

theorem coolFault_new (h : s.pins.coolFault = false) :
    exec .coolFault s = .next ({ s with pins := { s.pins with coolFault := true } } : State).coolAlarm := by
  simp only [exec, execCoolFault, State.alive_of_ready hp, h, Bool.not_true, Bool.or_self, Bool.false_eq_true, if_false]

theorem leakSense_new (h : s.pins.leak = false) :
    exec .leakSense s = .next ({ s with pins := { s.pins with leak := true } } : State).coolAlarm := by
  simp only [exec, execLeakSense, State.alive_of_ready hp, h, Bool.not_true, Bool.or_self, Bool.false_eq_true, if_false]

end Level

/-! ### The limits of the clock (R501, R512, R514) -/

theorem State.powerRule_above {ms1 : Nat} (h : 7500 < ms1) (s1 : Nat) (s : State) :
    (s.powerRule ms1 s1).pwr.powerStep = 4 ∧ (s.powerRule ms1 s1).pwr.lastDown = some s.time := by
  simp only [State.powerRule, if_pos h, and_self]

theorem State.thermRule_hot {hot : Int} (h : 420 ≤ hot) (s : State) :
    (s.thermRule hot).pwr.pausedThermal = true ∧ (s.thermRule hot).pwr.thermStep = 4 := by
  have h1 : degC 105 ≤ hot := h
  simp only [State.thermRule, if_pos h1]
  split
  next hpaused => exact ⟨hpaused, rfl⟩
  next => simp only [State.record_frame, and_self]

theorem State.thermRule_cool {hot : Int} (h : hot ≤ 400) (s : State) : (s.thermRule hot).pwr.pausedThermal = false := by
  have h1 : ¬ degC 105 ≤ hot := by unfold degC; omega
  have h2 : hot ≤ degC 100 := h
  simp only [State.thermRule, if_neg h1, if_pos h2]
  repeat' split
  all_goals rfl

theorem State.stepWanted_limited {s : State} (h : s.pins.coolFault = true ∨ s.pins.leak = true ∨ s.pwr.supplyStep = 4 ∨ s.pwr.powerStep = 4
    ∨ s.pwr.thermStep = 4) : 4 ≤ s.stepWanted := by
  simp only [State.stepWanted, le_max_iff]
  obtain h | h | h | h | h := h
  · simp [h]
  · simp [h]
  · simp [h]
  · simp [h]
  · simp [h]

theorem State.decideStep_new {s : State} (hc : s.pwr.change = none) (h : s.stepWanted ≠ s.pwr.step) :
    s.decideStep = { s with pwr := { s.pwr with change := some (s.stepWanted, s.time) } } := by
  simp only [State.decideStep, hc, if_neg h]

theorem State.decideStep_same {s : State} (hc : s.pwr.change = none) (h : s.stepWanted = s.pwr.step) : s.decideStep = s := by
  simp only [State.decideStep, hc, if_pos h]

/-- A decision changes nothing but the change of the clock that is to come. -/
theorem State.decideStep_pwr (s : State) : ∃ c, s.decideStep.pwr = { s.pwr with change := c } := by
  unfold State.decideStep
  dsimp only
  repeat' split
  all_goals exact ⟨_, rfl⟩

theorem State.coolAlarm_pauses (s : State) : s.coolAlarm.pwr.pausedCool = true ∧ s.coolAlarm.pwr.cool = min (s.pwr.cool + 1) 0xFFFF := by
  obtain ⟨c, hc⟩ := ({ s with pwr := { s.pwr with pausedCool := true, cool := sat16 s.pwr.cool 1 } } : State).decideStep_pwr
  simp only [State.coolAlarm, State.record_frame, hc, true_and]
  rfl

/-- Settles O60: each level, sample and signal by its cases, and the clock by the largest of its limits. -/
theorem supplyPowerAndCooling : Obligations.SupplyPowerAndCooling := by
  unfold Obligations.SupplyPowerAndCooling
  refine ⟨?_, ?_, ?_⟩
  · intro d s hp p q x w u
    have hwarn := warningCrossed_input hp
    have hwarnDie := warningCrossed_die (d := d) hp
    have hdoubt := doubtCrossed_input hp
    have hdoubtDie := doubtCrossed_die (d := d) hp
    exact ⟨fun h => by rw [hwarn, if_neg (ne_true_of_eq_false h)]; rfl, fun h => by rw [hwarn, if_pos h]; rfl,
      fun h => by rw [hwarnDie, if_neg (ne_true_of_eq_false h)]; rfl, fun h => by rw [hwarnDie, if_pos h]; rfl,
      fun h => by rw [hdoubt, if_neg (ne_true_of_eq_false h)]; rfl, fun h => by rw [hdoubt, if_pos h]; rfl,
      fun h => by rw [hdoubtDie, if_neg (ne_true_of_eq_false h)]; rfl, fun h => by rw [hdoubtDie, if_pos h]; rfl,
      fun ht => ⟨congrArg Host.Outcome.next (State.latchReset_first hp ht), congrArg Host.Outcome.next (State.latchReset_first hp ht)⟩,
      levelCleared_input_warning hp, levelCleared_input_doubt hp, levelCleared_die_warning hp, levelCleared_die_doubt hp⟩
  · intro k at_ mv da ms1 s1 peak tj l s hp
    exact ⟨clockStepChange_decided hp, exec_powerSample hp mv da ms1 s1 peak, junctionSample_dies hp, coolFault_new hp, leakSense_new hp, rfl⟩
  · intro ms1 s1 hot s
    exact ⟨fun h => State.powerRule_above h s1 s, fun h => State.thermRule_hot h s, fun h => State.thermRule_cool h s, State.stepWanted_limited,
      State.decideStep_new, State.decideStep_same, s.coolAlarm_pauses, fun _ _ _ => rfl⟩

end Sys2Proof.Machine
end

section
/-!
PROOFS. The beacon, the watchdog and live firmware update (O49).
-/

namespace Sys2Proof.Machine

section Ready
variable {s : State} (hp : s.phase = .ready)
include hp

/-- The beacon's tick at the time of `t`. -/
def State.ticked (s t : State) : State := { t with kpr := { s.kpr with beacon := (s.kpr.beacon + 1) % 2 ^ 64, beaconAt := t.time } }

theorem beaconTick_running (hdead : s.kpr.beaconDead = false) (hrun : s.kpr.restarting = false) :
    exec .beaconTick s = .next (s.ticked (s.advanceTo (s.kpr.beaconAt + 1000000))) := by
  have h1 : ¬ (s.phase ≠ .ready ∨ s.kpr.beaconDead = true) := by simp [hp, hdead]
  have h2 : exec .beaconTick s = if s.phase ≠ .ready ∨ s.kpr.beaconDead = true then .next s else
      let t := s.ticked (s.advanceTo (s.kpr.beaconAt + 1000000))
      .next (if s.kpr.restarting && decide (s.kpr.restartAt + 200000000 ≤ t.time) && t.flash.slotOk (1 - t.flash.inForce) then t.takeover else t) :=
    rfl
  simp only [h2, if_neg h1, hrun, Bool.false_and, Bool.false_eq_true, if_false]

theorem watchdogExpiry_running (hrun : s.kpr.restarting = false) :
    exec .watchdogExpiry s = .next ((s.advanceTo (s.kpr.beaconAt + 100000000)).latchReset 6) := by
  simp only [exec, execWatchdogExpiry, hp, hrun, ne_eq, not_true_eq_false, decide_false, Bool.false_and, Bool.or_self, Bool.false_eq_true, if_false]

theorem dieAgentTimeout_agent {die : Fin 8} (h : die.val ≠ 0) : exec (.dieAgentTimeout die) s = .next (s.latchAs 3 0x0B) :=
  if_neg (by simp [hp, h])

theorem State.latchAs_first (k w : Nat) (ht : s.trigger = none) : s.latchAs k w = { s with
    trigger := some k, triggerAt := s.time, phase := .resetting, ports := tabMap s.ports (fun _ v => { v with resetDrop := 0 })
    err := { s.err with trigCause := w } } := by
  simp only [State.latchAs, State.latchReset_first hp ht, ht, Option.isNone_none, Option.isSome_some, Bool.and_self, if_true]
  rfl

theorem State.keeperUp_of_ready (hrun : s.kpr.restarting = false) : s.keeperUp = true := by simp [State.keeperUp, hp, hrun]

/-- The image as its slot keeps it. -/
def imageSlot (img : FwImage) (floor : Nat) : FwSlot :=
  { version := img.version.toNat, svn := img.svn.toNat, digest := Config.sha512 img.bytes
    good := Config.rsaGood img.bytes img.sig && !decide (img.svn.toNat < floor) }

theorem firmwareImageWrite_other {slot : Fin 2} {img : FwImage} (hrun : s.kpr.restarting = false) (hslot : slot.val ≠ s.flash.inForce) :
    exec (.firmwareImageWrite slot img) s = .next { s with
      flash := (s.flash.setSlot slot.val (imageSlot img s.flash.floor)).commit
      kpr := { s.kpr with
        fwResult := if Config.rsaGood img.bytes img.sig = false then 2 else if decide (img.svn.toNat < s.flash.floor) = true then 3 else 1 } } := by
  have h1 : (!s.keeperUp || slot.val == s.flash.inForce) = false := by simp [State.keeperUp_of_ready hp hrun, hslot]
  simp only [exec, execFirmwareImageWrite, h1, Bool.false_eq_true, if_false, Bool.not_eq_eq_eq_not, Bool.not_true]
  rfl

theorem hotRestartTimeout_restarting (h : s.kpr.restarting = true) :
    let t := s.advanceTo (s.kpr.restartAt + 400000000)
    exec .hotRestartTimeout s = .next { t with kpr := { t.kpr with beaconDead := true } } := by
  have h1 : ¬ ((!s.kpr.restarting) = true ∨ s.phase ≠ .ready) := by simp [hp, h]
  simp only [exec, execHotRestartTimeout, if_neg h1]

/-- The end of a trial: the new slot is in force, and the floor is at least its version. -/
def State.trialEnded (s : State) : State :=
  let f := s.flash
  { s with
    kpr := { s.kpr with trial := false }
    flash := ({ f with inForce := s.sec.runSlot, trialSlot := none, floor := max f.floor s.sec.svn, fwUpdates := sat16 f.fwUpdates 1 } : Flash).commit }

theorem trialEnd_standing (htrial : s.kpr.trial = true) (hrun : s.kpr.restarting = false) :
    exec .trialEnd s = .next (s.advanceTo (s.kpr.trialAt + 60000000000)).trialEnded := by
  have h1 : ¬ ((!s.kpr.trial) = true ∨ (!s.keeperUp) = true) := by simp [htrial, State.keeperUp_of_ready hp hrun]
  exact if_neg h1

end Ready

section Go
variable {r : Requester} {v : Word} {s : State} (hmay : s.mayManage r = true) (hv : v.getLsbD 0 = true) (hrun : s.kpr.restarting = false)
include hmay hv hrun

theorem firmwareUpdateGo_written : exec (.firmwareUpdateGo r v) s = .next
    (if s.txn.state ≠ .idle ∨ s.kpr.swapQ ≠ [] ∨ s.kpr.retrainStack ≠ none ∨ s.kpr.failing = true ∨ s.kpr.trial = true then
      { s with kpr := { s.kpr with fwResult := 4 } } else { s with kpr := { s.kpr with restarting := true, restartAt := s.time } }) := by
  have h1 : (!s.mayManage r || !v.getLsbD 0 || s.kpr.restarting) = false := by rw [hmay, hv, hrun]; rfl
  have h2 : (s.txn.state != .idle || !s.kpr.swapQ.isEmpty || s.kpr.retrainStack.isSome || s.kpr.failing || s.kpr.trial) = true
      ↔ (s.txn.state ≠ .idle ∨ s.kpr.swapQ ≠ [] ∨ s.kpr.retrainStack ≠ none ∨ s.kpr.failing = true ∨ s.kpr.trial = true) := by
    simp [or_assoc, Option.isSome_iff_ne_none]
  simp only [exec, execFirmwareUpdateGo, h1, Bool.false_eq_true, if_false, h2]
  split
  · rfl
  · rfl

end Go

/-- Settles O49: the beacon and the update by their cases. -/
theorem beaconAndFirmware : Obligations.BeaconAndFirmware := by
  unfold Obligations.BeaconAndFirmware
  refine ⟨fun die s hp => ⟨beaconTick_running hp, watchdogExpiry_running hp, dieAgentTimeout_agent hp, fun k w ht =>
    ⟨State.latchReset_first hp ht, State.latchAs_first hp k w ht⟩⟩, fun slot img r v s hp => ⟨?_, ?_, hotRestartTimeout_restarting hp,
    fun htrial hrun t ht => by rw [trialEnd_standing hp htrial hrun, ← ht]; rfl⟩⟩
  · intro hrun hslot good low x
    rw [firmwareImageWrite_other hp hrun hslot]
    refine congrArg (fun f => Host.Outcome.next ({ s with flash := f, kpr := _ } : State)) ?_
    match slot with
    | 0 => rfl
    | 1 => rfl
  · intro hmay hv hrun stands
    have hgo := firmwareUpdateGo_written hmay hv hrun
    exact ⟨fun h => hgo.trans (congrArg _ (if_neg h)), fun h => hgo.trans (congrArg _ (if_pos h))⟩

end Sys2Proof.Machine
end

section
/-!
PROOFS. Configuration transactions (O50).
-/

namespace Sys2Proof.Machine

section Managed
variable {r : Requester} {v : Word} {s : State} (hmay : s.mayManage r = true)
include hmay

theorem State.ready_of_mayManage : s.phase = .ready := by
  unfold State.mayManage at hmay
  simp only [Bool.and_eq_true, beq_iff_eq] at hmay
  exact hmay.1.1.1

theorem txnBegin_idle (hidle : s.txn.state = .idle) (hrun : s.kpr.restarting = false) :
    exec (.txnBegin r) s
      = .next { s with txn := { s.txn with state := .opened, staged := [], id := s.txn.id + 1, openedAt := s.time, ops := [] } } := by
  have h1 : (!s.mayManage r || s.txn.state != .idle || s.kpr.restarting) = false := by rw [hmay, hidle, hrun]; rfl
  simp only [exec, execTxnBegin, h1, Bool.false_eq_true, if_false]

/-- The entry that a staging command adds. -/
theorem exec_txnStage :
    exec (.txnStageWrite r v) s = .next (s.stageEntry (.write s.txn.addr v)) ∧ exec (.txnStageOp r v) s = .next (s.stageEntry (.op v)) := by
  simp only [exec, execTxnStageWrite, execTxnStageOp, hmay, if_true, and_self]

theorem txnRollback_opened (hopen : s.txn.state = .opened) :
    exec (.txnRollback r) s = .next { s with txn := { s.txn with state := .idle, staged := [], ops := [] } } := by
  have h1 : (s.mayManage r && s.txn.state == .opened) = true := by rw [hmay, hopen]; rfl
  simp only [exec, execTxnRollback, h1, if_true]
  rfl

section Commit
variable (hopen : s.txn.state = .opened) (hrun : s.kpr.restarting = false)
include hopen hrun

theorem txnCommit_opened : exec (.txnCommit r) s = match s.checkItems (itemsOf s.txn.staged) with
    | some i => .next { s with txn := { s.txn with state := .idle, staged := [], status := stVerifyReject, failIdx := i % 1024 } }
    | none =>
      let t : State := { s with txn := { s.txn with state := .committing } }
      .next (if t.txn.staged.isEmpty then t.txnDone else t.commitPoint) := by
  have h1 : ¬ ((!s.mayManage r || s.kpr.restarting || s.txn.state != .opened) = true) := by rw [hmay, hopen, hrun]; decide
  exact if_neg h1

end Commit

theorem State.commitPoint_committing (hrun : s.kpr.restarting = false) (hstaged : s.txn.staged ≠ []) :
    ({ s with txn := { s.txn with state := .committing } } : State).commitPoint
      = if s.commitWaits = true then { s with txn := { s.txn with state := .committing } }
        else ({ s with txn := { s.txn with state := .committing } } : State).safePoint := by
  have hup : s.keeperUp = true := State.keeperUp_of_ready (State.ready_of_mayManage hmay) hrun
  have hne : s.txn.staged.isEmpty = false := by simpa using hstaged
  have h1 : (TxnState.committing == .committing && !s.txn.staged.isEmpty && s.keeperUp && !s.commitWaits) = !s.commitWaits := by
    rw [hne, hup]; rfl
  show (if (TxnState.committing == .committing && !s.txn.staged.isEmpty && s.keeperUp && !s.commitWaits) = true then _ else _) = _
  rw [h1]
  cases s.commitWaits with
  | true => rfl
  | false => rfl

end Managed

section Stage
variable {e : TxnEntry} {s : State}

theorem State.stageEntry_room (hopen : s.txn.state = .opened) (hroom : s.txn.staged.length < 1024) :
    s.stageEntry e = { s with txn := { s.txn with staged := s.txn.staged ++ [e] } } := by
  simp only [State.stageEntry, hopen, Nat.not_le.2 hroom, ne_eq, not_true_eq_false, if_false]

theorem State.stageEntry_full (hopen : s.txn.state = .opened) (hfull : 1024 ≤ s.txn.staged.length) :
    s.stageEntry e = { s with txn := { s.txn with status := stOversize } } := by
  simp only [State.stageEntry, hopen, hfull, ne_eq, not_true_eq_false, if_false, if_true]

theorem State.stageEntry_closed (hclosed : s.txn.state ≠ .opened) : s.stageEntry e = { s with txn := { s.txn with status := stVerifyReject } } :=
  if_pos hclosed

theorem txnTimeout_opened (hopen : s.txn.state = .opened) (hp : s.phase = .ready) :
    exec .txnTimeout s = .next (s.advanceTo (s.txn.openedAt + 10000000000)).dropTxn :=
  if_neg (by simp [hopen, hp])

end Stage

theorem txnStage_refused {r : Requester} {v : Word} {s t : State} (hmay : s.mayManage r = true) (h : ∀ e, s.stageEntry e = t) :
    ∀ e ∈ [Instr.txnStageWrite r v, .txnStageOp r v], exec e s = .next t := by
  obtain ⟨hwrite, hop⟩ := exec_txnStage (v := v) hmay
  intro e he
  simp only [List.mem_cons, List.not_mem_nil, or_false] at he
  obtain rfl | rfl := he
  · rw [hwrite, h]
  · rw [hop, h]

/-! ### The safe point of a transaction of writes (R530) -/

/-- Staged writes are taken one by one. -/
theorem foldl_itemStep_writes (l : List (Nat × Word)) (a : List TxnItem) (i : Nat) :
    ∃ n, (l.map (fun e => TxnEntry.write e.1 e.2)).foldl itemStep (a, none, i)
      = (a ++ (l.zipIdx i).map (fun e => TxnItem.write e.2 e.1.1 e.1.2), none, n) := by
  induction l generalizing a i with
  | nil => exact ⟨i, by simp⟩
  | cons e l ih =>
    obtain ⟨n, hn⟩ := ih (a ++ [.write i e.1 e.2]) (i + 1)
    refine ⟨n, ?_⟩
    rw [List.map_cons, List.foldl_cons]
    refine Eq.trans hn ?_
    simp

theorem itemsOf_writes (l : List (Nat × Word)) :
    itemsOf (l.map (fun e => TxnEntry.write e.1 e.2)) = (l.zipIdx 0).map (fun e => TxnItem.write e.2 e.1.1 e.1.2) := by
  obtain ⟨n, hn⟩ := foldl_itemStep_writes l [] 0
  rw [itemsOf, hn]
  rfl

/-- The effect of items that are all writes, for whatever is done with a write. -/
theorem foldl_writes {f : State → TxnItem → State} (hf : ∀ t i o v, f t (.write i o v) = t.keeperWrite o v) (l : List (Nat × Word)) (n : Nat)
    (t : State) : ((l.zipIdx n).map (fun e => TxnItem.write e.2 e.1.1 e.1.2)).foldl f t = l.foldl (fun (t : State) e => t.keeperWrite e.1 e.2) t := by
  induction l generalizing n t with
  | nil => rfl
  | cons e l ih =>
    rw [List.zipIdx_cons, List.map_cons, List.foldl_cons, hf, ih]
    rfl

theorem filterMap_writes {α : Type} {g : TxnItem → Option α} (hg : ∀ i o v, g (.write i o v) = none) (l : List (Nat × Word)) :
    ((l.zipIdx 0).map (fun e => TxnItem.write e.2 e.1.1 e.1.2)).filterMap g = [] := by
  rw [List.filterMap_map]
  exact List.filterMap_eq_nil_iff.2 fun _ _ => hg _ _ _

theorem State.safePoint_writes {l : List (Nat × Word)} {s : State} (h : s.txn.staged = l.map (fun e => TxnEntry.write e.1 e.2)) :
    s.safePoint = (l.foldl (fun (t : State) e => t.keeperWrite e.1 e.2) s).txnDone := by
  unfold State.safePoint
  rw [h, itemsOf_writes]
  dsimp only
  rw [foldl_writes (fun _ _ _ _ => rfl), filterMap_writes (fun _ _ _ => rfl)]
  rfl

/-- Settles O50: by the cases of each command; staged writes are items that hold no operation. -/
theorem transactions : Obligations.Transactions := by
  unfold Obligations.Transactions
  refine ⟨fun r v i s hmay => ⟨txnBegin_idle hmay, fun hopen hroom => ?_, fun hopen hfull => txnStage_refused hmay fun _ =>
    State.stageEntry_full hopen hfull, fun hclosed => txnStage_refused hmay fun _ => State.stageEntry_closed hclosed,
    txnRollback_opened hmay, txnTimeout_opened, fun hopen hrun hi => ?_, fun hopen hrun hi hstaged => ?_, fun hopen hrun hstaged => ?_⟩,
    fun l s => State.safePoint_writes⟩
  · obtain ⟨hwrite, hop⟩ := exec_txnStage (v := v) hmay
    exact ⟨by rw [hwrite, State.stageEntry_room hopen hroom], by rw [hop, State.stageEntry_room hopen hroom]⟩
  · rw [txnCommit_opened hmay hopen hrun, hi]
  · have hne : s.txn.staged.isEmpty = false := by simpa using hstaged
    have hcommit : exec (.txnCommit r) s = .next ({ s with txn := { s.txn with state := .committing } } : State).commitPoint := by
      rw [txnCommit_opened hmay hopen hrun, hi]
      exact congrArg Host.Outcome.next (if_neg (ne_true_of_eq_false hne))
    rw [State.commitPoint_committing hmay hrun hstaged] at hcommit
    exact ⟨fun hwait => hcommit.trans (congrArg _ (if_pos hwait)), fun hfree => hcommit.trans (congrArg _ (if_neg (ne_true_of_eq_false hfree)))⟩
  · have hcheck : s.checkItems (itemsOf s.txn.staged) = none := by rw [hstaged]; rfl
    have hempty : s.txn.staged.isEmpty = true := by rw [hstaged]; rfl
    rw [txnCommit_opened hmay hopen hrun, hcheck]
    exact congrArg Host.Outcome.next (if_pos hempty)

end Sys2Proof.Machine
end

section
/-!
PROOFS. The operations of a commit, swaps, retrainings and retirements (O51).
-/

namespace Sys2Proof.Machine

/-! ### The operations in their order (R529) -/

section Head
variable {k : Nat} {ws : List Nat} {s : State} (hhead : s.headOp k = some ws)
include hhead

theorem State.runOp_applied {a : State} (h : s.opApply ws = some a) : s.runOp k = a.popOp := by simp only [State.runOp, hhead, h]

theorem State.runOp_failed (h : s.opApply ws = none) : s.runOp k = s.popOp := by simp only [State.runOp, hhead, h]

end Head

/-- The commands that run the operation at the front as a whole. -/
theorem exec_wholeOp (s : State) : ∀ e ∈ [(1, Instr.createSector), (3, .createContext), (4, .destroyContext), (7, .retirePseudoChannel),
    (8, .retireStack)], exec e.2 s = .next (s.runOp e.1) := by
  intro e he
  simp only [List.mem_cons, List.not_mem_nil, or_false] at he
  obtain rfl | rfl | rfl | rfl | rfl := he
  · rfl
  · rfl
  · rfl
  · rfl
  · rfl

section Release
variable {ws : List Nat} {s : State} (hhead : s.headOp 2 = some ws)
include hhead

theorem releaseSector_noSector (h : s.sector (fld (ws.headD 0) 17 12) = none) : exec .releaseSector s = .next (s.runOp 2) := by
  simp only [exec, execReleaseSector, hhead, Option.bind_some, h]

theorem releaseSector_snooped {x : Sector} (h : s.sector (fld (ws.headD 0) 17 12) = some x) :
    exec .releaseSector s = .next (if (s.hostsLetGo x).2 then (s.hostsLetGo x).1.runOp 2 else (s.hostsLetGo x).1) := by
  simp only [exec, execReleaseSector, hhead, Option.bind_some, h]
  cases hgo : s.hostsLetGo x with
  | mk t b =>
    cases b with
    | true => rfl
    | false => rfl

end Release

theorem swapCluster_head {ws : List Nat} {s : State} (hhead : s.headOp 5 = some ws) :
    exec .swapCluster s = .next (s.queueSwap (fld (ws.headD 0) 22 12)) := by
  simp only [exec, execSwapCluster, hhead]

theorem retrainStack_head {ws : List Nat} {s : State} (hhead : s.headOp 6 = some ws) (hnone : s.kpr.retrainStack = none) :
    exec .retrainStack s
      = .next { s.setCtrl (opStack (ws.headD 0)) { s.ctrl (opStack (ws.headD 0)) with retraining := true } with
          kpr := { s.kpr with retrainStack := some (opStack (ws.headD 0)) } } := by
  simp only [exec, execRetrainStack, hhead, hnone, Option.isSome_none, Bool.false_eq_true, if_false]

theorem operatorDeviceReset_head {ws : List Nat} {s : State} (hhead : s.headOp 9 = some ws) :
    exec .operatorDeviceReset s = .next (({ s with txn := { s.txn with ops := s.txn.ops.drop 1 } } : State).latchReset 9) := by
  simp only [exec, execOperatorDeviceReset, hhead]

/-! ### Swaps, retrainings, retirements (R522 to R527) -/

/-- The operation at the front ends if it is of kind `k` and names `c`. -/
def State.endOp (s : State) (k : Nat) (key : Nat → Nat) (c : Nat) : State :=
  match s.headOp k with
  | some ws => if key (ws.headD 0) = c then s.popOp else s
  | none => s

section End
variable {s : State} {k c : Nat} {key : Nat → Nat}

theorem State.endOp_none (h : s.headOp k = none) : s.endOp k key c = s := by simp only [State.endOp, h]

theorem State.endOp_mine {ws : List Nat} (h : s.headOp k = some ws) (hc : key (ws.headD 0) = c) : s.endOp k key c = s.popOp := by
  simp only [State.endOp, h, if_pos hc]

theorem State.endOp_other (h : ∀ ws, s.headOp k = some ws → key (ws.headD 0) ≠ c) : s.endOp k key c = s := by
  cases hhead : s.headOp k with
  | none => exact State.endOp_none hhead
  | some ws => simp only [State.endOp, hhead, if_neg (h ws hhead)]

end End

section Up
variable {s : State} (hup : s.keeperUp = true)
include hup

section Swap
variable {c : Fin 2048} (hswap : s.swapping c.val = true) (hscan : (s.cl c.val).scan = .running) (hscanned : (s.cl c.val).scanned = false)
  (hload : (s.cl c.val).loading = false) (hway : s.underWay c.val = false)
include hswap hscan hscanned hload hway

theorem lightshipSwap_running {b : State}
    (hb : b = { s.swapNow c.val with kpr := { (s.swapNow c.val).kpr with swapQ := s.kpr.swapQ.erase c.val } }) :
    (∀ ws, b.headOp 5 = some ws → fld (ws.headD 0) 22 12 = c.val → exec (.lightshipSwap c) s = .next b.popOp.commitPoint)
    ∧ ((∀ ws, b.headOp 5 = some ws → fld (ws.headD 0) 22 12 ≠ c.val) → exec (.lightshipSwap c) s = .next b.commitPoint) := by
  have h1 : ¬ ((!s.swapping c.val || !s.keeperUp || (s.cl c.val).scan != .running || (s.cl c.val).scanned || (s.cl c.val).loading
      || s.underWay c.val) = true) := by rw [hswap, hup, hscan, hscanned, hload, hway]; decide
  have h2 : exec (.lightshipSwap c) s = .next (b.endOp 5 (fld · 22 12) c.val).commitPoint := by
    subst hb
    exact if_neg h1
  exact ⟨fun ws hws hc => by rw [h2, State.endOp_mine hws hc], fun hother => by rw [h2, State.endOp_other hother]⟩

end Swap

/-- The state after a retraining of stack `n` has ended. -/
def State.retrained (s : State) (n : Nat) (ok : Bool) : State :=
  { s.setCtrl n { s.ctrl n with retraining := false, trained := ok } with kpr := { s.kpr with retrainStack := none } }

/-- Whether another stack than `n` is under retraining. -/
def State.otherRetrains (s : State) (n : Nat) : Bool := match s.kpr.retrainStack with | some m => m != n | none => false

section Retrain
variable {n : Fin 20} (hretired : (s.ctrl n.val).retired = false) (hstack : ∀ m, s.kpr.retrainStack = some m → m = n.val)
include hretired hstack

theorem hbmRetrain_ends {t : State} (res : RetrainResult)
    (ht : t = if res = .failedTwice then (s.retrained n.val (res == .good)).retireOrFail n.val none else s.retrained n.val (res == .good))
    (hhead : t.headOp 6 = none) : exec (.hbmRetrain n res) s = .next t.commitPoint := by
  have hother : s.otherRetrains n.val = false := by
    unfold State.otherRetrains
    split
    next m hm => rw [hstack m hm, bne_self_eq_false]
    next => rfl
  have h1 : ¬ ((!s.keeperUp || (s.ctrl n.val).retired || s.otherRetrains n.val) = true) := by rw [hup, hretired, hother]; decide
  have h2 : exec (.hbmRetrain n res) s = .next (t.endOp 6 opStack n.val).commitPoint := by
    subst ht
    exact if_neg h1
  rw [h2, State.endOp_none hhead]

end Retrain

theorem retirementProceed_failing {k : Nat} {pc : Option Nat} {l : List (Nat × Option Nat)} {a : State} (hfail : s.hbm.failing = (k, pc) :: l)
    (hretire : s.retirePart k pc = some a) :
    exec .retirementProceed s = .next { a with hbm := { a.hbm with failing := l }, kpr := { a.kpr with failing := !l.isEmpty } } := by
  simp only [exec, execRetirementProceed, hfail, hup, hretire, Bool.not_true, Bool.false_eq_true, if_false]

end Up

/-! ### Contexts and sectors (R415, R417, R435) -/

theorem State.createContext_creates {r p f n : Nat} {x : Sector} {s t : State} (hx : s.sector r = some x) (h : s.createContext r p f n = some t) :
    s.ctx n = none ∧ bitOf x.ports p = true ∧ ∃ y, t.ctx n = some y ∧ y.sector = r ∧ y.port = p ∧ y.fn = f ∧ y.steps = [] ∧ y.program = false
      ∧ (s.residents r < 64 → y.state = .idle) ∧ (∀ m, m ≠ n → t.ctx m = s.ctx m) := by
  simp only [State.createContext, hx] at h
  split at h
  · exact absurd h nofun
  next hok =>
    obtain ⟨⟨hport, hctx⟩, -⟩ : (bitOf x.ports p = true ∧ s.ctx n = none) ∧ _ := by
      simpa only [Bool.or_eq_true, not_or, Bool.not_eq_true', Bool.not_eq_false, Option.not_isSome_iff_eq_none] using hok
    obtain rfl := Option.some.inj h
    refine ⟨hctx, hport, _, (tabFind_tabSet _ _ _ _).trans (if_pos rfl), rfl, rfl, rfl, rfl, rfl, fun hroom => if_pos hroom, fun m hm => ?_⟩
    exact (tabFind_tabSet _ _ _ _).trans (if_neg hm)

theorem State.destroyContext_gone (s : State) (n : Nat) : (s.destroyContext n).ctx n = none := (tabFind_tabDel _ n n).trans (if_pos rfl)

/-- Settles O51: an operation is the one at the front, and swaps, retrainings and retirements end by their cases. -/
theorem operationsSwapsRetirements : Obligations.OperationsSwapsRetirements := by
  unfold Obligations.OperationsSwapsRetirements
  refine ⟨fun ws a s => ⟨fun e he hhead => ?_, fun hhead => ⟨releaseSector_noSector hhead, fun x hx => releaseSector_snooped hhead hx⟩,
    fun k hhead => ⟨State.runOp_applied hhead, State.runOp_failed hhead⟩, swapCluster_head, retrainStack_head, operatorDeviceReset_head⟩,
    fun c n k pc l a s hp hrun => ⟨fun hswap hscan hscanned hload hway => ?_, fun hretired hstack hhead => ⟨?_, fun hfail => ?_⟩, ?_⟩,
    fun r p f n x s t hx => ⟨State.createContext_creates hx, s.destroyContext_gone n, s.releaseSector_gone r⟩⟩
  · rw [exec_wholeOp s e he]
    exact ⟨fun h => congrArg _ (State.runOp_applied hhead h), fun h => congrArg _ (State.runOp_failed hhead h)⟩
  · exact lightshipSwap_running (State.keeperUp_of_ready hp hrun) hswap hscan hscanned hload hway rfl
  · exact hbmRetrain_ends (State.keeperUp_of_ready hp hrun) hretired hstack .good rfl hhead
  · exact hbmRetrain_ends (State.keeperUp_of_ready hp hrun) hretired hstack .failedTwice rfl hfail
  · exact retirementProceed_failing (State.keeperUp_of_ready hp hrun)

end Sys2Proof.Machine
end

section
/-!
PROOFS. Register writes of the Keeper outside the cluster windows (O37): each goes to its block, whose register sets the fields of its row;
the repeat cache's quota.
-/

namespace Sys2Proof.Machine

/-- In service, a register write of the Keeper outside the cluster windows is the block's. -/
theorem regWrite_keeper_ready (s : State) (x : Nat) (v : Word) (hp : s.phase = .ready) (ha : assigned x = true) (hx : x < 0x4000000) :
    s.regWrite .keeper (.mgmt x) v = s.keeperWrite x v :=
  regWrite_keeper s x v (by rw [hp]; exact Phase.noConfusion) ha hx

/-- The cap and the highest clock step are taken when both are in their ranges (R515). -/
theorem pwrRegWrite_cap (p : Pwr) (v : Word) (h1 : 100 ≤ v.toNat % 1024) (h2 : v.toNat % 1024 ≤ 680) (h3 : v.toNat / 1024 % 8 ≤ 4) :
    p.regWrite 0x008 v = { p with capW := v.toNat % 1024, maxStep := v.toNat / 1024 % 8 } := by
  have hcap : fld v.toNat 9 0 = v.toNat % 1024 := rfl
  have hstep : fld v.toNat 12 10 = v.toNat / 1024 % 8 := fld_eq_div_mod v.toNat 12 10
  unfold Pwr.regWrite
  dsimp only
  rw [if_pos rfl, hcap, hstep, if_pos h3, if_pos (And.intro h1 h2)]

/-- The log's read pointer moves within the last 65,536 records (R461). -/
theorem writeLogRd_eq (s : State) (v : Word) :
    (v.toNat ≤ s.err.wr → s.err.wr ≤ v.toNat + 65536 → s.writeLogRd v = { s with err := { s.err with rd := v.toNat } })
    ∧ (s.err.wr < v.toNat ∨ v.toNat + 65536 < s.err.wr → s.writeLogRd v = s) := by
  unfold State.writeLogRd
  exact ⟨fun h1 h2 => if_pos ⟨h1, h2⟩, fun h => if_neg (by omega)⟩

/-! ### The armed injection (R462) -/

/-- Setting the top bit of a word changes none of its lower fields. -/
theorem fld_or_top (v : Word) (hi lo : Nat) (h : hi < 63) :
    fld (v ||| (1#64 <<< 63)).toNat hi lo = fld v.toNat hi lo := by
  have htop : ((1#64 <<< 63 : Word)).toNat = 2 ^ 63 := rfl
  apply Nat.eq_of_testBit_eq
  intro i
  simp only [fld, Nat.testBit_mod_two_pow, Nat.testBit_shiftRight, BitVec.toNat_or, Nat.testBit_or, htop, Nat.testBit_two_pow]
  by_cases hi' : i < hi + 1 - lo
  · have hne : ¬ 63 = lo + i := by omega
    simp [hne]
  · simp [hi']

/-- A write of the injection register while the device is locked does nothing (R462). -/
theorem writeInject_locked (s : State) (v : Word) (h : s.sec.unlocked = false) : s.writeInject v = s := by
  unfold State.writeInject
  rw [if_pos (by rw [h]; rfl)]

/-- An armed injection while the device is unlocked: its fields are taken, and the error of kind 1 or 2 is injected at once. -/
theorem writeInject_armed (s : State) (v : Word) (h : s.sec.unlocked = true) :
    s.writeInject (v ||| (1#64 <<< 63))
      = (s.modErr (fun e =>
          { e with injUnit := fld v.toNat 15 0, injKind := fld v.toNat 19 16, injOffset := fld v.toNat 41 20,
                   arm := fld v.toNat 19 16 == 3 || fld v.toNat 19 16 == 4 })).inject
          (fld v.toNat 15 0) (fld v.toNat 19 16) (fld v.toNat 41 20) := by
  have htop : bitOf (v ||| (1#64 <<< 63)).toNat 63 = true := by
    rw [bitOf, BitVec.toNat_or, Nat.testBit_or]
    exact Bool.or_eq_true_iff.2 (Or.inr rfl)
  unfold State.writeInject
  simp only [h, htop, fld_or_top v 15 0 (by omega), fld_or_top v 19 16 (by omega), fld_or_top v 41 20 (by omega), Bool.true_and,
    if_true, Bool.not_true]
  exact if_neg Bool.false_ne_true

/-! ### The quota of the repeat cache (R358) -/

/-- What a list keeps of a class, once the first `n` of the class are removed by value, is no more than the class less `n`. -/
theorem length_filter_not_taken {α : Type} [BEq α] [LawfulBEq α] (l : List α) (p : α → Bool) (n : Nat) :
    ((l.filter (fun e => !((l.filter p).take n).contains e)).filter p).length ≤ (l.filter p).length - n := by
  have hswap : (l.filter (fun e => !((l.filter p).take n).contains e)).filter p
      = (l.filter p).filter (fun e => !((l.filter p).take n).contains e) := by
    simp only [List.filter_filter, Bool.and_comm]
  have hkeep : ∀ m : List α, (m.filter (fun e => !(m.take n).contains e)).length ≤ m.length - n := by
    intro m
    have hgone : (m.take n).filter (fun e => !(m.take n).contains e) = [] :=
      List.filter_eq_nil_iff.2 fun e he => by simpa using he
    calc (m.filter (fun e => !(m.take n).contains e)).length
        = ((m.take n ++ m.drop n).filter (fun e => !(m.take n).contains e)).length := by rw [List.take_append_drop]
      _ = ((m.drop n).filter (fun e => !(m.take n).contains e)).length := by rw [List.filter_append, hgone, List.nil_append]
      _ ≤ (m.drop n).length := List.length_filter_le _ _
      _ = m.length - n := List.length_drop
  rw [hswap]
  exact hkeep _

/-- A quota that is reserved, or that the other sectors' quotas leave no place for, has no effect. -/
theorem setQuota_ignored (c : Ctrl) (sec q : Nat)
    (h : 128 < q ∨ 128 < (c.quota.foldl (fun a e => if e.1 = sec then a else a + e.2) 0) + q) : c.setQuota sec q = c := by
  unfold Ctrl.setQuota
  exact if_pos h

/-- The quota table once a quota is taken: the sector's entry is the quota, and the other sectors' are kept. -/
theorem setQuota_quota (c : Ctrl) (sec q k : Nat) (h1 : q ≤ 128)
    (h2 : (c.quota.foldl (fun a e => if e.1 = sec then a else a + e.2) 0) + q ≤ 128) :
    tabGet 0 (c.setQuota sec q).quota k = if k = sec then q else tabGet 0 c.quota k := by
  unfold Ctrl.setQuota
  dsimp only
  rw [if_neg (by omega)]
  dsimp only
  by_cases hq : q = 0
  · rw [if_pos hq, tabGet_tabDel, hq]
  · rw [if_neg hq, tabGet_tabSet]

/-- Once a quota is taken, the sector has no more lines than it allows. -/
theorem setQuota_cache (c : Ctrl) (sec q : Nat) (h1 : q ≤ 128)
    (h2 : (c.quota.foldl (fun a e => if e.1 = sec then a else a + e.2) 0) + q ≤ 128) :
    ((c.setQuota sec q).cache.filter (fun e => e.1 == sec)).length ≤ q * 1024 := by
  have hlen := length_filter_not_taken c.cache (fun e => e.1 == sec) ((c.cache.filter (fun e => e.1 == sec)).length - q * 1024)
  unfold Ctrl.setQuota
  dsimp only
  rw [if_neg (by omega)]
  dsimp only
  omega

/-! ### Writes by address -/

/-- The Keeper's write of the cap and of the highest clock step. -/
theorem registerWrite_cap (s : State) (v : Word) (hp : s.phase = .ready) (h1 : 100 ≤ v.toNat % 1024) (h2 : v.toNat % 1024 ≤ 680)
    (h3 : v.toNat / 1024 % 8 ≤ 4) :
    s.regWrite .keeper (.mgmt 0x20008) v
      = { s with pwr := { s.pwr with capW := v.toNat % 1024, maxStep := v.toNat / 1024 % 8 } } := by
  rw [regWrite_keeper_ready s _ v hp rfl (by omega), ← pwrRegWrite_cap s.pwr v h1 h2 h3]
  rfl

/-- The Keeper's write of the router flush. -/
theorem registerWrite_flush (s : State) (v : Word) (hp : s.phase = .ready) :
    s.regWrite .keeper (.mgmt 0x484000) v
      = { s with pmFlush := if v.toNat % 128 = 0 then 1 else min (v.toNat % 128) 64 } := by
  rw [regWrite_keeper_ready s _ v hp rfl (by omega)]
  rfl

/-- A write of a quota register of a controller. -/
theorem ctrlRegWrite_quota (c : Ctrl) (sec : Fin 64) (v : Word) :
    c.regWrite (0x100 + 8 * sec.val) v = c.setQuota sec.val (v.toNat % 256) := by
  have hsec := sec.isLt
  have hidx : (0x100 + 8 * sec.val - 0x100) / 8 = sec.val := by omega
  unfold Ctrl.regWrite
  rw [if_neg (by omega), if_neg (by omega), if_neg (by omega), if_neg (by omega), if_neg (by omega), if_neg (by omega), if_neg (by omega),
    if_pos (by omega), hidx]
  rfl

/-- The Keeper's write of a controller's register. -/
theorem keeperWrite_ctrl (s : State) (n : Fin 20) (o : Nat) (v : Word) (ho : o < 0x10000) :
    s.keeperWrite (0x200000 + n.val * 0x10000 + o) v = s.setCtrl n.val ((s.ctrl n.val).regWrite o v) := by
  have hn := n.isLt
  have hctrl : (0x200000 + n.val * 0x10000 + o - 0x200000) / 0x10000 = n.val := by omega
  have hreg : (0x200000 + n.val * 0x10000 + o) % 0x10000 = o := by omega
  unfold State.keeperWrite
  dsimp only
  rw [if_neg (by omega), if_neg (by omega), if_neg (by omega), if_neg (by omega), if_neg (by omega), if_neg (by omega), if_neg (by omega),
    if_pos (by omega), hctrl, hreg]

/-- The Keeper's write of a sector's quota. -/
theorem regWrite_quota (s : State) (n : Fin 20) (sec : Fin 64) (v : Word) (hp : s.phase = .ready) :
    s.regWrite .keeper (.mgmt (0x200100 + n.val * 0x10000 + 8 * sec.val)) v
      = s.setCtrl n.val ((s.ctrl n.val).setQuota sec.val (v.toNat % 256)) := by
  have hn := n.isLt
  have hsec := sec.isLt
  have haddr : 0x200100 + n.val * 0x10000 + 8 * sec.val = 0x200000 + n.val * 0x10000 + (0x100 + 8 * sec.val) := by omega
  have ha : assigned (0x200100 + n.val * 0x10000 + 8 * sec.val) = true := by simp [assigned]; omega
  rw [regWrite_keeper_ready s _ v hp ha (by omega), haddr, keeperWrite_ctrl s n _ v (by omega), ctrlRegWrite_quota]

/-- Settles O37: a register write of the Keeper outside the cluster windows sets what its row names, block by block; an injection is armed
only while the device is unlocked. -/
theorem keeperRegisterWrites : Obligations.KeeperRegisterWrites := by
  unfold Obligations.KeeperRegisterWrites
  refine ⟨fun v s hp => ?writes, fun v s hp => ?inject, fun c sec q h1 h2 => ?quota, setQuota_ignored⟩
  case writes =>
    have hlog : s.regWrite .keeper (.mgmt 0x10018) v = s.writeLogRd v := regWrite_keeper_ready s _ v hp rfl (by omega)
    have hseed : s.regWrite .keeper (.mgmt 0x50008) v = s.reseed v := regWrite_keeper_ready s _ v hp rfl (by omega)
    exact ⟨fun h1 h2 h3 => congrArg Host.Outcome.next (registerWrite_cap s v hp h1 h2 h3),
      fun h1 h2 => congrArg Host.Outcome.next (hlog.trans ((writeLogRd_eq s v).1 h1 h2)),
      fun h => congrArg Host.Outcome.next (hlog.trans ((writeLogRd_eq s v).2 h)),
      congrArg Host.Outcome.next (registerWrite_flush s v hp),
      fun n sec => congrArg Host.Outcome.next (regWrite_quota s n sec v hp),
      congrArg Host.Outcome.next hseed⟩
  case inject =>
    have harm : s.regWrite .keeper (.mgmt 0x10080) (v ||| (1#64 <<< 63)) = s.writeInject (v ||| (1#64 <<< 63)) :=
      regWrite_keeper_ready s _ _ hp rfl (by omega)
    have hkind : fld v.toNat 19 16 = v.toNat / 2 ^ 16 % 16 := fld_eq_div_mod v.toNat 19 16
    have hoff : fld v.toNat 41 20 = v.toNat / 2 ^ 20 % 2 ^ 22 := fld_eq_div_mod v.toNat 41 20
    have harmed (k : Nat) : (k == 3 || k == 4) = decide (k = 3 ∨ k = 4) := Bool.eq_iff_iff.2 (by simp)
    refine ⟨fun hl => congrArg Host.Outcome.next (harm.trans (writeInject_locked s _ hl)), fun hu _ _ => ?_⟩
    have hwrite := writeInject_armed s v hu
    rw [hkind, hoff, harmed] at hwrite
    exact congrArg Host.Outcome.next (harm.trans hwrite)
  case quota =>
    refine ⟨?_, fun k hk => ?_, setQuota_cache c sec q h1 h2⟩
    · rw [setQuota_quota c sec q sec h1 h2, if_pos rfl]
    · rw [setQuota_quota c sec q k h1 h2, if_neg hk]

end Sys2Proof.Machine
end
